-- ==== Sys2Proof/Word.lean ====
section
/-! DEFINITION. The word types of the CW96 and the type of an exact real (R5, R6, R12). -/

namespace Sys2Proof

/-- A byte of memory (R6). -/
abbrev Byte := BitVec 8
/-- A register lane, a scalar register or an instruction word: 32 bits (R137, R152, R310). -/
abbrev Word := BitVec 32
/-- A 64-bit word of a descriptor, packet or register pair (R14, R50). -/
abbrev Dword := BitVec 64
/-- An activity mask: lane i at bit i (R110). -/
abbrev Mask := BitVec 96
/-- A program counter: a 49-bit virtual address (R310). -/
abbrev Pc := BitVec 49
/-- A 7-bit register field (R313). -/
abbrev R7 := BitVec 7
/-- The 96 lanes of one vector register, lane 0 first (R137). -/
abbrev Lanes := List Word

/-- An exact rational number num / den, with den positive; no normal form is kept (R12: real numbers are exact). -/
structure Frac where
  num : Int
  den : Nat
  deriving DecidableEq, Repr, Inhabited

/-- The register of 96 zero lanes (R74). -/
def zeroLanes : Lanes := List.replicate 96 0#32

end Sys2Proof
end

