-- ==== Sys2Proof/Config.lean ====
section
/-! DEFINITION. What one part fixes (R1, R2, R176) and the free values: opaque constants without a body, of which no
proof can see a value. Each use is named in a row of notes/assumptions. -/

namespace Sys2Proof.Config

/-- Cores of the part, 12 columns by 8 rows (R1, R2). -/
def cores : Nat := 96
/-- Lanes of a group (R3). -/
def lanes : Nat := 96
/-- Group slots of a partition (R3, R76). -/
def slotsPerPartition : Nat := 12
/-- Blocks of a partition's pool that serve base frames and CALL or ACQUIRE frames (R139). -/
def poolBlocks : Nat := 30
/-- DRAM ends here (R31). -/
def dramBytes : Nat := 0x2000000000
/-- Base of the generation store (R164). -/
def genBase : Nat := 0x1FFF800000
/-- Base of the host window (R45). -/
def hostWindow : Nat := 0x800000000000
/-- DESIGN CHOICE (log 22): bits of the TAP's instruction register. -/
def irBits : Nat := 4
/-- DESIGN CHOICE (log 22): cells of the boundary-scan register, one for each signal ball of R20 outside the test port. -/
def scanCells : Nat := 73
/-- Fuel of one traversal run: node visits between two events of a ray (log 14). -/
def traversalFuel : Nat := 4096

/-- FREE VALUE (log 2): an unpredictable 32-bit value, by the state's counter and an index. -/
opaque freeWord : Nat → Nat → BitVec 32
/-- FREE VALUE (log 2): an unpredictable choice among finitely many outcomes, by the state's counter and an index. -/
opaque freeNat : Nat → Nat → Nat
/-- FREE VALUE (log 2): an unpredictable choice between two outcomes, by the state's counter and an index. -/
opaque freeBit : Nat → Nat → Bool
/-- FREE VALUE (log 12): which of the values within the bound of R362 an approximate function returns, by function,
format and operand; the same on every issue and every core, as R362 says. -/
opaque approxPick : Nat → Nat → Nat → Nat

end Sys2Proof.Config
end

