-- ==== Sys2Proof/Syntax.lean ====
section
/-! DEFINITION. The steps of the part: one constructor per row of spec/opcode_table.json. The first block are the 176
instruction rows of the map of R321; the second block are the 83 steps of the part and of the host that have no
encoding (each names what the table's step names; its operands are what the step is about). -/

namespace Sys2Proof

/-- The B operand of shape S (R316). -/
inductive SOp where
  | reg (b : R7)      -- SB = 0, C = 0
  | imm7 (b : R7)     -- SB = 1, C = 0
  | imm32 (v : Word)  -- SB = 1, C = 1
  deriving DecidableEq, Repr

/-- The standard cuff (R314): MEMO, MOD, PB, PA. -/
structure Cuff where
  memo : BitVec 4
  mod : BitVec 8
  pb : BitVec 10
  pa : BitVec 10
  deriving DecidableEq, Repr

/-- The fields of a shape V instruction, and of the shape G instructions whose C is free (R315). -/
structure VOps where
  sb : Bool
  b : R7
  a : R7
  d : R7
  cuff : Option Cuff
  deriving DecidableEq, Repr

/-- The fields of a shape M instruction (R314, R317). -/
structure MOps where
  sb : Bool
  b : R7
  a : R7
  d : R7
  memo : BitVec 4
  mod : BitVec 8
  aform : BitVec 2
  ofsh : BitVec 18
  deriving DecidableEq, Repr

/-- What a configuration request does besides being answered (R24, R37, R38): another register; the base of a BAR; the size of BAR 2, as
log2. -/
inductive CfgReq where
  | other
  | base (bar : BitVec 3) (addr : Dword)
  | resize (log2 : BitVec 6)
  deriving DecidableEq, Repr

/-- An uncorrectable link error: is it fatal, as the PCI Express standard classifies it (R40), and the bus address concerned (R70). -/
structure LinkErr where
  fatal : Bool
  bus : Dword
  deriving DecidableEq, Repr

/-- One step of the part: an instruction, or an event of the part or of the host. -/
inductive Instr where
  -- row 0 (R330)
  | nop
  | add (d a : R7) (b : SOp) | sub (d a : R7) (b : SOp) | mul (d a : R7) (b : SOp)
  | mulh (d a : R7) (b : SOp) | mulhu (d a : R7) (b : SOp)
  | div (d a : R7) (b : SOp) | divu (d a : R7) (b : SOp) | rem (d a : R7) (b : SOp) | remu (d a : R7) (b : SOp)
  | and (d a : R7) (b : SOp) | or (d a : R7) (b : SOp) | xor (d a : R7) (b : SOp)
  | shl (d a : R7) (b : SOp) | shr (d a : R7) (b : SOp) | sar (d a : R7) (b : SOp)
  | min (d a : R7) (b : SOp) | max (d a : R7) (b : SOp) | minu (d a : R7) (b : SOp) | maxu (d a : R7) (b : SOp)
  | seq (d a : R7) (b : SOp) | sne (d a : R7) (b : SOp) | slt (d a : R7) (b : SOp) | sltu (d a : R7) (b : SOp)
  | sel (d a : R7) (b : SOp)
  | mov (d : R7) (b : SOp)
  | popc (d a : R7) | clz (d a : R7) | ctz (d a : R7)
  | jmp (tofs : BitVec 16)
  | braS (cond : BitVec 5) (sb : Bool) (b a : R7) (tofs : BitVec 16)
  | braV (cond : BitVec 5) (sb : Bool) (b a : R7) (tofs jofs : BitVec 16)
  | call (demand args : BitVec 5) (tofs : BitVec 16)
  | join
  | loop (sb : Bool) (x : R7) (tofs : BitVec 16)
  | lend | lendX | ret
  | callr (b : R7) (demand args : BitVec 5)
  | jmpr (a : R7)
  | acquire (b : SOp) | release (b : SOp) | wbase (b : SOp) | swin (b : SOp) | unwind (b : SOp)
  | pause | exit
  | gets (sel : BitVec 8) (d : R7) | sets (sel : BitVec 8) (a : R7)
  | fmt (b : SOp) | pclass (b : SOp)
  | mpop (d a : R7) | mfirst (d a : R7)
  -- row 1 (R353)
  | vaddInt (v : VOps) | vsubInt (v : VOps) | vmulInt (v : VOps) | vmulh (v : VOps) | vmad (v : VOps)
  | vadds (v : VOps) | vsubs (v : VOps) | vand (v : VOps) | vor (v : VOps) | vxor (v : VOps) | vnot (v : VOps)
  | vshl (v : VOps) | vshr (v : VOps) | vsar (v : VOps) | vminInt (v : VOps) | vmaxInt (v : VOps)
  | vabsInt (v : VOps) | vcmpInt (v : VOps) | vsel (v : VOps) | vpopc (v : VOps) | vclz (v : VOps)
  | vmov (v : VOps) | vdot4 (v : VOps) | vbfe (v : VOps) | vbfi (v : VOps)
  -- row 2 (R356)
  | vaddFp (v : VOps) | vsubFp (v : VOps) | vmulFp (v : VOps) | vfma (v : VOps) | vminFp (v : VOps)
  | vmaxFp (v : VOps) | vcmpFp (v : VOps) | vabsFp (v : VOps) | vneg (v : VOps) | vclass (v : VOps)
  -- row 3 (R358)
  | cvt (v : VOps) | sxpack (v : VOps) | sxunpk (v : VOps) | vrnd (v : VOps) | vrcp (v : VOps) | vrsq (v : VOps)
  | vsqrt (v : VOps) | vexp2 (v : VOps) | vlog2 (v : VOps) | vsin (v : VOps) | vcos (v : VOps) | vtanh (v : VOps)
  | vdiv (v : VOps) | rand (v : VOps)
  -- row 4 (R364)
  | vperm (v : VOps) | vcmpct (v : VOps) | vexpnd (v : VOps) | match_ (v : VOps) | reduce (v : VOps)
  | scan (v : VOps) | vballot (v : VOps) | vlane (v : VOps)
  -- row 5 (R375, R379, R381, R385)
  | ld (m : MOps) | st (m : MOps) | lds (m : MOps) | sts (m : MOps) | ldsh (m : MOps) | stsh (m : MOps)
  | ldcl (m : MOps) | stcl (m : MOps) | atom (m : MOps) | atomn (m : MOps) | cas (m : MOps) | xchg (m : MOps)
  | stashMap (b a : R7) (m : BitVec 3) | stashUnmap (m : BitVec 3)
  | cwb (b a : R7) | cinv (b a : R7)
  | rel (scope : BitVec 3) | acq (scope : BitVec 3) | phase (scope : BitVec 3)
  -- row 6 (R386 to R396)
  | wait (tl cp : BitVec 4) (st ld : BitVec 6)
  | waitr (a : R7) (k : BitVec 2)
  | barJoin (a : R7) (cl : Bool)
  | barArrive (drop cl : Bool) (a d : R7)
  | barWait (b a : R7) (cl : Bool)
  | barExpect (b a : R7) (cl : Bool)
  | copy (a : R7) (mod : BitVec 8) | copy2d (a : R7) (mod : BitVec 8) | fill (a : R7) (mod : BitVec 8)
  | spawn (a d : R7) (mod : BitVec 8)
  | reserve (sb : Bool) (b d : R7)
  | commit (a : R7)
  -- row 7, matrix (R401)
  | claim (d : R7) | releaseSlot (a : R7) | tload (a : R7) (mod : BitVec 8)
  | mma (d a b : R7) (mod : BitVec 8) | mfence | mwait (a : R7) | mwaitImm (b : BitVec 4)
  | had (a b : R7) (mod : BitVec 8) | accrd (d a : R7) (mod : BitVec 8) | accst (a : R7) (mod : BitVec 8)
  | vmx (sb : Bool) (d a b : R7) (mod : BitVec 8) | accz (a b : R7)
  -- row 7, graphics, sections, memo, system (R418)
  | rast (d a : R7)
  | sample (v : VOps) | trace (v : VOps) | traceM (memo : BitVec 4) (d a b : R7) | verdict (a : R7)
  | bxunion (v : VOps) | sahcost (d a : R7) | nodepack (d a : R7)
  | osenter (d a b : R7)
  | tsig (d a : R7) (sz : BitVec 2) | tcost (b a : R7) | tskip (a : R7)
  | pureBegin (a : R7) | mkey (v : VOps) | pureProbe (d : R7) (mod : BitVec 8)
  | trap (code : R7) | brk (code : R7)
  -- the module, its pins and its link (01)
  | firmwareLoadDone (bootErr build : BitVec 8)
  | channelTrainingDone (failed : Word) (rate : BitVec 8)
  | uncorrectableLinkError (err : LinkErr)
  | configurationRequest
  | thermalTrip (sensor : BitVec 8)
  | regulatorAlert (statusWord : BitVec 16)
  | writeTimingRecentre (chan : BitVec 5)
  | refresh (chan : BitVec 5) (perBank : Bool)
  | selfRefreshEntry (chan : BitVec 5) | selfRefreshExit (chan : BitVec 5)
  | dramReadComplete (pa : BitVec 48) (correctable : Bool)
  | dramReadRetry (pa : BitVec 48) (correct : Bool)
  | boundaryScan (tck tdi tms trstN : Bool)
  -- the host's registers and apertures (02)
  | apertureRead (off : BitVec 37) (n : BitVec 8)
  | apertureWrite (off : BitVec 37) (data : List Byte)
  | registerWrite (off : BitVec 26) (wide : Bool) (value : Dword)
  | capWWrite (value : BitVec 16)
  | evqHeadWrite (value : BitVec 16)
  | evqEnableWrite (enable : Bool)
  | msixTableWrite (off : BitVec 16) (value : Word)
  | enable (ctx : BitVec 5) | disable (ctx : BitVec 5) | halt (ctx : BitVec 5) | resume (ctx : BitVec 5)
  | contextEnded (ctx : BitVec 5)
  | faultReplay (ctx : BitVec 5) (id : Word) | faultConvertToTrap (ctx : BitVec 5) (id : Word)
  | queueStart (q : BitVec 6) | queueStop (q : BitVec 6) | qtailDoorbell (q : BitVec 6) (value : BitVec 20)
  -- packets (02): the packet at QHEAD of queue q
  | nopPacket (q : BitVec 6) | launch (q : BitVec 6) | launchComplete (launch : Nat)
  | semSignal (q : BitVec 6) | semWait (q : BitVec 6) | semWaitPoll (q : BitVec 6) | setState (q : BitVec 6)
  | frameMark (q : BitVec 6) | memoFlushPacket (q : BitVec 6) | traceRecord (q : BitVec 6) | traceReplay (q : BitVec 6)
  | power (q : BitVec 6)
  -- the governor (04)
  | governorPeriod (temps : List (BitVec 8)) (nonCoreW : Nat)
  | allowanceUpdate (core : BitVec 7)
  | withheldCompletely (ctx : BitVec 5) (core : BitVec 7)
  | nearThresholdWindow (core : BitVec 7) (part : BitVec 2)
  | nearThresholdExit (core : BitVec 7) (part : BitVec 2)
  -- GDIST (03, 05)
  | teamAdmission (launch : Nat) (cores : List Nat)
  | preemption (team ctx : Nat)
  | drainLimitExpiry (team : Nat)
  | teamRestore (team : Nat) (core : Nat)
  | quantumBoundary (launch : Nat)
  | launchStall (launch : Nat)
  | spawnBinTimerExpiry (core : BitVec 7) (bin : BitVec 4)
  | spawnBinHandoff (core : BitVec 7) (bin : BitVec 4) (dest : BitVec 7)
  | arenaTimerExpiry (launch : Nat) (core : BitVec 7)
  | spawnStall (launch : Nat)
  | roundBoundary (launch : Nat)
  -- faults, frames, completions (05 to 08)
  | faultEntryWalk (id : Word)
  | ladleWake (core : BitVec 7) (part : BitVec 2)
  | allocationGrant (core : BitVec 7) (part : BitVec 2)
  | boundaryTrapEntry (group : Nat)
  | loadDataLanded (group : Nat) | storePerformed (group : Nat) | atomicAtHome (group : Nat)
  | engineLineLanded (group : Nat) | matrixOperationComplete (group : Nat) | memoLookupReturn (group : Nat)
  | osStall (ctx : BitVec 5) (key : Dword)
  | traversalComplete (core : BitVec 7) (entry : BitVec 11)
  | infill (team : Nat)
  -- the rest have no operands; they stand last because Lean's runtime numbers only 245 constructors that have some
  -- row 7 (R418)
  | osleave | osleaveDone | osabort | pureEnd | memoFlush | tret
  -- the module, its pins and its link (01), the host (02), homes (11)
  | perstNAssert | perstNDeassert | hotReset | functionLevelReset | powerRemoval | powerUp | linkUp | correctableLinkError
  | d3hotEntry | d0Return | acceptChannels | osAdvanceAtHome
  deriving DecidableEq, Repr

end Sys2Proof
end

