-- ==== Sys2Proof/WellFormed.lean ====
section
/-! DEFINITION. Which field values Sheot 1.0 defines: the checks of decode (R322 step 2), from the entries of chapters
12 to 17. An encoding that fails one raises ILLEGAL. -/

namespace Sys2Proof

/-- A lane permutation field the map defines (R318). -/
def permOk (p : BitVec 10) : Bool :=
  let param := (p.extractLsb' 0 7).toNat
  match (p.extractLsb' 7 3).toNat with
  | 0 => param == 0
  | 1 => param ≤ 95
  | 2 => param ≤ 95
  | 3 => param ≤ 6
  | 4 => [2, 3, 4, 6, 8, 12, 16, 24, 32, 48, 96].contains param
  | _ => false

/-- The cuff of an instruction with C = 0 is all zeros (R315). -/
def VOps.cuffD (v : VOps) : Cuff := v.cuff.getD ⟨0, 0, 0, 0⟩

/-- MOD of a shape V instruction. -/
def VOps.mod (v : VOps) : BitVec 8 := v.cuffD.mod

/-- TOL of a MEMO field (R320). -/
def memoTol (m : BitVec 4) : BitVec 2 := m.extractLsb' 2 2
/-- XB of a MEMO field (R320). -/
def memoXB (m : BitVec 4) : Bool := m.getLsbD 1
/-- XA of a MEMO field (R320). -/
def memoXA (m : BitVec 4) : Bool := m.getLsbD 0

/-- The cuff of a shape V source pair: unused sources have zero fields, permutations are defined, PB is none under
broadcast, TOL is EXACT (R318 to R320, R350). -/
def cuffOk (readsA readsB : Bool) (v : VOps) : Bool :=
  let c := v.cuffD
  memoTol c.memo == 0 && permOk c.pa && permOk c.pb
    && (readsA || (v.a == 0 && c.pa == 0 && !memoXA c.memo))
    && (readsB || (v.b == 0 && !v.sb && c.pb == 0 && !memoXB c.memo))
    && (!v.sb || c.pb == 0)

/-- Integer element type code of row 1 (R352). -/
def typeOk (allowed : List Nat) (v : VOps) : Bool := allowed.contains (v.mod.extractLsb' 0 3).toNat

/-- Row 1 with types from a list and no other MOD bit (R352, R353). -/
def row1Ok (readsA readsB : Bool) (types : List Nat) (v : VOps) : Bool :=
  cuffOk readsA readsB v && typeOk types v && v.mod.extractLsb' 3 5 == 0

/-- All six integer types. -/
def allTypes : List Nat := [0, 1, 2, 3, 4, 5]
/-- The lane types .i32 and .u32. -/
def laneTypes : List Nat := [0, 1]

/-- FTYPE names a format (R355). -/
def ftypeOk (m : BitVec 8) : Bool := (m.extractLsb' 0 2).toNat ≤ 2

/-- Row 2 with RM free and no condition (VADD, VSUB, VMUL). -/
def row2RmOk (v : VOps) : Bool := cuffOk true true v && ftypeOk v.mod && v.mod.extractLsb' 4 4 == 0

/-- Row 2 with neither RM nor condition. -/
def row2PlainOk (readsB : Bool) (v : VOps) : Bool :=
  cuffOk true readsB v && ftypeOk v.mod && v.mod.extractLsb' 2 6 == 0

/-- Row 3 with RM and FTYPE (R358). -/
def row3RmOk (readsB : Bool) (v : VOps) : Bool :=
  cuffOk true readsB v && ftypeOk v.mod && v.mod.extractLsb' 4 4 == 0

/-- MOD at most a bound. -/
def modLe (v : VOps) (n : Nat) : Bool := v.mod.toNat ≤ n

/-- A pair field (R316). -/
def pairOk (r : R7) : Bool := r.toNat ≤ 126

/-- A field from lo to hi. -/
def inRange (r : R7) (lo hi : Nat) : Bool := lo ≤ r.toNat && r.toNat ≤ hi

/-- The memory cuff: address form, offset and MEMO (R314, R317, R320). -/
def memFormOk (forms : List Nat) (virtual : Bool) (m : MOps) : Bool :=
  forms.contains m.aform.toNat && m.aform != 3
    && (m.aform != 0 || m.ofsh == 0) && (m.aform == 0 || !m.sb)
    && memoTol m.memo == 0 && (m.aform == 0 || !memoXB m.memo)
    && (!virtual || pairOk m.a)

/-- Registers of a transfer of size code SZ (R374). -/
def szRegs (sz : Nat) : Nat := if sz = 5 then 2 else if sz = 6 then 4 else 1

/-- MOD of the loads and stores (R374). -/
def lsModOk (store : Bool) (m : MOps) : Bool :=
  let sz := (m.mod.extractLsb' 0 3).toNat
  let ord := (m.mod.extractLsb' 3 2).toNat
  let scope := (m.mod.extractLsb' 5 3).toNat
  (if store then [0, 2, 4, 5, 6].contains sz else sz ≤ 6)
    && (ord == 0 || ord == (if store then 2 else 1)) && scope ≤ 4 && (ord != 0 || scope == 0)
    && m.d.toNat + szRegs sz ≤ 128

/-- The scalar forms take AFORM 0 with SB = 1, or AFORM 1 (R375). -/
def scalarFormOk (m : MOps) : Bool := m.aform == 1 || (m.aform == 0 && m.sb)

/-- W64 of an atomic (R379). -/
def atomW64 (m : MOps) : Bool := m.mod.getLsbD 3

/-- Special-register selectors of R153. -/
def selectorOk (s : BitVec 8) : Bool :=
  s.toNat ≤ 0x0C || (0x10 ≤ s.toNat && s.toNat ≤ 0x1C)

/-- Selectors that SETS may write (R153). -/
def selectorRW (s : BitVec 8) : Bool :=
  (0x10 ≤ s.toNat && s.toNat ≤ 0x15) || (0x19 ≤ s.toNat && s.toNat ≤ 0x1C)

/-- A branch condition: TYPE and CC (R338). -/
def condOk (c : BitVec 5) : Bool := c.extractLsb' 3 2 != 3 && (c.extractLsb' 0 3).toNat ≤ 5

/-- COPY, COPY2D and FILL (R390). -/
def copyOk (regs : Nat) (isFill : Bool) (a : R7) (mod : BitVec 8) : Bool :=
  8 ≤ a.toNat && a.toNat + regs ≤ 128 && !mod.getLsbD 7 && !mod.getLsbD 4
    && (mod.getLsbD 6 || !mod.getLsbD 5)
    && (if isFill then mod.extractLsb' 2 2 == 0 else mod.extractLsb' 2 2 != 3) && mod.extractLsb' 0 2 != 3

/-- PA and PB none and TOL zero, for the shape G instructions whose cuff is optional (R418). -/
def gCuffOk (xa xb : Bool) (v : VOps) : Bool :=
  let c := v.cuffD
  c.pa == 0 && c.pb == 0 && memoTol c.memo == 0 && (xa || !memoXA c.memo) && (xb || !memoXB c.memo)

/-- Coordinates that SAMPLE reads: nc of R418. -/
def sampleCoords (mod : BitVec 8) : Nat :=
  (if mod.extractLsb' 3 2 == 0 then 2 else 3) + (if mod.extractLsb' 0 2 == 0 then 0 else 1)

/-- Every field value is one that its entry defines (R322 step 2). Events have no encoding and are always well formed. -/
def Instr.wf : Instr → Bool
  | .braS c sb _ _ _ => condOk c && !(sb && c.extractLsb' 3 2 == 2)
  | .braV c _ _ _ _ _ => condOk c
  | .call d a _ => d.toNat ≤ 16 && a.toNat ≤ 16
  | .callr _ d a => d.toNat ≤ 16 && a.toNat ≤ 16
  | .loop _ _ t => 2 ≤ t.toInt
  | .gets s _ => selectorOk s
  | .sets s _ => selectorRW s
  | .mpop _ a | .mfirst _ a => a.toNat ≤ 125
  | .vaddInt v | .vsubInt v | .vmulInt v | .vmulh v | .vmad v | .vadds v | .vsubs v => row1Ok true true allTypes v
  | .vand v | .vor v | .vxor v => row1Ok true true laneTypes v
  | .vnot v => row1Ok true false laneTypes v
  | .vshl v | .vshr v | .vsar v | .vminInt v | .vmaxInt v | .vsel v => row1Ok true true allTypes v
  | .vabsInt v => row1Ok true false [0, 2, 4] v
  | .vcmpInt v => cuffOk true true v && typeOk allTypes v && (v.mod.extractLsb' 3 3).toNat ≤ 5 && v.mod.extractLsb' 6 2 == 0
  | .vpopc v | .vclz v => row1Ok true false allTypes v
  | .vmov v => row1Ok false true laneTypes v
  | .vdot4 v => cuffOk true true v && typeOk [4, 5] v && v.mod.extractLsb' 3 3 == 0 && !v.mod.getLsbD 7
  | .vbfe v | .vbfi v => row1Ok true true laneTypes v
  | .vaddFp v | .vsubFp v | .vmulFp v => row2RmOk v
  | .vfma v => cuffOk true true v && ftypeOk v.mod && v.mod.extractLsb' 6 2 == 0
  | .vminFp v | .vmaxFp v => row2PlainOk true v
  | .vcmpFp v => cuffOk true true v && ftypeOk v.mod && v.mod.extractLsb' 2 2 == 0
      && (v.mod.extractLsb' 4 3).toNat ≤ 5 && !v.mod.getLsbD 7
  | .vabsFp v | .vneg v | .vclass v => row2PlainOk false v
  | .cvt v => cuffOk true false v && modLe v 15
  | .sxpack v | .sxunpk v => cuffOk true false v && modLe v 2
  | .vrnd v | .vsqrt v => row3RmOk false v
  | .vdiv v => row3RmOk true v
  | .vrcp v | .vrsq v | .vexp2 v | .vlog2 v | .vsin v | .vcos v | .vtanh v => cuffOk true false v && modLe v 2
  | .rand v => cuffOk false false v && modLe v 1 && (v.mod == 0 || pairOk v.d)
  | .vperm v => cuffOk true true v && modLe v 0
  | .vcmpct v | .vexpnd v => cuffOk true false v && modLe v 0
  | .match_ v => cuffOk true false v && modLe v 7 && v.mod.extractLsb' 0 2 != 3
      && (v.mod.extractLsb' 0 2 != 2 || pairOk v.a) && (!v.mod.getLsbD 2 || pairOk v.d)
  | .reduce v => cuffOk true false v && (v.mod.extractLsb' 0 4).toNat ≤ 10 && v.mod.extractLsb' 4 3 == 0
      && !(v.mod.getLsbD 7 && v.d == 6)
  | .scan v => cuffOk true false v && (v.mod.extractLsb' 0 4).toNat ≤ 10 && v.mod.extractLsb' 5 3 == 0
  | .vballot v => cuffOk true false v && modLe v 0 && !([4, 5, 6, 126, 127].contains v.d.toNat)
  | .vlane v => cuffOk false false v && modLe v 1
  | .ld m => memFormOk [0, 1, 2] true m && lsModOk false m
  | .st m => memFormOk [0, 1, 2] true m && lsModOk true m
  | .lds m => memFormOk [0, 1] true m && scalarFormOk m && lsModOk false m && 8 ≤ m.d.toNat
  | .sts m => memFormOk [0, 1] true m && scalarFormOk m && lsModOk true m
  | .ldsh m | .ldcl m => memFormOk [0, 1, 2] false m && lsModOk false m
  | .stsh m | .stcl m => memFormOk [0, 1, 2] false m && lsModOk true m
  | .atom m | .atomn m => memFormOk [0, 1, 2] true m && (!atomW64 m || pairOk m.d)
  | .cas m => memFormOk [0, 1, 2] true m && m.mod.extractLsb' 0 3 == 0 && m.d.toNat ≤ (if atomW64 m then 124 else 126)
  | .xchg m => memFormOk [0, 1, 2] true m && m.mod.extractLsb' 0 3 == 0 && (!atomW64 m || pairOk m.d)
  | .stashMap b a _ => pairOk a && pairOk b
  | .cwb _ a | .cinv _ a => pairOk a
  | .rel c | .acq c | .phase c => c.toNat ≤ 4
  | .barArrive _ _ _ d => 8 ≤ d.toNat
  | .copy a m => copyOk 6 false a m
  | .copy2d a m => copyOk 9 false a m
  | .fill a m => copyOk 6 true a m
  | .spawn a d m => pairOk a && m.extractLsb' 5 3 == 0 && d.toNat + (m.extractLsb' 0 4).toNat ≤ 127
  | .reserve _ _ d => inRange d 8 126
  | .commit a => inRange a 8 124
  | .claim d => 8 ≤ d.toNat
  | .tload a m => inRange a 8 123 && !m.getLsbD 7 && m.extractLsb' 4 2 == 0
      && [0, 1, 2, 3, 4, 9, 10, 11].contains (m.extractLsb' 0 4).toNat
  | .mma _ _ _ m => m.extractLsb' 6 2 != 3 && m.extractLsb' 0 6 != 0
  | .had _ _ m => m.extractLsb' 3 5 == 0 && m.extractLsb' 0 2 != 3
  | .accrd _ _ m => m.extractLsb' 2 6 == 0 && m != 2
  | .accst a m => inRange a 8 121 && m.extractLsb' 0 3 == 0 && !(m.getLsbD 3 && m.extractLsb' 4 2 != 0)
  | .vmx _ d a b m => m.extractLsb' 3 5 == 0 && a.toNat ≤ 112 && pairOk b
      && d.toNat + 16 * ((m.extractLsb' 0 2).toNat + 1) ≤ 128
  | .rast d a => d.toNat ≤ 122 && inRange a 8 114
  | .sample v => gCuffOk true true v && !v.sb && v.d.toNat ≤ 124 && inRange v.b 8 124
      && v.mod.extractLsb' 5 3 == 0 && !v.mod.getLsbD 2 && v.mod.extractLsb' 3 2 != 3 && v.mod.extractLsb' 0 2 != 3
      && v.a.toNat + sampleCoords v.mod ≤ 128
  | .trace v => gCuffOk true true v && !v.sb && modLe v 0 && v.d.toNat ≤ 120 && v.a.toNat ≤ 120 && inRange v.b 8 125
  | .traceM _ d a b => d.toNat ≤ 120 && a.toNat ≤ 120 && inRange b 8 125
  | .verdict a => a.toNat ≤ 125
  | .bxunion v => gCuffOk false false v && !v.sb && modLe v 1 && v.d.toNat ≤ 122 && v.a.toNat ≤ 122 && v.b.toNat ≤ 122
      && (v.mod == 0 || v.b == 0)
  | .sahcost _ a => a.toNat ≤ 121
  | .nodepack d a => d.toNat ≤ 124 && a.toNat ≤ 121
  | .osenter _ a _ => pairOk a
  | .tsig d a sz => inRange d 8 126 && inRange a 8 120 && sz != 3
  | .mkey v =>
      let c := v.cuffD
      let form := v.mod.toNat
      v.d == 0 && c.pa == 0 && c.pb == 0 && form ≤ 4 && (if v.sb then v.a == 0 else v.b == 0)
        && (form != 4 || pairOk (if v.sb then v.b else v.a))
        && (if v.sb then !memoXA c.memo else !memoXB c.memo)
  | .pureProbe d m =>
      let pw := (m.extractLsb' 0 5).toNat
      m.extractLsb' 6 2 == 0 && 1 ≤ pw && pw ≤ 28 && d.toNat + pw ≤ 128
  | _ => true

end Sys2Proof
end

