-- ==== Sys2Proof/Decode.lean ====
section
/-! DEFINITION. Decoding of Sheot 1.0 words (R310 to R322) and, after it, the encoder. The decoder is total and rejects
by name; it raises no trap itself: a rejected word is ILLEGAL at issue (R322). -/

namespace Sys2Proof

/-- Why words are no instruction (R322 step 2). -/
inductive Reject where
  /-- The opcode point is reserved (R321). -/
  | reservedPoint
  /-- C or SB is not what the shape allows (R315). -/
  | badShape
  /-- A field or bit that must be zero is not (R314, R315). -/
  | nonzeroField
  /-- A field holds a value its entry does not define (R322). -/
  | badValue
  /-- Fewer bytes than the instruction has (R310). -/
  | short
  deriving DecidableEq, Repr

/-- The fields of a base word and its cuff word; the cuff is 0 where C = 0 (R313, R315). -/
structure Fields where
  sb : Bool
  c : Bool
  op : BitVec 9
  b : R7
  a : R7
  d : R7
  cuff : Word
  deriving DecidableEq, Repr

/-- C of a base word: a cuff word follows (R310). -/
def wordC (w : Word) : Bool := w.getLsbD 30

/-- The fields of two words (R313). -/
def fieldsOf (w0 w1 : Word) : Fields :=
  { sb := w0.getLsbD 31, c := wordC w0, op := w0.extractLsb' 21 9, b := w0.extractLsb' 14 7,
    a := w0.extractLsb' 7 7, d := w0.extractLsb' 0 7, cuff := if wordC w0 then w1 else 0 }

/-- The standard cuff layout (R314). -/
def cuffOf (w : Word) : Cuff :=
  ⟨w.extractLsb' 28 4, w.extractLsb' 20 8, w.extractLsb' 10 10, w.extractLsb' 0 10⟩

/-- The operands of shape V (R315). -/
def Fields.vops (f : Fields) : VOps := ⟨f.sb, f.b, f.a, f.d, if f.c then some (cuffOf f.cuff) else none⟩

/-- The operands of shape M (R314, R317). -/
def Fields.mops (f : Fields) : MOps :=
  ⟨f.sb, f.b, f.a, f.d, f.cuff.extractLsb' 28 4, f.cuff.extractLsb' 20 8, f.cuff.extractLsb' 18 2,
    f.cuff.extractLsb' 0 18⟩

/-- TOFS of the target layout (R314). -/
def Fields.tofs (f : Fields) : BitVec 16 := f.cuff.extractLsb' 0 16
/-- JOFS of the target layout (R314). -/
def Fields.jofs (f : Fields) : BitVec 16 := f.cuff.extractLsb' 16 16
/-- MOD of a shape G cuff (R314). -/
def Fields.mod (f : Fields) : BitVec 8 := f.cuff.extractLsb' 20 8

/-- An instruction, where C and SB are as the shape allows and the zero fields are zero. -/
def given (shapeOk zeroOk : Bool) (i : Instr) : Except Reject Instr :=
  if shapeOk then if zeroOk then .ok i else .error .nonzeroField else .error .badShape

/-- The B operand of shape S (R316). -/
def Fields.sop (f : Fields) : Except Reject SOp :=
  match f.sb, f.c with
  | false, false => .ok (.reg f.b)
  | true, false => .ok (.imm7 f.b)
  | true, true =>
      if f.cuff.extractLsb' 25 7 == 0#7 then .ok (.imm32 (f.cuff.extractLsb' 0 25 ++ f.b)) else .error .nonzeroField
  | false, true => .error .badShape

/-- Shape S with D, A and B. -/
def Fields.s3 (f : Fields) (k : R7 → R7 → SOp → Instr) : Except Reject Instr :=
  match f.sop with
  | .ok b => .ok (k f.d f.a b)
  | .error e => .error e

/-- Shape S with B alone: A and D are zero. -/
def Fields.s1 (f : Fields) (k : SOp → Instr) : Except Reject Instr :=
  match f.sop with
  | .ok b => given true (f.d == 0#7 && f.a == 0#7) (k b)
  | .error e => .error e

/-- Shape N: C and SB are 0 (R315). -/
def Fields.n (f : Fields) (zeroOk : Bool) (i : Instr) : Except Reject Instr := given (!f.c && !f.sb) zeroOk i

/-- Shape T: C is 1 (R315). -/
def Fields.t (f : Fields) (sbOk zeroOk : Bool) (i : Instr) : Except Reject Instr := given (f.c && sbOk) zeroOk i

/-- Shape G with a cuff that holds MOD alone. -/
def Fields.g1 (f : Fields) (sbOk zeroOk : Bool) (i : Instr) : Except Reject Instr :=
  given (f.c && sbOk) (zeroOk && f.cuff.extractLsb' 28 4 == 0#4 && f.cuff.extractLsb' 0 20 == 0#20) i

/-- Shape M: C is 1 (R315). -/
def Fields.m (f : Fields) (k : MOps → Instr) : Except Reject Instr := given f.c true (k f.mops)

/-- A field is zero. -/
def z (r : R7) : Bool := r == 0#7

/-- Row 0 (R330). -/
def decodeRow0 (f : Fields) : Except Reject Instr :=
  match (f.op.extractLsb' 0 6).toNat with
  | 0x01 => f.n (z f.d && z f.a && z f.b) .nop
  | 0x02 => f.s3 .add
  | 0x03 => f.s3 .sub
  | 0x04 => f.s3 .mul
  | 0x05 => f.s3 .mulh
  | 0x06 => f.s3 .mulhu
  | 0x07 => f.s3 .div
  | 0x08 => f.s3 .divu
  | 0x09 => f.s3 .rem
  | 0x0a => f.s3 .remu
  | 0x0b => f.s3 .and
  | 0x0c => f.s3 .or
  | 0x0d => f.s3 .xor
  | 0x0e => f.s3 .shl
  | 0x0f => f.s3 .shr
  | 0x10 => f.s3 .sar
  | 0x11 => f.s3 .min
  | 0x12 => f.s3 .max
  | 0x13 => f.s3 .minu
  | 0x14 => f.s3 .maxu
  | 0x15 => f.s3 .seq
  | 0x16 => f.s3 .sne
  | 0x17 => f.s3 .slt
  | 0x18 => f.s3 .sltu
  | 0x19 => f.s3 .sel
  | 0x1a => match f.sop with
      | .ok b => given true (z f.a) (.mov f.d b)
      | .error e => .error e
  | 0x1b => f.n (z f.b) (.popc f.d f.a)
  | 0x1c => f.n (z f.b) (.clz f.d f.a)
  | 0x1d => f.n (z f.b) (.ctz f.d f.a)
  | 0x20 => f.t (!f.sb) (z f.d && z f.a && z f.b && f.jofs == 0#16) (.jmp f.tofs)
  | 0x21 => f.t true (f.d.extractLsb' 5 2 == 0#2 && f.jofs == 0#16) (.braS (f.d.extractLsb' 0 5) f.sb f.b f.a f.tofs)
  | 0x22 => f.t true (f.d.extractLsb' 5 2 == 0#2) (.braV (f.d.extractLsb' 0 5) f.sb f.b f.a f.tofs f.jofs)
  | 0x23 => f.t (!f.sb) (f.d.extractLsb' 5 2 == 0#2 && f.a.extractLsb' 5 2 == 0#2 && z f.b && f.jofs == 0#16)
      (.call (f.d.extractLsb' 0 5) (f.a.extractLsb' 0 5) f.tofs)
  | 0x24 => f.n (z f.d && z f.a && z f.b) .join
  | 0x25 => f.t true (z f.d && z (if f.sb then f.a else f.b) && f.jofs == 0#16)
      (.loop f.sb (if f.sb then f.b else f.a) f.tofs)
  | 0x26 => if f.d == 1#7 then f.n (z f.a && z f.b) .lendX else f.n (z f.d && z f.a && z f.b) .lend
  | 0x27 => f.n (z f.d && z f.a && z f.b) .ret
  | 0x28 => f.n (f.d.extractLsb' 5 2 == 0#2 && f.a.extractLsb' 5 2 == 0#2)
      (.callr f.b (f.d.extractLsb' 0 5) (f.a.extractLsb' 0 5))
  | 0x29 => f.n (z f.d && z f.b) (.jmpr f.a)
  | 0x2a => f.s1 .acquire
  | 0x2b => f.s1 .release
  | 0x2c => f.s1 .wbase
  | 0x2d => f.s1 .swin
  | 0x2e => f.s1 .unwind
  | 0x2f => f.n (z f.d && z f.a && z f.b) .pause
  | 0x30 => f.n (z f.d && z f.a && z f.b) .exit
  | 0x31 => f.n (f.b.extractLsb' 1 6 == 0#6) (.gets (f.b.extractLsb' 0 1 ++ f.a) f.d)
  | 0x32 => f.n (f.b.extractLsb' 1 6 == 0#6) (.sets (f.b.extractLsb' 0 1 ++ f.d) f.a)
  | 0x33 => f.s1 .fmt
  | 0x34 => f.s1 .pclass
  | 0x35 => f.n (z f.b) (.mpop f.d f.a)
  | 0x36 => f.n (z f.b) (.mfirst f.d f.a)
  | _ => .error .reservedPoint

/-- Row 1 (R353). -/
def decodeRow1 (f : Fields) : Except Reject Instr :=
  match (f.op.extractLsb' 0 6).toNat with
  | 0x00 => .ok (.vaddInt f.vops)
  | 0x01 => .ok (.vsubInt f.vops)
  | 0x02 => .ok (.vmulInt f.vops)
  | 0x03 => .ok (.vmulh f.vops)
  | 0x04 => .ok (.vmad f.vops)
  | 0x05 => .ok (.vadds f.vops)
  | 0x06 => .ok (.vsubs f.vops)
  | 0x07 => .ok (.vand f.vops)
  | 0x08 => .ok (.vor f.vops)
  | 0x09 => .ok (.vxor f.vops)
  | 0x0a => .ok (.vnot f.vops)
  | 0x0b => .ok (.vshl f.vops)
  | 0x0c => .ok (.vshr f.vops)
  | 0x0d => .ok (.vsar f.vops)
  | 0x0e => .ok (.vminInt f.vops)
  | 0x0f => .ok (.vmaxInt f.vops)
  | 0x10 => .ok (.vabsInt f.vops)
  | 0x11 => .ok (.vcmpInt f.vops)
  | 0x12 => .ok (.vsel f.vops)
  | 0x13 => .ok (.vpopc f.vops)
  | 0x14 => .ok (.vclz f.vops)
  | 0x15 => .ok (.vmov f.vops)
  | 0x16 => .ok (.vdot4 f.vops)
  | 0x17 => .ok (.vbfe f.vops)
  | 0x18 => .ok (.vbfi f.vops)
  | _ => .error .reservedPoint

/-- Row 2 (R356). -/
def decodeRow2 (f : Fields) : Except Reject Instr :=
  match (f.op.extractLsb' 0 6).toNat with
  | 0x00 => .ok (.vaddFp f.vops)
  | 0x01 => .ok (.vsubFp f.vops)
  | 0x02 => .ok (.vmulFp f.vops)
  | 0x03 => .ok (.vfma f.vops)
  | 0x04 => .ok (.vminFp f.vops)
  | 0x05 => .ok (.vmaxFp f.vops)
  | 0x06 => .ok (.vcmpFp f.vops)
  | 0x07 => .ok (.vabsFp f.vops)
  | 0x08 => .ok (.vneg f.vops)
  | 0x09 => .ok (.vclass f.vops)
  | _ => .error .reservedPoint

/-- Row 3 (R358). -/
def decodeRow3 (f : Fields) : Except Reject Instr :=
  match (f.op.extractLsb' 0 6).toNat with
  | 0x00 => .ok (.cvt f.vops)
  | 0x01 => .ok (.sxpack f.vops)
  | 0x02 => .ok (.sxunpk f.vops)
  | 0x03 => .ok (.vrnd f.vops)
  | 0x04 => .ok (.vrcp f.vops)
  | 0x05 => .ok (.vrsq f.vops)
  | 0x06 => .ok (.vsqrt f.vops)
  | 0x07 => .ok (.vexp2 f.vops)
  | 0x08 => .ok (.vlog2 f.vops)
  | 0x09 => .ok (.vsin f.vops)
  | 0x0a => .ok (.vcos f.vops)
  | 0x0b => .ok (.vtanh f.vops)
  | 0x0c => .ok (.vdiv f.vops)
  | 0x0d => .ok (.rand f.vops)
  | _ => .error .reservedPoint

/-- Row 4 (R364). -/
def decodeRow4 (f : Fields) : Except Reject Instr :=
  match (f.op.extractLsb' 0 6).toNat with
  | 0x00 => .ok (.vperm f.vops)
  | 0x01 => .ok (.vcmpct f.vops)
  | 0x02 => .ok (.vexpnd f.vops)
  | 0x03 => .ok (.match_ f.vops)
  | 0x04 => .ok (.reduce f.vops)
  | 0x05 => .ok (.scan f.vops)
  | 0x06 => .ok (.vballot f.vops)
  | 0x07 => .ok (.vlane f.vops)
  | _ => .error .reservedPoint

/-- Row 5 (R375, R379, R381, R385). -/
def decodeRow5 (f : Fields) : Except Reject Instr :=
  match (f.op.extractLsb' 0 6).toNat with
  | 0x00 => f.m .ld
  | 0x01 => f.m .st
  | 0x02 => f.m .lds
  | 0x03 => f.m .sts
  | 0x04 => f.m .ldsh
  | 0x05 => f.m .stsh
  | 0x06 => f.m .ldcl
  | 0x07 => f.m .stcl
  | 0x08 => f.m .atom
  | 0x09 => f.m .atomn
  | 0x0a => f.m .cas
  | 0x0b => f.m .xchg
  | 0x0c => f.n (f.d.extractLsb' 3 4 == 0#4) (.stashMap f.b f.a (f.d.extractLsb' 0 3))
  | 0x0d => f.n (f.d.extractLsb' 3 4 == 0#4 && z f.a && z f.b) (.stashUnmap (f.d.extractLsb' 0 3))
  | 0x0e => f.n (z f.d) (.cwb f.b f.a)
  | 0x0f => f.n (z f.d) (.cinv f.b f.a)
  | 0x10 => f.n (f.d.extractLsb' 3 4 == 0#4 && z f.a && z f.b) (.rel (f.d.extractLsb' 0 3))
  | 0x11 => f.n (f.d.extractLsb' 3 4 == 0#4 && z f.a && z f.b) (.acq (f.d.extractLsb' 0 3))
  | 0x12 => f.n (f.d.extractLsb' 3 4 == 0#4 && z f.a && z f.b) (.phase (f.d.extractLsb' 0 3))
  | _ => .error .reservedPoint

/-- WAIT's 21-bit field (R386). -/
def Fields.low21 (f : Fields) : BitVec 21 := f.b ++ f.a ++ f.d

/-- Row 6 (R386 to R396). -/
def decodeRow6 (f : Fields) : Except Reject Instr :=
  match (f.op.extractLsb' 0 6).toNat with
  | 0x00 => f.n (!f.low21.getLsbD 20) (.wait (f.low21.extractLsb' 16 4) (f.low21.extractLsb' 12 4)
      (f.low21.extractLsb' 6 6) (f.low21.extractLsb' 0 6))
  | 0x01 => f.n (f.d.extractLsb' 2 5 == 0#5 && z f.b) (.waitr f.a (f.d.extractLsb' 0 2))
  | 0x02 => f.n (f.d.extractLsb' 1 6 == 0#6 && z f.b) (.barJoin f.a (f.d.getLsbD 0))
  | 0x03 => f.n (f.b.extractLsb' 2 5 == 0#5) (.barArrive (f.b.getLsbD 1) (f.b.getLsbD 0) f.a f.d)
  | 0x04 => f.n (f.d.extractLsb' 1 6 == 0#6) (.barWait f.b f.a (f.d.getLsbD 0))
  | 0x05 => f.n (f.d.extractLsb' 1 6 == 0#6) (.barExpect f.b f.a (f.d.getLsbD 0))
  | 0x06 => f.g1 (!f.sb) (z f.d && z f.b) (.copy f.a f.mod)
  | 0x07 => f.g1 (!f.sb) (z f.d && z f.b) (.copy2d f.a f.mod)
  | 0x08 => f.g1 (!f.sb) (z f.d && z f.b) (.fill f.a f.mod)
  | 0x09 => f.g1 (!f.sb) (z f.b) (.spawn f.a f.d f.mod)
  | 0x0a => given (!f.c) (z f.a) (.reserve f.sb f.b f.d)
  | 0x0b => f.n (z f.d && z f.b) (.commit f.a)
  | _ => .error .reservedPoint

/-- Row 7 (R401, R418, R438 to R440). -/
def decodeRow7 (f : Fields) : Except Reject Instr :=
  match (f.op.extractLsb' 0 6).toNat with
  | 0x00 => f.n (z f.a && z f.b) (.claim f.d)
  | 0x01 => f.n (z f.d && z f.b) (.releaseSlot f.a)
  | 0x02 => f.g1 (!f.sb) (z f.d && z f.b) (.tload f.a f.mod)
  | 0x03 => f.g1 (!f.sb) true (.mma f.d f.a f.b f.mod)
  | 0x04 => f.n (z f.d && z f.a && z f.b) .mfence
  | 0x05 =>
      if f.sb then given (!f.c) (z f.d && z f.a && f.b.extractLsb' 4 3 == 0#3) (.mwaitImm (f.b.extractLsb' 0 4))
      else given (!f.c) (z f.d && z f.b) (.mwait f.a)
  | 0x06 => f.g1 (!f.sb) (z f.d) (.had f.a f.b f.mod)
  | 0x07 => f.g1 (!f.sb) (z f.b) (.accrd f.d f.a f.mod)
  | 0x08 => f.g1 (!f.sb) (z f.d && z f.b) (.accst f.a f.mod)
  | 0x09 => f.g1 true true (.vmx f.sb f.d f.a f.b f.mod)
  | 0x0a => f.n (z f.d) (.accz f.a f.b)
  | 0x10 => f.n (z f.b) (.rast f.d f.a)
  | 0x11 => .ok (.sample f.vops)
  | 0x12 => .ok (.trace f.vops)
  | 0x13 => given (f.c && !f.sb) (f.mod == 0#8 && f.cuff.extractLsb' 0 20 == 0#20)
      (.traceM (f.cuff.extractLsb' 28 4) f.d f.a f.b)
  | 0x14 => f.n (z f.d && z f.b) (.verdict f.a)
  | 0x15 => .ok (.bxunion f.vops)
  | 0x16 => f.n (z f.b) (.sahcost f.d f.a)
  | 0x17 => f.n (z f.b) (.nodepack f.d f.a)
  | 0x18 => f.n true (.osenter f.d f.a f.b)
  | 0x19 => if f.d == 1#7 then f.n (z f.a && z f.b) .osleaveDone else f.n (z f.d && z f.a && z f.b) .osleave
  | 0x1a => f.n (z f.d && z f.a && z f.b) .osabort
  | 0x20 => if f.mod.extractLsb' 2 6 == 0#6 then f.g1 (!f.sb) (z f.b) (.tsig f.d f.a (f.mod.extractLsb' 0 2))
      else .error .badValue
  | 0x21 => f.n (z f.d) (.tcost f.b f.a)
  | 0x22 => f.n (z f.d && z f.b) (.tskip f.a)
  | 0x23 => f.n (z f.d && z f.b) (.pureBegin f.a)
  | 0x24 => .ok (.mkey f.vops)
  | 0x25 => f.g1 (!f.sb) (z f.a && z f.b) (.pureProbe f.d f.mod)
  | 0x26 => f.n (z f.d && z f.a && z f.b) .pureEnd
  | 0x27 => f.n (z f.d && z f.a && z f.b) .memoFlush
  | 0x30 => f.n (z f.a && z f.b) (.trap f.d)
  | 0x31 => f.n (z f.a && z f.b) (.brk f.d)
  | 0x32 => f.n (z f.d && z f.a && z f.b) .tret
  | _ => .error .reservedPoint

/-- The instruction of the fields, before its value checks: OP[8:6] is the row of the map (R313, R321). -/
def decodeFields (f : Fields) : Except Reject Instr :=
  match (f.op.extractLsb' 6 3).toNat with
  | 0 => decodeRow0 f
  | 1 => decodeRow1 f
  | 2 => decodeRow2 f
  | 3 => decodeRow3 f
  | 4 => decodeRow4 f
  | 5 => decodeRow5 f
  | 6 => decodeRow6 f
  | _ => decodeRow7 f

/-- The value checks of the entry (R322 step 2). -/
def checked (r : Except Reject Instr) : Except Reject Instr :=
  match r with
  | .ok i => if i.wf then .ok i else .error .badValue
  | .error e => .error e

/-- The instruction of a base word and the word after it (R310 to R322). The second word is looked at only where C = 1. -/
def decode (w0 w1 : Word) : Except Reject Instr := checked (decodeFields (fieldsOf w0 w1))

/-- A little-endian word of four bytes (R310). -/
def wordOfBytes (b0 b1 b2 b3 : Byte) : Word := b3 ++ b2 ++ b1 ++ b0

/-- The instruction at the head of a list of bytes, with the rest (R310). -/
def decodeBytes (bs : List Byte) : Except Reject (Instr × List Byte) :=
  match bs with
  | b0 :: b1 :: b2 :: b3 :: rest =>
      if wordC (wordOfBytes b0 b1 b2 b3) then
        match rest with
        | c0 :: c1 :: c2 :: c3 :: rest' =>
            match decode (wordOfBytes b0 b1 b2 b3) (wordOfBytes c0 c1 c2 c3) with
            | .ok i => .ok (i, rest')
            | .error e => .error e
        | _ => .error .short
      else
        match decode (wordOfBytes b0 b1 b2 b3) 0 with
        | .ok i => .ok (i, rest)
        | .error e => .error e
  | _ => .error .short

/-- The decoder on an instruction whose bits are w, numbered as spec/opcode_table.json numbers them. -/
def decodeTableWord (nbits w : Nat) : Option Instr :=
  match decode (BitVec.ofNat 32 (w % 2 ^ nbits)) (BitVec.ofNat 32 ((w % 2 ^ nbits) >>> 32)) with
  | .ok i => some i
  | .error _ => none

/-! The encoder, from the same tables. -/

/-- The base word of fields (R313). -/
def baseWord (f : Fields) : Word :=
  BitVec.ofBool f.sb ++ BitVec.ofBool f.c ++ f.op ++ f.b ++ f.a ++ f.d

/-- A cuff word of the standard layout (R314). -/
def cuffWord (c : Cuff) : Word := c.memo ++ c.mod ++ c.pb ++ c.pa

/-- Fields of shape N and of the G instructions without a cuff. -/
def fN (op : BitVec 9) (d a b : R7) : Fields := ⟨false, false, op, b, a, d, 0⟩

/-- Fields of shape S (R316). -/
def fS (op : BitVec 9) (d a : R7) (b : SOp) : Fields :=
  match b with
  | .reg r => ⟨false, false, op, r, a, d, 0⟩
  | .imm7 v => ⟨true, false, op, v, a, d, 0⟩
  | .imm32 v => ⟨true, true, op, v.extractLsb' 0 7, a, d, 0#7 ++ v.extractLsb' 7 25⟩

/-- Fields of shape T. -/
def fT (op : BitVec 9) (sb : Bool) (d a b : R7) (tofs jofs : BitVec 16) : Fields := ⟨sb, true, op, b, a, d, jofs ++ tofs⟩

/-- Fields of shape V. -/
def fV (op : BitVec 9) (v : VOps) : Fields :=
  match v.cuff with
  | none => ⟨v.sb, false, op, v.b, v.a, v.d, 0⟩
  | some c => ⟨v.sb, true, op, v.b, v.a, v.d, cuffWord c⟩

/-- Fields of shape M. -/
def fM (op : BitVec 9) (m : MOps) : Fields :=
  ⟨m.sb, true, op, m.b, m.a, m.d, m.memo ++ m.mod ++ m.aform ++ m.ofsh⟩

/-- Fields of shape G with a cuff that holds MOD alone. -/
def fG (op : BitVec 9) (sb : Bool) (d a b : R7) (mod : BitVec 8) : Fields :=
  ⟨sb, true, op, b, a, d, 0#4 ++ mod ++ 0#20⟩

/-- The fields of an instruction; none for the steps that have no encoding. -/
def Instr.fields : Instr → Option Fields
  | .nop => some (fN 0x001 0 0 0)
  | .add d a b => some (fS 0x002 d a b)
  | .sub d a b => some (fS 0x003 d a b)
  | .mul d a b => some (fS 0x004 d a b)
  | .mulh d a b => some (fS 0x005 d a b)
  | .mulhu d a b => some (fS 0x006 d a b)
  | .div d a b => some (fS 0x007 d a b)
  | .divu d a b => some (fS 0x008 d a b)
  | .rem d a b => some (fS 0x009 d a b)
  | .remu d a b => some (fS 0x00a d a b)
  | .and d a b => some (fS 0x00b d a b)
  | .or d a b => some (fS 0x00c d a b)
  | .xor d a b => some (fS 0x00d d a b)
  | .shl d a b => some (fS 0x00e d a b)
  | .shr d a b => some (fS 0x00f d a b)
  | .sar d a b => some (fS 0x010 d a b)
  | .min d a b => some (fS 0x011 d a b)
  | .max d a b => some (fS 0x012 d a b)
  | .minu d a b => some (fS 0x013 d a b)
  | .maxu d a b => some (fS 0x014 d a b)
  | .seq d a b => some (fS 0x015 d a b)
  | .sne d a b => some (fS 0x016 d a b)
  | .slt d a b => some (fS 0x017 d a b)
  | .sltu d a b => some (fS 0x018 d a b)
  | .sel d a b => some (fS 0x019 d a b)
  | .mov d b => some (fS 0x01a d 0 b)
  | .popc d a => some (fN 0x01b d a 0)
  | .clz d a => some (fN 0x01c d a 0)
  | .ctz d a => some (fN 0x01d d a 0)
  | .jmp t => some (fT 0x020 false 0 0 0 t 0)
  | .braS c sb b a t => some (fT 0x021 sb (0#2 ++ c) a b t 0)
  | .braV c sb b a t j => some (fT 0x022 sb (0#2 ++ c) a b t j)
  | .call dm ar t => some (fT 0x023 false (0#2 ++ dm) (0#2 ++ ar) 0 t 0)
  | .join => some (fN 0x024 0 0 0)
  | .loop sb x t => some (fT 0x025 sb 0 (if sb then 0 else x) (if sb then x else 0) t 0)
  | .lend => some (fN 0x026 0 0 0)
  | .lendX => some (fN 0x026 1 0 0)
  | .ret => some (fN 0x027 0 0 0)
  | .callr b dm ar => some (fN 0x028 (0#2 ++ dm) (0#2 ++ ar) b)
  | .jmpr a => some (fN 0x029 0 a 0)
  | .acquire b => some (fS 0x02a 0 0 b)
  | .release b => some (fS 0x02b 0 0 b)
  | .wbase b => some (fS 0x02c 0 0 b)
  | .swin b => some (fS 0x02d 0 0 b)
  | .unwind b => some (fS 0x02e 0 0 b)
  | .pause => some (fN 0x02f 0 0 0)
  | .exit => some (fN 0x030 0 0 0)
  | .gets s d => some (fN 0x031 d (s.extractLsb' 0 7) (0#6 ++ s.extractLsb' 7 1))
  | .sets s a => some (fN 0x032 (s.extractLsb' 0 7) a (0#6 ++ s.extractLsb' 7 1))
  | .fmt b => some (fS 0x033 0 0 b)
  | .pclass b => some (fS 0x034 0 0 b)
  | .mpop d a => some (fN 0x035 d a 0)
  | .mfirst d a => some (fN 0x036 d a 0)
  | .vaddInt v => some (fV 0x040 v)
  | .vsubInt v => some (fV 0x041 v)
  | .vmulInt v => some (fV 0x042 v)
  | .vmulh v => some (fV 0x043 v)
  | .vmad v => some (fV 0x044 v)
  | .vadds v => some (fV 0x045 v)
  | .vsubs v => some (fV 0x046 v)
  | .vand v => some (fV 0x047 v)
  | .vor v => some (fV 0x048 v)
  | .vxor v => some (fV 0x049 v)
  | .vnot v => some (fV 0x04a v)
  | .vshl v => some (fV 0x04b v)
  | .vshr v => some (fV 0x04c v)
  | .vsar v => some (fV 0x04d v)
  | .vminInt v => some (fV 0x04e v)
  | .vmaxInt v => some (fV 0x04f v)
  | .vabsInt v => some (fV 0x050 v)
  | .vcmpInt v => some (fV 0x051 v)
  | .vsel v => some (fV 0x052 v)
  | .vpopc v => some (fV 0x053 v)
  | .vclz v => some (fV 0x054 v)
  | .vmov v => some (fV 0x055 v)
  | .vdot4 v => some (fV 0x056 v)
  | .vbfe v => some (fV 0x057 v)
  | .vbfi v => some (fV 0x058 v)
  | .vaddFp v => some (fV 0x080 v)
  | .vsubFp v => some (fV 0x081 v)
  | .vmulFp v => some (fV 0x082 v)
  | .vfma v => some (fV 0x083 v)
  | .vminFp v => some (fV 0x084 v)
  | .vmaxFp v => some (fV 0x085 v)
  | .vcmpFp v => some (fV 0x086 v)
  | .vabsFp v => some (fV 0x087 v)
  | .vneg v => some (fV 0x088 v)
  | .vclass v => some (fV 0x089 v)
  | .cvt v => some (fV 0x0c0 v)
  | .sxpack v => some (fV 0x0c1 v)
  | .sxunpk v => some (fV 0x0c2 v)
  | .vrnd v => some (fV 0x0c3 v)
  | .vrcp v => some (fV 0x0c4 v)
  | .vrsq v => some (fV 0x0c5 v)
  | .vsqrt v => some (fV 0x0c6 v)
  | .vexp2 v => some (fV 0x0c7 v)
  | .vlog2 v => some (fV 0x0c8 v)
  | .vsin v => some (fV 0x0c9 v)
  | .vcos v => some (fV 0x0ca v)
  | .vtanh v => some (fV 0x0cb v)
  | .vdiv v => some (fV 0x0cc v)
  | .rand v => some (fV 0x0cd v)
  | .vperm v => some (fV 0x100 v)
  | .vcmpct v => some (fV 0x101 v)
  | .vexpnd v => some (fV 0x102 v)
  | .match_ v => some (fV 0x103 v)
  | .reduce v => some (fV 0x104 v)
  | .scan v => some (fV 0x105 v)
  | .vballot v => some (fV 0x106 v)
  | .vlane v => some (fV 0x107 v)
  | .ld m => some (fM 0x140 m)
  | .st m => some (fM 0x141 m)
  | .lds m => some (fM 0x142 m)
  | .sts m => some (fM 0x143 m)
  | .ldsh m => some (fM 0x144 m)
  | .stsh m => some (fM 0x145 m)
  | .ldcl m => some (fM 0x146 m)
  | .stcl m => some (fM 0x147 m)
  | .atom m => some (fM 0x148 m)
  | .atomn m => some (fM 0x149 m)
  | .cas m => some (fM 0x14a m)
  | .xchg m => some (fM 0x14b m)
  | .stashMap b a m => some (fN 0x14c (0#4 ++ m) a b)
  | .stashUnmap m => some (fN 0x14d (0#4 ++ m) 0 0)
  | .cwb b a => some (fN 0x14e 0 a b)
  | .cinv b a => some (fN 0x14f 0 a b)
  | .rel c => some (fN 0x150 (0#4 ++ c) 0 0)
  | .acq c => some (fN 0x151 (0#4 ++ c) 0 0)
  | .phase c => some (fN 0x152 (0#4 ++ c) 0 0)
  | .wait tl cp tst tld =>
      let w : BitVec 21 := 0#1 ++ tl ++ cp ++ tst ++ tld
      some (fN 0x180 (w.extractLsb' 0 7) (w.extractLsb' 7 7) (w.extractLsb' 14 7))
  | .waitr a k => some (fN 0x181 (0#5 ++ k) a 0)
  | .barJoin a cl => some (fN 0x182 (0#6 ++ BitVec.ofBool cl) a 0)
  | .barArrive dr cl a d => some (fN 0x183 d a (0#5 ++ BitVec.ofBool dr ++ BitVec.ofBool cl))
  | .barWait b a cl => some (fN 0x184 (0#6 ++ BitVec.ofBool cl) a b)
  | .barExpect b a cl => some (fN 0x185 (0#6 ++ BitVec.ofBool cl) a b)
  | .copy a m => some (fG 0x186 false 0 a 0 m)
  | .copy2d a m => some (fG 0x187 false 0 a 0 m)
  | .fill a m => some (fG 0x188 false 0 a 0 m)
  | .spawn a d m => some (fG 0x189 false d a 0 m)
  | .reserve sb b d => some ⟨sb, false, 0x18a, b, 0, d, 0⟩
  | .commit a => some (fN 0x18b 0 a 0)
  | .claim d => some (fN 0x1c0 d 0 0)
  | .releaseSlot a => some (fN 0x1c1 0 a 0)
  | .tload a m => some (fG 0x1c2 false 0 a 0 m)
  | .mma d a b m => some (fG 0x1c3 false d a b m)
  | .mfence => some (fN 0x1c4 0 0 0)
  | .mwait a => some (fN 0x1c5 0 a 0)
  | .mwaitImm b => some ⟨true, false, 0x1c5, 0#3 ++ b, 0, 0, 0⟩
  | .had a b m => some (fG 0x1c6 false 0 a b m)
  | .accrd d a m => some (fG 0x1c7 false d a 0 m)
  | .accst a m => some (fG 0x1c8 false 0 a 0 m)
  | .vmx sb d a b m => some (fG 0x1c9 sb d a b m)
  | .accz a b => some (fN 0x1ca 0 a b)
  | .rast d a => some (fN 0x1d0 d a 0)
  | .sample v => some (fV 0x1d1 v)
  | .trace v => some (fV 0x1d2 v)
  | .traceM memo d a b => some ⟨false, true, 0x1d3, b, a, d, memo ++ 0#28⟩
  | .verdict a => some (fN 0x1d4 0 a 0)
  | .bxunion v => some (fV 0x1d5 v)
  | .sahcost d a => some (fN 0x1d6 d a 0)
  | .nodepack d a => some (fN 0x1d7 d a 0)
  | .osenter d a b => some (fN 0x1d8 d a b)
  | .osleave => some (fN 0x1d9 0 0 0)
  | .osleaveDone => some (fN 0x1d9 1 0 0)
  | .osabort => some (fN 0x1da 0 0 0)
  | .tsig d a sz => some (fG 0x1e0 false d a 0 (0#6 ++ sz))
  | .tcost b a => some (fN 0x1e1 0 a b)
  | .tskip a => some (fN 0x1e2 0 a 0)
  | .pureBegin a => some (fN 0x1e3 0 a 0)
  | .mkey v => some (fV 0x1e4 v)
  | .pureProbe d m => some (fG 0x1e5 false d 0 0 m)
  | .pureEnd => some (fN 0x1e6 0 0 0)
  | .memoFlush => some (fN 0x1e7 0 0 0)
  | .trap d => some (fN 0x1f0 d 0 0)
  | .brk d => some (fN 0x1f1 d 0 0)
  | .tret => some (fN 0x1f2 0 0 0)
  | .perstNAssert => none
  | .perstNDeassert => none
  | .firmwareLoadDone _ _ => none
  | .channelTrainingDone _ _ => none
  | .hotReset => none
  | .functionLevelReset => none
  | .powerRemoval => none
  | .powerUp => none
  | .linkUp => none
  | .correctableLinkError => none
  | .configurationRequest => none
  | .d3hotEntry => none
  | .d0Return => none
  | .uncorrectableLinkError _ => none
  | .thermalTrip _ => none
  | .regulatorAlert _ => none
  | .writeTimingRecentre _ => none
  | .refresh _ _ => none
  | .selfRefreshEntry _ => none
  | .selfRefreshExit _ => none
  | .dramReadComplete _ _ => none
  | .dramReadRetry _ _ => none
  | .boundaryScan _ _ _ _ => none
  | .apertureRead _ _ => none
  | .apertureWrite _ _ => none
  | .registerWrite _ _ _ => none
  | .acceptChannels => none
  | .capWWrite _ => none
  | .evqHeadWrite _ => none
  | .evqEnableWrite _ => none
  | .msixTableWrite _ _ => none
  | .enable _ => none
  | .disable _ => none
  | .halt _ => none
  | .resume _ => none
  | .contextEnded _ => none
  | .faultReplay _ _ => none
  | .faultConvertToTrap _ _ => none
  | .queueStart _ => none
  | .queueStop _ => none
  | .qtailDoorbell _ _ => none
  | .nopPacket _ => none
  | .launch _ => none
  | .launchComplete _ => none
  | .semSignal _ => none
  | .semWait _ => none
  | .semWaitPoll _ => none
  | .setState _ => none
  | .frameMark _ => none
  | .memoFlushPacket _ => none
  | .traceRecord _ => none
  | .traceReplay _ => none
  | .power _ => none
  | .governorPeriod _ _ => none
  | .allowanceUpdate _ => none
  | .withheldCompletely _ _ => none
  | .nearThresholdWindow _ _ => none
  | .nearThresholdExit _ _ => none
  | .teamAdmission _ _ => none
  | .preemption _ _ => none
  | .drainLimitExpiry _ => none
  | .teamRestore _ _ => none
  | .quantumBoundary _ => none
  | .launchStall _ => none
  | .spawnBinTimerExpiry _ _ => none
  | .spawnBinHandoff _ _ _ => none
  | .arenaTimerExpiry _ _ => none
  | .spawnStall _ => none
  | .roundBoundary _ => none
  | .faultEntryWalk _ => none
  | .ladleWake _ _ => none
  | .allocationGrant _ _ => none
  | .boundaryTrapEntry _ => none
  | .loadDataLanded _ => none
  | .storePerformed _ => none
  | .atomicAtHome _ => none
  | .engineLineLanded _ => none
  | .matrixOperationComplete _ => none
  | .memoLookupReturn _ => none
  | .osAdvanceAtHome => none
  | .osStall _ _ => none
  | .traversalComplete _ _ => none
  | .infill _ => none

/-- The words of an instruction: its base word and, where C = 1, its cuff word; [] for the steps without an encoding. -/
def encode (i : Instr) : List Word :=
  match i.fields with
  | none => []
  | some f => if f.c then [baseWord f, f.cuff] else [baseWord f]

/-- INSN of a trap record: the base word (R436). -/
def Instr.insn (i : Instr) : Word :=
  match i.fields with
  | none => 0
  | some f => baseWord f

/-- The bytes the instruction takes, 4 or 8 (R310). -/
def Instr.size (i : Instr) : Nat :=
  match i.fields with
  | none => 0
  | some f => if f.c then 8 else 4

end Sys2Proof
end

