-- ==== Sys2Proof/Machine/State.lean ====
section
/-! DEFINITION. The state of the part, as plain data: everything the spec gives the CW96, grouped by the unit that keeps
it, and the state after reset. INVENTORY.md lists each field with its rule and its reset value. -/

namespace Sys2Proof.Machine

/-- A map held as the list of its entries, keys strictly rising; a key not listed reads as the map's default, and no
entry equals the default (the operations of Machine/Ops.lean keep this form). -/
abbrev Sparse (α : Type) := List (Nat × α)

/-! ### The module, its link and its pins (01) -/

/-- Where power-up stands (R23, R24, R28, R43). -/
inductive BootPhase where
  /-- rails removed -/
  | off
  /-- rails up, PERST_N low -/
  | perstLow
  /-- PERST_N high: the boot ROM reads fuses and zeroes SRAM (steps 4, 5) -/
  | rom
  /-- the firmware runs and trains the channels (steps 6, 7) -/
  | training
  /-- the firmware's check failed: only a reset leaves this state (R24) -/
  | bootFailed
  /-- training has ended -/
  | trained
  /-- THERM_TRIP_N went low: all clocks stopped (R42) -/
  | tripped
  deriving DecidableEq, Repr

/-- How the last configuration request was answered (R24). -/
inductive ConfigAnswer where
  | none | retry | completed
  deriving DecidableEq, Repr

/-- The sixteen states of a TAP controller (R20 names IEEE 1149.1; log 22). -/
inductive TapState where
  | testLogicReset | runTestIdle
  | selectDr | captureDr | shiftDr | exit1Dr | pauseDr | exit2Dr | updateDr
  | selectIr | captureIr | shiftIr | exit1Ir | pauseIr | exit2Ir | updateIr
  deriving DecidableEq, Repr

/-- The test pins, the TAP controller and its registers, the bit nearest TDO first (R20; log 22): the instruction register's shift stage and
the instruction in force; the shift stage of the selected data register; the update stage of the boundary-scan register; and TDO, none where
it is not driven. -/
structure Tap where
  st : TapState
  tck : Bool
  tdi : Bool
  tms : Bool
  trstN : Bool
  ir : List Bool
  inst : List Bool
  dr : List Bool
  cells : List Bool
  tdo : Option Bool
  deriving DecidableEq, Repr

/-- Power, reset, link and sideband state (R20 to R43). asks: the configuration requests that have arrived over the link and wait for their answer,
oldest first (log 81). -/
structure Boot where
  phase : BootPhase
  linkUp : Bool
  linkDead : Bool
  d3hot : Bool
  clkreqLow : Bool
  thermAlert : Bool
  thermTrip : Bool
  aerCorrectable : Word
  aerNonfatal : Word
  aerFatal : Word
  configAnswer : ConfigAnswer
  asks : List CfgReq
  pmbAlert : BitVec 16
  tap : Tap
  deriving DecidableEq, Repr

/-! ### Device registers (02) -/

/-- One vector of the MSI-X table in BAR 4 (R37, R65). -/
structure MsixEntry where
  addr : Dword
  data : Word
  masked : Bool
  pending : Bool
  deriving DecidableEq, Repr

/-- An error record of 32 bytes (R70), as its four 64-bit words. -/
structure ErrRecord where
  w0 : Dword
  w1 : Dword
  w2 : Dword
  w3 : Dword
  deriving DecidableEq, Repr

/-- The device registers of R47, the bases of the three BARs and the size of BAR 2 (R37), the error log of R70 and the MSI-X table of R65. -/
structure Dev where
  stepping : BitVec 8
  part : BitVec 16
  isaMajor : BitVec 8
  isaMinor : BitVec 8
  ready : Bool
  degraded : Bool
  bootErr : BitVec 8
  memRate : BitVec 8
  fwBuild : BitVec 8
  chanFail : Word
  apertureBase : BitVec 48
  ctxTable : BitVec 48
  capW : BitVec 16
  lastRefusal : BitVec 8
  capPending : Bool
  capInForce : BitVec 16
  evqBase : Dword
  evqEnable : Bool
  evqLog2 : BitVec 5
  evqHead : BitVec 16
  evqTail : BitVec 16
  evqDropped : Word
  evqLost : Word
  errHead : BitVec 8
  errTail : BitVec 8
  errTransient : Word
  errLasting : Word
  errDropped : Word
  coreExclude : Mask
  wayExclude : List (BitVec 16)
  bar0 : Dword
  bar2 : Dword
  bar4 : Dword
  bar2Log2 : Nat
  errLog : Sparse ErrRecord
  msix : List MsixEntry
  deriving DecidableEq, Repr

/-- What the host holds: its memory behind the host window, by bus address, and the MSI-X messages and the data it received of its last
read (R44, R46); whether that read was poisoned (R46), and whether its last register access completed with Unsupported Request (R44). attrs:
by bus address, Relaxed Ordering at bit 0 and No Snoop at bit 1 of the last write request of the part to that byte (R45). -/
structure HostSide where
  mem : List Host.Cell
  msixSent : List (Dword × Word)
  readData : List Byte
  poisoned : Bool
  unsupported : Bool
  attrs : Sparse (BitVec 2)
  deriving DecidableEq, Repr

/-! ### Contexts and queues (02) -/

/-- CTX_STATE (R51). -/
inductive CtxState where
  | off | active | halted | ending
  deriving DecidableEq, Repr

/-- The fields of a context descriptor in force (R50). -/
structure Desc where
  transRoot : BitVec 48
  trapEntry : Pc
  spillBase : Pc
  spillStride : Word
  saveBase : Pc
  saveSize : Pc
  cmdWinBase : Pc
  cmdWinSize : Pc
  statusBase : Pc
  raceLogBase : Pc
  raceLogSize : Word
  powerAdmin : Bool
  evVector : BitVec 6
  powerFloorW : BitVec 16
  coreShare : BitVec 7
  priority : BitVec 3
  frameNs : Bool
  frameRo : Bool
  purityCheck : Bool
  raceMode : BitVec 2
  hazardCheck : Bool
  verifyRate : BitVec 2
  memo : Bool
  roundQ : BitVec 11
  det : Bool
  ratioSet : BitVec 3
  ratioLock : Bool
  legacyRzCvt : Bool
  legacyFtz : Bool
  legacy : Bool
  deriving DecidableEq, Repr

/-- The frame state of FRAME_MARK (R266). -/
structure FrameState where
  frame : Word
  cur : Pc
  prev : Pc
  bytes : Word
  deriving DecidableEq, Repr

/-- An open record trace (R90). -/
structure RecTrace where
  buf : Pc
  size : Word
  entries : Word
  overflow : Bool
  launches : Word
  deriving DecidableEq, Repr

/-- An open replay trace and its cursor (R90, R91). -/
structure RepTrace where
  buf : Pc
  size : Word
  cursor : Nat
  deriving DecidableEq, Repr

/-- The counts and flags of the context status record (R53). -/
structure Status where
  poisoned : Bool
  osStall : Bool
  stall : Bool
  withheld : Bool
  spills : Dword
  refills : Dword
  memoChecked : Dword
  memoMismatch : Dword
  deriving DecidableEq, Repr

/-- One context (R50 to R53). statusDue: its status record waits for the host (R39). withheldFor, withheldCores, issuedOn, heldCores: the core
clocks for which it has been withheld on each core, the cores where that was complete in this period, the cores where it has issued in the
clock under way, and the cores it has held in this period (R106). debited, coreClocks: the debits of its issues, in 1/16 AU, and the clocks of
the cores it holds, in this period (R104). served: when GDIST last gave it room (R79). -/
structure Context where
  st : CtxState
  refusal : BitVec 8
  desc : Desc
  frame : Option FrameState
  recTrace : Option RecTrace
  repTrace : Option RepTrace
  status : Status
  lostReported : Bool
  statusDue : Bool
  raceWritten : Word
  raceDropped : Word
  credits : Nat
  withheldFor : Sparse Nat
  withheldCores : Mask
  issuedOn : Mask
  heldCores : Mask
  debited : Nat
  coreClocks : Nat
  served : Nat
  deriving DecidableEq, Repr

/-- Q_STATE (R54). -/
inductive QState where
  | off | running | halted
  deriving DecidableEq, Repr

/-- What a started packet waits for before it completes (R58, R105). -/
inductive PktWait where
  | launch (uid : Nat)
  | power
  | done
  deriving DecidableEq, Repr

/-- A packet that has started and has not completed: its ring offset, TAG and NOTIFY (R56, R58). -/
structure RunningPkt where
  off : BitVec 20
  tag : Word
  notify : Bool
  what : PktWait
  deriving DecidableEq, Repr

/-- A SEM_WAIT that has started and is not satisfied (R60). -/
structure SemWait where
  off : BitVec 20
  tag : Word
  notify : Bool
  cond : BitVec 2
  addr : Pc
  value : Dword
  mask : Dword
  deriving DecidableEq, Repr

/-- One command queue (R54). -/
structure Queue where
  base : Pc
  enable : Bool
  log2 : BitVec 5
  cause : BitVec 8
  st : QState
  head : BitVec 20
  tail : BitVec 20
  done : Word
  running : List RunningPkt
  sem : Option SemWait
  deriving DecidableEq, Repr

/-! ### Firmware and governor (02, 04, 07) -/

/-- A fault entry of the FCP (R174). write: the access that made it was a store's, an atomic's or an engine's write (R169). -/
structure FaultEntry where
  id : Word
  ctx : BitVec 5
  page : Nat
  kind : BitVec 8
  write : Bool
  agent : BitVec 8
  core : BitVec 7
  va : Pc
  queue : BitVec 8
  posted : Bool
  deriving DecidableEq, Repr

/-- A cap or floor request waiting for its period boundary (R105): of a CAP_W write, or of the POWER packet of a queue. -/
structure CapReq where
  src : Option (BitVec 6 × BitVec 20)
  cap : BitVec 16
  floor : BitVec 16
  deriving DecidableEq, Repr

/-- An event record (R63) held or posted; SEQ is given when it is posted, and the vector that it signals when it arises (R65). -/
structure EvRecord where
  type : BitVec 8
  code : BitVec 8
  queue : BitVec 8
  ctx : BitVec 8
  d0 : Dword
  d1 : Dword
  d2 : Dword
  vec : BitVec 6 := 0
  deriving DecidableEq, Repr

/-- The command processors' own state. -/
structure Fcp where
  faults : List FaultEntry
  nextFaultId : Word
  capReqs : List CapReq
  evStore : List EvRecord
  evSeq : Word
  errSeq : Word
  transientPosted : Bool
  keptUsed : Bool
  deriving DecidableEq, Repr

/-- The governor (R96, R102, R107, R108): VDD_CORE in mV, clocks in steps of 1.25 MHz, the memory rate in use as the code of
MEM_RATE, the last sensor readings. -/
structure Gov where
  period : Nat
  vddCore : Nat
  fabricClk : Nat
  memRate : BitVec 8
  temps : List (BitVec 8)
  deriving DecidableEq, Repr

/-! ### Memory (01, 07, 08, 10, 11) -/

/-- Physical memory: the DRAM bytes that differ from what an unlisted byte reads as (log 1). -/
structure Memory where
  cells : List Host.Cell
  deriving DecidableEq, Repr

/-- One channel (R33, R34). used: it has served a request since its idle timer last started. -/
structure Chan where
  selfRefresh : Bool
  used : Bool
  hot : Bool
  refreshes : Nat
  recentres : Nat
  deriving DecidableEq, Repr

/-- A read that a controller retries or has under way with a latent error (R35). -/
structure BadLine where
  line : Nat
  retrying : Bool
  lasting : Bool
  deriving DecidableEq, Repr

/-- The race detector's shadow of a sector (R219). -/
structure Shadow where
  core : BitVec 7
  slot : BitVec 6
  serial : Word
  phases : List Nat
  atomic : Bool
  deriving DecidableEq, Repr

/-- DRAM, its channels, and what the homes keep per line or region. -/
structure Dram where
  mem : Memory
  chans : List Chan
  bad : List BadLine
  written : List Nat
  shadow : Sparse Shadow
  deriving DecidableEq, Repr

/-- A memo entry (R250). -/
structure MemoEntry where
  sig : Dword
  chk : Word
  ctx : BitVec 5
  kind : BitVec 2
  tol : BitVec 2
  cost : BitVec 16
  payload : List Word
  deriving DecidableEq, Repr

/-- A key's entry at its home (R288, R289); holder: the group and lane that hold it. -/
structure OsEntry where
  ctx : BitVec 5
  key : Dword
  next : Word
  poison : Bool
  holder : Option (Nat × Nat)
  deriving DecidableEq, Repr

/-- A message of OSLEAVE or OSABORT on its way to a home (R290, R291, R429). -/
structure OsMsg where
  ctx : BitVec 5
  key : Dword
  next : Word
  poison : Bool
  free : Bool
  deriving DecidableEq, Repr

/-- A cached translation: the context, the page's virtual base and log2 of its bytes, and its entry (R170). -/
structure TlbEntry where
  ctx : BitVec 5
  base : Nat
  log2 : Nat
  e : Dword
  deriving DecidableEq, Repr

/-- The directory entry of a COHERENT line; one not listed is in state I. owner: the team whose stash owns the line, and the stash line that
holds it: state X; sharers: the cores that may hold clean copies: state S (R183). -/
structure DirEntry where
  owner : Option (Nat × Nat)
  sharers : Mask
  deriving DecidableEq, Repr

/-- A posted memo store on its way from a core to its slice, or, drop, an invalidation of the entry's key (R251, R265). -/
structure MemoMsg where
  core : Nat
  drop : Bool
  entry : MemoEntry
  deriving DecidableEq, Repr

/-- What the sixteen slices keep: the directory by line (R183), second-level translations by slice (R170), memo tables with their pseudo-LRU
bits and the stores on their way to them, home-table entries, ordered-section entries and messages, and the keys for which OS_STALL has been
posted and no lane has entered since (R292). -/
structure Slices where
  dir : Sparse DirEntry
  tlb : List (Nat × TlbEntry)
  memoMsgs : List MemoMsg
  memo : Sparse MemoEntry
  memoLru : Sparse (BitVec 7)
  homes : Sparse Nat
  osHomes : List OsEntry
  osMsgs : List OsMsg
  osStalled : List (BitVec 5 × Dword)
  deriving DecidableEq, Repr

/-! ### Cores (04, 05, 07, 11) -/

/-- A fault that the Ladle waits on: the group whose frame it spills or refills, when that frame was made, the fault's kind and address, and
whether the host has converted it (R148). -/
structure LadleFault where
  group : Nat
  frame : Nat
  refill : Bool
  kind : Nat
  va : Nat
  convert : Bool
  deriving DecidableEq, Repr

/-- A wake of a Ladle (R144, R145): the partition, the requester's group, the groups passed over, and the frame that it is about to spill, by
its group and when it was made. -/
structure Wake where
  part : Nat
  req : Nat
  skip : List Nat
  victim : Option (Nat × Nat)
  deriving DecidableEq, Repr

/-- A partition's near-threshold state (R101), what its Ladle waits on (R144, R148), and the context of the group that last held each
block of its pool, where one did (R139). vecSeen: the vector instructions that have been seen ready to issue, by group, row and RETIRED;
vecReady: the clocks at which the last eight became so (R101). served: the group slot that each issue slot served last (R126).
left: what the registers of a block held as it was last freed, by 16 times the block and the register (R139). tlb: its cached translations,
the newest first (R170). -/
structure Part where
  nearThreshold : Bool
  windowStart : Nat
  windowIssues : Nat
  vecSeen : List (Nat × Nat × Nat)
  vecReady : List Nat
  served : List Nat
  lastFree : Nat
  holders : List (Option (BitVec 5))
  left : Sparse Lanes
  ladleFault : Option LadleFault
  tlb : List TlbEntry
  deriving DecidableEq, Repr

/-- A line of a core's L1: its context and class, the copy, and which of its bytes are dirty (R180, R181). -/
structure L1Line where
  ctx : BitVec 5
  coh : BitVec 2
  bytes : List Byte
  dirty : BitVec 128
  track : Bool
  deriving DecidableEq, Repr

/-- A record of a spawn bin: its words, and whether a traversal unit sent it for a callback (R129, R131, R298). -/
structure BinRec where
  words : List Word
  callback : Bool
  deriving DecidableEq, Repr

/-- A spawn bin (R129, R130). -/
structure Bin where
  ctx : BitVec 5
  launch : Nat
  entry : Pc
  words : Nat
  recs : List BinRec
  since : Nat
  full : Bool
  fullSince : Nat
  gdist : Bool
  deriving DecidableEq, Repr

/-- The object-space side of a traversal below an instance (R296, R301). -/
structure InstCtx where
  ray : List Word
  instId : Nat
  shaderBase : Nat
  forceOpaque : Bool
  noCull : Bool
  deriving DecidableEq, Repr

/-- A piece of traversal work: a node, its type, and the instance it lies under. -/
structure RayWork where
  node : Nat
  type : Nat
  inst : Option InstCtx
  deriving DecidableEq, Repr

/-- A candidate hit (R297, R303); t, b1 and b2 are FP32 patterns. -/
structure Hit where
  t : Word
  b1 : Word
  b2 : Word
  prim : Word
  geom : BitVec 24
  kind : BitVec 4
  front : Bool
  instId : BitVec 24
  shader : Word
  hitKind : BitVec 8
  deriving DecidableEq, Repr

/-- How a ray stands (R294, R295, R298, R299). -/
inductive RayPhase where
  | walking
  | awaiting (hit : Hit) (intersection : Bool)
  | parked (va : Nat) (kind : Nat)
  | done (words : List Word)
  deriving DecidableEq, Repr

/-- A signature and what became of it (R245, R249). -/
structure SigState where
  h : Dword
  c : Word
  n : Nat
  eligible : Bool
  deriving DecidableEq, Repr

/-- A ray-table entry in use (R294). -/
structure Ray where
  entry : Nat
  gen : BitVec 14
  ctx : BitVec 5
  launch : Nat
  group : Nat
  op : Nat
  lane : Nat
  ray : List Word
  flags : Word
  work : List RayWork
  commit : Option Hit
  phase : RayPhase
  called : Bool
  key : Option (SigState × BitVec 2)
  verify : Option MemoEntry
  since : Nat
  deriving DecidableEq, Repr

/-- One core: its allowance (1/16 AU), grant, clock and thermal ceiling, and the clock that its grant sustains (R97, R102, R103), its clocks so far, its L1, its spawn bins,
its ray table, the admission serials of its group slots (R219), the wakes of its Ladle, the one it serves first (R144), and its instruction
cache: the code words that it has fetched since a launch last started, by physical address divided by 4 (R1, R311). -/
structure Core where
  allowance : Int
  grant : Nat
  clock : Nat
  ceiling : Nat
  sustain : Nat
  clocks : Nat
  debits : Nat
  parts : List Part
  l1 : Sparse L1Line
  bins : List Bin
  rays : List Ray
  rayGen : Sparse (BitVec 14)
  serials : Sparse Word
  wakes : List Wake
  icache : List (Nat × Word)
  deriving DecidableEq, Repr

/-! ### Launches and teams (03, 05, 10, 16) -/

/-- A launch descriptor (R71). -/
structure LDesc where
  addr : Pc
  entry : Pc
  entryCons : Pc
  gridX : Nat
  gridY : Nat
  gridZ : Nat
  groups : Nat
  teamX : Nat
  teamY : Nat
  teamZ : Nat
  accBlk : Nat
  slots : Nat
  stashBlk : Nat
  frameMax : Nat
  prodGroups : Nat
  roles : Bool
  baseCons : Nat
  base : Nat
  drainLog2 : Nat
  quantumLog2 : Nat
  sched : Nat
  clFall : Nat
  clPref : Nat
  digest : Bool
  sorted : Bool
  treplay : Bool
  trec : Bool
  pclass : BitVec 2
  legacy : Bool
  idemp : Bool
  digestAddr : Pc
  coverEn : Bool
  recon : Nat
  lattice : Nat
  cover : Nat
  ctrlRec : Pc
  outSurf : Pc
  args : Pc
  hints : List (Nat × Nat)
  arenaBase : Pc
  arenaSize : Nat
  shaderTable : Pc
  codeDesc : Pc
  deriving DecidableEq, Repr

/-- An output surface (R272). -/
structure Surface where
  base : Nat
  rowPitch : Nat
  slicePitch : Nat
  depth : Nat
  height : Nat
  width : Nat
  fmt : Nat
  deriving DecidableEq, Repr

/-- An error-controller record as read at the start (R278), and the counts of the launch (R277, R280). -/
structure Cover where
  f : Nat
  fMin : Nat
  fMax : Nat
  up : Nat
  down : Nat
  target : Nat
  edgeT : BitVec 16
  errT : Word
  count : Word
  surf : Surface
  probes : Nat
  badProbes : Nat
  skipped : Nat
  computed : Nat
  clocks : Nat
  deriving DecidableEq, Repr

/-- How an arena run stands (R132). -/
inductive RunState where
  | reserved (group : Nat)
  | committed (entry : Pc) (since : Nat)
  | running (team : Nat)
  deriving DecidableEq, Repr

/-- A run of arena cells (R132). -/
structure ArenaRun where
  cell : Nat
  n : Nat
  st : RunState
  deriving DecidableEq, Repr

/-- A group's share of a deferred SPAWN or COMMIT (R133). -/
structure Deferred where
  team : Nat
  grp : Nat
  lane : Nat
  entry : Pc
  words : List Word
  callback : Bool
  commit : Option (Nat × Nat)
  deriving DecidableEq, Repr

/-- A discarded cluster, in the undispatched set again: its first team, its size, its number, and the teams of it that had not exited, by
their places in it, with how often each has been discarded (R83 to R85). -/
structure Returned where
  first : Nat
  size : Nat
  clid : Nat
  members : List (Nat × Nat)
  deriving DecidableEq, Repr

/-- Where a byte lives once translated (R163, R184, R197). -/
inductive Place where
  | phys (pa : Nat)
  | stash (team : Nat) (off : Nat)
  deriving DecidableEq, Repr

/-- One launch (R58, R71, R74, R90 to R92, R132, R215, R218). inBoundary: the order of a round boundary stands at an engine
operation (R217). heldCores: the cores that have held a team of it (R181). stuck: writes to the part's own bytes of its arena have left it unable to complete (R132). roundOld: what the bytes that its
atomics have written in this round held before (R217). -/
structure Launch where
  uid : Nat
  ctx : BitVec 5
  queue : BitVec 6
  off : BitVec 20
  tag : Word
  notify : Bool
  ld : LDesc
  desc : Desc
  frame : Option FrameState
  code : Option (Dword × Word)
  segment : Option (List (Nat × Nat))
  nextTeam : Nat
  returned : List Returned
  nextClid : Nat
  exited : Nat
  recorded : Bool
  lines : List Nat
  cover : Option Cover
  arena : List ArenaRun
  deferred : List Deferred
  bins : List Bin
  stallPosted : Bool
  spawnStall : Bool
  retired : Nat
  inBoundary : Bool
  stuck : Bool
  heldCores : Mask
  roundOld : List (Place × Byte)
  deriving DecidableEq, Repr

/-- A filled line of a stash mapping: its stash offset divided by 128, and the physical line, class and TRACK bit that it was filled with. -/
structure MapLine where
  ln : Nat
  line : Nat
  coh : BitVec 2
  track : Bool
  deriving DecidableEq, Repr

/-- A stash mapping (R186, R382): virtual base, stash offset, bytes; its filled lines; the stash offsets of its dirty bytes, and of the bytes
that a stash form has reached (R378). -/
structure StashMap where
  va : Nat
  off : Nat
  len : Nat
  filled : List MapLine
  dirty : List Nat
  spoiled : List Nat
  deriving DecidableEq, Repr

/-- How an operand slot of a team stands (R402 to R404). -/
inductive SlotState where
  | unclaimed | claimed | releasing
  deriving DecidableEq, Repr

/-- An operand slot (R399). -/
structure Slot where
  st : SlotState
  data : Sparse Byte
  deriving DecidableEq, Repr

/-- How a team stands (R85, R86, R274). draining, since: by its core's count of clocks; discarding: its groups have stopped, and its operations
in flight complete before it is discarded. -/
inductive TeamState where
  | resident
  | draining (since : Nat)
  | discarding
  | saved (addr : Nat) (bytes : Nat)
  | exited
  deriving DecidableEq, Repr

/-- An error in a word of a structure that ECC protects, which the next access to it finds (R68): of a line of a core's L1, of a stash, of a slice,
of a memo table, of an operand slot's words of 32 bits, of an accumulator store's, of an instruction cache, of a translation, of the link over which
a core leads its pair partner in an MMA (R417), or of another structure by its UNIT, INDEX, STRUCT and SUB (R70). -/
inductive SramAt where
  | l1 (core line : Nat)
  | stash (team ln : Nat)
  | slice (line : Nat)
  | memo (at_ : Nat)
  | slot (team k word : Nat)
  | acc (team word : Nat)
  | icache (core word : Nat)
  | tlb (core part page : Nat)
  | pair (core : Nat)
  | other (unit index struct sub word : Nat)
  deriving DecidableEq, Repr

/-- An SRAM error: where; whether two bits are wrong; whether the word read again fails too; and, where the state does not say it, whether memory
has a clean copy (R68). -/
structure SramErr where
  at_ : SramAt
  double : Bool
  again : Bool
  clean : Bool
  deriving DecidableEq, Repr

/-- One team that has been admitted (R73, R76, R77, R86). callback: a lane's record came from a traversal unit; handles: the handle of each such
lane (R298). unsaved: it could not be saved for want of room since it became resident (R87). barDrops: the registrations dropped at its barriers since
each last advanced, by the barrier's offset and the number that MAXREG would give the group (R210). -/
structure Team where
  uid : Nat
  launch : Nat
  ctx : BitVec 5
  index : Option Nat
  clid : Word
  clsize : Nat
  first : Nat
  core : Nat
  groups : Nat
  st : TeamState
  since : Nat
  quanta : Nat
  discards : Nat
  sideEffect : Bool
  callback : Bool
  handles : List (Option Word)
  unsaved : Bool
  stashBytes : Nat
  stash : Sparse Byte
  maps : List (Option StashMap)
  slots : List Slot
  accRows : Nat
  acc : Sparse Word
  arenaRun : Option (Nat × Nat)
  clocks : Nat
  barDrops : List (Nat × Nat)
  deriving DecidableEq, Repr

/-! ### Groups (05, 06, 08, 10, 11, 15, 16, 17) -/

/-- The class of an in-flight counter (R157). -/
inductive Cls where
  | ld | st | cp | tl
  deriving DecidableEq, Repr

/-- Why a live row is not ready (R117, R136, R216). waitOn: the classes whose counters a WAIT or WAITR waits for. -/
inductive Wait where
  | none | join | waitOn (cs : List Cls) | barWait | barArrive | osEnter | claim | mwait | spawn | alloc | counter
  | release | trapFrame | unit | rays | tile | probe | flush | late | purge
  deriving DecidableEq, Repr

/-- A split row (R114); MASK, OWN and PC as the table gives; stopped: at trap entry (R121). -/
structure Row where
  live : Bool
  pc : Pc
  mask : Mask
  own : Mask
  parent : Nat
  fmt : Word
  wait : Wait
  stopped : Bool
  deriving DecidableEq, Repr

/-- A family (R114). -/
structure Family where
  used : Bool
  jpc : Pc
  up : Nat
  sfmt : Word
  deriving DecidableEq, Repr

/-- A serial record (R114). -/
structure Serial where
  owner : Nat
  dmask : Mask
  down : Mask
  dpc : Pc
  jpc : Pc
  phase : Bool
  smask : Mask
  sown : Mask
  deriving DecidableEq, Repr

/-- An open hardware loop (R123, R342, R343). -/
structure LoopRec where
  start : Pc
  stop : Pc
  sdepth : Nat
  deriving DecidableEq, Repr

/-- A frame record (R140), with the time it was created (R145), and where and when its spill image was written (R147). -/
structure Frame where
  first : Nat
  blks : Nat
  init : Nat
  args : Nat
  swb : Nat
  rpc : Pc
  spilled : Bool
  born : Nat
  image : Option (Nat × Nat)
  deriving DecidableEq, Repr

/-- An entry of the block map (R137). -/
inductive Block where
  | unmapped
  | resident (phys : Nat)
  | spilled
  deriving DecidableEq, Repr

/-- The state of a trap handler (R151, R435 to R438): the trap frame's sixteen registers, the carried flags, and the operations that were in
flight at trap entry, whose flags are carried. -/
structure Handler where
  frame : Sparse Lanes
  carried : BitVec 3
  before : List Nat
  families : List Family
  serials : Nat
  deriving DecidableEq, Repr

/-- A late write bound to its register (R158): a lane of a vector register (logical 0 to 255, trap frame 1024 to 1039) or an
absolute scalar register. contested: an instruction wrote the destination before it landed; landed, and prev, what it
replaced (R160). -/
structure LateWrite where
  vec : Bool
  reg : Nat
  lane : Nat
  value : Word
  contested : Bool
  landed : Bool
  prev : Word
  deriving DecidableEq, Repr

/-- How a translated byte is treated: class, CACHE, TRACK, MEMO and HOME bits of its leaf (R166). -/
structure Attr where
  coh : BitVec 2
  cache : BitVec 2
  track : Bool
  memo : Bool
  near : Bool
  deriving DecidableEq, Repr

/-- A byte to be written: its virtual address (2^63 and more for one reached by stash offset), its place, its attributes, its value. -/
structure ByteWrite where
  va : Nat
  place : Place
  attr : Attr
  val : Byte
  deriving DecidableEq, Repr

/-- One lane's part of an atomic (R379, R380). -/
structure AtomLane where
  lane : Nat
  va : Nat
  place : Place
  attr : Attr
  a : Nat
  b : Nat
  deriving DecidableEq, Repr

/-- What an error indication leaves to raise at a boundary (R373). -/
structure ErrInfo where
  va : Nat
  lanes : Mask
  deriving DecidableEq, Repr

/-- An engine operation: what it still has to do (R188, R390 to R393, R405, R414). -/
inductive Engine where
  | copy (regs : List Word) (twoD fill : Bool) (mod : BitVec 8)
  | tload (regs : List Word) (mod : BitVec 8) (fmt : Word)
  | accst (regs : List Word) (mod : BitVec 8) (fmt : Word)
  deriving DecidableEq, Repr

/-- A matrix stream operation (R400). -/
inductive Stream where
  | mma (base a b : Nat) (mod : BitVec 8) (fmt : Word)
  | had (slot count : Nat) (mod : BitVec 8) (fmt : Word)
  | accz (row count : Nat)
  | accrd (d : Nat) (row : Nat) (mask : Mask) (mod : BitVec 8) (fmt : Word)
  deriving DecidableEq, Repr

/-- A deferred barrier operation of a deterministic round (R217). -/
inductive BarOp where
  | join (loc : Nat × Nat) (xteam : Bool)
  | arrive (loc : Nat × Nat) (drop : Bool) (pc : Nat)
  | expect (loc : Nat × Nat) (n : Word)
  | drop (loc : Nat × Nat)
  deriving DecidableEq, Repr

/-- What an in-flight operation does. -/
inductive OpBody where
  /-- its late writes stand in Op.late -/
  | load (err : Option ErrInfo)
  | store (writes : List ByteWrite) (err : Option ErrInfo)
  | atomic (op : Nat) (w64 : Bool) (dest : List Nat) (lanes : List AtomLane)
  /-- write-back and invalidation of a virtual range, or of a stash mapping (R383, R384) -/
  | clean (lo hi : Nat) (inval : Bool)
  | unmap (m : Nat)
  /-- a mapping that a deterministic round installs at its boundary (R397) -/
  | map (m va off len : Nat)
  | expect (loc : Nat × Nat) (n : Word)
  | trace (dest : Nat)
  | reserve (dest : Nat) (n : Nat)
  /-- an engine operation and the destination bytes that have landed -/
  | engine (e : Engine) (pos : Nat)
  | stream (m : Stream)
  | bar (b : BarOp)
  deriving DecidableEq, Repr

/-- An operation of a group, oldest first in Group.ops, kept until it is done and covered (R159). dests: the registers its
late writes name; late: those writes, once known; perf: its result is complete; done: its count has fallen (R157); deferred: to the round boundary (R217);
batch: its stream batch (R409); paused: on a fault, its kind and address, and whether it writes there (R175); buf: the source bytes of a strip that
a tile load has read (R175, R405); ord: ORD and ASCOPE of an atomic (R192); flags: UF, OF, NV it raised; acq: the scope
of the acquire that follows it, 0 for none (R380); err: the lanes of an atomic that have failed (R373). -/
structure Op where
  uid : Nat
  cls : Option Cls
  body : OpBody
  dests : List (Bool × Nat)
  late : List LateWrite
  perf : Bool
  done : Bool
  deferred : Bool
  batch : Option Nat
  paused : Option (Nat × Nat × Bool)
  buf : List Byte
  ord : Nat
  flags : BitVec 3
  acq : Nat
  err : Option ErrInfo
  deriving DecidableEq, Repr

/-- An entry of the barrier registration table (R208): stash of which team, offset, the phase of the last arrival. -/
structure BarReg where
  team : Nat
  off : Nat
  last : Option (BitVec 16)
  deriving DecidableEq, Repr

/-- A row that blocks in BAR.WAIT: the barrier's team and offset, the phase that it was given, and whether PHASE has left it since (R214). -/
structure BarWait where
  row : Nat
  team : Nat
  off : Nat
  phase : Nat
  passed : Bool
  deriving DecidableEq, Repr

/-- STATE of a pure region (R255). -/
inductive RegionState where
  | closed | opened | probed
  deriving DecidableEq, Repr

/-- The pure region of a group (R255, R262). t0: T0, by the clocks of the core that the group is on; spent: the cycles from T0 until it came to that
core. regions: by lane, the 64 KiB virtual regions whose generations it has absorbed. -/
structure Region where
  st : RegionState
  rid : Word
  rset : Mask
  sigs : List SigState
  ltol : List (BitVec 2)
  miss : Mask
  ver : Mask
  vstore : List (Nat × MemoEntry)
  preg : Nat
  pw : Nat
  quad : Bool
  t0 : Nat
  spent : Nat
  vcount : Word
  vwritten : List Nat
  swritten : List Nat
  regions : List (Nat × Nat)
  deriving DecidableEq, Repr

/-- A lane that holds a key, with its sequence number (R289). -/
structure HeldLane where
  lane : Nat
  key : Dword
  seq : Word
  poison : Bool
  deriving DecidableEq, Repr

/-- An OSENTER under way: which row, at which PC, which lanes have entered, which wait at their homes (R289). -/
structure Entering where
  row : Nat
  pc : Pc
  lanes : List HeldLane
  waiting : List HeldLane
  deriving DecidableEq, Repr

/-- A parked access of a group (R173): kind, agent, whether it writes, address, faulting lanes, the row, whether a fetch, its fault entry's
FAULT_ID, and FAULT_ACTION 2. -/
structure Parked where
  kind : Nat
  agent : Nat
  write : Bool
  va : Nat
  lanes : Mask
  row : Nat
  fetch : Bool
  entry : Option Word
  convert : Bool
  deriving DecidableEq, Repr

/-- A trap to be taken at an instruction boundary (R435), or one that waits for a trap frame (R151): cause, DETAIL, VA, LANES;
the row, where one must take it; INSN and ELECTED of the record (R436). -/
structure Pending where
  cause : Nat
  detail : Word
  va : Nat
  lanes : Mask
  row : Option Nat
  insn : Word
  elected : Nat
  deriving DecidableEq, Repr

/-- A release, an acquire, or both, at a scope, that a group has issued and that has not completed (R201, R385). -/
structure Fence where
  scope : Nat
  rel : Bool
  acq : Bool
  deriving DecidableEq, Repr

/-- A pending allocation request of a group (R142, R143). -/
structure AllocReq where
  blocks : Nat
  since : Nat
  granted : Bool
  exhausted : Bool
  deriving DecidableEq, Repr

/-- One group (R110, R114, R137 to R161, R202, R208, R215, R255, R289). pclassNow: its PCLASS as the core clock under way began (R94).
roundOwn: the bytes that its atomics have written in this round (R217). fence: the release or acquire that its later memory-slot instructions wait
for (R385). sysRels: the releases at system scope that the boundary of its round makes (R397). -/
structure Group where
  uid : Nat
  team : Nat
  launch : Nat
  ctx : BitVec 5
  gid : Nat
  core : Nat
  part : Nat
  slot : Nat
  born : Nat
  codeHi : BitVec 17
  rows : List Row
  fams : List Family
  serials : List Serial
  forceSerial : Bool
  lc : List Word
  loops : List LoopRec
  frames : List Frame
  wb : Nat
  blockMap : List Block
  vregs : Sparse Lanes
  sregs : Sparse Word
  swb : Nat
  handler : Option Handler
  pclass : BitVec 2
  pclassNow : BitVec 2
  clock0 : Int
  retired : Nat
  cycLatch : Word
  retLatch : Word
  randKey : Dword
  randCtr : Dword
  ops : List Op
  nb : Nat
  bars : List BarReg
  phases : List Nat
  region : Region
  held : List (List HeldLane)
  entering : List Entering
  spin : Option Nat
  parked : Option Parked
  pending : List Pending
  alloc : Option AllocReq
  roundRetired : Nat
  spawnWait : Nat
  exiting : Bool
  stopped : Bool
  answers : List (Nat × List Word)
  barWaits : List BarWait
  roundOwn : List (Place × Byte)
  fence : Option Fence
  sysRels : Nat
  deriving DecidableEq, Repr

/-! ### The model's own order of steps -/

/-- One turn: the split that issues next (group and row), a step of the part or of the host, a read of BAR 0 by the host (R44), a configuration
request that arrives (R24) or an error that arises in an SRAM word (R68), which the opcode table does not list (logs 2, 72, 81, 92). -/
inductive Turn where
  | issue (group row : Nat)
  | event (i : Instr)
  | hostRead (off : BitVec 26) (n : BitVec 8)
  | hostAsk (req : CfgReq)
  | sramError (e : SramErr)
  deriving DecidableEq, Repr

/-- The model's own fields (log 2): the turns to come, the split that holds the turn, the counter of the free values, and the
next unique number. -/
structure Sched where
  agenda : List Turn
  cur : Option (Nat × Nat)
  tick : Nat
  nextUid : Nat
  deriving DecidableEq, Repr

/-- The whole part. -/
structure State where
  boot : Boot
  dev : Dev
  host : HostSide
  ctxs : List Context
  queues : List Queue
  fcp : Fcp
  gov : Gov
  dram : Dram
  slices : Slices
  sram : List SramErr
  cores : List Core
  launches : List Launch
  teams : List Team
  groups : List Group
  sched : Sched
  deriving DecidableEq, Repr

/-- Why the machine stops. -/
inductive Fault where
  /-- Raised by an instruction of a split in a state in which no live split holds the turn (sched.cur names none). Safe: the
  spec gives an instruction an effect only for the split that issues it (R115, R322); step never runs one otherwise. -/
  | noIssuer
  deriving DecidableEq, Repr

/-- Why the machine has no meaning for an instruction. -/
inductive Refusal where
  /-- Raised by the dispatch for an instruction that is not modelled yet. Safe: the model stops. -/
  | notModelled (mnemonic : String)
  deriving DecidableEq, Repr

/-! ### Reset -/

/-- The TAP controller at power-up (log 22). -/
def Tap.reset : Tap :=
  { st := .testLogicReset, tck := false, tdi := false, tms := true, trstN := true, ir := [], inst := List.replicate Config.irBits true, dr := [],
    cells := List.replicate Config.scanCells false, tdo := none }

/-- Rails up and PERST_N low (R23 step 3). -/
def Boot.reset : Boot :=
  { phase := .perstLow, linkUp := false, linkDead := false, d3hot := false, clkreqLow := true, thermAlert := false,
    thermTrip := false, aerCorrectable := 0, aerNonfatal := 0, aerFatal := 0, configAnswer := .none, asks := [], pmbAlert := 0,
    tap := Tap.reset }

/-- An MSI-X vector at reset: masked (log 23). -/
def MsixEntry.reset : MsixEntry := { addr := 0, data := 0, masked := true, pending := false }

/-- The Reset column of R47. -/
def Dev.reset : Dev :=
  { stepping := 0x01, part := 0x9600, isaMajor := 1, isaMinor := 0, ready := false, degraded := false, bootErr := 0, memRate := 0, fwBuild := 0, chanFail := 0, apertureBase := 0,
    ctxTable := 0, capW := 320, lastRefusal := 0, capPending := false, capInForce := 320, evqBase := 0, evqEnable := false,
    evqLog2 := 6, evqHead := 0, evqTail := 0, evqDropped := 0, evqLost := 0, errHead := 0, errTail := 0, errTransient := 0,
    errLasting := 0, errDropped := 0, coreExclude := 0, wayExclude := List.replicate 16 0, bar0 := 0, bar2 := 0, bar4 := 0, bar2Log2 := 28, errLog := [],
    msix := List.replicate 64 MsixEntry.reset }

/-- The host's side before anything was sent (log 1). -/
def HostSide.reset : HostSide := { mem := [], msixSent := [], readData := [], poisoned := false, unsupported := false, attrs := [] }

/-- No descriptor is in force while a context is OFF (log 3). -/
def Desc.reset : Desc :=
  { transRoot := 0, trapEntry := 0, spillBase := 0, spillStride := 0, saveBase := 0, saveSize := 0, cmdWinBase := 0,
    cmdWinSize := 0, statusBase := 0, raceLogBase := 0, raceLogSize := 0, powerAdmin := false, evVector := 0,
    powerFloorW := 0, coreShare := 0, priority := 0, frameNs := false, frameRo := false, purityCheck := false, raceMode := 0,
    hazardCheck := false, verifyRate := 0, memo := false, roundQ := 0, det := false, ratioSet := 0, ratioLock := false,
    legacyRzCvt := false, legacyFtz := false, legacy := false }

/-- The status record at ENABLE (R53). -/
def Status.reset : Status :=
  { poisoned := false, osStall := false, stall := false, withheld := false, spills := 0, refills := 0, memoChecked := 0,
    memoMismatch := 0 }

/-- A context at reset: OFF, REFUSAL 0 (R51). -/
def Context.reset : Context :=
  { st := .off, refusal := 0, desc := Desc.reset, frame := none, recTrace := none, repTrace := none, status := Status.reset,
    lostReported := false, statusDue := false, raceWritten := 0, raceDropped := 0, credits := 0, withheldFor := [], withheldCores := 0,
    issuedOn := 0, heldCores := 0, debited := 0, coreClocks := 0, served := 0 }

/-- A queue at reset (R54). -/
def Queue.reset : Queue :=
  { base := 0, enable := false, log2 := 12, cause := 0, st := .off, head := 0, tail := 0, done := 0, running := [],
    sem := none }

/-- The command processors at reset. -/
def Fcp.reset : Fcp :=
  { faults := [], nextFaultId := 0, capReqs := [], evStore := [], evSeq := 0, errSeq := 0, transientPosted := false,
    keptUsed := false }

/-- The governor at reset: VDD_CORE 0.75 V (R22), fabric 1.30 GHz (R1, R108). -/
def Gov.reset : Gov := { period := 0, vddCore := 750, fabricClk := 1040, memRate := 0, temps := List.replicate 48 0 }

/-- A channel at reset. -/
def Chan.reset : Chan := { selfRefresh := false, used := false, hot := false, refreshes := 0, recentres := 0 }

/-- DRAM after reset: nothing listed (R26, log 1). -/
def Dram.reset : Dram :=
  { mem := ⟨[]⟩, chans := List.replicate 32 Chan.reset, bad := [], written := [], shadow := [] }

/-- The slices at reset (R250, R252, R288). -/
def Slices.reset : Slices := { dir := [], tlb := [], memoMsgs := [], memo := [], memoLru := [], homes := [], osHomes := [], osMsgs := [], osStalled := [] }

/-- A partition at reset. -/
def Part.reset : Part :=
  { nearThreshold := false, windowStart := 0, windowIssues := 0, vecSeen := [], vecReady := [],
    served := List.replicate 3 (Config.slotsPerPartition - 1), lastFree := 0, holders := List.replicate Config.poolBlocks none, left := [], ladleFault := none, tlb := [] }

/-- A core at reset: thermal ceiling 1.65 GHz (R103); no grant has limited its clock yet (log 91). -/
def Core.reset : Core :=
  { allowance := 0, grant := 0, clock := 0, ceiling := 1320, sustain := 1320, clocks := 0, debits := 0,
    parts := List.replicate 4 Part.reset, l1 := [], bins := [], rays := [], rayGen := [], serials := [], wakes := [], icache := [] }

/-- No turn waits and no split issues. -/
def Sched.reset : Sched := { agenda := [], cur := none, tick := 0, nextUid := 0 }

/-- The machine right after reset: rails up, PERST_N low, every register of R47, R51 and R54 at its Reset column. -/
def State.reset : State :=
  { boot := Boot.reset, dev := Dev.reset, host := HostSide.reset, ctxs := List.replicate 32 Context.reset,
    queues := List.replicate 64 Queue.reset, fcp := Fcp.reset, gov := Gov.reset, dram := Dram.reset, slices := Slices.reset, sram := [],
    cores := List.replicate Config.cores Core.reset, launches := [], teams := [], groups := [], sched := Sched.reset }

end Sys2Proof.Machine
end

