-- ==== Sys2Proof/Machine/Store.lean ====
section
/-! DEFINITION. Sparse maps, physical bytes in canonical form, and the accessors of the state's lists: groups, teams and
launches by their unique numbers, cores, contexts and queues by their indexes. -/

namespace Sys2Proof.Machine

/-! ### Sparse maps -/

/-- Read a key; a key not listed reads d. -/
def sget {α : Type} (d : α) : Sparse α → Nat → α
  | [], _ => d
  | (k', v) :: r, k => if k' = k then v else sget d r k

/-- Insert or replace a key in a rising list. -/
def sput {α : Type} (k : Nat) (v : α) : Sparse α → Sparse α
  | [] => [(k, v)]
  | (k', v') :: r => if k' = k then (k, v) :: r else if k < k' then (k, v) :: (k', v') :: r else (k', v') :: sput k v r

/-- Remove a key. -/
def sdel {α : Type} (k : Nat) : Sparse α → Sparse α
  | [] => []
  | (k', v') :: r => if k' = k then sdel k r else (k', v') :: sdel k r

/-- Write a key; writing the default removes the entry. -/
def sset {α : Type} [DecidableEq α] (d : α) (k : Nat) (v : α) (m : Sparse α) : Sparse α :=
  if v = d then sdel k m else sput k v m

/-- Keys strictly rising, all above a bound, no entry equal to the default. -/
def swfFrom {α : Type} [DecidableEq α] (d : α) (lo : Nat) : Sparse α → Bool
  | [] => true
  | (k, v) :: r => decide (lo ≤ k) && decide (v ≠ d) && swfFrom d (k + 1) r

/-- The canonical form of a sparse map. -/
def swf {α : Type} [DecidableEq α] (d : α) (m : Sparse α) : Bool := swfFrom d 0 m

/-! ### Physical memory (R26, R31, R45, R164; log 1) -/

/-- What a byte of memory that nothing has written reads as (log 1). -/
def unlistedByte : Byte := 0#8

/-- The canonical form of the memory list. -/
def Memory.wf (m : Memory) : Bool := swf unlistedByte m.cells

/-- One byte of DRAM. -/
def Memory.read (m : Memory) (a : Nat) : Byte := sget unlistedByte m.cells a

/-- Write one byte of DRAM. -/
def Memory.write (m : Memory) (a : Nat) (b : Byte) : Memory := ⟨sset unlistedByte a b m.cells⟩

/-- One byte of DRAM of a state: the read that statements about memory use. -/
def State.dramByte (s : State) (a : Nat) : Byte := s.dram.mem.read a

/-! ### Lists of the state -/

/-- The group with a unique number. -/
def State.group (s : State) (uid : Nat) : Option Group := s.groups.find? (fun g => g.uid == uid)
/-- The team with a unique number. -/
def State.team (s : State) (uid : Nat) : Option Team := s.teams.find? (fun t => t.uid == uid)
/-- The launch with a unique number. -/
def State.launch (s : State) (uid : Nat) : Option Launch := s.launches.find? (fun l => l.uid == uid)

/-- Change one group. -/
def State.modGroup (s : State) (uid : Nat) (f : Group → Group) : State :=
  { s with groups := s.groups.map fun g => if g.uid = uid then f g else g }
/-- Change one team. -/
def State.modTeam (s : State) (uid : Nat) (f : Team → Team) : State :=
  { s with teams := s.teams.map fun t => if t.uid = uid then f t else t }
/-- Change one launch. -/
def State.modLaunch (s : State) (uid : Nat) (f : Launch → Launch) : State :=
  { s with launches := s.launches.map fun l => if l.uid = uid then f l else l }

/-- A core by its number. -/
def State.core (s : State) (k : Nat) : Core := s.cores.getD k Core.reset
/-- Change one core. -/
def State.modCore (s : State) (k : Nat) (f : Core → Core) : State := { s with cores := s.cores.modify k f }
/-- A context by its number. -/
def State.ctx (s : State) (c : BitVec 5) : Context := s.ctxs.getD c.toNat Context.reset
/-- Change one context. -/
def State.modCtx (s : State) (c : BitVec 5) (f : Context → Context) : State := { s with ctxs := s.ctxs.modify c.toNat f }
/-- A queue by its number. -/
def State.queue (s : State) (q : BitVec 6) : Queue := s.queues.getD q.toNat Queue.reset
/-- Change one queue. -/
def State.modQueue (s : State) (q : BitVec 6) (f : Queue → Queue) : State := { s with queues := s.queues.modify q.toNat f }
/-- Change one partition of a core. -/
def State.modPart (s : State) (k p : Nat) (f : Part → Part) : State :=
  s.modCore k fun c => { c with parts := c.parts.modify p f }

/-- The context of a queue (R54). -/
def queueCtx (q : BitVec 6) : BitVec 5 := q.extractLsb' 1 5

/-- A fresh unique number. -/
def State.fresh (s : State) : Nat × State :=
  (s.sched.nextUid, { s with sched := { s.sched with nextUid := s.sched.nextUid + 1 } })

/-- Add a turn at the end of the agenda. -/
def State.enqueue (s : State) (t : Turn) : State :=
  { s with sched := { s.sched with agenda := s.sched.agenda ++ [t] } }

/-- The descriptor fields a group's launch started with (R58). -/
def State.descOf (s : State) (g : Group) : Desc :=
  match s.launch g.launch with
  | some l => l.desc
  | none => (s.ctx g.ctx).desc

/-- The queue of a group's LAUNCH (R64). -/
def State.queueOf (s : State) (g : Group) : BitVec 8 :=
  match s.launch g.launch with
  | some l => l.queue.setWidth 8
  | none => 0xFF

/-- The group's team is on its core: it is not saved (R86). -/
def State.onCore (s : State) (g : Group) : Bool :=
  match s.team g.team with
  | some t => match t.st with
    | .saved _ _ => false
    | _ => true
  | none => true

/-! ### Free values (log 2) -/

/-- Sites at which a free value is taken, so that no two uses of one step share one. -/
inductive Site where
  | read | landing | own | block | slot | stash | l1 | tlb | evict | copy | order | arena | ecc | nan | probe | other | icache | merge | atom
  deriving DecidableEq, Repr

/-- The index of a free value: its site and a number. -/
def Site.idx (t : Site) (n : Nat) : Nat := n * 32 + t.ctorIdx

/-- A free choice between two outcomes. -/
def State.freeBit (s : State) (t : Site) (n : Nat) : Bool := Config.freeBit s.sched.tick (t.idx n)
/-- A free choice among k + 1 outcomes. -/
def State.freeNat (s : State) (t : Site) (n k : Nat) : Nat := Config.freeNat s.sched.tick (t.idx n) % (k + 1)
/-- A free 32-bit value. -/
def State.freeWord (s : State) (t : Site) (n : Nat) : Word := Config.freeWord s.sched.tick (t.idx n)
/-- A free byte. -/
def State.freeByte (s : State) (t : Site) (n : Nat) : Byte := (s.freeWord t n).extractLsb' 0 8

end Sys2Proof.Machine
end

