-- ==== Sys2Proof/Machine/Ratio.lean ====
section
/-! DEFINITION. Which cores hold teams (R79, R94), and the locked clock ratios that a context's teams impose (R107, R108). Clocks are counted in
steps of 1.25 MHz (R95). -/

namespace Sys2Proof.Machine

/-- A core holds a team of the launch (R181). -/
def Launch.holds (l : Launch) (core : Nat) : Launch := { l with heldCores := l.heldCores ||| 1#96 <<< core }

/-! ### Teams on cores -/

/-- The team holds stash, slots and accumulator rows of its core: it is resident there (R79). -/
def Team.holds (t : Team) : Bool :=
  match t.st with
  | .resident => true
  | .draining _ => true
  | .discarding => true
  | _ => false

/-- A core has a resident team. -/
def State.coreHasTeam (s : State) (core : Nat) : Bool := s.teams.any fun t => t.core == core && t.holds

/-- Cores on which a team of a launch is resident. -/
def State.coresOf (s : State) (launch : Nat) : List Nat :=
  (List.range Config.cores).filter fun k => s.teams.any fun t => t.launch == launch && t.core == k && t.holds

/-- Teams of a launch (R72). -/
def LDesc.teams (d : LDesc) : Nat := d.gridX * d.gridY * d.gridZ

/-- Every team of the launch's grid has been dispatched, and none has been given back. -/
def Launch.dispatched (l : Launch) : Bool :=
  l.returned.isEmpty && (match l.segment with
    | some r => r.isEmpty
    | none => l.nextTeam == l.ld.teams)

/-! ### Locked clock ratios (R107, R108) -/

/-- The rows of R107: core clock and fabric clock by set and by the code of the memory rate, 1 to 5; zeros where there is none. -/
def ratioRow (set rate : Nat) : Nat × Nat :=
  ([[(293, 231), (586, 462), (880, 694), (1100, 866), (1320, 1040)], [(267, 231), (534, 462), (800, 694), (1000, 866), (1200, 1040)],
    [(299, 256), (598, 512), (896, 768), (1120, 960), (0, 0)], [(277, 277), (554, 554), (832, 832), (1040, 1040), (0, 0)],
    [(320, 267), (640, 534), (960, 800), (0, 0), (0, 0)], [(293, 293), (586, 586), (880, 880), (0, 0), (0, 0)],
    [(360, 320), (720, 640), (0, 0), (0, 0), (0, 0)], [(320, 320), (640, 640), (0, 0), (0, 0), (0, 0)]].getD set []).getD (rate - 1) (0, 0)

/-- A launch of a locked context (R57, R107). -/
def Launch.locked (l : Launch) : Bool := l.desc.legacy && l.desc.ratioLock

/-- The locked launches with resident or ready teams, the one that the part follows first: highest PRIORITY, then lowest context (R108). -/
def State.lockedLaunch (s : State) : Option Launch :=
  (s.launches.filter fun l => l.locked && (!l.dispatched || s.teams.any fun t => t.launch == l.uid)).foldl (fun m l =>
    match m with
    | none => some l
    | some b => if b.desc.priority.toNat < l.desc.priority.toNat || (b.desc.priority == l.desc.priority && decide (l.ctx.toNat < b.ctx.toNat))
        then some l else some b) none

/-- The highest row of a set at or below a memory rate whose core clock is within a limit; else the lowest (R107). -/
def rowFor (set rate limit : Nat) : Nat :=
  (((List.range rate).map (· + 1)).filter fun r => (ratioRow set r).1 != 0 && decide ((ratioRow set r).1 ≤ limit)).getLast?.getD 1

/-- The row of a locked launch at or below a memory rate: every core that holds it permits its clock, by its thermal ceiling and its grant
(R107). -/
def State.rowOf (s : State) (l : Launch) (rate : Nat) : Nat :=
  rowFor l.desc.ratioSet.toNat rate ((s.coresOf l.uid).foldl (fun m k => min m (min (s.core k).ceiling (s.core k).sustain)) 1320)

/-- A core runs a locked launch. -/
def State.lockedOn (s : State) (core : Nat) : Option Launch :=
  s.launches.find? fun l => l.locked && (s.coresOf l.uid).contains core

/-- The clock of a core that a locked launch imposes: that of its row at the memory rate in use, or of a lower one (R107). -/
def State.lockedClock (s : State) (l : Launch) : Nat := (ratioRow l.desc.ratioSet.toNat (s.rowOf l s.gov.memRate.toNat)).1

/-- The fabric clock and the memory rate follow the locked launch, or return to 1.30 GHz and the trained rate; the cores of locked launches
take the clocks of their rows (R107, R108). -/
def State.followRatio (s : State) : State :=
  let s1 : State := match s.lockedLaunch with
    | none => { s with gov := { s.gov with fabricClk := 1040, memRate := s.dev.memRate } }
    | some l =>
        let r := s.rowOf l s.dev.memRate.toNat
        { s with gov := { s.gov with fabricClk := (ratioRow l.desc.ratioSet.toNat r).2, memRate := BitVec.ofNat 8 r } }
  { s1 with cores := s1.cores.zipIdx.map fun p : Core × Nat =>
      (match s1.lockedOn p.2 with
       | some l => { p.1 with clock := s1.lockedClock l }
       | none => p.1) }

/-- The set of a locked launch has a row at the present memory rate and fabric clock (R108). -/
def State.ratioRuns (s : State) (l : Launch) : Bool :=
  !l.locked || ((ratioRow l.desc.ratioSet.toNat s.gov.memRate.toNat).2 == s.gov.fabricClk && s.gov.memRate != 0)

end Sys2Proof.Machine
end

