-- ==== Sys2Proof/Machine/Regs.lean ====
section
/-! DEFINITION. A group's registers: the two windows (R138, R151, R152), the mask registers (R115), late writes that are
pending (R158 to R160), the in-flight counters (R157). Every read and write of a register goes through here. -/

namespace Sys2Proof.Machine

/-! ### Rows -/

/-- A row that is not live. -/
def Row.free : Row :=
  { live := false, pc := 0, mask := 0, own := 0, parent := 7, fmt := 0, wait := .none, stopped := false }

/-- Row k of the split table. -/
def Group.row (g : Group) (k : Nat) : Row := g.rows.getD k Row.free
/-- Change row k. -/
def Group.modRow (g : Group) (k : Nat) (f : Row → Row) : Group := { g with rows := g.rows.modify k f }
/-- The live rows' numbers. -/
def Group.liveRows (g : Group) : List Nat := (List.range 4).filter fun k => (g.row k).live
/-- The issuing row is the only live row (R120). -/
def Group.single (g : Group) : Bool := g.liveRows.length ≤ 1

/-! ### Frames -/

/-- A frame record of no blocks. -/
def Frame.empty : Frame :=
  { first := 0, blks := 0, init := 0, args := 0, swb := 0, rpc := 0, spilled := false, born := 0, image := none }
/-- The current frame: the frame stack holds it first (R140). -/
def Group.cur (g : Group) : Frame := g.frames.headD Frame.empty
/-- HELD: logical blocks held (R138, R140). -/
def Group.heldBlocks (g : Group) : Nat := g.cur.first + g.cur.blks
/-- Frame records on the stack (R155). -/
def Group.depth (g : Group) : Nat := g.frames.length

/-! ### Register numbers -/

/-- The register that operand vn names: logical register WB + n, or in a handler the trap frame's registers, numbered from
1024, for v0 to v15 and WB + n - 16 above them (R138, R151). -/
def Group.vreg (g : Group) (n : Nat) : Nat :=
  match g.handler with
  | some _ => if n < 16 then 1024 + n else g.wb + (n - 16)
  | none => g.wb + n

/-- The register exists: it lies below 16 × HELD, or in the trap frame (R138, R151). -/
def Group.vregOk (g : Group) (l : Nat) : Bool := if 1024 ≤ l then g.handler.isSome else decide (l < 16 * g.heldBlocks)

/-- The absolute register that operand sn names (R152). -/
def Group.sreg (g : Group) (n : Nat) : Nat := if n < 8 then n else g.swb + (n - 8)

/-! ### Contents -/

/-- The contents of a vector register. -/
def Group.vraw (g : Group) (l : Nat) : Lanes :=
  if 1024 ≤ l then
    match g.handler with
    | some h => sget zeroLanes h.frame (l - 1024)
    | none => zeroLanes
  else sget zeroLanes g.vregs l

/-- Replace the contents of a vector register. -/
def Group.vput (g : Group) (l : Nat) (v : Lanes) : Group :=
  if 1024 ≤ l then
    match g.handler with
    | some h => { g with handler := some { h with frame := sset zeroLanes (l - 1024) v h.frame } }
    | none => g
  else { g with vregs := sset zeroLanes l v g.vregs }

/-- The contents of an absolute scalar register. -/
def Group.sraw (g : Group) (k : Nat) : Word := sget 0 g.sregs k
/-- Replace the contents of an absolute scalar register. -/
def Group.sput (g : Group) (k : Nat) (v : Word) : Group := { g with sregs := sset 0 k v g.sregs }

/-- A lane of a register's contents. -/
def laneOf (v : Lanes) (i : Nat) : Word := v.getD i 0

/-- The lanes of a result: f in the lanes of a mask, the old contents elsewhere (R111). -/
def mergeLanes (mask : Mask) (old : Lanes) (f : Nat → Word) : Lanes :=
  (List.range 96).map fun i => if mask.getLsbD i then f i else laneOf old i

/-- The active lanes of a mask, ascending. -/
def lanesOf (mask : Mask) : List Nat := (List.range 96).filter fun i => mask.getLsbD i

/-! ### Pending destinations (R158 to R161) -/

/-- Some operation of the group that is not covered names the register as a late destination. -/
def Group.isPending (g : Group) (vec : Bool) (l : Nat) : Bool := g.ops.any fun o => o.dests.contains (vec, l)

/-- The late writes, known so far, to one lane of a register. -/
def Group.lateTo (g : Group) (vec : Bool) (l i : Nat) : List LateWrite :=
  g.ops.flatMap fun o => o.late.filter fun w => w.vec == vec && w.reg == l && w.lane == i

/-- What a read of one lane may return besides the contents: the value of a late write, and where it has landed the value it
replaced (R160). -/
def lateChoices (ws : List LateWrite) : List Word := ws.flatMap fun w => if w.landed then [w.value, w.prev] else [w.value]

/-- The late writes to one lane of a register that have landed and are the last of their class to do so: what a write of the lane may leave
instead of its own result (R160). -/
def Group.lastLanded (g : Group) (vec : Bool) (l i : Nat) : List Word :=
  [Cls.ld, Cls.tl].filterMap fun c =>
    ((g.ops.flatMap fun o => o.late.filter fun w => o.cls == some c && w.vec == vec && w.reg == l && w.lane == i && w.landed).getLast?).map (·.value)

/-- A read of one lane of a pending register: a free choice (R160). -/
def Group.readLane (s : State) (g : Group) (vec : Bool) (l i : Nat) (cur : Word) : Word :=
  match lateChoices (g.lateTo vec l i) with
  | [] => cur
  | c :: cs => (cur :: c :: cs).getD (s.freeNat .read (l * 128 + i) (cs.length + 1)) cur

/-- The 96 lanes that an instruction reads from operand vn. -/
def Group.readV (s : State) (g : Group) (n : Nat) : Lanes :=
  if g.isPending true (g.vreg n) then
    (List.range 96).map fun i => g.readLane s true (g.vreg n) i (laneOf (g.vraw (g.vreg n)) i)
  else g.vraw (g.vreg n)

/-- The mask word k of a mask (R110). -/
def maskWord (m : Mask) (k : Nat) : Word := m.extractLsb' (32 * k) 32

/-- Replace mask word k. -/
def setMaskWord (m : Mask) (k : Nat) (v : Word) : Mask :=
  (m &&& ~~~((0xFFFFFFFF#96) <<< (32 * k))) ||| ((v.setWidth 96) <<< (32 * k))

/-- What an instruction of row k reads from operand sn (R152, R331). -/
def Group.readS (s : State) (g : Group) (k n : Nat) : Word :=
  if n < 3 then maskWord (g.row k).mask n
  else if g.isPending false (g.sreg n) then g.readLane s false (g.sreg n) 0 (g.sraw (g.sreg n))
  else g.sraw (g.sreg n)

/-- A scalar pair sn:n+1 (R316). -/
def Group.readS64 (s : State) (g : Group) (k n : Nat) : Dword := g.readS s k (n + 1) ++ g.readS s k n

/-- An instruction writes some lanes of a register, its own results given: the late writes to them that have not landed are contested, and those
that have landed replace its result (R160). -/
def contest (vec : Bool) (l : Nat) (mask : Mask) (own : Nat → Word) (ops : List Op) : List Op :=
  ops.map fun o =>
    { o with late := o.late.map fun w =>
        if w.vec == vec && w.reg == l && (!vec || mask.getLsbD w.lane) then
          (if w.landed then { w with prev := own w.lane } else { w with contested := true })
        else w }

/-- What is left in a lane that an instruction writes while late writes to it have landed and are not covered (R160). -/
def ownOrLate (s : State) (l i : Nat) (late : List Word) (own : Word) : Word :=
  match late with
  | [] => own
  | w :: ws => (own :: w :: ws).getD (s.freeNat .own (l * 128 + i) (ws.length + 1)) own

/-- Write the lanes of a mask of vector register l. -/
def Group.writeReg (s : State) (g : Group) (l : Nat) (mask : Mask) (f : Nat → Word) : Group :=
  if g.isPending true l then
    let g' := g.vput l (mergeLanes mask (g.vraw l) fun i => ownOrLate s l i (g.lastLanded true l i) (f i))
    { g' with ops := contest true l mask f g'.ops }
  else g.vput l (mergeLanes mask (g.vraw l) f)

/-- Write the lanes of a mask of operand vn. -/
def Group.writeV (s : State) (g : Group) (n : Nat) (mask : Mask) (f : Nat → Word) : Group :=
  g.writeReg s (g.vreg n) mask f

/-- STATUS is absolute scalar register 6; bits [31:6] read as zero (R333). -/
def statusMask : Word := 0x3F#32

/-- Write an absolute scalar register that is no mask register. -/
def Group.writeAbs (s : State) (g : Group) (k : Nat) (v : Word) : Group :=
  let v := if k = 6 then v &&& statusMask else v
  if g.isPending false k then
    let g' := g.sput k (ownOrLate s k 0 (g.lastLanded false k 0) v)
    { g' with ops := contest false k 0 (fun _ => v) g'.ops }
  else g.sput k v

/-- Write operand sn for row k: s0 to s2 set MASK to value AND OWN (R115), s6 keeps its reserved bits zero (R331). -/
def Group.writeS (s : State) (g : Group) (k n : Nat) (v : Word) : Group :=
  if n < 3 then g.modRow k fun r => { r with mask := setMaskWord r.mask n v &&& r.own }
  else g.writeAbs s (g.sreg n) v

/-- Write a scalar pair. -/
def Group.writeS64 (s : State) (g : Group) (k n : Nat) (v : Dword) : Group :=
  (g.writeS s k n (v.extractLsb' 0 32)).writeS s k (n + 1) (v.extractLsb' 32 32)

/-! ### Answers that a blocked instruction waits for -/

/-- What has come back for the instruction at an address. -/
def Group.answerAt (g : Group) (pc : Nat) : Option (List Word) := (g.answers.find? fun a => a.1 == pc).map (·.2)
/-- An answer comes back. -/
def Group.putAnswer (g : Group) (pc : Nat) (ws : List Word) : Group :=
  { g with answers := (pc, ws) :: g.answers.filter fun a => a.1 != pc }
/-- The instruction at an address has taken its answer. -/
def Group.takeAnswer (g : Group) (pc : Nat) : Group := { g with answers := g.answers.filter fun a => a.1 != pc }

/-! ### STATUS (R333) and the counters (R157) -/

/-- STATUS. -/
def Group.status (g : Group) : Word := g.sraw 6

/-- Set or clear bit b of STATUS. -/
def Group.setStatusBit (g : Group) (b : Nat) (v : Bool) : Group :=
  g.sput 6 (if v then g.status ||| (1#32 <<< b) else g.status &&& ~~~(1#32 <<< b))

/-- OR the sticky flags UF, OF, NV (bits 2, 1, 0) into STATUS. -/
def Group.orFlags (g : Group) (f : BitVec 3) : Group := g.sput 6 (g.status ||| f.setWidth 32)

/-- OR the flags of an operation as they arrive: into STATUS, and in a handler, where it was issued before trap entry, into the
carried flags too (R438). -/
def Group.orFlagsLate (g : Group) (uid : Nat) (f : BitVec 3) : Group :=
  let g' := g.orFlags f
  match g'.handler with
  | some h => if h.before.contains uid then { g' with handler := some { h with carried := h.carried ||| f } } else g'
  | none => g'

/-- The count of a class: its operations whose count has not fallen (R157). -/
def Group.count (g : Group) (c : Cls) : Nat := (g.ops.filter fun o => o.cls == some c && !o.done).length

/-- The maximum of a counter (R157). -/
def Cls.max : Cls → Nat
  | .ld => 63
  | .st => 63
  | .cp => 15
  | .tl => 15

/-- INFLIGHT (R157). -/
def Group.inflight (g : Group) : Word :=
  BitVec.ofNat 32 (g.count .ld <<< 16 ||| g.count .st <<< 8 ||| g.count .cp <<< 4 ||| g.count .tl)

/-- The code range's bits [48:32]: that of the group's start, or of TRAP_ENTRY in a handler (R312, R435). -/
def Group.codeRange (s : State) (g : Group) : BitVec 17 :=
  match g.handler with
  | some _ => (s.descOf g).trapEntry.extractLsb' 32 17
  | none => g.codeHi

end Sys2Proof.Machine
end

