-- ==== Sys2Proof/Machine/Report.lean ====
section
/-! DEFINITION. The part's reports: the error log (R44, R69, R70), and the event queue with its store and its MSI-X messages (R63 to
R66). -/

namespace Sys2Proof.Machine

/-- The host interface can serve requests to the host now (R39, R40). -/
def State.hostReachable (s : State) : Bool := s.boot.linkUp && !s.boot.linkDead && !s.boot.d3hot

/-! ### The error log -/

/-- CLASS of an error record (R70). -/
inductive ErrClass where
  | transient | lasting | capFault | packet | regMisuse | aperture | regulator | thermal | link | ownWrite
  deriving DecidableEq, Repr

/-- The code of a CLASS (R70). -/
def ErrClass.code : ErrClass → Nat
  | .transient => 1
  | .lasting => 2
  | .capFault => 3
  | .packet => 4
  | .regMisuse => 5
  | .aperture => 6
  | .regulator => 7
  | .thermal => 8
  | .link => 9
  | .ownWrite => 10

/-- What an error record says, but for its SEQ (R70). -/
structure ErrInput where
  cls : ErrClass
  unit : Nat
  index : Nat
  struct : Nat
  sub : Nat
  addr : Nat
  detail : Nat
  ctx : Option (BitVec 5)
  deriving DecidableEq, Repr

/-- CONTEXT of a record (R70). -/
def ctxWord : Option (BitVec 5) → Nat
  | some c => c.toNat
  | none => 0xFFFFFFFF

/-- The four words of a record (R70). -/
def ErrInput.record (e : ErrInput) (seq : Word) : ErrRecord :=
  { w0 := BitVec.ofNat 64 (seq.toNat <<< 32 ||| e.cls.code <<< 24 ||| (e.unit % 256) <<< 16 ||| e.index % 65536),
    w1 := BitVec.ofNat 64 ((e.struct % 256) <<< 56 ||| (e.sub % 256) <<< 48 ||| e.addr % 2 ^ 48),
    w2 := BitVec.ofNat 64 e.detail, w3 := BitVec.ofNat 64 (ctxWord e.ctx) }

/-- The record of all zeros, as the log's SRAM holds after reset. -/
def ErrRecord.zero : ErrRecord := { w0 := 0, w1 := 0, w2 := 0, w3 := 0 }

/-- One more, saturating (R47). -/
def satInc (w : Word) : Word := if w = 0xFFFFFFFF#32 then w else w + 1

/-- Write an error record at ERR_TAIL, or drop and count it where the log is full (R70). -/
def State.logError (s : State) (e : ErrInput) : State :=
  if s.dev.errTail + 1 = s.dev.errHead then { s with dev := { s.dev with errDropped := satInc s.dev.errDropped } }
  else
    let log := sset ErrRecord.zero s.dev.errTail.toNat (e.record s.fcp.errSeq) s.dev.errLog
    { s with dev := { s.dev with errLog := log, errTail := s.dev.errTail + 1 },
             fcp := { s.fcp with errSeq := s.fcp.errSeq + 1 } }

/-- A register misuse: HIU, with the BAR 0 offset in DETAIL (R70). -/
def State.regMisuse (s : State) (off : Nat) : State :=
  s.logError { cls := .regMisuse, unit := 6, index := 0, struct := 0, sub := 0, addr := 0, detail := off, ctx := none }

/-- An aperture access at an offset of BAR 2 that the part refuses: HIU, with the bus address in DETAIL (R25, R46, R70). -/
def State.apertureError (s : State) (o : Nat) : State :=
  s.logError { cls := .aperture, unit := 6, index := 0, struct := 0, sub := 0, addr := 0, detail := s.dev.bar2.toNat + o, ctx := none }

/-! ### Events -/

/-- Write n bytes into host memory at a bus address (R63). -/
def hostPut (m : List Host.Cell) (addr v : Nat) : Nat → List Host.Cell
  | 0 => m
  | n + 1 => hostPut (sset unlistedByte addr (BitVec.ofNat 8 v) m) (addr + 1) (v / 256) n

/-- A number that fills a field. -/
def EvRecord.word0 (e : EvRecord) (seq : Word) : Nat :=
  seq.toNat <<< 32 ||| e.type.toNat <<< 24 ||| e.code.toNat <<< 16 ||| e.queue.toNat <<< 8 ||| e.ctx.toNat

/-- The 32 bytes of an event record as one number (R63). -/
def EvRecord.bytes (e : EvRecord) (seq : Word) : Nat :=
  e.word0 seq ||| e.d0.toNat <<< 64 ||| e.d1.toNat <<< 128 ||| e.d2.toNat <<< 192

/-- The vector of an event that arises now (R65). -/
def State.evVector (s : State) (e : EvRecord) : BitVec 6 :=
  if e.ctx = 0xFF then 0 else (s.ctx (e.ctx.extractLsb' 0 5)).desc.evVector

/-- Signal a vector: send its message, or set its pending bit where it is masked (R65). -/
def State.signal (s : State) (v : Nat) : State :=
  let m := s.dev.msix.getD v MsixEntry.reset
  if m.masked then { s with dev := { s.dev with msix := s.dev.msix.modify v fun x => { x with pending := true } } }
  else { s with host := { s.host with msixSent := s.host.msixSent ++ [(m.addr, m.data)] } }

/-- The event queue has no room (R63), is disabled, or the host cannot be reached (R39, R66). -/
def State.evqBlocked (s : State) : Bool :=
  !s.dev.evqEnable || !s.hostReachable
    || (s.dev.evqTail.toNat + 1) % 2 ^ s.dev.evqLog2.toNat == s.dev.evqHead.toNat

/-- Write a record at EVQ_TAIL and advance it, then signal its vector (R63, R65). -/
def State.postNow (s : State) (e : EvRecord) : State :=
  let seq := s.fcp.evSeq
  let m := hostPut s.host.mem (s.dev.evqBase.toNat + 32 * s.dev.evqTail.toNat) (e.bytes seq) 32
  let tail := BitVec.ofNat 16 ((s.dev.evqTail.toNat + 1) % 2 ^ s.dev.evqLog2.toNat)
  ({ s with host := { s.host with mem := m }, dev := { s.dev with evqTail := tail },
            fcp := { s.fcp with evSeq := seq + 1 } }).signal e.vec.toNat

/-- Types 0x10 and 0x12 may be dropped while 960 records are held (R66). -/
def EvRecord.droppable (e : EvRecord) : Bool := e.type == 0x10 || e.type == 0x12

/-- Hold a record in the firmware's store, or drop and count it (R66). -/
def State.holdEvent (s : State) (e : EvRecord) : State :=
  let n := s.fcp.evStore.length
  if e.droppable && decide (960 ≤ n) then { s with dev := { s.dev with evqDropped := satInc s.dev.evqDropped } }
  else if 1024 ≤ n then { s with dev := { s.dev with evqLost := satInc s.dev.evqLost } }
  else { s with fcp := { s.fcp with evStore := s.fcp.evStore ++ [e], keptUsed := s.fcp.keptUsed || decide (960 ≤ n) } }

/-- Post a record, or hold it behind those held (R63, R65, R66). -/
def State.postRaw (s : State) (e : EvRecord) : State :=
  let e := { e with vec := s.evVector e }
  if s.evqBlocked || !s.fcp.evStore.isEmpty then s.holdEvent e else s.postNow e

/-- Post held records, oldest first, n at most, while there is room (R66). -/
def State.postHeld (s : State) : Nat → State
  | 0 => s
  | n + 1 =>
      match s.fcp.evStore with
      | [] => { s with fcp := { s.fcp with keptUsed := false } }
      | e :: r =>
          if s.evqBlocked then s
          else State.postHeld (({ s with fcp := { s.fcp with evStore := r, keptUsed := false } }).postNow e) n

/-- Room has returned: every held record that fits is posted (R66). -/
def State.drainEvents (s : State) : State := s.postHeld (s.fcp.evStore.length + 1)

/-- Post a device event (R64). -/
def State.postDev (s : State) (type code d0 d1 : Nat) : State :=
  s.postRaw { type := BitVec.ofNat 8 type, code := BitVec.ofNat 8 code, queue := 0xFF, ctx := 0xFF,
              d0 := BitVec.ofNat 64 d0, d1 := BitVec.ofNat 64 d1, d2 := 0 }

/-- A transient error: counted, logged, and posted once in a governor period (R69); the log index as for a lasting one (log 89). -/
def State.transientError (s : State) (e : ErrInput) : State :=
  let idx := s.dev.errTail.toNat
  let s' := { s with dev := { s.dev with errTransient := satInc s.dev.errTransient } }.logError { e with cls := .transient }
  if s.fcp.transientPosted then s'
  else { s' with fcp := { s'.fcp with transientPosted := true } }.postDev 0x10 1 idx 0

/-- A lasting error: counted, logged and posted (R69). The log index of the event is ERR_TAIL also where the record was dropped, which R64 leaves
open (DESIGN CHOICE, log 89). -/
def State.lastingError (s : State) (e : ErrInput) : State :=
  let idx := s.dev.errTail.toNat
  ({ s with dev := { s.dev with errLasting := satInc s.dev.errLasting } }.logError { e with cls := .lasting }).postDev
    0x11 2 idx 0

end Sys2Proof.Machine
end

