-- ==== Sys2Proof/Machine/Home.lean ====
section
/-! DEFINITION. Physical accesses at a line's home: DRAM and its channels (R31, R35, R49), the host window and unbacked
space (R45), the directory and recalls from stashes (R183, R187), write generations (R190), home regions and the mesh (R176 to R178), and a
core's L1 (R180, R181). -/

namespace Sys2Proof.Machine

/-- Bits hi to lo of a number (R7). -/
def bitsOf (x hi lo : Nat) : Nat := (x >>> lo) % 2 ^ (hi + 1 - lo)

/-! ### Where an address lies -/

/-- A physical address in DRAM (R164). -/
def inDram (pa : Nat) : Bool := decide (pa < Config.dramBytes)
/-- A physical address of the generation store (R164). -/
def inGen (pa : Nat) : Bool := decide (Config.genBase ≤ pa) && inDram pa
/-- A physical address of the host window (R45). -/
def inHost (pa : Nat) : Bool := decide (Config.hostWindow ≤ pa)

/-- The storage slice of a line, its HASH slice (R31, R177). -/
def hashSlice (pa : Nat) : Nat := bitsOf pa 10 7 ^^^ bitsOf pa 14 11 ^^^ bitsOf pa 18 15 ^^^ bitsOf pa 22 19
/-- The channel that stores a byte (R31). -/
def channelOf (pa : Nat) : Nat := 2 * hashSlice pa + bitsOf pa 23 23
/-- The offset of a byte within its channel (R31). -/
def channelOffset (pa : Nat) : Nat := bitsOf pa 6 0 + bitsOf pa 22 11 <<< 7 + bitsOf pa 36 24 <<< 19
/-- The home region of an address (R177). -/
def regionOf (pa : Nat) : Nat := pa / 65536
/-- The line of an address. -/
def lineOf (pa : Nat) : Nat := pa / 128

/-- The home slice of a line: the entry of its region, or its HASH slice (R177). -/
def State.homeOf (s : State) (pa : Nat) : Nat :=
  match s.slices.homes.find? (fun e => e.1 == regionOf pa) with
  | some e => e.2
  | none => hashSlice pa

/-- The channel of an address is out of service (R49). -/
def State.chanBad (s : State) (pa : Nat) : Bool := s.dev.degraded && s.dev.chanFail.getLsbD (channelOf pa)

/-- The error that the next access to an SRAM word finds (R68; log 92). -/
def State.sramAt (s : State) (a : SramAt) : Option SramErr := s.sram.find? fun e => e.at_ == a

/-- An access to the word completes with an error indication: two bits are wrong, memory has no clean copy, and the word read again fails too
(R68). clean: whether memory has a copy, where the state says it. -/
def State.sramLoses (s : State) (a : SramAt) (clean : Option Bool) : Bool :=
  (s.sramAt a).any fun e => e.double && e.again && !(clean.getD e.clean)

/-- An access to the line completes with an error indication: its channel is out of service (R49), the retried read for the access has
failed too (R35), or the home slice's data of it are lost (R68). -/
def State.lineBad (s : State) (pa : Nat) : Bool :=
  s.chanBad pa || (s.dram.bad.any fun b => b.line == lineOf pa && b.lasting) || s.sramLoses (.slice (lineOf pa)) none

/-- An access to an address waits: the controller is retrying a read of its line (R35), or it needs the host, which no request reaches now
(R39, R40). -/
def State.paHeld (s : State) (pa : Nat) : Bool :=
  (inDram pa && s.dram.bad.any fun b => b.line == lineOf pa && b.retrying) || (inHost pa && !s.hostReachable)

/-! ### Reads and writes at home -/

/-- One byte at home; none is an error indication (R35, R45, R49). -/
def State.physByte (s : State) (pa : Nat) : Option Byte :=
  if inDram pa then if s.lineBad pa then none else some (s.dramByte pa)
  else if inHost pa then some (sget unlistedByte s.host.mem (pa - Config.hostWindow))
  else none

/-! ### The directory (R183), mappings of a stash (R186) and what a recall finds (R187) -/

/-- The entry of state I. -/
def DirEntry.invalid : DirEntry := { owner := none, sharers := 0 }

/-- The directory entry of a line. -/
def State.dirOf (s : State) (line : Nat) : DirEntry := sget DirEntry.invalid s.slices.dir line
/-- Change the directory entry of a line. -/
def State.modDir (s : State) (line : Nat) (f : DirEntry → DirEntry) : State :=
  { s with slices := { s.slices with dir := sset DirEntry.invalid line (f (s.dirOf line)) s.slices.dir } }

/-- Change one mapping of a team's list. -/
def Team.setMap (t : Team) (k : Nat) (m : Option StashMap) : Team := { t with maps := t.maps.set k m }

/-- The live mapping that covers a virtual address, with its number (R186). -/
def Team.mapOf (t : Team) (va : Nat) : Option (Nat × StashMap) :=
  (List.range 8).findSome? fun k =>
    match t.maps.getD k none with
    | some m => if m.va ≤ va && va < m.va + m.len then some (k, m) else none
    | none => none

/-- The live mapping whose stash range holds an offset (R378). -/
def Team.mapAt (t : Team) (off : Nat) : Option (Nat × StashMap) :=
  (List.range 8).findSome? fun k =>
    match t.maps.getD k none with
    | some m => if m.off ≤ off && off < m.off + m.len then some (k, m) else none
    | none => none

/-- A filled mapped line of a team's stash. -/
def Team.filledAt (t : Team) (ln : Nat) : Option MapLine :=
  (t.mapAt (ln * 128)).bind fun km => km.2.filled.find? fun w => w.ln == ln

/-- The dirty bytes of a mapped line of a team's stash, by their places in the line. -/
def Team.dirtyOf (t : Team) (ln : Nat) : List (Nat × Byte) :=
  match t.mapAt (ln * 128) with
  | some (_, m) => (m.dirty.filter fun o => o / 128 == ln).map fun o => (o % 128, sget 0 t.stash o)
  | none => []

/-- A mapped line is clean from now on; drop: it is no longer filled. -/
def Team.cleanLine (t : Team) (ln : Nat) (drop : Bool) : Team :=
  match t.mapAt (ln * 128) with
  | some (k, m) => t.setMap k (some { m with dirty := m.dirty.filter fun o => o / 128 != ln
                                             filled := if drop then m.filled.filter (fun w => w.ln != ln) else m.filled })
  | none => t

/-- The byte that the stash that owns a line holds dirty (R187). -/
def State.ownerByte (s : State) (pa : Nat) : Option Byte :=
  match (s.dirOf (lineOf pa)).owner with
  | none => none
  | some (tu, ln) => (s.team tu).bind fun t => ((t.dirtyOf ln).find? fun b => b.1 == pa % 128).map (·.2)

/-- One byte as a reader at its home sees it: a line that a stash owns is recalled first (R187); none is an error indication. -/
def State.homeByte (s : State) (pa : Nat) : Option Byte := (s.physByte pa).map fun b => (s.ownerByte pa).getD b

/-- n bytes at home, little-endian; none where any of them completes with an error indication. -/
def State.physNat (s : State) (pa : Nat) : Nat → Option Nat
  | 0 => some 0
  | n + 1 =>
      match s.homeByte pa, State.physNat s (pa + 1) n with
      | some b, some r => some (b.toNat + 256 * r)
      | _, _ => none

/-- Note that a region has been written since reset (R178). -/
def State.noteWritten (s : State) (pa : Nat) : State :=
  if s.dram.written.contains (regionOf pa) then s
  else { s with dram := { s.dram with written := regionOf pa :: s.dram.written } }

/-- A request reaches the channel of an address: a channel in self-refresh leaves it (R34). -/
def State.wakeChan (s : State) (pa : Nat) : State :=
  if inDram pa then
    { s with dram := { s.dram with chans := s.dram.chans.modify (channelOf pa) fun c => { c with selfRefresh := false, used := true } } }
  else s

/-- Write one byte at home: into DRAM, or over the link into the host's memory; a write to a failed line, to unbacked space or
to the generation store is discarded (R45, R49, R190). -/
def State.physPut (s : State) (pa : Nat) (b : Byte) : State :=
  if inDram pa then
    if s.chanBad pa || inGen pa then s
    else ({ s with dram := { s.dram with mem := s.dram.mem.write pa b } }.noteWritten pa).wakeChan pa
  else if inHost pa then
    let a := pa - Config.hostWindow
    { s with host := { s.host with mem := sset unlistedByte a b s.host.mem, attrs := sset 0 a 0 s.host.attrs } }
  else s

/-- The record of an access to a failed line: channel, sub-channel and physical address (R35, R49, R70). R30 puts two bursts of a line on each
sub-channel and names no address bit; bit 5 is taken (DESIGN CHOICE, log 86). -/
def lineError (pa : Nat) (ctx : Option (BitVec 5)) : ErrInput :=
  { cls := .lasting, unit := 4, index := channelOf pa, struct := 10, sub := bitsOf pa 5 5, addr := pa, detail := 0, ctx := ctx }

/-! ### Errors in SRAM words (R68; log 92) -/

/-- The core on which a team's stash, slots and accumulators lie. -/
def State.teamCore (s : State) (tu : Nat) : Nat := ((s.team tu).map (·.core)).getD 0

/-- The filled mapped line of a stash line. -/
def State.stashLine (s : State) (tu ln : Nat) : Option MapLine := (s.team tu).bind fun t => t.filledAt ln

/-- UNIT, INDEX, STRUCT, SUB and ADDR of the record of an error (R70, R194). -/
def State.sramInput (s : State) (a : SramAt) (ctx : Option (BitVec 5)) : ErrInput :=
  let mk := fun unit index struct sub addr => ({ cls := .transient, unit := unit, index := index, struct := struct, sub := sub, addr := addr, detail := 0, ctx := ctx } : ErrInput)
  match a with
  | .l1 core line => mk 1 core 2 0 (line * 128)
  | .stash tu ln => mk 1 (s.teamCore tu) 2 0 (((s.stashLine tu ln).map fun w => w.line * 128).getD (ln * 32))
  | .slice line => mk 2 (s.homeOf (line * 128)) 6 0 (line * 128)
  | .memo k => mk 3 (k / 8192) 0 0 (32 * (k % 8192))
  | .slot tu k w => mk 1 (s.teamCore tu) 3 0 (k * 4096 + w)
  | .acc tu w => mk 1 (s.teamCore tu) 4 0 w
  | .icache core w => mk 1 core 5 0 (4 * w)
  | .tlb core part page => mk 1 core 8 part page
  | .pair core => mk 1 core 0 0 0
  | .other unit index struct sub w => mk unit index struct sub w

/-- An access finds the error of a word, where it has one: transient where the word, or its copy, is read again without error, else lasting; a
word whose data are lost keeps its error (R68, R69). -/
def State.meetSram (s : State) (ctx : Option (BitVec 5)) (a : SramAt) (clean : Option Bool) : State :=
  match s.sramAt a with
  | none => s
  | some e =>
      let s1 := if s.sramLoses a clean then s else { s with sram := s.sram.filter fun x => x.at_ != a }
      if e.again then s1.lastingError (s.sramInput a ctx) else s1.transientError (s.sramInput a ctx)

/-- Log an access that met a failed line of DRAM: each access to a channel out of service makes a record (R49); a lasting error of one read
was recorded as its retry failed, and ends the access that it was for (R35); the error of a slice's word is found (R68). Accesses to unbacked space
are not logged (R45). -/
def State.noteBadAccess (s : State) (pa : Nat) (ctx : Option (BitVec 5)) : State :=
  if !inDram pa then s
  else if s.chanBad pa then s.lastingError (lineError pa ctx)
  else if s.dram.bad.any fun b => b.line == lineOf pa && b.lasting then
    { s with dram := { s.dram with bad := s.dram.bad.filter fun b => !(b.line == lineOf pa && b.lasting) } }
  else s.meetSram ctx (.slice (lineOf pa)) none

/-- Log the failed lines of a physical range that one access meets (R49). -/
def State.noteBadRange (s : State) (pa n : Nat) (ctx : Option (BitVec 5)) : State :=
  ((List.range n).map fun i => (pa + i) / 128 * 128).eraseDups.foldl (fun t a => if t.lineBad a then t.noteBadAccess a ctx else t) s

/-! ### SRAM errors in matrix storage (R68, R417) -/

/-- An error lies in the words of n bytes of a run of a team's slots. -/
def slotHit (tu base o n : Nat) (a : SramAt) : Bool :=
  match a with
  | .slot u k w => u == tu && decide (base * 16384 + o < k * 16384 + 4 * w + 4) && decide (k * 16384 + 4 * w < base * 16384 + o + n)
  | _ => false

/-- An error lies in n words of a team's accumulator rows. -/
def accHit (tu word n : Nat) (a : SramAt) : Bool :=
  match a with
  | .acc u w => u == tu && decide (word ≤ w) && decide (w < word + n)
  | _ => false

/-- Some word of a choice is lost: nothing in memory copies matrix storage (R68, R417). -/
def State.lostIn (s : State) (p : SramAt → Bool) : Bool := s.sram.any fun e => p e.at_ && s.sramLoses e.at_ (some false)

/-- An operation of a context finds the errors of a choice of words (R68). -/
def State.meetIn (s : State) (ctx : BitVec 5) (p : SramAt → Bool) : State :=
  ((s.sram.map (·.at_)).filter p).eraseDups.foldl (fun t a => t.meetSram (some ctx) a (some false)) s

/-- Words written anew have no error. -/
def State.clearSram (s : State) (p : SramAt → Bool) : State := { s with sram := s.sram.filter fun e => !(p e.at_) }

/-- Write back dirty bytes of a line, by their places in it (R181, R187); on a channel out of service they are lost and the access is logged
(R49). -/
def State.putBack (s : State) (ctx : BitVec 5) (line : Nat) (bs : List (Nat × Byte)) : State :=
  if bs.isEmpty then s
  else
    let t := bs.foldl (fun t b => t.physPut (line * 128 + b.1) b.2) s
    if s.chanBad (line * 128) then t.noteBadAccess (line * 128) (some ctx) else t

/-- Write back a mapped line of a team's stash, which gives up X: a clean copy stays, or, drop, none (R186, R187). -/
def State.writeBackStash (s : State) (tu ln : Nat) (drop : Bool) : State :=
  match s.team tu with
  | none => s
  | some t =>
      match t.filledAt ln with
      | none => s
      | some w =>
          let s1 := (s.putBack t.ctx w.line (t.dirtyOf ln)).modTeam tu fun t => t.cleanLine ln drop
          if (s.dirOf w.line).owner = some (tu, ln) then
            s1.modDir w.line fun _ => { owner := none, sharers := if drop then 0 else 1#96 <<< t.core }
          else s1

/-- An access of another agent to a line at its home recalls it from the stash that owns it; write: the owner keeps no copy (R187). -/
def State.recall (s : State) (pa : Nat) (write : Bool) : State :=
  match (s.dirOf (lineOf pa)).owner with
  | none => s
  | some (tu, ln) => (s.writeBackStash tu ln write).modDir (lineOf pa) fun d => { d with owner := none }

/-- The clean copies of a COHERENT line that a core's L1 holds, and those of its teams' mappings but for one stash line, go (R183). -/
def Team.invalidate (t : Team) (line : Nat) (keep : Option (Nat × Nat)) : Team :=
  { t with maps := t.maps.map fun m => m.map fun m => { m with filled := m.filled.filter fun w =>
      !(w.line == line && w.coh == 2 && keep != some (t.uid, w.ln) && !(m.dirty.any fun o => o / 128 == w.ln)) } }

/-- An agent takes X of a COHERENT line: the owner is recalled, and every copy that the sharer vector names is invalidated (R183, R187). taker: the
stash line that owns it from then on; none: an engine, which gives it up as the line lands (R188). -/
def State.takeX (s : State) (pa : Nat) (taker : Option (Nat × Nat)) : State :=
  let line := lineOf pa
  if taker.isSome && (s.dirOf line).owner == taker then s
  else
    let s1 := s.recall pa true
    let sh := (s1.dirOf line).sharers
    let cores := s1.cores.zipIdx.map fun (c, k) => if sh.getLsbD k then { c with l1 := c.l1.filter fun e => !(e.1 == line && e.2.coh == 2) } else c
    let teams := s1.teams.map fun t => if sh.getLsbD t.core then t.invalidate line taker else t
    ({ s1 with cores := cores, teams := teams }).modDir line fun _ => { owner := taker, sharers := 0 }

/-- A core holds a clean copy of a COHERENT line (R183). -/
def State.share (s : State) (core line : Nat) : State := s.modDir line fun d => { d with sharers := d.sharers ||| 1#96 <<< core }

/-- Write one byte for a context, a stash that owns the line being recalled: a request to the host window carries Relaxed Ordering where FRAME_RO
is set and No Snoop where FRAME_NS is (R38, R45, R187). -/
def State.ctxPut (s : State) (ctx : BitVec 5) (pa : Nat) (b : Byte) : State :=
  let t := (s.recall pa true).physPut pa b
  if inHost pa then
    let d := (s.ctx ctx).desc
    { t with host := { t.host with attrs := sset 0 (pa - Config.hostWindow) (BitVec.ofBool d.frameNs ++ BitVec.ofBool d.frameRo) t.host.attrs } }
  else t

/-- Write n bytes of a number at home, little-endian. -/
def State.physPutNat (s : State) (pa v : Nat) : Nat → State
  | 0 => s
  | n + 1 => State.physPutNat (s.physPut pa (BitVec.ofNat 8 v)) (pa + 1) (v / 256) n

/-- The physical address of a region's generation (R190). -/
def genAddr (region : Nat) : Nat := Config.genBase + 4 * region

/-- The generation of the home region of an address; none where its line cannot be read (R49, R190). -/
def State.generation (s : State) (pa : Nat) : Option Nat := s.physNat (genAddr (regionOf pa)) 4

/-- Increment a generation, modulo 2^32; lost, and logged, where its line is on a failed channel (R49, R190). -/
def State.incGen (s : State) (pa : Nat) : State :=
  let ga := genAddr (regionOf pa)
  match s.physNat ga 4 with
  | none => s.lastingError (lineError ga none)
  | some v =>
      let w := (v + 1) % 2 ^ 32
      let m := ((s.dram.mem.write ga (BitVec.ofNat 8 w)).write (ga + 1) (BitVec.ofNat 8 (w / 256))).write (ga + 2)
        (BitVec.ofNat 8 (w / 65536)) |>.write (ga + 3) (BitVec.ofNat 8 (w / 16777216))
      { s with dram := { s.dram with mem := m } }

/-! ### The mesh and home regions (R176 to R178) -/

/-- The stop of a core, and of a slice, on the mesh (R176). -/
def coreStop (k : Nat) : Nat × Nat := (k % 12, k / 12 + 1)
/-- Columns of the slices of one row (R176). -/
def sliceColumns : List Nat := [0, 2, 3, 5, 6, 8, 9, 11]
/-- The stop of a slice (R176). -/
def sliceStop (k : Nat) : Nat × Nat := (sliceColumns.getD (k % 8) 0, if k < 8 then 0 else 9)
/-- The difference of two numbers. -/
def natDist (a b : Nat) : Nat := (a - b) + (b - a)
/-- Mesh distance (R176). -/
def meshDistance (a b : Nat × Nat) : Nat := natDist a.1 b.1 + natDist a.2 b.2

/-- The stop of the HIU, and of the FCP (R176). -/
def hiuStop : Nat × Nat := (4, 0)
def fcpStop : Nat × Nat := (7, 0)

/-- The stop at which a physical address is served: its home's, or the HIU's for the host window (R45, R176, R177). -/
def State.homeStop (s : State) (pa : Nat) : Nat × Nat := if inHost pa then hiuStop else sliceStop (s.homeOf pa)

/-- The slice nearest a core; ties go to the lower number (R178). -/
def nearestSlice (core : Nat) : Nat :=
  (List.range 16).foldl (fun best k =>
    if meshDistance (coreStop core) (sliceStop k) < meshDistance (coreStop core) (sliceStop best) then k else best) 0

/-- Make every byte of a region unpredictable (R178). -/
def State.scrambleRegion (s : State) (r : Nat) : State :=
  let m := (List.range 65536).foldl (fun m i => m.write (r * 65536 + i) (s.freeByte .order (r * 65536 + i))) s.dram.mem
  { s with dram := { s.dram with mem := m } }

/-- The first access through a NEAR translation makes the region's entry, where its set has room; the set hash is not
architected, so beyond 16 entries of the registry slice a free choice says whether the set is full (R178; log 4). -/
def State.touchNear (s : State) (core pa : Nat) : State :=
  let r := regionOf pa
  if !inDram pa || s.slices.homes.any (fun e => e.1 == r) then s
  else
    let used := (s.slices.homes.filter fun e => hashSlice (e.1 * 65536) == hashSlice (r * 65536)).length
    if used ≥ 16 && (used ≥ 8192 || s.freeBit .order r) then s
    else
      let s' := { s with slices := { s.slices with homes := sput r (nearestSlice core) s.slices.homes } }
      if s.dram.written.contains r then s'.scrambleRegion r else s'

/-! ### L1 (R180 to R184) -/

/-- The bytes of a line at home; none on an error indication. -/
def State.lineBytes (s : State) (line : Nat) : Option (List Byte) :=
  (List.range 128).mapM fun i => s.homeByte (line * 128 + i)

/-- A byte as a core's own copy of its line gives it: the byte, and whether it is dirty. -/
def State.l1Byte (s : State) (core : Nat) (ctx : BitVec 5) (pa : Nat) : Option (Byte × Bool) :=
  match (s.core core).l1.find? (fun e => e.1 == lineOf pa) with
  | some e => if e.2.ctx == ctx then some (e.2.bytes.getD (pa % 128) 0, e.2.dirty.getLsbD (pa % 128)) else none
  | none => none

/-- A load's byte where the core holds a copy of the line: its own dirty byte, or either the copy or what the home holds; one
choice per line for COHERENT and PRIVATE lines (the snapshot rule of R200), one per aligned 8 bytes for READSHARED ones (R182). -/
def State.cachedByte (s : State) (core : Nat) (ctx : BitVec 5) (attr : Attr) (pa : Nat) : Option Byte :=
  match s.homeByte pa with
  | none => none
  | some home =>
      if attr.cache != 0 then some home
      else match s.l1Byte core ctx pa with
        | none => some home
        | some (b, true) => some b
        | some (b, false) =>
            if b == home then some home
            else if s.freeBit .l1 (if attr.coh == 1 then pa / 8 else lineOf pa * 16) then some b else some home

/-- A line of a core's L1 changes. -/
def State.setL1 (s : State) (core line : Nat) (l : L1Line) : State :=
  s.modCore core fun c => { c with l1 := sput line l c.l1 }
/-- A line of a core's L1 goes. -/
def State.dropL1 (s : State) (core line : Nat) : State := s.modCore core fun c => { c with l1 := sdel line c.l1 }

/-- Write back the dirty bytes of one line of a core (R181), with the generation of a tracked line (R190). -/
def State.writeBackLine (s : State) (line : Nat) (l : L1Line) : State :=
  let s' := s.putBack l.ctx line ((List.range 128).filterMap fun i => if l.dirty.getLsbD i then some (i, l.bytes.getD i 0) else none)
  if l.track && l.dirty != 0 then s'.incGen (line * 128) else s'

/-- A core writes back, and then cleans or invalidates, the lines of its L1 that a test selects. -/
def State.cleanL1 (s : State) (core : Nat) (sel : Nat → L1Line → Bool) (inval : Nat → L1Line → Bool) : State :=
  let lines := (s.core core).l1.filter fun e => sel e.1 e.2
  let s' := lines.foldl (fun t e => t.writeBackLine e.1 e.2) s
  s'.modCore core fun c =>
    let cleaned := c.l1.map fun e => if sel e.1 e.2 then (e.1, { e.2 with dirty := 0 }) else e
    { c with l1 := cleaned.filter fun e => !(inval e.1 e.2) }

/-- A core drops its clean COHERENT lines (R201). -/
def State.dropCoherent (s : State) (core : Nat) : State :=
  s.modCore core fun c => { c with l1 := c.l1.filter fun e => !(e.2.coh == 2 && e.2.dirty == 0) }

/-- A core writes back a context's dirty lines and drops its PRIVATE and READSHARED lines (R181). -/
def State.flushContext (s : State) (core : Nat) (ctx : BitVec 5) : State :=
  s.cleanL1 core (fun _ l => l.ctx == ctx) (fun _ l => l.ctx == ctx && l.coh != 2)

/-- Fetch a line into a core's L1, keeping what the core has made dirty of it (R180); the home notes the core's copy of a COHERENT line (R183). -/
def State.fillL1 (s : State) (core : Nat) (ctx : BitVec 5) (attr : Attr) (pa : Nat) : State :=
  if attr.cache != 0 || !inDram pa then s
  else match s.lineBytes (lineOf pa) with
    | none => s
    | some bs =>
        let s := if attr.coh == 2 then s.share core (lineOf pa) else s
        match (s.core core).l1.find? (fun e => e.1 == lineOf pa) with
        | some e =>
            if e.2.ctx == ctx then
              let merged := (List.range 128).map fun i => if e.2.dirty.getLsbD i then e.2.bytes.getD i 0 else bs.getD i 0
              s.setL1 core (lineOf pa) { e.2 with bytes := merged }
            else (s.writeBackLine e.1 e.2).setL1 core (lineOf pa)
              { ctx := ctx, coh := attr.coh, bytes := bs, dirty := 0, track := attr.track }
        | none => s.setL1 core (lineOf pa) { ctx := ctx, coh := attr.coh, bytes := bs, dirty := 0, track := attr.track }

/-- A store's byte into a PRIVATE line stays dirty in the core (R180). -/
def State.dirtyByte (s : State) (core : Nat) (ctx : BitVec 5) (attr : Attr) (pa : Nat) (b : Byte) : State :=
  let s' := match (s.core core).l1.find? (fun e => e.1 == lineOf pa) with
    | some e => if e.2.ctx == ctx then s else s.fillL1 core ctx attr pa
    | none => s.fillL1 core ctx attr pa
  match (s'.core core).l1.find? (fun e => e.1 == lineOf pa) with
  | some e =>
      let l := { e.2 with bytes := e.2.bytes.set (pa % 128) b, dirty := e.2.dirty ||| (1#128 <<< (pa % 128)) }
      s'.setL1 core (lineOf pa) { l with coh := attr.coh, track := attr.track }
  | none => s'.physPut pa b

/-- A byte written at home changes the writing core's own clean copy (R183). -/
def State.updateCopy (s : State) (core pa : Nat) (b : Byte) : State :=
  match (s.core core).l1.find? (fun e => e.1 == lineOf pa) with
  | some e => s.setL1 core (lineOf pa) { e.2 with bytes := e.2.bytes.set (pa % 128) b }
  | none => s

end Sys2Proof.Machine
end

