-- ==== Sys2Proof/Machine/Translate.lean ====
section
/-! DEFINITION. Translation: the four-level walk (R165 to R169), cached translations (R170, R171), and instruction fetch
(R310, R311). -/

namespace Sys2Proof.Machine

/-- What an access does, for its permission check (R169). read: loads, engine reads, CWB, CINV and the part's own reads. -/
inductive AccKind where
  | read | write | fetch
  deriving DecidableEq, Repr

/-- How a translation ends: a leaf with its page's base, virtual size and entry; a fault kind of R172; or an error indication on
a table's own line. -/
inductive Walk where
  | page (base : Nat) (log2 : Nat) (e : Dword)
  | fault (kind : Nat)
  | err
  deriving DecidableEq, Repr

/-- A bit of a table entry (R166). -/
def pteBit (e : Dword) (k : Nat) : Bool := e.getLsbD k
/-- ADDR of a table entry, as an address (R166). -/
def pteAddr (e : Dword) : Nat := (e.extractLsb' 12 36).toNat * 4096
/-- The attributes of a leaf (R166). -/
def pteAttr (e : Dword) : Attr :=
  { coh := e.extractLsb' 4 2, cache := e.extractLsb' 8 2, track := e.getLsbD 7, memo := e.getLsbD 10, near := e.getLsbD 6 }

/-- The low bit of the index field of a level (R165). -/
def lvlShift (lvl : Nat) : Nat := [39, 30, 21, 12].getD lvl 12
/-- The high bit of the index field of a level (R165). -/
def lvlTop (lvl : Nat) : Nat := [48, 38, 29, 20].getD lvl 20

/-- log2 of the bytes that a leaf at a level maps (R165). -/
def leafLog2 (lvl : Nat) (e : Dword) : Nat := if lvl = 3 && pteBit e 11 then 16 else lvlShift lvl

/-- A valid entry that breaks R167. -/
def badEntry (e : Dword) (lvl : Nat) : Bool :=
  let a := pteAttr e
  let addr := pteAddr e
  let leaf := pteBit e 1
  e.extractLsb' 48 8 != 0
    || (!leaf && (e.extractLsb' 2 10 != 0 || !inDram addr))
    || (leaf && lvl == 0) || (!leaf && lvl == 3)
    || (pteBit e 11 && (lvl == 1 || lvl == 2))
    || (leaf && addr % 2 ^ leafLog2 lvl e != 0)
    || a.coh == 3 || a.cache == 3
    || (leaf && a.near && ((lvl == 3 && !pteBit e 11) || lvl == 1))
    || (leaf && pteBit e 2 && decide (addr < Config.dramBytes) && decide (Config.genBase < addr + 2 ^ leafLog2 lvl e))
    || (leaf && inHost addr && (a.cache != 2 || a.coh != 2 || a.near || a.track || a.memo))

/-- The permission check, in the order of R169. -/
def permFault (e : Dword) (k : AccKind) : Option Nat :=
  match k with
  | .fetch => if pteBit e 3 then none else some 3
  | .write => if (pteAttr e).coh == 1 then some 4 else if pteBit e 2 then none else some 2
  | .read => none

/-- The level-3 entries of the aligned 64 KiB group of an entry that have V, LEAF and P64 set (R168). -/
def State.p64Group (s : State) (table idx : Nat) : List Dword :=
  (List.range 16).filterMap fun i =>
    match s.physNat (table + 8 * (idx / 16 * 16 + i)) 8 with
    | some n => let e := BitVec.ofNat 64 n; if pteBit e 0 && pteBit e 1 && pteBit e 11 then some e else none
    | none => none

/-- The entry that translates an access at level 3: the walked one, or, where the group of 64 KiB has entries with P64 = 1 and they
differ, a free one of them (R168). -/
def State.p64Choice (s : State) (table idx : Nat) (e : Dword) : Dword :=
  match s.p64Group table idx with
  | [] => e
  | c :: cs => if c == e && cs.all (· == e) then e else (c :: cs).getD (s.freeNat .tlb (table + idx) cs.length) c

/-- Walk from a table at a level, n levels left (R165). -/
def State.walkFrom (s : State) (va : Nat) : Nat → Nat → Nat → Walk
  | 0, _, _ => .fault 1
  | n + 1, lvl, t =>
      let idx := bitsOf va (lvlTop lvl) (lvlShift lvl)
      match s.physNat (t + 8 * idx) 8 with
      | none => .err
      | some v =>
          let e0 := BitVec.ofNat 64 v
          let e := if lvl = 3 then s.p64Choice t idx e0 else e0
          if !pteBit e 0 then .fault 1
          else if badEntry e lvl then .fault 5
          else if !pteBit e 1 then State.walkFrom s va n (lvl + 1) (pteAddr e)
          else .page (pteAddr e) (leafLog2 lvl e) e

/-- A fresh walk of a context's tables (R165). -/
def State.walk (s : State) (ctx : BitVec 5) (va : Nat) : Walk := s.walkFrom va 4 0 (s.ctx ctx).desc.transRoot.toNat

/-- The physical addresses of the table entries that a walk reads, from a table at a level, n levels left (R165). -/
def State.walkEntries (s : State) (va : Nat) : Nat → Nat → Nat → List Nat
  | 0, _, _ => []
  | n + 1, lvl, t =>
      let pa := t + 8 * bitsOf va (lvlTop lvl) (lvlShift lvl)
      pa :: match s.physNat pa 8 with
        | some v =>
            let e := BitVec.ofNat 64 v
            if pteBit e 0 && !badEntry e lvl && !pteBit e 1 then State.walkEntries s va n (lvl + 1) (pteAddr e) else []
        | none => []

/-- The table entries that a context's walk of an address reads (R165). -/
def State.tableEntries (s : State) (ctx : BitVec 5) (va : Nat) : List Nat := s.walkEntries va 4 0 (s.ctx ctx).desc.transRoot.toNat

/-! ### Cached translations (R170, R171) -/

/-- Entries of a first-level TLB, and of a slice's second-level TLB (R170). -/
def tlbSize : Nat := 64
def tlb2Size : Nat := 2048

/-- The slice that a miss for a virtual address goes to (R170). -/
def tlbSlice (va : Nat) : Nat := bitsOf va 24 21 ^^^ bitsOf va 28 25

/-- A cached translation serves an address of a context. -/
def TlbEntry.serves (t : TlbEntry) (ctx : BitVec 5) (va : Nat) : Bool := t.ctx == ctx && decide (t.base ≤ va) && decide (va < t.base + 2 ^ t.log2)

/-- The page that a cached translation gives. -/
def TlbEntry.page (t : TlbEntry) : Walk := .page (pteAddr t.e) t.log2 t.e

/-- A core's partition. -/
def State.partOf (s : State) (core part : Nat) : Part := (s.core core).parts.getD part Part.reset

/-- The cached translations of an address that an access may use: those of its partition's TLB, where a partition makes it, and those of the
slice that serves its misses (R170). -/
def State.cached (s : State) (tlb : Option (Nat × Nat)) (ctx : BitVec 5) (va : Nat) : List TlbEntry :=
  let l1 := match tlb with
    | some (core, part) => (s.partOf core part).tlb.filter fun t => t.serves ctx va
    | none => []
  l1 ++ (s.slices.tlb.filter fun t => t.1 == tlbSlice va && t.2.serves ctx va).map (·.2)

/-- The walk's result or, where cached translations of the page differ from it, a free choice among them (R170, R171). -/
def State.lookup (s : State) (tlb : Option (Nat × Nat)) (ctx : BitVec 5) (va : Nat) : Walk :=
  let fresh := s.walk ctx va
  let old := ((s.cached tlb ctx va).map TlbEntry.page).filter (· != fresh)
  if old.isEmpty then fresh else (fresh :: old).getD (s.freeNat .tlb (va / 4096 * 4 + 1) old.length) fresh

/-- A translated address with its attributes. -/
structure Trans where
  pa : Nat
  attr : Attr
  deriving DecidableEq, Repr

/-- How an address translates for an access. -/
inductive TransRes where
  | ok (t : Trans)
  | fault (kind : Nat)
  | err
  deriving DecidableEq, Repr

/-- The end of a translation for an access (R169). -/
def Walk.trans (w : Walk) (va : Nat) (k : AccKind) : TransRes :=
  match w with
  | .fault n => .fault n
  | .err => .err
  | .page base lg e =>
      match permFault e k with
      | some n => .fault n
      | none => .ok ⟨base + va % 2 ^ lg, pteAttr e⟩

/-- Translate one address for one access of a unit that has no first-level TLB (R165, R169). -/
def State.translate (s : State) (ctx : BitVec 5) (va : Nat) (k : AccKind) : TransRes := (s.lookup none ctx va).trans va k

/-- Translate one address for an access of a group, through its partition's TLB (R165, R169, R170). -/
def State.translateFor (s : State) (g : Group) (va : Nat) (k : AccKind) : TransRes := (s.lookup (some (g.core, g.part)) g.ctx va).trans va k

/-- Translate for a write of the part's own: the tables are walked again on a fault (R485). -/
def State.translateOwn (s : State) (ctx : BitVec 5) (va : Nat) : TransRes :=
  match s.translate ctx va .write with
  | .ok t => .ok t
  | _ => (s.walk ctx va).trans va .write

/-- An access of the part itself waits: for the host, or for a retried read of a line that it or its walk reads (R35, R39, R40). -/
def State.ownHeld (s : State) (ctx : BitVec 5) (va n : Nat) : Bool :=
  (List.range n).any fun i =>
    (s.tableEntries ctx (va + i)).any s.paHeld || match s.translate ctx (va + i) .read with
      | .ok t => s.paHeld t.pa
      | _ => false

/-- Put a translation in front of a cache of a size; where it is full, the part chooses the one that goes. -/
def pushTlb {α : Type} (size pick : Nat) (t : α) (l : List α) : List α := t :: (if size ≤ l.length then l.eraseIdx (pick % l.length) else l)

/-- A group has translated an address: its partition's TLB keeps the translation; a miss there has gone to the slice, which keeps it too; the
walk's reads have reached their channels (R34, R170). An error of a cached entry is found, and the entry fetched again (R68). -/
def State.cacheTlb (s : State) (g : Group) (va : Nat) : State :=
  match s.lookup (some (g.core, g.part)) g.ctx va with
  | .page _ lg e =>
      let t : TlbEntry := { ctx := g.ctx, base := va - va % 2 ^ lg, log2 := lg, e := e }
      if (s.partOf g.core g.part).tlb.contains t then s.meetSram (some g.ctx) (.tlb g.core g.part (va / 4096)) (some true)
      else
        let pick := s.freeNat .evict (va / 4096) 65535
        let s1 := (s.tableEntries g.ctx va).foldl State.wakeChan s
        let s2 := s1.modPart g.core g.part fun p => { p with tlb := pushTlb tlbSize pick t p.tlb }
        let k := tlbSlice va
        if s.slices.tlb.contains (k, t) then s2
        else
          let mine := s.slices.tlb.filter fun x => x.1 == k
          { s2 with slices := { s2.slices with tlb := pushTlb tlb2Size pick (k, t) mine ++ s2.slices.tlb.filter fun x => x.1 != k } }
  | _ => s

/-- A group has accessed an address: its translation is kept, and the first access to a region through a NEAR one has asked the registry (R170,
R178). -/
def State.noteTlb (s : State) (g : Group) (va : Nat) : State :=
  match s.lookup (some (g.core, g.part)) g.ctx va with
  | .page base lg e => if (pteAttr e).near then (s.cacheTlb g va).touchNear g.core (base + va % 2 ^ lg) else s.cacheTlb g va
  | _ => s

/-- Every cached translation of a context goes, in every partition and slice (R171). -/
def State.dropTlb (s : State) (ctx : BitVec 5) : State :=
  { s with slices := { s.slices with tlb := s.slices.tlb.filter fun t => t.2.ctx != ctx }
           cores := s.cores.map fun c => { c with parts := c.parts.map fun p => { p with tlb := p.tlb.filter fun t => t.ctx != ctx } } }

/-! ### Fetch (R310, R311) -/

/-- How the fetch of one word ends. -/
inductive FetchRes where
  | word (w : Word)
  | fault (kind : Nat)
  | err
  deriving DecidableEq, Repr

/-- Words of a core's instruction cache (R1). -/
def icacheWords : Nat := 65536 / 4

/-- A core's copy of a code word. -/
def State.icacheWord (s : State) (core pa : Nat) : Option Word := ((s.core core).icache.find? fun e => e.1 == pa / 4).map (·.2)

/-- The code word at a physical address: what its home holds or, where the core's instruction cache holds another, a free choice of the two, for
each word apart (R311). -/
def State.codeWord (s : State) (core pa : Nat) : Option Word :=
  (s.physNat pa 4).map fun n =>
    let new := BitVec.ofNat 32 n
    match s.icacheWord core pa with
    | none => new
    | some old => if old == new || s.freeBit .icache (pa / 4) then new else old

/-- The code word at a virtual address of a group (R311). -/
def State.fetchWord (s : State) (g : Group) (va : Nat) : FetchRes :=
  match s.translateFor g va .fetch with
  | .fault k => .fault k
  | .err => .err
  | .ok t =>
      match s.codeWord g.core t.pa with
      | some w => .word w
      | none => .err

/-- A group has fetched a code word: its core's instruction cache keeps it (R311), and its error there is found (R68). -/
def State.noteFetch (s : State) (g : Group) (va : Nat) : State :=
  match s.translateFor g va .fetch with
  | .ok t =>
      match s.codeWord g.core t.pa with
      | some w => (s.meetSram (some g.ctx) (.icache g.core (t.pa / 4)) (some true)).modCore g.core fun c =>
          if c.icache.contains (t.pa / 4, w) then c
          else { c with icache := pushTlb icacheWords (s.freeNat .icache 0 65535) (t.pa / 4, w) (c.icache.filter fun e => e.1 != t.pa / 4) }
      | none => s
  | _ => s

/-- Each core's instruction cache is invalidated (R311). -/
def State.dropIcaches (s : State) : State := { s with cores := s.cores.map fun c => { c with icache := [] } }

/-- How the fetch of an instruction ends: its two words (the second 0 where C = 0), or the fault or error of the word at an
address (R311). -/
inductive Fetched where
  | words (w0 w1 : Word)
  | fault (va kind : Nat)
  | err (va : Nat)
  deriving DecidableEq, Repr

/-- Fetch the instruction at a PC: the cuff word only where C = 1, before either word is decoded (R311). -/
def State.fetch (s : State) (g : Group) (pc : Pc) : Fetched :=
  match s.fetchWord g pc.toNat with
  | .fault k => .fault pc.toNat k
  | .err => .err pc.toNat
  | .word w0 =>
      if w0.getLsbD 30 then
        match s.fetchWord g (pc + 4).toNat with
        | .fault k => .fault (pc + 4).toNat k
        | .err => .err (pc + 4).toNat
        | .word w1 => .words w0 w1
      else .words w0 0

/-- What the caches keep of a fetch of an instruction: its page's translation and its words (R170, R311). -/
def State.noteFetched (s : State) (g : Group) (pc : Pc) (cuff : Bool) : State :=
  let s1 := (s.noteTlb g pc.toNat).noteFetch g pc.toNat
  if cuff then (s1.noteTlb g (pc + 4).toNat).noteFetch g (pc + 4).toNat else s1

/-! ### The part's own accesses to a context's memory (R62, R485) -/

/-- How an access of the part itself ends: what it read, or the fault kind (0 for an error indication) and the address. -/
inductive OwnRes where
  | ok (v : Nat)
  | lost (kind va : Nat)
  deriving DecidableEq, Repr

/-- Read n bytes of a context's memory for the part (V = 1 suffices). -/
def State.ownRead (s : State) (ctx : BitVec 5) (va : Nat) : Nat → OwnRes
  | 0 => .ok 0
  | n + 1 =>
      match s.translate ctx va .read with
      | .fault k => .lost k va
      | .err => .lost 0 va
      | .ok t =>
          match s.homeByte t.pa, State.ownRead s ctx (va + 1) n with
          | some b, .ok r => .ok (b.toNat + 256 * r)
          | some _, .lost k a => .lost k a
          | none, _ => .lost 0 va

/-- The first byte of a range that the part may not write, with the fault kind (0 for an error indication). -/
def State.ownWriteFault (s : State) (ctx : BitVec 5) (va : Nat) : Nat → Option (Nat × Nat)
  | 0 => none
  | n + 1 =>
      match s.translateOwn ctx va with
      | .fault k => some (k, va)
      | .err => some (0, va)
      | .ok t =>
          if (s.physByte t.pa).isSome then State.ownWriteFault s ctx (va + 1) n else some (0, va)

/-- Write n bytes of a number at a virtual address, byte by byte at home; tracked lines are counted by the caller. -/
def State.ownPut (s : State) (ctx : BitVec 5) (va v : Nat) : Nat → State
  | 0 => s
  | n + 1 =>
      let s' := match s.translateOwn ctx va with
        | .ok t => s.ctxPut ctx t.pa (BitVec.ofNat 8 v)
        | _ => s
      State.ownPut s' ctx (va + 1) (v / 256) n

/-- Write n bytes for the part, or nothing and the fault. A write through a tracked translation counts once per line (R190). -/
def State.ownWrite (s : State) (ctx : BitVec 5) (va v n : Nat) : Except (Nat × Nat) State :=
  match s.ownWriteFault ctx va n with
  | some e => .error e
  | none =>
      let lines := ((List.range n).map fun i => (va + i) / 128).eraseDups
      .ok (lines.foldl (fun t l =>
        match t.translateOwn ctx (max va (l * 128)) with
        | .ok r => if r.attr.track then t.incGen r.pa else t
        | _ => t) (s.ownPut ctx va v n))

end Sys2Proof.Machine
end

