-- ==== Sys2Proof/Machine/Events.lean ====
section
/-! DEFINITION. The context status record (R53), events of a context (R64), lost writes of the part's own (R485), and accesses to failed
lines (R49). -/

namespace Sys2Proof.Machine

/-! ### The context status record and lost writes (R53, R485) -/

/-- The record's bytes as one number (R53). -/
def Status.bytes (t : Status) : Nat :=
  (t.poisoned.toNat <<< 3 ||| t.osStall.toNat <<< 2 ||| t.stall.toNat <<< 1 ||| t.withheld.toNat)
    ||| t.spills.toNat <<< 64 ||| t.refills.toNat <<< 128 ||| t.memoChecked.toNat <<< 192 ||| t.memoMismatch.toNat <<< 256

/-- The part itself has met an error indication at a virtual address: of the line there, or of a table's (R49). -/
def State.noteOwnError (s : State) (ctx : BitVec 5) (va : Nat) : State :=
  let pas := s.tableEntries ctx va ++ match s.translate ctx va .read with
    | .ok t => [t.pa]
    | _ => []
  pas.foldl (fun t a => if t.lineBad a then t.noteBadAccess a (some ctx) else t) s

/-- The record and the event of a lost write of the part's own (R485). -/
def State.logLost (s : State) (ctx : BitVec 5) (queue : BitVec 8) (code kind va : Nat) : State :=
  let pa := match s.translateOwn ctx va with
    | .ok t => t.pa
    | _ => 0
  (if kind = 0 then s.noteOwnError ctx va else s).logError
    { cls := .ownWrite, unit := 5, index := 0, struct := 0, sub := queue.toNat, addr := pa,
      detail := code % 256 ||| (kind % 128) <<< 8 ||| va <<< 15, ctx := some ctx }

/-- OWN_WRITE_LOST (R64, R485). -/
def lostEvent (ctx : BitVec 5) (queue : BitVec 8) (code kind va : Nat) : EvRecord :=
  { type := 0x0B, code := BitVec.ofNat 8 code, queue := queue, ctx := ctx.setWidth 8, d0 := BitVec.ofNat 64 va, d1 := BitVec.ofNat 64 code,
    d2 := BitVec.ofNat 64 kind }

/-- Bring the status record up to date, now or once the host can be reached (R39, R53); a lost write is reported once between ENABLE and
DISABLE, with QUEUE 0xFF whatever the update was made for (R485; DESIGN CHOICE, log 89). -/
def State.updateStatus (s : State) (ctx : BitVec 5) : State :=
  let c := s.ctx ctx
  if s.ownHeld ctx c.desc.statusBase.toNat 40 then s.modCtx ctx fun c => { c with statusDue := true }
  else match s.ownWrite ctx c.desc.statusBase.toNat c.status.bytes 40 with
  | .ok s' => s'.modCtx ctx fun c => { c with statusDue := false }
  | .error (k, va) =>
      if c.lostReported then s.modCtx ctx fun c => { c with statusDue := false }
      else ((s.modCtx ctx fun c => { c with lostReported := true, statusDue := false }).logLost ctx 0xFF 5 k va).postRaw
        (lostEvent ctx 0xFF 5 k va)

/-- A write of the part's own is lost: a record of class OWN_WRITE and, after the status record, the event OWN_WRITE_LOST (R53, R485). -/
def State.ownLost (s : State) (ctx : BitVec 5) (queue : BitVec 8) (code kind va : Nat) : State :=
  ((s.logLost ctx queue code kind va).updateStatus ctx).postRaw (lostEvent ctx queue code kind va)

/-- The host can be reached again: status records that have waited are brought up to date, then held records are posted (R39, R66). -/
def State.hostReturns (s : State) : State :=
  (((List.range 32).map (BitVec.ofNat 5)).foldl (fun t c => if (t.ctx c).statusDue then t.updateStatus c else t) s).drainEvents

/-- Post an event of a context, its status record first (R53, R64). -/
def State.postCtx (s : State) (ctx : BitVec 5) (type code : Nat) (queue : BitVec 8) (d0 d1 d2 : Nat) : State :=
  (s.updateStatus ctx).postRaw
    { type := BitVec.ofNat 8 type, code := BitVec.ofNat 8 code, queue := queue, ctx := ctx.setWidth 8,
      d0 := BitVec.ofNat 64 d0, d1 := BitVec.ofNat 64 d1, d2 := BitVec.ofNat 64 d2 }

end Sys2Proof.Machine
end

