-- ==== Sys2Proof/Machine/Mem.lean ====
section
/-! DEFINITION. Memory as a group sees it: where an address lies (R163, R186, R371), what a load reads (R200), how stores,
atomics and write-backs are performed (R180 to R194, R199), releases and acquires (R201), and the race detector (R219, R220). -/

namespace Sys2Proof.Machine

/-! ### Teams and stash -/

/-- The team of rank r in the cluster of a team (R186, R371). -/
def State.teamOfRank (s : State) (t : Team) (r : Nat) : Option Team :=
  match t.index with
  | none => if r = 0 then some t else none
  | some _ => s.teams.find? fun u => u.launch == t.launch && u.clid == t.clid && u.first == t.first &&
      u.index == some (t.first + r)

/-- The rank of a team in its cluster (R186). -/
def Team.rank (t : Team) : Nat :=
  match t.index with
  | some i => i - t.first
  | none => 0

/-! ### Resolving an address -/

/-- The address that stands for a location reached by stash offset: beyond every virtual address. -/
def offVa (off : Nat) : Nat := 2 ^ 63 + off
/-- A location reached by stash offset. -/
def isOff (va : Nat) : Bool := decide (2 ^ 63 ≤ va)

/-- Where an access of a group goes. -/
structure Loc where
  va : Nat
  place : Place
  attr : Attr
  deriving DecidableEq, Repr

/-- How an address of a group resolves. -/
inductive LocRes where
  | ok (l : Loc)
  | fault (kind : Nat)
  | err
  deriving DecidableEq, Repr

/-- A stash location's attributes: COHERENT at its team's stash (R197). -/
def stashAttr : Attr := { coh := 2, cache := 0, track := false, memo := false, near := false }

/-- Resolve a virtual address of a group: translate it, and take the stash where a mapping of the team covers it (R186, R376), but not on a page
that the stash skips (R184). -/
def State.resolve (s : State) (g : Group) (va : Nat) (k : AccKind) : LocRes :=
  match s.translateFor g va k with
  | .fault n => .fault n
  | .err => .err
  | .ok t =>
      match s.team g.team with
      | none => .ok ⟨va, .phys t.pa, t.attr⟩
      | some tm =>
          match tm.mapOf va with
          | some (_, m) =>
              if t.attr.cache == 2 then .fault 6
              else if t.attr.cache == 1 then .ok ⟨va, .phys t.pa, t.attr⟩
              else .ok ⟨va, .stash tm.uid (m.off + (va - m.va)), t.attr⟩
          | none => .ok ⟨va, .phys t.pa, t.attr⟩

/-- The path that a queued write of a group takes as it is performed: by a mapping that its team has installed since, or no longer by one that
has been removed; both see the same memory (R200, R382, R383). -/
def State.placeNow (s : State) (g : Group) (va : Nat) (place : Place) (attr : Attr) : Place :=
  if isOff va then place
  else match (s.team g.team).bind fun t => (t.mapOf va).map fun km => (t.uid, km.2.off + (va - km.2.va)) with
    | some (tu, off) => if attr.cache != 0 then place else .stash tu off
    | none => match place with
        | .phys _ => place
        | .stash _ _ => match s.translateFor g va .write with
            | .ok t => .phys t.pa
            | _ => place

/-- The location of a byte k further within one access (accesses are naturally aligned, so they stay in one page and line). -/
def Loc.plus (l : Loc) (k : Nat) : Loc :=
  { l with va := l.va + k,
           place := match l.place with
             | .phys pa => .phys (pa + k)
             | .stash t o => .stash t (o + k) }

/-! ### Mapped lines (R186, R187) -/

/-- The stash lines of a mapping that hold dirty bytes. -/
def StashMap.dirtyLines (m : StashMap) : List Nat := (m.dirty.map fun o => o / 128).eraseDups

/-- Write back every dirty line of mapping k of a team (R186). -/
def State.writeBackMap (s : State) (tu k : Nat) : State :=
  match ((s.team tu).bind fun t => t.maps.getD k none) with
  | none => s
  | some m => m.dirtyLines.foldl (fun u ln => u.writeBackStash tu ln false) s

/-- Write back every dirty mapped line of a team (R85, R186). -/
def State.writeBackTeam (s : State) (tu : Nat) : State := (List.range 8).foldl (fun u k => u.writeBackMap tu k) s

/-- Fill the mapped stash line of an offset from memory on its first touch (R186); a line that cannot be read stays unfilled, and
reads of it end with an error indication (R373). -/
def State.fillMapped (s : State) (core tu off : Nat) : State :=
  match s.team tu with
  | none => s
  | some t =>
      match t.mapAt off with
      | none => s
      | some (k, m) =>
          let ln := off / 128
          if (t.filledAt ln).isSome then s
          else
            let va := m.va + (ln * 128 - m.off)
            match s.translate t.ctx va .read with
            | .ok r =>
                let s0 := if r.attr.near then s.touchNear core r.pa else s
                let s1 := if r.attr.coh == 2 then (s0.recall r.pa false).share t.core (lineOf r.pa) else s0
                let got := (List.range 128).map fun i => s1.cachedByte core t.ctx r.attr (r.pa + i)
                let bytes := got.map (·.getD 0)
                if got.contains none then s1
                else s1.modTeam tu fun t =>
                  let w : MapLine := { ln := ln, line := lineOf r.pa, coh := r.attr.coh, track := r.attr.track }
                  { t with stash := (List.range 128).foldl (fun m i => sset 0 (ln * 128 + i) (bytes.getD i 0) m) t.stash
                           maps := t.maps.set k (some { m with filled := w :: m.filled }) }
            | _ => s

/-! ### SRAM errors that a group's access finds (R68) -/

/-- The SRAM word that an access of a core to a place reads, and whether memory has a clean copy where the state says it: the core's own copy of
the line, else the slice's; or the stash's. -/
def State.placeSram (s : State) (core : Nat) (p : Place) : SramAt × Option Bool :=
  match p with
  | .phys pa =>
      match (s.core core).l1.find? (fun e => e.1 == lineOf pa) with
      | some e => (.l1 core (lineOf pa), some (e.2.dirty == 0))
      | none => (.slice (lineOf pa), none)
  | .stash tu off => (.stash tu (off / 128), some ((s.stashLine tu (off / 128)).isSome && ((s.team tu).all fun t => (t.dirtyOf (off / 128)).isEmpty)))

/-- The access to a place completes with an error indication for an SRAM error (R68). -/
def State.placeLost (s : State) (core : Nat) (p : Place) : Bool := s.sramLoses (s.placeSram core p).1 (s.placeSram core p).2

/-- An access to a place finds its SRAM error, but for a lost line of a slice (State.noteBadAccess); a mapped line whose data are lost is dropped,
and its X given up (R68, R194). -/
def State.meetPlace (s : State) (core : Nat) (ctx : BitVec 5) (p : Place) : State :=
  let a := s.placeSram core p
  let s1 := match a.1 with
    | .slice line => if s.lineBad (line * 128) then s else s.meetSram (some ctx) a.1 a.2
    | _ => s.meetSram (some ctx) a.1 a.2
  match p, s.placeLost core p with
  | .stash tu off, true =>
      match s.stashLine tu (off / 128) with
      | none => s1
      | some w => (({ s1 with sram := s1.sram.filter fun x => x.at_ != a.1 }).modTeam tu fun t => t.cleanLine (off / 128) true).modDir w.line
          fun d => if d.owner = some (tu, off / 128) then { d with owner := none } else d
  | _, _ => s1

/-! ### Loads -/

/-- The group's own latest write, not yet performed, to a place, or to its virtual address by another path (R200 item 2). -/
def Group.forward (g : Group) (p : Place) (va : Nat) : Option Byte :=
  g.ops.foldl (fun acc o =>
    match o.body with
    | .store ws _ => if o.perf then acc else ws.foldl (fun a w => if w.place = p || w.va = va then some w.val else a) acc
    | _ => acc) none

/-- The place of a byte at its home: a mapped stash byte's is in memory (R186). -/
def State.homePlace (s : State) (p : Place) : Place :=
  match p with
  | .phys pa => .phys pa
  | .stash tu off => match s.stashLine tu (off / 128) with
    | some w => .phys (w.line * 128 + off % 128)
    | none => p

/-- The value that a byte has for a group's loads in a deterministic round, where atomics of the round have written it: what the group's own wrote,
else what it held as the round started (R217). -/
def State.roundByte (s : State) (g : Group) (p : Place) : Option Byte :=
  match s.launch g.launch with
  | none => none
  | some l => if l.roundOld.isEmpty then none
      else
        let h := s.homePlace p
        match g.roundOwn.find? fun e => e.1 == h with
        | some e => some e.2
        | none => (l.roundOld.find? fun e => e.1 == h).map (·.2)

/-- The live launch of a context in whose arena's first 4096 bytes, the part's own, an address lies (R132). -/
def State.bookOf (s : State) (ctx : BitVec 5) (va : Nat) : Option Launch :=
  s.launches.find? fun l => l.ctx == ctx && l.ld.arenaBase != 0 && decide (l.ld.arenaBase.toNat ≤ va) && decide (va < l.ld.arenaBase.toNat + 4096)

/-- What a write of software to the part's own bytes of an arena does to one run: it stays, is lost or repeated, or moves within the arena (R132). -/
def State.strayRun (s : State) (cells i : Nat) (r : ArenaRun) : List ArenaRun :=
  match s.freeNat .arena (2 ^ 60 + 4 * i) 3 with
  | 0 => [r]
  | 1 => []
  | 2 => [r, r]
  | _ => [{ r with cell := s.freeNat .arena (2 ^ 60 + 4 * i + 1) (cells - r.n) }]

/-- A group has written at a virtual address: in the part's own bytes of an arena, it disturbs that launch's reservations, commits and consumer groups,
and the launch may never complete (R132). -/
def State.noteBook (s : State) (ctx : BitVec 5) (va : Nat) : State :=
  match s.bookOf ctx va with
  | none => s
  | some l => s.modLaunch l.uid fun m =>
      { m with arena := m.arena.zipIdx.flatMap fun ri => s.strayRun ((m.ld.arenaSize - 4096) / 64) ri.2 ri.1
               stuck := m.stuck || s.freeBit .arena (va * 4 + 2) }

/-- What a place holds for a read of a group, its own queued writes apart; none is an error indication (R200, R373). via: reached through a
mapping of the team, or by a translated address; a stash form reads a live mapping's range as free bytes (R378). -/
def State.heldByte (s : State) (g : Group) (l : Loc) (via : Bool) : Option Byte :=
  match l.place with
  | .phys pa => s.cachedByte g.core g.ctx l.attr pa
  | .stash tu off =>
      match s.team tu with
      | none => none
      | some t =>
          match t.mapAt off with
          | some (_, m) =>
              if !via || m.spoiled.contains off then some (s.freeByte .stash off)
              else if (t.filledAt (off / 128)).isSome then some (sget 0 t.stash off) else none
          | none => some (sget 0 t.stash off)

/-- The byte that a read of a group finds at a place: a free one in the part's own bytes of an arena (R132). -/
def State.placeByte (s : State) (g : Group) (l : Loc) (via : Bool) : Option Byte :=
  (s.heldByte g l via).map fun b => if (s.bookOf g.ctx l.va).isSome then s.freeByte .arena (l.va * 4 + 3) else b

/-- The byte a load of a group reads at a place (R200): its own latest write that is not performed yet; in a deterministic round what R217 gives; else
what the place holds. -/
def State.loadByte (s : State) (g : Group) (l : Loc) (via : Bool) : Option Byte :=
  if (s.bookOf g.ctx l.va).isSome then s.placeByte g l via
  else ((g.forward l.place l.va).orElse fun _ => s.roundByte g l.place).orElse fun _ => s.placeByte g l via

/-- n bytes, little-endian, from a location; none where any completes with an error indication. -/
def State.loadNat (s : State) (g : Group) (l : Loc) (via : Bool) (n : Nat) : Option Nat :=
  (List.range n).foldr (fun k acc =>
    match s.loadByte g (l.plus k) via, acc with
    | some b, some r => some (b.toNat + 256 * r)
    | _, _ => none) (some 0)

/-- What a load of a location does to the caches: a mapped fill, and an L1 fill, unless the load returned a copy that the core holds, which then
stays (R180, R186, R200). -/
def State.touchLoad (s : State) (g : Group) (l : Loc) : State :=
  match l.place with
  | .phys pa => if (s.l1Byte g.core g.ctx pa).isSome && s.freeBit .l1 (lineOf pa * 16) then s else s.fillL1 g.core g.ctx l.attr pa
  | .stash tu off => if isOff l.va then s else s.fillMapped g.core tu off

/-- What must have happened before a load reads: recalls of lines that stashes own, and fills (R186, R187). -/
def State.prepareLoad (s : State) (g : Group) (l : Loc) : State :=
  match l.place with
  | .phys pa => s.recall pa false
  | .stash tu off => if isOff l.va then s else s.fillMapped g.core tu off

/-! ### Stores performed -/

/-- The lines of a launch's writes, for its digest (R218). -/
def State.noteLine (s : State) (launch va : Nat) : State :=
  s.modLaunch launch fun l => if l.desc.det && l.ld.digest && !l.lines.contains (va / 128) && !isOff va then
    { l with lines := va / 128 :: l.lines } else l

/-- Perform one byte of a group's store (R180, R199): dirty in the core's L1 on a PRIVATE line, in the stash, or at home. -/
def State.putByte (s : State) (core launch : Nat) (ctx : BitVec 5) (w : ByteWrite) : State :=
  let s := (s.noteLine launch w.va).noteBook ctx w.va
  match w.place with
  | .phys pa =>
      if w.attr.coh == 0 && w.attr.cache == 0 && !w.attr.track && inDram pa then s.dirtyByte core ctx w.attr pa w.val
      else (s.ctxPut ctx pa w.val).updateCopy core pa w.val
  | .stash tu off =>
      if isOff w.va then
        s.modTeam tu fun t =>
          match t.mapAt off with
          | some (k, m) => { t with stash := sset 0 off (s.freeByte .stash off) t.stash
                                    maps := t.maps.set k (some { m with spoiled := off :: m.spoiled }) }
          | none => { t with stash := sset 0 off w.val t.stash }
      else
        -- a mapped line: filled first, and owned before it is made dirty; every write of a TRACK page goes through to the home
        let s1 := s.fillMapped core tu off
        match (s1.team tu).bind fun t => t.filledAt (off / 128) with
        | none => s1
        | some r =>
            let s2 := if w.attr.track then s1.ctxPut ctx (r.line * 128 + off % 128) w.val
              else if r.coh == 2 then s1.takeX (r.line * 128) (some (tu, off / 128)) else s1
            s2.modTeam tu fun t =>
              match t.mapAt off with
              | some (k, m) => { t with stash := sset 0 off w.val t.stash
                                        maps := t.maps.set k (some { m with dirty := if w.attr.track || m.dirty.contains off then m.dirty else off :: m.dirty }) }
              | none => { t with stash := sset 0 off w.val t.stash }

/-- The physical line of a place: of a mapped stash line, the one that it was filled from (R186). -/
def State.physLine (s : State) (p : Place) : Option Nat :=
  match p with
  | .phys pa => some (lineOf pa)
  | .stash tu off => ((s.team tu).bind fun t => t.filledAt (off / 128)).map (·.line)

/-- One physical address of each tracked line of a store's writes, by whatever path it reached its home (R190). -/
def State.trackedLines (s : State) (ws : List ByteWrite) : List Nat :=
  (ws.filterMap fun w => if w.attr.track then (s.physLine w.place).map (· * 128) else none).eraseDups

/-- Perform a store's bytes in order, lanes ascending, so that the highest lane's value stays (R198), and count the generation
of each tracked line once (R190). -/
def State.putBytes (s : State) (core launch : Nat) (ctx : BitVec 5) (ws : List ByteWrite) : State :=
  let t := ws.foldl (fun t w => t.putByte core launch ctx w) s
  (t.trackedLines ws).foldl State.incGen t

/-! ### Atomics (R191 to R193, R379, R380) -/

/-- The new value of an atomic: AOP of R379, 8 exchange, 9 compare and swap (a operand or expected, b new); none: no write. -/
def atomNew (op : Nat) (w : Nat) (old a b : Nat) : Option Nat :=
  let sg := fun x : Nat => (BitVec.ofNat w x).toInt
  match op with
  | 0 => some ((old + a) % 2 ^ w)
  | 1 => some (old &&& a)
  | 2 => some (old ||| a)
  | 3 => some (old ^^^ a)
  | 4 => some (if sg a < sg old then a else old)
  | 5 => some (if sg old < sg a then a else old)
  | 6 => some (min old a)
  | 7 => some (max old a)
  | 8 => some a
  | _ => if old = a then some b else none

/-- The bytes of a number, little-endian, with their offsets. -/
def bytesOf (n v : Nat) : List (Nat × Byte) := (List.range n).map fun k => (k, BitVec.ofNat 8 (v >>> (8 * k)))

/-- The physical address of an atomic's lane, and the state once its line can be read at home: the core's own copy of a PRIVATE line has been
written back and dropped; a line that a stash owns, or that the team maps, has been recalled (R187, R191, R380). None: the mapped page no longer
translates. -/
def State.atomLine (s : State) (core : Nat) (ctx : BitVec 5) (l : AtomLane) : Option Nat × State :=
  let clean := fun (s : State) (pa : Nat) =>
    if l.attr.coh == 0 then s.cleanL1 core (fun n x => n == lineOf pa && x.ctx == ctx) (fun n x => n == lineOf pa && x.ctx == ctx) else s.recall pa true
  match l.place with
  | .phys pa => (some pa, clean s pa)
  | .stash tu off =>
      let s1 := s.writeBackStash tu (off / 128) true
      match s1.translate ctx l.va .write with
      | .ok r => (some r.pa, clean s1 r.pa)
      | _ => (none, s1)

/-- Replace or add the value of a place. -/
def setPlace (p : Place) (b : Byte) (m : List (Place × Byte)) : List (Place × Byte) := (p, b) :: m.filter fun e => e.1 != p

/-- An atomic of a deterministic launch writes a word within a round: what its bytes held as the round started, and what the group's loads read
from then on, are kept (R217). -/
def State.noteRound (s : State) (g : Group) (coh : BitVec 2) (pa n old new : Nat) : State :=
  if !(s.descOf g).det || coh != 2 then s
  else
    let s1 := s.modLaunch g.launch fun l => { l with roundOld := (bytesOf n old).foldl (fun m kb =>
      if m.any fun e => e.1 == Place.phys (pa + kb.1) then m else (Place.phys (pa + kb.1), kb.2) :: m) l.roundOld }
    s1.modGroup g.uid fun h => { h with roundOwn := (bytesOf n new).foldl (fun m kb => setPlace (.phys (pa + kb.1)) kb.2 m) h.roundOwn }

/-- The sector of a location's checked write takes a new shadow (R219). -/
def State.shadowAt (s : State) (g : Group) (coh : BitVec 2) (pa : Nat) (atomic : Bool) : State :=
  if (s.descOf g).raceMode = 0 || coh != 2 then s
  else
    let slot := 12 * g.part + g.slot
    let sh : Shadow := { core := BitVec.ofNat 7 g.core, slot := BitVec.ofNat 6 slot, serial := sget 0 (s.core g.core).serials slot,
                         phases := ((s.group g.uid).getD g).phases, atomic := atomic }
    { s with dram := { s.dram with shadow := sput (pa / 32) sh s.dram.shadow } }

/-- Apply one lane of a group's atomic at its home: its old value, none on an error indication (R373); and the line that it wrote through a TRACK
translation (R190). -/
def State.atomLane (s : State) (g : Group) (op w : Nat) (l : AtomLane) : Option Nat × State × Option Nat :=
  match s.atomLine g.core g.ctx { l with place := s.placeNow g l.va l.place l.attr } with
  | (none, s0) => (none, s0, none)
  | (some pa, s0) =>
      let s1 := s0.meetSram (some g.ctx) (.slice (lineOf pa)) none
      if s0.sramLoses (.slice (lineOf pa)) none then (none, s1, none)
      else match s1.physNat pa (w / 8) with
      | none => (none, s1.noteBadAccess pa (some g.ctx), none)
      | some held =>
          let old := if (s.bookOf g.ctx l.va).isSome then s.freeNat .arena (l.va * 4) (2 ^ w - 1) else held
          match atomNew op w old l.a l.b with
          | none => (some old, s1, none)
          | some v => (some old, (bytesOf (w / 8) v).foldl (fun t kb => (t.physPut (pa + kb.1) kb.2).updateCopy g.core (pa + kb.1) kb.2)
              ((((s1.noteLine g.launch l.va).noteBook g.ctx l.va).noteRound g l.attr.coh pa (w / 8) old v).shadowAt g l.attr.coh pa true),
              if l.attr.track then some (lineOf pa) else none)

/-- Late writes of one lane's value into registers, low word first. -/
def lateOf (vec : Bool) (regs : List Nat) (lane v : Nat) : List LateWrite :=
  regs.zipIdx.map fun rk =>
    { vec := vec, reg := rk.1, lane := lane, value := BitVec.ofNat 32 (v >>> (32 * rk.2)), contested := false, landed := false,
      prev := 0 }

/-- Apply lanes of an atomic one after another (R193): their late writes, the lanes that failed, the lines written. -/
def State.atomLanes (s : State) (g : Group) (op w : Nat) (dest : List Nat) :
    List AtomLane → List LateWrite × List (Nat × Nat) × List Nat × State
  | [] => ([], [], [], s)
  | l :: r =>
      match s.atomLane g op w l with
      | (old, s1, wrote) =>
          match State.atomLanes s1 g op w dest r with
          | (ws, bad, lines, s2) =>
              let ws' := match old with
                | some v => lateOf true dest l.lane v ++ ws
                | none => ws
              let bad' := if old.isSome then bad else (l.lane, l.va) :: bad
              (ws', bad', wrote.toList ++ lines, s2)

/-! ### In-flight operations -/

/-- Change the operation with a unique number. -/
def Group.modOp (g : Group) (uid : Nat) (f : Op → Op) : Group :=
  { g with ops := g.ops.map fun o => if o.uid = uid then f o else o }

/-- A boundary trap becomes due; one of its cause that is already due at that boundary stands for both (R373, R435). -/
def Group.due (g : Group) (p : Pending) : Group :=
  if g.pending.any fun q => q.cause == p.cause && q.row == p.row then g else { g with pending := g.pending ++ [p] }

/-- A boundary trap that any row may take (R435): INSN and ELECTED are 0. -/
def boundary (cause : Nat) (detail : Word) (va : Nat) (lanes : Mask) : Pending :=
  { cause := cause, detail := detail, va := va, lanes := lanes, row := none, insn := 0, elected := 0 }

/-- MEM_ERROR at the next instruction boundary (R373). -/
def memError (e : ErrInfo) : Pending := boundary 0x35 0 e.va e.lanes

/-- The error information of failed lanes: the lowest lane's address (R373). -/
def errOf (bad : List (Nat × Nat)) : Option ErrInfo :=
  match bad with
  | [] => none
  | b :: r =>
      let low := r.foldl (fun m x => if x.1 < m.1 then x else m) b
      some { va := low.2, lanes := (b :: r).foldl (fun m x => m ||| (1#96 <<< x.1)) 0 }

/-- The failed lanes of two parts of one operation: it takes one trap (R373). -/
def ErrInfo.merge (a : Option ErrInfo) (b : Option ErrInfo) : Option ErrInfo :=
  match a, b with
  | some x, some y =>
      let first := (List.range 96).find? fun l => (x.lanes ||| y.lanes).getLsbD l
      some { va := if (first.map x.lanes.getLsbD).getD true then x.va else y.va, lanes := x.lanes ||| y.lanes }
  | none, y => y
  | x, none => x

/-- A late write has landed over what an instruction wrote: those of its class issued after it land over it too (R160). -/
def uncontest (c : Option Cls) (w : LateWrite) (ops : List Op) : List Op :=
  ops.map fun o => if o.cls = c then
      { o with late := o.late.map fun x => if x.vec == w.vec && x.reg == w.reg && x.lane == w.lane && !x.landed then { x with contested := false } else x }
    else o

/-- Land one late write of a class: the value, or where an instruction wrote the lane meanwhile a free choice (R160). -/
def Group.landOne (s : State) (g : Group) (c : Option Cls) (w : LateWrite) : Group :=
  let keep := w.contested && s.freeBit .landing (w.reg * 128 + w.lane)
  if keep then g
  else
    let g1 := if w.vec then g.vput w.reg ((g.vraw w.reg).set w.lane w.value) else g.sput w.reg w.value
    if w.contested then { g1 with ops := uncontest c w g1.ops } else g1

/-- Record, in an operation, what each of its late writes replaces as it lands. -/
def Group.markLanded (g : Group) (o : Op) : Op :=
  { o with late := o.late.map fun w =>
      { w with landed := true, prev := if w.vec then laneOf (g.vraw w.reg) w.lane else g.sraw w.reg } }

/-- Complete an operation: its count falls, its late writes land, its flags and its error arrive (R157, R158, R230, R373). -/
def Group.complete (s : State) (g : Group) (o : Op) : Group :=
  let o' := g.markLanded o
  let g1 := o'.late.foldl (fun h w => h.landOne s o.cls w) g
  let g2 := if o.flags = 0 then g1 else g1.orFlagsLate o.uid o.flags
  let g3 := match o.body with
    | .load (some e) => g2.due (memError e)
    | .store _ (some e) => g2.due (memError e)
    | .atomic _ _ _ _ => match o.err with
        | some e => g2.due (memError e)
        | none => g2
    | .reserve _ _ => g2.setStatusBit 5 (o.late.all fun w => w.value == 0)
    | _ => g2
  g3.modOp o.uid fun _ => { o' with done := true }

/-- Let counts fall in issue order: complete every performed operation of a class whose earlier ones are done (R157). -/
def settleOps (s : State) (g : Group) : List Op → List Cls → Group
  | [], _ => g
  | o :: r, held =>
      if o.done then settleOps s g r held
      else
        match o.cls with
        | none => if o.perf then settleOps s (g.complete s o) r held else settleOps s g r held
        | some c =>
            if o.perf && !held.contains c then settleOps s (g.complete s o) r held
            else settleOps s g r (c :: held)

/-- An operation is kept until it is done and, in the classes that have late writes, covered (R159). -/
def Op.kept (o : Op) : Bool := !o.done || o.cls == some .ld || o.cls == some .tl

/-- Settle a group's operations. -/
def Group.settle (s : State) (g : Group) : Group :=
  let g' := settleOps s g g.ops []
  { g' with ops := g'.ops.filter Op.kept }

/-- Settle one group of the state. -/
def State.settle (s : State) (uid : Nat) : State := s.modGroup uid fun g => g.settle s

/-- Mark an operation's result complete. -/
def State.markPerf (s : State) (uid op : Nat) : State := s.modGroup uid fun g => g.modOp op fun o => { o with perf := true }

/-- A byte of a store cannot be written: its line's access ends with an error indication, or its mapped line could not be filled (R35, R49,
R68, R186). -/
def State.writeFails (s : State) (core : Nat) (w : ByteWrite) : Bool :=
  s.placeLost core w.place || (match w.place with
    | .phys pa => (s.physByte pa).isNone
    | .stash tu off => !isOff w.va && ((s.team tu).any fun t => (t.mapAt off).isSome && (t.filledAt (off / 128)).isNone))

/-- Every mapped line that some writes touch is filled (R186), and each line's SRAM errors are found (R68). -/
def State.prepareStore (s : State) (g : Group) (ws : List ByteWrite) : State :=
  ws.foldl (fun t w => match w.place with
    | .stash tu off => if isOff w.va then t else t.fillMapped g.core tu off
    | .phys _ => t) s

/-- Bytes of a store of a group reach their homes (R199), the others stay; an error indication of a byte makes MEM_ERROR due (R373). -/
def State.performStore (s : State) (g : Group) (o : Op) (queued rest : List ByteWrite) : State :=
  let ws := queued.map fun w => { w with place := s.placeNow g w.va w.place w.attr }
  let s0 := s.prepareStore g ws
  let bad := ws.filter (s0.writeFails g.core)
  let s1 := if s0.sram.isEmpty then s0 else ((ws.map (·.place)).eraseDups).foldl (fun t p => t.meetPlace g.core g.ctx p) s0
  let s2 := s1.putBytes g.core g.launch g.ctx (ws.filter fun w => !bad.contains w)
  let s3 := (bad.filterMap fun w => match w.place with
    | .phys pa => some (lineOf pa * 128)
    | .stash _ _ => none).eraseDups.foldl (fun t a => t.noteBadAccess a (some g.ctx)) s2
  let e := bad.head?.map fun w => ({ va := w.va, lanes := 0 } : ErrInfo)
  s3.modGroup g.uid fun h => h.modOp o.uid fun p =>
    match p.body with
    | .store _ e' => { p with perf := rest.isEmpty, body := .store rest (e'.orElse fun _ => e) }
    | _ => { p with perf := true }

/-- Write back, and for CINV drop, what a group's core holds of a virtual range (R384). -/
def State.cleanRange (s : State) (g : Group) (lo hi : Nat) (inval : Bool) : State :=
  let vas := if lo = hi then [] else (List.range ((hi - 1) / 128 - lo / 128 + 1)).map fun i => (lo / 128 + i) * 128
  vas.foldl (fun u va =>
    match u.translateFor g va .read with
    | .ok r =>
        let u1 := u.cleanL1 g.core (fun n x => n == lineOf r.pa && x.ctx == g.ctx)
          (fun n x => inval && n == lineOf r.pa && x.ctx == g.ctx)
        match (u1.team g.team).bind fun t => (t.mapOf va).map fun km => (t.uid, (km.2.off + (va - km.2.va)) / 128) with
        | none => u1
        | some (tu, ln) => u1.writeBackStash tu ln inval
    | _ => u) s

/-- The core writes back and drops its copies of a range (R382). -/
def State.dropRange (s : State) (g : Group) (lo hi : Nat) : State := s.cleanRange g lo hi true

/-- Finish the removal of a mapping: its dirty lines are written back, and its stash bytes are unpredictable (R383). -/
def State.finishUnmap (s : State) (tu k : Nat) : State :=
  match (s.team tu).bind fun t => t.maps.getD k none with
  | none => s
  | some m =>
      (s.writeBackMap tu k).modTeam tu fun t =>
        { t with stash := (List.range m.len).foldl (fun st i => sset 0 (m.off + i) (s.freeByte .stash (m.off + i)) st) t.stash
                 maps := t.maps.set k none }

/-- Install a mapping for every group of a team (R382). -/
def State.installMap (s : State) (tu m va off len : Nat) : State :=
  s.modTeam tu fun t => t.setMap m (some { va := va, off := off, len := len, filled := [], dirty := [], spoiled := [] })

/-! ### Barriers (R207 to R213) -/

/-- The four words of a barrier object in a team's stash. -/
def Team.stashWord (t : Team) (off : Nat) : Nat :=
  (sget 0 t.stash off).toNat + 256 * (sget 0 t.stash (off + 1)).toNat + 65536 * (sget 0 t.stash (off + 2)).toNat
    + 16777216 * (sget 0 t.stash (off + 3)).toNat

/-- Write a word of a team's stash. -/
def Team.putStashWord (t : Team) (off v : Nat) : Team :=
  { t with stash := (bytesOf 4 v).foldl (fun m kb => sset 0 (off + kb.1) kb.2 m) t.stash }

/-- A barrier object's fields (R207). -/
structure Bar where
  phase : Nat
  expected : Nat
  arrived : Nat
  drops : Nat
  maxreg : Nat
  xteam : Bool
  balCur : Word
  balNext : Word
  deriving DecidableEq, Repr

/-- Read a barrier object (R207). -/
def Team.bar (t : Team) (off : Nat) : Bar :=
  let w0 := t.stashWord off
  let w1 := t.stashWord (off + 4)
  { phase := bitsOf w0 15 0, expected := bitsOf w0 23 16, arrived := bitsOf w0 31 24, drops := bitsOf w1 7 0,
    maxreg := bitsOf w1 15 8, xteam := bitsOf w1 16 16 == 1, balCur := BitVec.ofNat 32 (t.stashWord (off + 8)),
    balNext := BitVec.ofNat 32 (t.stashWord (off + 12)) }

/-- Write a barrier object; bits [63:49] of its first word are kept as they are. -/
def Team.putBar (t : Team) (off : Nat) (b : Bar) : Team :=
  let hi := bitsOf (t.stashWord (off + 4)) 31 17
  (((t.putStashWord off (b.phase % 65536 + (b.expected % 256) <<< 16 + (b.arrived % 256) <<< 24)).putStashWord (off + 4)
    (b.drops % 256 + (b.maxreg % 256) <<< 8 + b.xteam.toNat <<< 16 + hi <<< 17)).putStashWord (off + 8)
    b.balCur.toNat).putStashWord (off + 12) b.balNext.toNat

/-- Test (R210). maxDrops: the dropped registrations include the group that MAXREG names. -/
def Bar.test (b : Bar) (maxDrops : Bool) : Bar :=
  if 0 < b.expected && b.arrived == b.expected && b.balCur == 0 then
    { b with phase := (b.phase + 1) % 65536, arrived := 0, expected := (b.expected - b.drops) % 256, drops := 0,
             maxreg := if maxDrops then 0 else b.maxreg, balCur := b.balNext, balNext := 0 }
  else b

/-- Join (R210). -/
def Bar.join (b : Bar) (who : Nat) (xteam : Bool) : Bar :=
  { b with expected := (b.expected + 1) % 256, maxreg := max b.maxreg (1 + who), xteam := b.xteam || xteam }
/-- Arrive, before Test (R210). -/
def Bar.arrive (b : Bar) (drop : Bool) : Bar :=
  { b with arrived := (b.arrived + 1) % 256, drops := if drop then (b.drops + 1) % 256 else b.drops }
/-- Expect (R210). -/
def Bar.expect (b : Bar) (n : Word) : Bar := { b with balCur := b.balCur + n }
/-- Land (R210). -/
def Bar.land (b : Bar) (k : Nat) (par : Bool) : Bar :=
  if par == (b.phase % 2 == 1) then { b with balCur := b.balCur - BitVec.ofNat 32 k }
  else { b with balNext := b.balNext - BitVec.ofNat 32 k }

/-- The number of a group in MAXREG: rank × 16 + GRPID (R207). -/
def State.barWho (s : State) (g : Group) (owner : Nat) : Nat :=
  match s.team g.team, s.team owner with
  | some t, some _ => t.rank * 16 + g.gid
  | _, _ => g.gid

/-- A row that waits at a barrier of a team whose PHASE has left the phase that it was given is released for good (R214). -/
def BarWait.latch (t : Team) (w : BarWait) : BarWait :=
  if w.team == t.uid && (t.bar w.off).phase != w.phase then { w with passed := true } else w

/-- Latch the rows that wait at a team's barriers after its stash has changed (R214). -/
def State.latchBars (s : State) (tu : Nat) : State :=
  match s.team tu with
  | none => s
  | some t => if s.groups.all fun g => g.barWaits.isEmpty then s
      else { s with groups := s.groups.map fun g => { g with barWaits := g.barWaits.map (BarWait.latch t) } }

/-- Apply an operation and then Test to the barrier at an offset of a team's stash (R210). An advance takes the dropped registrations with it. -/
def State.barApply (s : State) (loc : Nat × Nat) (f : Bar → Bar) : State :=
  match s.team loc.1 with
  | none => s
  | some t =>
      let b := f (t.bar loc.2)
      let b' := b.test (b.maxreg != 0 && t.barDrops.contains (loc.2, b.maxreg - 1))
      (s.modTeam loc.1 fun t =>
        let u := t.putBar loc.2 b'
        if b'.phase = b.phase then u else { u with barDrops := u.barDrops.filter fun d => d.1 != loc.2 }).latchBars loc.1

/-- A group's registration at a barrier is among those that leave at the next advance (R210). -/
def State.noteDrop (s : State) (g : Group) (loc : Nat × Nat) : State :=
  s.modTeam loc.1 fun t => { t with barDrops := (loc.2, s.barWho g loc.1) :: t.barDrops }

/-! ### The race detector (R219, R220) -/

/-- Whether two groups lie in one scope: the narrowest of team 0, cluster 1, device 2 (R219). -/
def State.narrowest (s : State) (a b : Group) : Nat :=
  if a.team = b.team then 0
  else match s.team a.team, s.team b.team with
    | some t, some u => if t.launch == u.launch && t.clid == u.clid && t.first == u.first && t.index.isSome then 1 else 2
    | _, _ => 2

/-- The shadow of an access's sector says that it races (R219): the writer's core and slot. -/
def State.raceOn (s : State) (h : Group) (pa : Nat) (atomic : Bool) : Option (Nat × Nat) :=
  match s.dram.shadow.find? (fun e => e.1 == pa / 32) with
  | none => none
  | some (_, sh) =>
      match s.groups.find? fun g => g.core == sh.core.toNat && 12 * g.part + g.slot == sh.slot.toNat && g.uid != h.uid && g.ctx == h.ctx && s.onCore g with
      | none => none
      | some g =>
          let k := s.narrowest g h
          if sget 0 (s.core sh.core.toNat).serials sh.slot.toNat == sh.serial && g.phases.getD k 0 == sh.phases.getD k 0
              && !(sh.atomic && atomic) then some (sh.core.toNat, sh.slot.toNat) else none

/-- Append a record to the race-detector log, or drop and count it (R220, R485). kind: 1 load, 2 store, 3 atomic. -/
def State.raceLog (s : State) (g : Group) (kind va pc : Nat) (w : Nat × Nat) : State :=
  let c := s.ctx g.ctx
  let team := match s.team g.team with
    | some t => (t.index.getD 0xFFFFFFFF) % 2 ^ 32
    | none => 0
  let base := c.desc.raceLogBase.toNat
  let off := 32 + 32 * c.raceWritten.toNat
  let q := match s.launch g.launch with
    | some l => l.queue.setWidth 8
    | none => 0xFF#8
  if c.desc.raceLogSize.toNat < off + 32 then
    let d := satInc c.raceDropped
    let s1 := s.modCtx g.ctx fun c => { c with raceDropped := d }
    match s1.ownWrite g.ctx base (c.raceWritten.toNat + d.toNat <<< 32) 8 with
    | .ok s2 => s2
    | .error (k, a) => s1.ownLost g.ctx q 6 k a
  else
    let v := (kind <<< 56 ||| va) + (team ||| g.core <<< 32 ||| (12 * g.part + g.slot) <<< 40) <<< 64
      + (w.1 ||| w.2 <<< 8) <<< 128 + (pc % 2 ^ 32) <<< 192
    match s.ownWrite g.ctx (base + off) v 32 with
    | .error (k, a) => s.ownLost g.ctx q 6 k a
    | .ok s1 =>
        let s2 := s1.modCtx g.ctx fun c => { c with raceWritten := c.raceWritten + 1 }
        match s2.ownWrite g.ctx base ((c.raceWritten.toNat + 1) + c.raceDropped.toNat <<< 32) 8 with
        | .ok s3 => s3
        | .error (k, a) => s2.ownLost g.ctx q 6 k a

end Sys2Proof.Machine
end

