-- ==== Sys2Proof/Machine/Number.lean ====
section
/-! DEFINITION. The number formats of chapter 09: decoding and rounding (R222 to R232), exact sums (R227, R237),
shared-exponent blocks (R233 to R235), the Hadamard stages (R241), Mix (R242), and the approximate functions within their
bounds (R362). A float travels as its pattern, a Nat; results carry their flags UF, OF, NV at bits 2, 1, 0. -/

namespace Sys2Proof.Machine

/-! ### Flags and formats -/

/-- No flag. -/
def noFlag : BitVec 3 := 0#3
/-- NV (R333). -/
def flNV : BitVec 3 := 1#3
/-- OF (R333). -/
def flOF : BitVec 3 := 2#3
/-- UF (R333). -/
def flUF : BitVec 3 := 4#3

/-- A pattern and the flags its computation sets. -/
abbrev FRes := Nat × BitVec 3

/-- A floating-point format: exponent and fraction widths (R222). -/
structure Fmt where
  eb : Nat
  fb : Nat
  deriving DecidableEq, Repr

/-- FP32 (R222). -/
def fp32 : Fmt := ⟨8, 23⟩
/-- FP16 (R222). -/
def fp16 : Fmt := ⟨5, 10⟩
/-- BF16 (R222). -/
def bf16 : Fmt := ⟨8, 7⟩

/-- Width in bits. -/
def Fmt.width (f : Fmt) : Nat := 1 + f.eb + f.fb
/-- The exponent of the smallest normal (R226). -/
def Fmt.emin (f : Fmt) : Int := 2 - 2 ^ (f.eb - 1)
/-- The pattern of +infinity. -/
def Fmt.infBits (f : Fmt) : Nat := (2 ^ f.eb - 1) <<< f.fb
/-- The canonical NaN (R224). -/
def Fmt.nan (f : Fmt) : Nat := f.infBits ||| 2 ^ (f.fb - 1)
/-- The sign bit. -/
def Fmt.sign (f : Fmt) (x : Nat) : Bool := x.testBit (f.eb + f.fb)
/-- The pattern without its sign. -/
def Fmt.mag (f : Fmt) (x : Nat) : Nat := x % 2 ^ (f.eb + f.fb)
/-- A pattern with a sign. -/
def Fmt.withSign (f : Fmt) (neg : Bool) (m : Nat) : Nat := if neg then m + 2 ^ (f.eb + f.fb) else m

/-- What a pattern stands for (R223): sign and magnitude n / d, an infinity, or a NaN. -/
inductive FVal where
  | fin (neg : Bool) (n d : Nat)
  | inf (neg : Bool)
  | nan (sig : Bool)
  deriving DecidableEq, Repr

/-- n / d times 2^k. -/
def scale2 (n d : Nat) (k : Int) : Nat × Nat := if 0 ≤ k then (n <<< k.toNat, d) else (n, d <<< (-k).toNat)

/-- The value of a pattern (R223). -/
def Fmt.dec (f : Fmt) (x : Nat) : FVal :=
  let e := f.mag x >>> f.fb
  let fr := x % 2 ^ f.fb
  if e = 2 ^ f.eb - 1 then
    if fr = 0 then .inf (f.sign x) else .nan (!fr.testBit (f.fb - 1))
  else
    let n := if e = 0 then fr else fr + 2 ^ f.fb
    let p := scale2 n 1 ((max e 1 : Nat) - 1 + f.emin - f.fb)
    .fin (f.sign x) p.1 p.2

/-- The value is a NaN. -/
def FVal.isNan : FVal → Bool
  | .nan _ => true
  | _ => false
/-- The value is a signalling NaN. -/
def FVal.isSig : FVal → Bool
  | .nan s => s
  | _ => false
/-- The value is an infinity. -/
def FVal.isInf : FVal → Bool
  | .inf _ => true
  | _ => false
/-- The value is a zero. -/
def FVal.isZero : FVal → Bool
  | .fin _ n _ => n == 0
  | _ => false
/-- The sign of a number. -/
def FVal.neg : FVal → Bool
  | .fin s _ _ => s
  | .inf s => s
  | .nan _ => false
/-- The value negated. -/
def FVal.flip : FVal → FVal
  | .fin s n d => .fin (!s) n d
  | .inf s => .inf !s
  | .nan q => .nan q
/-- NV for a signalling NaN (R224). -/
def FVal.sigFlag (v : FVal) : BitVec 3 := if v.isSig then flNV else noFlag

/-! ### Rounding (R226) -/

/-- A rounding mode (R226). -/
inductive Rm where
  | rne | rz | ru | rd
  deriving DecidableEq, Repr

/-- RM with DEF meaning RNE, and DRM (R228, R236). -/
def rmOf (b : BitVec 2) : Rm :=
  match b.toNat with
  | 0 => .rne
  | 1 => .rz
  | 2 => .ru
  | _ => .rd

/-- Floor(Log2(n / d)), n not 0. -/
def floorLog2 (n d : Nat) : Int :=
  let k : Int := (Nat.log2 n : Int) - Nat.log2 d
  let p := scale2 1 1 k
  if p.1 * d ≤ n * p.2 then k else k - 1

/-- n / d rounded to an integer: Floor and its increment by mode and sign (R226). -/
def roundQuot (m : Rm) (neg : Bool) (n d : Nat) : Nat :=
  let q := n / d
  let r := n % d
  let up := match m with
    | .rne => decide (d < 2 * r) || (decide (2 * r = d) && decide (q % 2 = 1))
    | .rz => false
    | .ru => decide (0 < r) && !neg
    | .rd => decide (0 < r) && neg
  if up then q + 1 else q

/-- RoundTo of a finite value of sign neg and magnitude n / d (R226). -/
def Fmt.roundTo (f : Fmt) (m : Rm) (neg : Bool) (n d : Nat) : FRes :=
  if n = 0 then (f.withSign neg 0, noFlag)
  else
    let e := floorLog2 n d
    let e' := max e f.emin
    let p := scale2 n d (f.fb - e')
    let q := roundQuot m neg p.1 p.2
    let mag := q + (e' - f.emin).toNat <<< f.fb
    if f.infBits ≤ mag then
      let toInf := match m with
        | .rne => true
        | .rz => false
        | .ru => !neg
        | .rd => neg
      (f.withSign neg (if toInf then f.infBits else f.infBits - 1), flOF)
    else (f.withSign neg mag, if e < f.emin && p.1 % p.2 != 0 then flUF else noFlag)

/-- RoundTo of any value: an infinity stays, a NaN becomes canonical, with NV for a signalling one (R224, R226). -/
def Fmt.ofVal (f : Fmt) (m : Rm) : FVal → FRes
  | .fin s n d => f.roundTo m s n d
  | .inf s => (f.withSign s f.infBits, noFlag)
  | .nan sig => (f.nan, if sig then flNV else noFlag)

/-! ### The flushes (R229, R237) -/

/-- A source under the legacy flush: a subnormal reads as zero of its sign (R229). -/
def Fmt.flushSrc (f : Fmt) (on : Bool) (x : Nat) : Nat :=
  if on && f == fp32 && f.mag x < 2 ^ f.fb then f.withSign (f.sign x) 0 else x

/-- A result under the legacy flush or that of R237: below the normals it becomes zero of its sign, with UF. -/
def Fmt.flushRes (f : Fmt) (on : Bool) (r : FRes) : FRes :=
  if on && f == fp32 && f.mag r.1 != 0 && decide (f.mag r.1 < 2 ^ f.fb) then (f.withSign (f.sign r.1) 0, r.2 ||| flUF) else r

/-! ### Exact arithmetic -/

/-- Add two exact reals over a common denominator. -/
def fracAdd (a b : Frac) : Frac :=
  let d := Nat.lcm a.den b.den
  ⟨a.num * (d / a.den : Nat) + b.num * (d / b.den : Nat), d⟩

/-- A signed magnitude as an exact real. -/
def fracOf (neg : Bool) (n d : Nat) : Frac := ⟨if neg then -(n : Int) else n, d⟩

/-- The sign and magnitude of a finite sum (R227): its addends are finite. -/
def sumExact (m : Rm) (xs : List FVal) : Bool × Nat × Nat :=
  let t := xs.foldl (fun acc v => match v with
    | .fin s n d => fracAdd acc (fracOf s n d)
    | _ => acc) (⟨0, 1⟩ : Frac)
  if t.num = 0 then
    if xs.all (fun v => v.isZero && v.neg) && !xs.isEmpty then (true, 0, 1)
    else if xs.all (fun v => v.isZero && !v.neg) then (false, 0, 1)
    else (decide (m = .rd), 0, 1)
  else (decide (t.num < 0), t.num.natAbs, t.den)

/-- Some addends are infinities of both signs. -/
def bothInf (xs : List FVal) : Bool := xs.contains (.inf true) && xs.contains (.inf false)

/-- RoundTo of the exact sum of any number of addends, with R224 for NaNs and infinities. -/
def Fmt.sum (f : Fmt) (m : Rm) (xs : List FVal) : FRes :=
  if xs.any FVal.isNan then (f.nan, if xs.any FVal.isSig then flNV else noFlag)
  else if bothInf xs then (f.nan, flNV)
  else match xs.find? FVal.isInf with
    | some v => f.ofVal m v
    | none => let s := sumExact m xs; f.roundTo m s.1 s.2.1 s.2.2

/-- The exact product of two values that are no NaNs; a signalling NaN stands for the invalid 0 × infinity. -/
def mulVal (a b : FVal) : FVal :=
  match a, b with
  | .nan s, .nan t => .nan (s || t)
  | .nan s, _ => .nan s
  | _, .nan t => .nan t
  | .inf s, .inf t => .inf (s != t)
  | .inf s, .fin t n _ => if n = 0 then .nan true else .inf (s != t)
  | .fin s n _, .inf t => if n = 0 then .nan true else .inf (s != t)
  | .fin s n d, .fin t k e => .fin (s != t) (n * k) (d * e)

/-- RoundTo(p a b + q d) with one rounding; 0 × infinity sets NV even beside a quiet NaN (R356). -/
def Fmt.fma (f : Fmt) (m : Rm) (np nc : Bool) (a b c : FVal) : FRes :=
  let p := mulVal a b
  let p := if np then p.flip else p
  let c' := if nc then c.flip else c
  f.sum m [p, c']

/-- The quotient of two values (R361). -/
def divVal (a b : FVal) : FVal :=
  match a, b with
  | .nan s, .nan t => .nan (s || t)
  | .nan s, _ => .nan s
  | _, .nan t => .nan t
  | .inf _, .inf _ => .nan true
  | .inf s, .fin t _ _ => .inf (s != t)
  | .fin s _ _, .inf t => .fin (s != t) 0 1
  | .fin s n d, .fin t k e =>
      if k = 0 then (if n = 0 then .nan true else .inf (s != t)) else .fin (s != t) (n * e) (d * k)

/-- A value near the square root of n / d that rounds as the root does in every format: the root to 2^-160 with a sticky
bit. -/
def sqrtSticky (n d : Nat) : Nat × Nat :=
  let t := n <<< 320
  let s := Nat.sqrt (t / d)
  (2 * s + (if s * s * d = t then 0 else 1), 2 ^ 161)

/-- RoundTo of the square root (R361). -/
def Fmt.sqrt (f : Fmt) (m : Rm) (a : FVal) : FRes :=
  match a with
  | .nan s => f.ofVal m (.nan s)
  | .inf false => f.ofVal m a
  | .inf true => (f.nan, flNV)
  | .fin s n d =>
      if n = 0 then (f.withSign s 0, noFlag)
      else if s then (f.nan, flNV)
      else let r := sqrtSticky n d; f.roundTo m false r.1 r.2

/-! ### Comparison, minimum, class (R357) -/

/-- a < b, of values that are no NaNs; zeros are equal. -/
def FVal.lt (a b : FVal) : Bool :=
  match a, b with
  | .inf s, .inf t => s && !t
  | .inf s, _ => s
  | _, .inf t => !t
  | .fin s n d, .fin t k e => decide ((fracOf s n d).num * e < (fracOf t k e).num * d)
  | _, _ => false

/-- a = b as values, of values that are no NaNs. -/
def FVal.eqv (a b : FVal) : Bool := !a.isNan && !b.isNan && !a.lt b && !b.lt a

/-- Lesser, with −0 below +0. -/
def FVal.ltZ (a b : FVal) : Bool := a.lt b || (a.isZero && b.isZero && a.neg && !b.neg)

/-- VMIN and VMAX of two patterns (R357). -/
def Fmt.minmax (f : Fmt) (isMax : Bool) (x y : Nat) : FRes :=
  let a := f.dec x
  let b := f.dec y
  let fl := a.sigFlag ||| b.sigFlag
  if a.isNan && b.isNan then (f.nan, fl)
  else if a.isNan then (y, fl)
  else if b.isNan then (x, fl)
  else if isMax then (if a.ltZ b then y else x, fl) else (if b.ltZ a then y else x, fl)

/-- The relations CC (R352): eq, ne, lt, ge, le, gt. -/
def ccOf (cc : Nat) (lt eq gt : Bool) : Bool :=
  match cc with
  | 0 => eq
  | 1 => !eq
  | 2 => lt
  | 3 => gt || eq
  | 4 => lt || eq
  | _ => gt

/-- VCMP of two patterns: whether CC holds, and the flags (R357). -/
def Fmt.cmp (f : Fmt) (cc : Nat) (x y : Nat) : Bool × BitVec 3 :=
  let a := f.dec x
  let b := f.dec y
  let fl := a.sigFlag ||| b.sigFlag
  if a.isNan || b.isNan then (cc == 1, fl) else (ccOf cc (a.lt b) (a.eqv b) (b.lt a), fl)

/-- VCLASS (R357). -/
def Fmt.classOf (f : Fmt) (x : Nat) : Nat :=
  match f.dec x with
  | .nan true => 1
  | .nan false => 2
  | .inf true => 4
  | .inf false => 512
  | .fin s n _ =>
      if n = 0 then (if s then 32 else 64)
      else if f.mag x < 2 ^ f.fb then (if s then 16 else 128)
      else (if s then 8 else 256)

/-! ### Conversions (R231, R232, R359) -/

/-- The nearest bound of a range, and NV outside it (R232). -/
def clampInt (lo hi n : Int) : Int × BitVec 3 := if n < lo then (lo, flNV) else if hi < n then (hi, flNV) else (n, noFlag)

/-- A value rounded to an integer of a range (R232). -/
def valToInt (m : Rm) (lo hi : Int) (v : FVal) : Int × BitVec 3 :=
  match v with
  | .nan _ => (0, flNV)
  | .inf s => (if s then lo else hi, flNV)
  | .fin s n d => let q := roundQuot m s n d; clampInt lo hi (if s then -(q : Int) else q)

/-- RoundTo of an integer (R232). -/
def Fmt.ofInt (f : Fmt) (m : Rm) (k : Int) : FRes := f.roundTo m (decide (k < 0)) k.natAbs 1

/-- VRND (R361). -/
def Fmt.rnd (f : Fmt) (m : Rm) (x : Nat) : FRes :=
  match f.dec x with
  | .nan s => (f.nan, if s then flNV else noFlag)
  | .inf _ => (x, noFlag)
  | .fin s n d => ((f.roundTo .rne s (roundQuot m s n d) 1).1, noFlag)

/-! ### Element formats (R221, R236) -/

/-- The formats of FMT codes 0 to 8 (R236). -/
inductive Elem where
  | flt (f : Fmt)
  | int (signed : Bool) (w : Nat)
  deriving DecidableEq, Repr

/-- The element format of a code; none for SX and reserved codes (R236). -/
def elemOf (code : Nat) : Option Elem :=
  match code with
  | 0 => some (.flt fp32)
  | 1 => some (.flt fp16)
  | 2 => some (.flt bf16)
  | 3 => some (.int true 8)
  | 4 => some (.int false 8)
  | 5 => some (.int true 16)
  | 6 => some (.int false 16)
  | 7 => some (.int true 32)
  | 8 => some (.int false 32)
  | _ => none

/-- The width of an element in bits. -/
def Elem.width : Elem → Nat
  | .flt f => f.width
  | .int _ w => w

/-- The least and greatest integers of a format. -/
def intLo (signed : Bool) (w : Nat) : Int := if signed then -(2 ^ (w - 1) : Int) else 0
/-- The greatest integer of a format. -/
def intHi (signed : Bool) (w : Nat) : Int := if signed then 2 ^ (w - 1) - 1 else 2 ^ w - 1
/-- An element read as an integer (R221). -/
def readInt (signed : Bool) (w : Nat) (x : Nat) : Int := if signed then (BitVec.ofNat w x).toInt else (x % 2 ^ w : Nat)
/-- Wrap_w as a pattern. -/
def wrapNat (w : Nat) (x : Int) : Nat := (BitVec.ofInt w x).toNat

/-- Conv of R359: one element from a format to another. ftz: the legacy flush. -/
def convElem (ftz : Bool) (m : Rm) (src dst : Elem) (x : Nat) : FRes :=
  match src, dst with
  | .flt f, .flt g => g.flushRes ftz (g.ofVal m (f.dec (f.flushSrc ftz x)))
  | .flt f, .int s w => let r := valToInt m (intLo s w) (intHi s w) (f.dec (f.flushSrc ftz x)); (wrapNat w r.1, r.2)
  | .int s w, .flt g => g.flushRes ftz (g.ofInt m (readInt s w x))
  | .int s w, .int t v => let r := clampInt (intLo t v) (intHi t v) (readInt s w x); (wrapNat v r.1, r.2)

/-! ### Shared-exponent blocks (R233 to R235) -/

/-- Mantissa bits w of SXF 0, 1, 2 (R233). -/
def sxW (sxf : Nat) : Nat := if sxf = 0 then 2 else if sxf = 1 then 4 else 7
/-- Bits of a block (R233). -/
def sxBits (w : Nat) : Nat := 16 + 16 * (w + 1)
/-- Bytes of a block (R233). -/
def sxBytes (w : Nat) : Nat := sxBits w / 8
/-- 32-bit words of a block, rounded up (R360). -/
def sxWords (w : Nat) : Nat := (sxBits w + 31) / 32

/-- Element i of a block (R234): a NaN block reads as signalling NaNs for the matrix path (R237). -/
def sxDec (w : Nat) (blk i : Nat) : FVal :=
  let e := blk % 256
  if e = 255 then .nan true
  else
    let mu := (blk >>> (8 + i / 2)) % 2
    let el := (blk >>> (16 + (w + 1) * i)) % 2 ^ (w + 1)
    let p := scale2 (el % 2 ^ w) 1 ((e : Int) - 127 - mu - (w - 1 : Nat))
    .fin (el.testBit w) p.1 p.2

/-- Element i of a block as FP32 (R234, R360): exact, no flag, the legacy flush on request. -/
def sxToFp32 (ftz : Bool) (w : Nat) (blk i : Nat) : FRes :=
  match sxDec w blk i with
  | .nan _ => (fp32.nan, noFlag)
  | v => fp32.flushRes ftz (fp32.ofVal .rne v)

/-- The exponent Ec − 127 − u − w + 1 of a magnitude's unit (R235). -/
def sxStep (w ec u : Nat) : Int := (ec : Int) - 127 - u - w + 1

/-- Mag of R235. -/
def sxMag (w ec u n d : Nat) : Nat :=
  let p := scale2 n d (-(sxStep w ec u))
  min (roundQuot .rne false p.1 p.2) (2 ^ w - 1)

/-- |x − Q(x)| as an exact real (R235). -/
def sxErr (w ec u n d : Nat) : Frac :=
  let q := scale2 (sxMag w ec u n d) 1 (sxStep w ec u)
  let t := fracAdd ⟨n, d⟩ ⟨-(q.1 : Int), q.2⟩
  ⟨t.num.natAbs, t.den⟩

/-- a < b of exact reals with positive denominators. -/
def fracLt (a b : Frac) : Bool := decide (a.num * b.den < b.num * a.den)

/-- The micro-exponents and the error of a block at a shared exponent (R235): pairs are taken in order. -/
def sxTry (w ec : Nat) (xs : List (Bool × Nat × Nat)) : Nat × Frac :=
  (List.range 8).foldl (fun (mu, err) j =>
    let a := (xs.getD (2 * j) (false, 0, 1)).2
    let b := (xs.getD (2 * j + 1) (false, 0, 1)).2
    let p0 := fracAdd (sxErr w ec 0 a.1 a.2) (sxErr w ec 0 b.1 b.2)
    let p1 := fracAdd (sxErr w ec 1 a.1 a.2) (sxErr w ec 1 b.1 b.2)
    if fracLt p1 p0 then (mu + 2 ^ j, fracAdd err p1) else (mu, fracAdd err p0)) (0, ⟨0, 1⟩)

/-- The elements of a block once its exponents are chosen (R235). -/
def sxElems (w ec mu : Nat) (xs : List (Bool × Nat × Nat)) : Nat :=
  (List.range 16).foldl (fun acc i =>
    let x := xs.getD i (false, 0, 1)
    let m := sxMag w ec ((mu >>> (i / 2)) % 2) x.2.1 x.2.2
    acc + (m + x.1.toNat * 2 ^ w) <<< ((w + 1) * i)) 0

/-- Big(w) of R234. -/
def sxBig (w : Nat) : Nat := (2 ^ w - 1) <<< (128 - w)

/-- ToSX of sixteen exact values: the block and its flags (R235). -/
def toSX (w : Nat) (vs : List FVal) : FRes :=
  if vs.any FVal.isNan then (255, flNV)
  else
    let big := sxBig w
    let ovf := vs.any fun v => match v with
      | .fin _ n d => decide (big * d < n)
      | _ => true
    let xs := vs.map fun v => match v with
      | .fin s n d => if big * d < n then (s, big, 1) else (s, n, d)
      | v => (v.neg, big, 1)
    let fl := if ovf then flOF else noFlag
    let amax := xs.foldl (fun m x => if m.1 * x.2.2 < x.2.1 * m.2 then x.2 else m) (0, 1)
    if amax.1 = 0 then ((xs.zipIdx).foldl (fun acc xi => acc + (xi.1.1.toNat * 2 ^ w) <<< (16 + (w + 1) * xi.2)) 0, fl)
    else
      let e0 := (min (max (floorLog2 amax.1 amax.2 + 127) 0) 254).toNat
      let t0 := sxTry w e0 xs
      let t1 := sxTry w (e0 + 1) xs
      let pick := if e0 + 1 ≤ 254 && fracLt t1.2 t0.2 then (e0 + 1, t1.1) else (e0, t0.1)
      (pick.1 + pick.2 <<< 8 + (sxElems w pick.1 pick.2 xs) <<< 16, fl)

/-! ### Matrix sums and the Hadamard transform (R237, R238, R241) -/

/-- One block of MatrixSum: c and sixteen operand pairs (R237). -/
def matrixBlock (c : Nat) (ps : List (FVal × FVal)) : FRes :=
  let cv := fp32.dec c
  let prods := ps.map fun p => mulVal p.1 p.2
  let nanRead := cv.isNan || ps.any fun p => p.1.isNan || p.2.isNan
  let sigRead := cv.isSig || ps.any fun p => p.1.isSig || p.2.isSig
  let zeroInf := ps.any fun p => (p.1.isZero && p.2.isInf) || (p.1.isInf && p.2.isZero)
  let infs := bothInf (cv :: prods)
  if nanRead || zeroInf || infs then (fp32.nan, if sigRead || zeroInf || infs then flNV else noFlag)
  else fp32.flushRes true (fp32.sum .rne (cv :: prods))

/-- Fold an element over its blocks of sixteen, K ascending (R237). -/
def matrixSum (c : Nat) (ps : List (FVal × FVal)) (blocks : Nat) : FRes :=
  (List.range blocks).foldl (fun acc k =>
    let r := matrixBlock acc.1 ((ps.drop (16 * k)).take 16)
    (r.1, acc.2 ||| r.2)) (c, noFlag)

/-- The sum or difference of a stage of Had, rounded and flushed (R241). -/
def hadAdd (a b : Nat) (minus : Bool) : FRes :=
  let y := fp32.dec b
  fp32.flushRes true (fp32.sum .rne [fp32.dec a, if minus then y.flip else y])

/-- One stage of Had with distance h: pairs j, j + h (R241). -/
def hadStage (h : Nat) (x : List Nat × BitVec 3) : List Nat × BitVec 3 :=
  let ys := x.1.zipIdx.map fun (v, j) =>
    if j &&& h = 0 then hadAdd v (x.1.getD (j + h) 0) false else hadAdd (x.1.getD (j - h) 0) v true
  (ys.map (·.1), ys.foldl (fun f y => f ||| y.2) x.2)

/-- The stages of Had on a run of 2^k patterns (R241). -/
def hadRun (k : Nat) (xs : List Nat) : List Nat × BitVec 3 :=
  (List.range k).foldl (fun acc i => hadStage (2 ^ i) acc) (xs, noFlag)

/-! ### RAND (R242) -/

/-- Mix of R242. -/
def mix (key ctr : Dword) : Dword :=
  let x := ctr + key * 0x9E3779B97F4A7C15#64
  let x := (x ^^^ (x >>> 30)) * 0xBF58476D1CE4E5B9#64
  let x := (x ^^^ (x >>> 27)) * 0x94D049BB133111EB#64
  let x := (x ^^^ key) * 0xD6E8FEB86659FD93#64
  x ^^^ (x >>> 32)

/-! ### Approximate functions (R362)

Each exact result is enclosed by two dyadic numbers over 2^192; the part's result is a free choice (log 12) among the values of
the format within the bound of R362 of a number of the enclosure. -/

/-- The fixed point of the enclosures. -/
def fx : Nat := 192
/-- 1 in fixed point. -/
def fxOne : Nat := 2 ^ fx
/-- ln 2 in fixed point, rounded down. -/
def fxLn2 : Nat := 0xb17217f7d1cf79abc9e3b39803f2f6af40f343267298b62d
/-- π in fixed point, rounded down. -/
def fxPi : Nat := 0x3243f6a8885a308d313198a2e03707344a4093822299f31d0
/-- More than any accumulated error of the series below, in units of 2^-192. -/
def fxSlack : Nat := 2 ^ 32

/-- Σ t^k / k! of k = 0 to 63, t in fixed point and at most 1. -/
def fxExp (t : Nat) : Nat :=
  ((List.range 63).foldl (fun (acc : Nat × Nat) k => let u := acc.2 * t / fxOne / (k + 1); (acc.1 + u, u)) (fxOne, fxOne)).1

/-- sin x = Σ (−1)^k x^(2k+1) / (2k+1)!, x in fixed point and at most 2. -/
def fxSin (x : Nat) : Nat :=
  let r := (List.range 40).foldl (fun (acc : Int × Nat × Bool) k =>
    let u := acc.2.1 * x / fxOne * x / fxOne / ((2 * k + 2) * (2 * k + 3))
    (if acc.2.2 then acc.1 + u else acc.1 - u, u, !acc.2.2)) ((x : Int), x, false)
  r.1.toNat

/-- 2 atanh z = 2 Σ z^(2k+1) / (2k+1), z in fixed point and at most 1/3. -/
def fxLog (z : Nat) : Nat :=
  2 * ((List.range 80).foldl (fun (acc : Nat × Nat) k =>
    let u := acc.2 * z / fxOne * z / fxOne
    (acc.1 + u / (2 * k + 3), u)) (z, z)).1

/-- An enclosure in fixed point with its slack. -/
def encl (x : Int) : Int × Int := (x - fxSlack, x + fxSlack)

/-- 2^x of x = i + f, f = n / d in [0, 1): an enclosure of 2^f. -/
def exp2Frac (n d : Nat) : Int × Int := encl (fxExp (n * fxLn2 / d))

/-- A value of an enclosure as a sign and a magnitude over 2^192. -/
def fxSigned (x : Int) : Bool × Nat := (decide (x < 0), x.natAbs)

/-- The signed rank of a pattern: patterns in order of value, both zeros 0. -/
def Fmt.rank (f : Fmt) (x : Nat) : Int := if f.sign x then -(f.mag x : Int) else f.mag x

/-- The pattern of a rank; a zero takes a sign. -/
def Fmt.ofRank (f : Fmt) (neg : Bool) (r : Int) : Nat :=
  if r = 0 then f.withSign neg 0 else f.withSign (decide (r < 0)) r.natAbs

/-- The least or greatest rank of a finite value on one side of x, a number over 2^k: rounding towards plus infinity gives the
least value not below it, towards minus infinity the greatest not above it; bounded to the finite values. -/
def Fmt.rankOf (f : Fmt) (m : Rm) (x : Int) (k : Nat) : Int :=
  let r := f.rank (f.roundTo m (decide (x < 0)) x.natAbs (2 ^ k)).1
  max (min r (f.infBits - 1)) (-(f.infBits - 1 : Int))

/-- The spacing of a format at n / d, as an exponent of two (R362). -/
def Fmt.ulpExp (f : Fmt) (n d : Nat) : Int := if n = 0 then f.emin - f.fb else max (floorLog2 n d) f.emin - f.fb

/-- A free value of the format within a bound of an enclosed number: fn names the function, x its operand pattern; the
enclosure lo, hi stands over 2^k (k at least 192); the bound is ulps units in the last place, and at least 2^-22 where abs is
set; ovf: the exact result rounds to infinity. -/
def Fmt.pick (f : Fmt) (fn x : Nat) (lo hi : Int) (k ulps : Nat) (abs ovf : Bool) : Nat :=
  let big := if lo.natAbs ≤ hi.natAbs then hi else lo
  let u := f.ulpExp big.natAbs (2 ^ k)
  let ub := scale2 ulps 1 (u + k)
  let bound := max (ub.1 / ub.2 + 1) (if abs then 2 ^ (k - 22) else 0)
  let a := f.rankOf .ru (lo - bound) k
  let b := f.rankOf .rd (hi + bound) k
  let neg := decide (hi < 0)
  let a' := if ovf && neg then -(f.infBits : Int) else a
  let b' := if ovf && !neg then (f.infBits : Int) else b
  f.ofRank neg (a' + (Config.approxPick fn (f.eb * 64 + f.fb) x % ((b' - a').toNat + 1) : Nat))

/-- An approximate function of R362. -/
inductive ApproxFn where
  | rcp | rsq | exp2 | log2 | sin | cos | tanh
  deriving DecidableEq, Repr

/-- Units in the last place of the bound (R362). -/
def ApproxFn.ulps (fn : ApproxFn) (f : Fmt) : Nat :=
  if f == fp32 then (match fn with
    | .rcp | .rsq => 1
    | .sin | .cos => 0
    | _ => 2)
  else 1

/-- The bound is also 2^-22 absolute (R362); n / d is the operand's magnitude. -/
def ApproxFn.absolute (fn : ApproxFn) (f : Fmt) (neg : Bool) (n d : Nat) : Bool :=
  f == fp32 && (match fn with
    | .sin | .cos | .tanh => true
    | .log2 => !neg && decide (d ≤ 2 * n) && decide (n ≤ 2 * d)
    | _ => false)

/-- UF of an inexact result whose exact value is tiny (R226, R362). -/
def tinyFlag (t : Bool) : BitVec 3 := if t then flUF else noFlag

/-- VRCP of a finite non-zero operand. -/
def approxRcp (f : Fmt) (x : Nat) (s : Bool) (n d : Nat) : FRes :=
  let r := f.roundTo .rne s d n
  -- the exact value over 2^448
  let q : Int := (d <<< 448) / n
  let lo := if s then -(q + 1) else q
  let hi := if s then -q else if d <<< 448 % n = 0 then q else q + 1
  (f.pick 0 x lo hi 448 (ApproxFn.rcp.ulps f) false (f.mag r.1 == f.infBits), r.2)

/-- VRSQ of a finite positive operand. -/
def approxRsq (f : Fmt) (x n d : Nat) : FRes :=
  let q := Nat.sqrt ((d <<< 640) / n)
  (f.pick 1 x q (q + 1) 320 (ApproxFn.rsq.ulps f) false false, noFlag)

/-- VEXP2 of a finite non-zero operand; emax is the exponent from which the result rounds to infinity. -/
def approxExp2 (f : Fmt) (x : Nat) (s : Bool) (n d : Nat) : FRes :=
  let i : Int := if s then -(((n + d - 1) / d : Nat) : Int) else ((n / d : Nat) : Int)
  let fr : Nat := if s then (n + d - 1) / d * d - n else n % d
  let emax : Int := 2 ^ (f.eb - 1)
  if emax ≤ i then
    if i = emax && fr == 0 then (f.pick 2 x ((1 : Int) <<< (emax.toNat + fx)) ((1 : Int) <<< (emax.toNat + fx)) fx (ApproxFn.exp2.ulps f) false true, flOF)
    else (f.infBits, flOF)
  else if fr = 0 && f.emin - f.fb ≤ i then f.roundTo .rne false (scale2 1 1 i).1 (scale2 1 1 i).2
  else
    let tiny := tinyFlag (decide (i < f.emin))
    if i < -300 then (f.pick 2 x 0 1 fx (ApproxFn.exp2.ulps f) false false, tiny)
    else
      let e := exp2Frac fr d
      let sc := fun v : Int => if 0 ≤ i then v * 2 ^ i.toNat else v / 2 ^ (-i).toNat
      (f.pick 2 x (sc e.1) (sc e.2 + 1) fx (ApproxFn.exp2.ulps f) false false, tiny)

/-- VLOG2 of a finite positive operand that is not 1. -/
def approxLog2 (f : Fmt) (x n d : Nat) : FRes :=
  let e := floorLog2 n d
  let p := scale2 n d (-e)
  let z := (p.1 - p.2) * fxOne / (p.1 + p.2)
  let l := encl ((fxLog z * fxOne / fxLn2 : Nat) : Int)
  let o : Int := e * fxOne
  (f.pick 3 x (o + l.1) (o + l.2) fx (ApproxFn.log2.ulps f) (ApproxFn.log2.absolute f false n d) false, noFlag)

/-- sin(π n / d) in fixed point: its sign and magnitude. -/
def fxSinPi (n d : Nat) : Int :=
  let r := n % (2 * d)
  let h := r % d
  let q := if 2 * h ≤ d then h else d - h
  let v : Int := fxSin (q * fxPi / d)
  if r < d then v else -v

/-- VSIN and VCOS of a finite operand whose result is not one of the exact ones (R362). -/
def approxTrig (f : Fmt) (fn : ApproxFn) (x : Nat) (s : Bool) (n d : Nat) : FRes :=
  let v := if fn = .cos then fxSinPi (2 * n + d) (2 * d) else if s then -fxSinPi n d else fxSinPi n d
  let e := encl v
  let tiny := fn == .sin && decide (v != 0) && decide ((v.natAbs : Int) < (scale2 fxOne 1 f.emin).1 / (scale2 fxOne 1 f.emin).2)
  (f.pick (if fn = .cos then 5 else 4) x e.1 e.2 fx (fn.ulps f) (fn.absolute f s n d) false, tinyFlag tiny)

/-- VTANH of a finite non-zero operand; its magnitude lies below the operand's, so it is tiny up to 2^emin. -/
def approxTanh (f : Fmt) (x : Nat) (s : Bool) (n d : Nat) : FRes :=
  let t := scale2 1 1 f.emin
  let tiny := tinyFlag (decide (n * t.2 ≤ t.1 * d))
  let m : Int × Int :=
    if 64 * d ≤ n then ((fxOne : Int) - fxSlack, (fxOne : Int))
    else
      -- e^(2a) = 2^i e^f
      let a2 := 2 * n * fxOne / d
      let i := a2 / fxLn2
      let ex := fxExp (a2 % fxLn2) <<< i
      encl (((ex - fxOne) * fxOne / (ex + fxOne) : Nat) : Int)
  let lo := if s then -m.2 else m.1
  let hi := if s then -m.1 else m.2
  (f.pick 6 x lo hi fx (ApproxFn.tanh.ulps f) (ApproxFn.tanh.absolute f s n d) false, tiny)

/-- An approximate function of a pattern, its special values first (R362). -/
def Fmt.approx (f : Fmt) (fn : ApproxFn) (x : Nat) : FRes :=
  match f.dec x with
  | .nan s => (f.nan, if s then flNV else noFlag)
  | .inf s =>
      match fn with
      | .rcp => (f.withSign s 0, noFlag)
      | .rsq => if s then (f.nan, flNV) else (0, noFlag)
      | .exp2 => (if s then 0 else f.infBits, noFlag)
      | .log2 => if s then (f.nan, flNV) else (f.infBits, noFlag)
      | .sin | .cos => (f.nan, flNV)
      | .tanh => ((f.roundTo .rne s 1 1).1, noFlag)
  | .fin s n d =>
      match fn with
      | .rcp => if n = 0 then (f.withSign s f.infBits, noFlag) else approxRcp f x s n d
      | .rsq => if n = 0 then (f.withSign s f.infBits, noFlag) else if s then (f.nan, flNV) else approxRsq f x n d
      | .exp2 => if n = 0 then f.roundTo .rne false 1 1 else approxExp2 f x s n d
      | .log2 =>
          if n = 0 then (f.withSign true f.infBits, noFlag) else if s then (f.nan, flNV)
          else if n = d then (0, noFlag) else approxLog2 f x n d
      | .sin =>
          if n = 0 then (f.withSign s 0, noFlag) else if n % d = 0 then (0, noFlag) else approxTrig f .sin x s n d
      | .cos =>
          if n % d = 0 then f.roundTo .rne (decide (n / d % 2 = 1)) 1 1
          else if 2 * n % d = 0 then (0, noFlag) else approxTrig f .cos x s n d
      | .tanh => if n = 0 then (f.withSign s 0, noFlag) else approxTanh f x s n d

end Sys2Proof.Machine
end

