-- ==== Sys2Proof/Machine/Matrix.lean ====
section
/-! DEFINITION. Operand slots, accumulator rows and the matrix stream (R399, R400, R406, R411 to R414, R237 to R241). -/

namespace Sys2Proof.Machine

/-! ### Bytes and numbers -/

/-- A number from its bytes, little-endian (R6). -/
def natOfBytes (bs : List Byte) : Nat := bs.foldr (fun b acc => b.toNat + 256 * acc) 0
/-- n bytes of a number, little-endian. -/
def bytesOfNat (n v : Nat) : List Byte := (List.range n).map fun k => BitVec.ofNat 8 (v >>> (8 * k))
/-- A register read as a signed number. -/
def s32 (w : Word) : Int := w.toInt

/-! ### FMT (R236) -/

/-- AFMT. -/
def fmtA (f : Word) : Nat := (f.extractLsb' 0 4).toNat
/-- BFMT. -/
def fmtB (f : Word) : Nat := (f.extractLsb' 4 4).toNat
/-- DFMT. -/
def fmtD (f : Word) : Nat := (f.extractLsb' 8 4).toNat
/-- DRM. -/
def fmtRm (f : Word) : Rm := rmOf (f.extractLsb' 14 2)
/-- DSCALE. -/
def fmtScale (f : Word) : Int := (f.extractLsb' 16 8).toInt
/-- A value that FMT may hold (R236). -/
def fmtOk (f : Word) : Bool :=
  f.extractLsb' 24 8 == 0 && f.extractLsb' 12 2 == 0 && decide (fmtA f ≤ 11) && decide (fmtB f ≤ 11) && decide (fmtD f ≤ 11)

/-! ### Strips (R399) -/

/-- A format that tiles may have (R399). -/
def tileFmt (c : Nat) : Bool := [1, 2, 3, 4, 9, 10, 11].contains c
/-- An SX format code. -/
def sxCode (c : Nat) : Bool := decide (9 ≤ c) && decide (c ≤ 11)
/-- Mantissa bits of an SX format code (R233). -/
def sxCodeW (c : Nat) : Nat := sxW (c - 9)
/-- Elements of a strip (R399). -/
def stripK (c : Nat) : Nat := if c ≤ 2 then 32 else if c ≤ 4 then 64 else if c = 11 then 64 else if c = 10 then 128 else 256
/-- Bytes of a strip (R399). -/
def stripS (c : Nat) : Nat := if c ≤ 4 then 64 else stripK c / 16 * sxBytes (sxCodeW c)
/-- Slots that q strips occupy (R399). -/
def tileSlots (c q : Nat) : Nat := (q * stripS c + 16383) / 16384

/-- A slot that nothing has claimed. -/
def Slot.empty : Slot := { st := .unclaimed, data := [] }
/-- Slot k of a team. -/
def Team.slot (t : Team) (k : Nat) : Slot := t.slots.getD k Slot.empty
/-- Byte o of the run of slots that starts at a slot (R399). -/
def Team.slotByte (t : Team) (base o : Nat) : Byte := sget 0 (t.slot (base + o / 16384)).data (o % 16384)
/-- Write a byte of a run of slots. -/
def Team.putSlotByte (t : Team) (base o : Nat) (b : Byte) : Team :=
  { t with slots := t.slots.modify (base + o / 16384) fun s => { s with data := sset 0 (o % 16384) b s.data } }
/-- n bytes of a run of slots. -/
def Team.slotBytes (t : Team) (base o n : Nat) : List Byte := (List.range n).map fun k => t.slotByte base (o + k)
/-- Write bytes of a run of slots. -/
def Team.putSlotBytes (t : Team) (base o : Nat) (bs : List Byte) : Team :=
  (bs.zipIdx).foldl (fun u bi => u.putSlotByte base (o + bi.2) bi.1) t

/-- Elements of strip j of a tile, as values of the matrix path (R237). -/
def Team.stripVals (t : Team) (c base j : Nat) : List FVal :=
  if sxCode c then
    (List.range (stripK c)).map fun k =>
      let w := sxCodeW c
      sxDec w (natOfBytes (t.slotBytes base (j * stripS c + k / 16 * sxBytes w) (sxBytes w))) (k % 16)
  else
    let f := if c = 1 then fp16 else bf16
    (List.range 32).map fun k => f.dec (natOfBytes (t.slotBytes base (j * 64 + 2 * k) 2))

/-- Elements of strip j of an integer tile (R238). -/
def Team.stripInts (t : Team) (c base j : Nat) : List Int :=
  (List.range 64).map fun k => readInt (c == 3) 8 (t.slotByte base (j * 64 + k)).toNat

/-! ### Accumulator rows (R399) -/

/-- Word w of an accumulator row. -/
def Team.accWord (t : Team) (row w : Nat) : Word := sget 0 t.acc (row * 16 + w)
/-- Write a word of an accumulator row. -/
def Team.putAcc (t : Team) (row w : Nat) (v : Word) : Team := { t with acc := sset 0 (row * 16 + w) v t.acc }

/-- IntSum of R238. -/
def intSum (c : Word) (ps : List (Int × Int)) : Word := BitVec.ofInt 32 (c.toInt + (ps.map fun p => p.1 * p.2).sum)

/-! ### The stream operations -/

/-- MMA (R406): M rows, n column blocks; every element on its own. A C word that keep leaves out, by its row and column, keeps its value (R417). -/
def Team.mma (t : Team) (base a b : Nat) (mod : BitVec 8) (fmt : Word) (keep : Nat → Nat → Bool := fun _ _ => true) : Team × BitVec 3 :=
  let m := 32 <<< (mod.extractLsb' 6 2).toNat
  let n := (mod.extractLsb' 0 6).toNat
  let ints := fmtA fmt == 3 || fmtA fmt == 4
  let cells := ((List.range (m * 16 * n)).map fun x => (x % m, x / m)).filter fun rc => keep rc.1 rc.2
  if ints then
    let as := (List.range m).map (t.stripInts (fmtA fmt) a)
    let bs := (List.range (16 * n)).map (t.stripInts (fmtB fmt) b)
    (cells.foldl (fun u rc =>
      let row := base + rc.2 / 16 * m + rc.1
      u.putAcc row (rc.2 % 16) (intSum (t.accWord row (rc.2 % 16)) ((as.getD rc.1 []).zip (bs.getD rc.2 [])))) t, noFlag)
  else
    let as := (List.range m).map (t.stripVals (fmtA fmt) a)
    let bs := (List.range (16 * n)).map (t.stripVals (fmtB fmt) b)
    cells.foldl (fun (u, fl) rc =>
      let row := base + rc.2 / 16 * m + rc.1
      let r := matrixSum (t.accWord row (rc.2 % 16)).toNat ((as.getD rc.1 []).zip (bs.getD rc.2 [])) (stripK (fmtA fmt) / 16)
      (u.putAcc row (rc.2 % 16) (BitVec.ofNat 32 r.1), fl ||| r.2)) (t, noFlag)

/-- A list in runs of p elements, n of them. -/
def runsOf {α : Type} (p n : Nat) (xs : List α) : List (List α) := (List.range n).map fun k => (xs.drop (k * p)).take p

/-- Had over the runs of P of a list of FP32 patterns (R241). -/
def hadAll (logP : Nat) (xs : List Nat) : List Nat × BitVec 3 :=
  let rs := (runsOf (2 ^ logP) (xs.length / 2 ^ logP) xs).map (hadRun logP)
  (rs.flatMap (·.1), rs.foldl (fun f r => f ||| r.2) noFlag)

/-- The sixteen-element blocks of a list of values as SX block bytes (R235). -/
def sxBlocks (w : Nat) (vs : List FVal) : List Byte × BitVec 3 :=
  let rs := (runsOf 16 (vs.length / 16) vs).map (toSX w)
  (rs.flatMap fun r => bytesOfNat (sxBytes w) r.1, rs.foldl (fun f r => f ||| r.2) noFlag)

/-- Patterns and their flags as element bytes. -/
def elemBytes (n : Nat) (rs : List FRes) : List Byte × BitVec 3 :=
  (rs.flatMap fun r => bytesOfNat n r.1, rs.foldl (fun f r => f ||| r.2) noFlag)

/-- A strip's elements widened to FP32 (R241), with the flag of a signalling source (R224). -/
def Team.stripFp32 (t : Team) (c base j : Nat) : List FRes :=
  if sxCode c then (t.stripVals c base j).map fun v => match v with
    | .nan _ => (fp32.nan, noFlag)
    | w => fp32.ofVal .rne w
  else (t.stripVals c base j).map (fp32.ofVal .rne)

/-- One strip of HAD (R411). The results of a run that keep leaves out, by its place and length in the tile, keep their values (R417). -/
def Team.hadStrip (t : Team) (c base logP j : Nat) (keep : Nat → Nat → Bool) : Team × BitVec 3 :=
  let xs := t.stripFp32 c base j
  let y := hadAll logP (xs.map (·.1))
  let vs := y.1.map fp32.dec
  let out := if sxCode c then sxBlocks (sxCodeW c) vs
    else elemBytes 2 (vs.map ((if c = 1 then fp16 else bf16).ofVal .rne))
  let n := stripS c * 2 ^ logP / stripK c
  let u := (List.range (stripS c / n)).foldl (fun u k =>
    if keep (j * stripS c + k * n) n then u.putSlotBytes base (j * stripS c + k * n) ((out.1.drop (k * n)).take n) else u) t
  (u, xs.foldl (fun f x => f ||| x.2) (y.2 ||| out.2))

/-- HAD (R411). -/
def Team.had (t : Team) (base count : Nat) (mod : BitVec 8) (fmt : Word) (keep : Nat → Nat → Bool := fun _ _ => true) : Team × BitVec 3 :=
  let c := if mod.getLsbD 2 then fmtB fmt else fmtA fmt
  (List.range count).foldl (fun (u, f) j =>
    let r := u.hadStrip c base (4 + (mod.extractLsb' 0 2).toNat) j keep
    (r.1, f ||| r.2)) (t, noFlag)

/-- ACCZ (R412). -/
def Team.accz (t : Team) (row count : Nat) : Team :=
  { t with acc := t.acc.filter fun e => decide (e.1 < row * 16) || decide ((row + count) * 16 ≤ e.1) }

/-- The exact value v × 2^DSCALE of a drain or read (R240). -/
def drainVal (si : Bool) (scale : Int) (w : Word) : FVal :=
  let v := if si then FVal.fin (decide (w.toInt < 0)) w.toInt.natAbs 1 else fp32.dec w.toNat
  match v with
  | .fin s n d => let p := scale2 n d scale; .fin s p.1 p.2
  | x => x

/-- A drained value in an element format (R240). -/
def drainElem (rm : Rm) (e : Elem) (v : FVal) : FRes :=
  match e with
  | .flt f => f.flushRes true (f.ofVal rm v)
  | .int s w => let r := valToInt rm (intLo s w) (intHi s w) v; (wrapNat w r.1, r.2)

/-- What ACCRD gives lane i (R413). -/
def Team.accrdLane (t : Team) (row : Nat) (mod : BitVec 8) (fmt : Word) (i : Nat) : Word × BitVec 3 :=
  let w := t.accWord (row + i / 16) (i % 16)
  if mod.getLsbD 0 then
    match elemOf (fmtD fmt) with
    | some e => let r := drainElem (fmtRm fmt) e (drainVal (mod.getLsbD 1) (fmtScale fmt) w); (BitVec.ofNat 32 r.1, r.2)
    | none => (w, noFlag)
  else (w, noFlag)

/-- Bytes of an element of a destination format, or of an SX block (R414). -/
def drainUnit (c : Nat) : Nat :=
  match elemOf c with
  | some e => e.width / 8
  | none => 2

/-- Bytes that ACCST writes for one row (R414). -/
def drainRowBytes (c nb : Nat) : Nat := if sxCode c then nb * sxBytes (sxCodeW c) else 16 * nb * drainUnit c

/-- Row m of a drained tile as bytes, with flags (R414). -/
def Team.drainRow (t : Team) (cbase mr nb : Nat) (mod : BitVec 8) (fmt : Word) (m : Nat) : List Byte × BitVec 3 :=
  let ws := (List.range (16 * nb)).map fun c => t.accWord (cbase + c / 16 * mr + m) (c % 16)
  let hp := (mod.extractLsb' 4 2).toNat
  let h := if hp = 0 then (ws.map (·.toNat), noFlag) else hadAll (3 + hp) (ws.map (·.toNat))
  let vs := h.1.map fun x => drainVal (mod.getLsbD 3) (fmtScale fmt) (BitVec.ofNat 32 x)
  let out := match elemOf (fmtD fmt) with
    | some e => elemBytes (e.width / 8) (vs.map (drainElem (fmtRm fmt) e))
    | none => sxBlocks (sxCodeW (fmtD fmt)) vs
  (out.1, h.2 ||| out.2)

/-! ### Tile loads (R405) -/

/-- The pairs of slot and source format that TLOAD allows (R405). -/
def tloadPair (dst src : Nat) : Bool :=
  tileFmt dst && (dst == src || ([0, 1, 2].contains src && (dst == 1 || dst == 2 || sxCode dst)))

/-- Bytes of one element of a source format. -/
def srcElemBytes (c : Nat) : Nat := if c = 0 then 4 else if c ≤ 2 then 2 else 1
/-- Bytes of a strip in memory (R405). -/
def tloadSrcBytes (dst src : Nat) : Nat := if dst = src then stripS dst else stripK dst * srcElemBytes src

/-- A strip's bytes in the slot's format, with flags (R405). -/
def tloadStrip (dst src : Nat) (bs : List Byte) : List Byte × BitVec 3 :=
  if dst = src then (bs, noFlag)
  else
    let f := if src = 0 then fp32 else if src = 1 then fp16 else bf16
    let n := srcElemBytes src
    let vs := (runsOf n (stripK dst) bs).map fun b => f.dec (natOfBytes b)
    if sxCode dst then
      let out := sxBlocks (sxCodeW dst) vs
      (out.1, vs.foldl (fun fl v => fl ||| v.sigFlag) out.2)
    else elemBytes 2 (vs.map ((if dst = 1 then fp16 else bf16).ofVal .rne))

end Sys2Proof.Machine
end

