-- ==== Sys2Proof/Machine/Inflight.lean ====
section
/-! DEFINITION. What a group's operations in flight do after they have issued: stores, atomics and maintenance at home
(R199, R204, R383, R384), engine operations line by line (R175, R188, R205, R390 to R393, R405, R414), the matrix stream
(R400), arena reservations (R132), and the release and acquire that wait for them (R201, R202). -/

namespace Sys2Proof.Machine

/-! ### Fault entries of the FCP (R174) -/

/-- The entry that a fault joins. -/
def State.faultOf (s : State) (ctx : BitVec 5) (va kind : Nat) : Option FaultEntry :=
  s.fcp.faults.find? fun e => e.ctx == ctx && e.page == va / 4096 && e.kind.toNat == kind

/-- Join the entry of a fault, or make one while fewer than 4096 are in use (R174). queue: that of the
LAUNCH whose work faulted (R64). -/
def State.addFault (s : State) (ctx : BitVec 5) (va kind agent core : Nat) (write : Bool) (queue : BitVec 8) : State :=
  if (s.faultOf ctx va kind).isSome || 4096 ≤ s.fcp.faults.length then s
  else
    let e : FaultEntry := { id := s.fcp.nextFaultId, ctx := ctx, page := va / 4096, kind := BitVec.ofNat 8 kind, write := write,
                            agent := BitVec.ofNat 8 agent, core := BitVec.ofNat 7 core, va := BitVec.ofNat 49 va, queue := queue,
                            posted := false }
    { s with fcp := { s.fcp with faults := s.fcp.faults ++ [e], nextFaultId := s.fcp.nextFaultId + 1 } }

/-! ### Acquires (R201) -/

/-- Drop the clean mapped stash lines of a team (R201). -/
def Team.dropClean (t : Team) : Team :=
  { t with maps := t.maps.map fun m => m.map fun m => { m with filled := m.filled.filter fun w => m.dirty.any fun o => o / 128 == w.ln } }

/-- An acquire at a scope by a group (R201). -/
def State.acquire (s : State) (uid scope : Nat) : State :=
  if scope < 2 then s
  else match s.group uid with
    | none => s
    | some g => (s.dropCoherent g.core).modTeam g.team Team.dropClean

/-! ### Slots that RELEASE.SLOT gave up (R189, R404) -/

/-- Slots that an unfinished operation names. -/
def Op.slots (o : Op) : List Nat :=
  if o.perf then []
  else match o.body with
    | .engine (.tload regs mod fmt) _ =>
        let c := if mod.getLsbD 6 then fmtB fmt else fmtA fmt
        (List.range (tileSlots c (regs.getD 4 0).toNat)).map ((regs.getD 3 0).toNat + ·)
    | .stream (.mma _ a b mod fmt) =>
        (List.range (tileSlots (fmtA fmt) (32 <<< (mod.extractLsb' 6 2).toNat))).map (a + ·)
          ++ (List.range (tileSlots (fmtB fmt) (16 * (mod.extractLsb' 0 6).toNat))).map (b + ·)
    | .stream (.had slot count mod fmt) =>
        (List.range (tileSlots (if mod.getLsbD 2 then fmtB fmt else fmtA fmt) count)).map (slot + ·)
    | _ => []

/-- Free the given-up slots of a team that no unfinished operation names; their contents become unpredictable (R189). -/
def State.freeSlots (s : State) (tu : Nat) : State :=
  let used := (s.groups.filter fun g => g.team == tu).flatMap fun g => g.ops.flatMap Op.slots
  s.modTeam tu fun t => { t with slots := t.slots.zipIdx.map fun (sl, k) =>
    if sl.st = .releasing && !used.contains k then
      { st := .unclaimed, data := (List.range 16384).foldl (fun m i => sset 0 i (s.freeByte .slot (k * 16384 + i)) m) [] }
    else sl }

/-! ### Memory operations -/

/-- The line of a place, in one numbering of physical lines and stash lines. -/
def Place.line : Place → Nat × Nat
  | .phys pa => (0, pa / 128)
  | .stash t o => (t + 1, o / 128)

/-- Lanes of an atomic that name the address of its first lane, and the others (R193). -/
def atomSplit (lanes : List AtomLane) : List AtomLane × List AtomLane :=
  match lanes with
  | [] => ([], [])
  | l :: _ => (lanes.filter fun x => x.place == l.place, lanes.filter fun x => x.place != l.place)

/-- Apply the first address of an atomic at its home (R193, R204, R380), its lanes one after another; the tracked lines that it wrote. -/
def State.atomMember (s : State) (g : Group) (o : Op) (op : Nat) (w64 : Bool) (dest : List Nat) (lanes : List AtomLane) : State × List Nat :=
  let sp := atomSplit lanes
  match s.atomLanes g op (if w64 then 64 else 32) dest sp.1 with
  | (late, bad, lines, s1) =>
      let s3 := s1.modGroup g.uid fun h =>
        h.modOp o.uid fun p => { p with late := p.late ++ late, body := .atomic op w64 dest sp.2,
                                        perf := sp.2.isEmpty, err := ErrInfo.merge p.err (errOf bad) }
      (if sp.2.isEmpty then s3.acquire g.uid o.acq else s3, lines)

/-- Count the generation of each tracked line that an update wrote, once (R190). -/
def State.countGens (s : State) (lines : List Nat) : State := lines.eraseDups.foldl (fun t l => t.incGen (l * 128)) s

/-- Apply the first address of an atomic alone: a write counts once in the generation of its line (R190, log 6). -/
def State.atomStep (s : State) (g : Group) (o : Op) (op : Nat) (w64 : Bool) (dest : List Nat) (lanes : List AtomLane) : State :=
  let r := s.atomMember g o op w64 dest lanes
  r.1.countGens r.2

/-! ### Merging (R192) -/

/-- An atomic of a group that may merge with others: which operation, and its lanes (R192). -/
structure Member where
  g : Group
  o : Op
  op : Nat
  w64 : Bool
  dest : List Nat
  lanes : List AtomLane

/-- The atomics in flight that may meet another of operation op on the way to an address, one of each group: of the same context, width, operation,
order and scope, ready, and not yet applied there (R192). -/
def State.meets (s : State) (ctx : BitVec 5) (op : Nat) (w64 : Bool) (ord : Nat) (p : Place) (ready : Group → Op → Bool) : List Member :=
  s.groups.filterMap fun g =>
    if g.ctx != ctx || !s.onCore g then none
    else g.ops.findSome? fun o => match o.body with
      | .atomic op' w' dest lanes =>
          if !o.perf && !o.deferred && ready g o && op' == op && w' == w64 && o.ord == ord && lanes.any fun l => l.place == p then
            some ⟨g, o, op, w64, dest, (lanes.filter fun l => l.place == p) ++ lanes.filter fun l => l.place != p⟩
          else none
      | _ => none

/-- Members of a bundle in the order of their effect: core, group slot (R192). -/
def Member.le (a b : Member) : Bool :=
  let key := fun m : Member => m.g.core * 48 + 12 * m.g.part + m.g.slot
  decide (key a ≤ key b)

/-- Apply a bundle as one indivisible update: its members one after another, each line's generation once (R190, R192). -/
def State.atomBundle (s : State) (ms : List Member) : State :=
  let r := (ms.mergeSort Member.le).foldl (fun (acc : State × List Nat) m =>
    let q := acc.1.atomMember ((acc.1.group m.g.uid).getD m.g) m.o m.op m.w64 m.dest m.lanes
    (q.1, q.2 ++ acc.2)) (s, [])
  r.1.countGens r.2

/-- Apply an atomic whole, n addresses at most. -/
def State.atomAll (s : State) (uid ouid : Nat) : Nat → State
  | 0 => s
  | n + 1 =>
      match s.group uid with
      | none => s
      | some g =>
          match g.ops.find? fun o => o.uid == ouid with
          | none => s
          | some o =>
              if o.perf then s
              else match o.body with
                | .atomic op w64 dest lanes => State.atomAll (s.atomStep g o op w64 dest lanes) uid ouid n
                | _ => s

/-- A byte of a store goes to the host window. -/
def hostByte (w : ByteWrite) : Bool :=
  match w.place with
  | .phys pa => inHost pa
  | .stash _ _ => false

/-- A store still has bytes for the host while the host cannot be reached (R40). -/
def hostBlocked (s : State) (ws : List ByteWrite) : Bool := !s.hostReachable && ws.any hostByte

/-! ### Arena reservations (R132, R395) -/

/-- Cells of an arena beyond its bookkeeping (R132). -/
def LDesc.cells (d : LDesc) : Nat := if d.arenaBase = 0 then 0 else (d.arenaSize - 4096) / 64

/-- The lowest run of n free cells (R132). -/
def Launch.freeRun (l : Launch) (n : Nat) : Option Nat :=
  (List.range (l.ld.cells + 1 - n)).find? fun c =>
    n ≤ l.ld.cells && l.arena.all fun r => decide (c + n ≤ r.cell) || decide (r.cell + r.n ≤ c)

/-- Take a run for a RESERVE: its address, or 0 (R132, R395). -/
def State.reserve (s : State) (g : Group) (n : Nat) : Nat × State :=
  match s.launch g.launch with
  | none => (0, s)
  | some l =>
      match l.freeRun n with
      | none => (0, s)
      | some c => (l.ld.arenaBase.toNat + 4096 + 64 * c,
          s.modLaunch l.uid fun l => { l with arena := { cell := c, n := n, st := .reserved g.uid } :: l.arena })

/-! ### Engine pieces -/

/-- A piece of a strided destination that lies in one line: its row, the offset in the row, its address and its length. -/
structure Piece where
  row : Nat
  off : Nat
  addr : Nat
  n : Nat
  deriving DecidableEq, Repr

/-- The address of row r. -/
def rowAddr (wrap base : Nat) (pitch : Int) (r : Nat) : Nat := ((base + r * pitch) % wrap).toNat

/-- The piece after pos bytes of rows of len bytes each (R188, R392): rows in order, lines ascending. -/
def pieceAt (wrap dst : Nat) (pitch : Int) (len rows pos : Nat) : Option Piece :=
  if len = 0 || decide (rows * len ≤ pos) then none
  else
    let a := rowAddr wrap dst pitch (pos / len) + pos % len
    some ⟨pos / len, pos % len, a, min (len - pos % len) (128 - a % 128)⟩

/-- How a piece of an engine operation ends. -/
inductive LineRes where
  /-- n bytes, or strips, landed, with flags; buf: the bytes read of a strip that is not complete -/
  | moved (s : State) (n : Nat) (fl : BitVec 3) (buf : List Byte)
  /-- a fault of a read or a write at an address (R175) -/
  | pause (kind va : Nat) (write : Bool)
  /-- an error indication at an address (R393) -/
  | failed (s : State) (va : Nat)
  /-- the host cannot be reached -/
  | wait
  /-- nothing is left -/
  | finished

/-- A pair of registers of a block. -/
def regPair (regs : List Word) (k : Nat) : Nat := (regs.getD (k + 1) 0).toNat * 2 ^ 32 + (regs.getD k 0).toNat

/-- The operands of COPY, COPY2D and FILL (R390). -/
structure CopyOps where
  dst : Nat
  src : Nat
  len : Nat
  rows : Nat
  spitch : Int
  dpitch : Int
  dk : Nat
  sk : Nat
  pattern : Option Word
  bar : Nat
  bd : Bool
  par : Bool

/-- Read a copy block (R390). -/
def copyOps (regs : List Word) (twoD fill : Bool) (mod : BitVec 8) : CopyOps :=
  let dk := (mod.extractLsb' 0 2).toNat
  let sk := (mod.extractLsb' 2 2).toNat
  { dst := if dk = 0 then regPair regs 0 else (regs.getD 0 0).toNat, src := if sk = 0 then regPair regs 2 else (regs.getD 2 0).toNat,
    len := (regs.getD 4 0).toNat, rows := if twoD then (regs.getD 6 0).toNat else 1,
    spitch := if twoD then s32 (regs.getD 7 0) else 0, dpitch := if twoD then s32 (regs.getD 8 0) else 0, dk := dk, sk := sk,
    pattern := if fill then some (regs.getD 2 0) else none, bar := (regs.getD 5 0).toNat, bd := mod.getLsbD 6, par := mod.getLsbD 5 }

/-- Addresses of a space wrap here (R392). -/
def kindWrap (k : Nat) : Nat := if k = 0 then 2 ^ 64 else 2 ^ 32

/-- The team and offset of a cluster stash address (R371). -/
def State.clusterLoc (s : State) (g : Group) (a : Nat) : Option (Nat × Nat) :=
  match s.team g.team with
  | none => none
  | some t =>
      if bitsOf a 31 23 != 0 || decide (t.clsize ≤ bitsOf a 22 19) then none
      else match s.teamOfRank t (bitsOf a 22 19) with
        | none => none
        | some u => some (u.uid, bitsOf a 18 0)

/-- Where an engine's address lies: kind 0 virtual, 1 stash offset, 2 cluster stash address (R390). -/
def State.engineLoc (s : State) (g : Group) (kind a : Nat) (k : AccKind) : LocRes :=
  match kind with
  | 0 =>
      match k with
      | .write =>
          match s.translateFor g a .write with
          | .ok t => .ok ⟨a, .phys t.pa, t.attr⟩
          | .fault n => .fault n
          | .err => .err
      | _ => s.resolve g a k
  | 1 => .ok ⟨offVa a, .stash g.team a, stashAttr⟩
  | _ =>
      match s.clusterLoc g a with
      | some (u, o) => .ok ⟨offVa o, .stash u o, stashAttr⟩
      | none => .err

/-- What an engine reads. -/
inductive EngRead where
  | ok (bs : List Byte)
  | fault (kind va : Nat)
  | err (va : Nat)

/-- One byte for an engine: through the core's L1 and mapped stash, without the group's queued stores (R392). -/
def State.engineByte (s : State) (g : Group) (kind a : Nat) : EngRead :=
  match s.engineLoc g kind a .read with
  | .fault k => .fault k (a / 128 * 128)
  | .err => .err a
  | .ok l =>
      match if s.placeLost g.core l.place then none else s.placeByte g l (kind == 0) with
      | some b => .ok [b]
      | none => .err a

/-- n bytes for an engine; the first fault or error ends the read. -/
def State.engineBytes (s : State) (g : Group) (kind a : Nat) : Nat → EngRead
  | 0 => .ok []
  | n + 1 =>
      match s.engineByte g kind a with
      | .ok b =>
          match State.engineBytes s g kind (a + 1) n with
          | .ok bs => .ok (b ++ bs)
          | r => r
      | r => r

/-- What must happen to the caches before an engine reads (R170, R178, R186, R187). -/
def State.prepareEngine (s : State) (g : Group) (kind a : Nat) : State :=
  let s1 := if kind = 0 then s.noteTlb g a else s
  match s1.engineLoc g kind a .read with
  | .ok l => s1.prepareLoad g l
  | _ => s1

/-- An engine's read finds the SRAM errors of the word (R68). -/
def State.meetEngine (s : State) (g : Group) (kind a : Nat) : State :=
  if s.sram.isEmpty then s
  else match s.engineLoc g kind a .read with
    | .ok l => s.meetPlace g.core g.ctx l.place
    | _ => s

/-- Land bytes, each by its place after the location, of one line of an engine operation's destination (R188, R190, R205); none on an error
indication. -/
def State.engineWrite (s : State) (g : Group) (l : Loc) (bs : List (Byte × Nat)) : Option State :=
  if s.placeLost g.core l.place then none
  else match l.place with
  | .phys pa =>
      if (s.physByte pa).isNone then none
      else
        let s0 := s.noteTlb g l.va
        let s1 := if l.attr.coh == 2 then s0.takeX pa none else s0
        let s2 := bs.foldl (fun t bi => (t.ctxPut g.ctx (pa + bi.2) bi.1).updateCopy g.core (pa + bi.2) bi.1) s1
        some (((if l.attr.track then s2.incGen pa else s2).noteLine g.launch l.va).noteBook g.ctx l.va)
  | .stash _ _ =>
      some ((bs.foldl (fun t bi =>
        let m := l.plus bi.2
        t.putByte g.core g.launch g.ctx ⟨m.va, m.place, m.attr, bi.1⟩) s).latchBars (l.place.line.1 - 1))

/-- A read at the location waits: for the host (R39, R40), or for a retried read of its line (R35), of the line that fills a mapped one too. -/
def State.locHeld (s : State) (l : Loc) : Bool :=
  match l.place with
  | .phys pa => s.paHeld pa
  | .stash tu off => !isOff l.va && (match s.team tu with
      | none => false
      | some t => (t.filledAt (off / 128)).isNone && (match s.translate t.ctx l.va .read with
          | .ok r => s.paHeld r.pa
          | _ => false))

/-- An engine's read of a range waits: the line at its start, or at its end, cannot be read yet (R35, R39, R40). -/
def State.engineHeld (s : State) (g : Group) (kind a n : Nat) : Bool :=
  kind == 0 && (s.ownHeld g.ctx a 1 || s.ownHeld g.ctx (a + n - 1) 1)

/-- What a line that an engine could not write leaves: its record (R49), and its SRAM error found (R68). -/
def State.lineFailed (s : State) (g : Group) (l : Loc) : State :=
  let s1 := s.meetPlace g.core g.ctx l.place
  match l.place with
  | .phys pa => if s.lineBad pa then s1.noteBadAccess pa (some g.ctx) else s1
  | .stash _ _ => s1

/-- Deliver the bytes of a landed line to a barrier (R210). -/
def State.landBar (s : State) (g : Group) (bd : Bool) (bar : Nat) (par : Bool) (k : Nat) : State :=
  if bd then
    match s.clusterLoc g bar with
    | some loc => s.barApply loc fun b => b.land k par
    | none => s
  else s

/-- An address in one numbering of all spaces: virtual addresses, and then each team's stash. -/
def State.spaceAddr (s : State) (g : Group) (kind a : Nat) : Nat :=
  match kind with
  | 0 => a
  | 1 => 2 ^ 64 + g.team * 2 ^ 20 + a
  | _ =>
      match s.clusterLoc g a with
      | some (u, o) => 2 ^ 64 + u * 2 ^ 20 + o
      | none => 2 ^ 65

/-- Some row of a strided range holds an address. -/
def inRows (wrap base : Nat) (pitch : Int) (len rows a : Nat) : Bool :=
  (List.range rows).any fun r => decide (rowAddr wrap base pitch r ≤ a) && decide (a < rowAddr wrap base pitch r + len)

/-- One line of COPY, COPY2D or FILL (R390 to R393); bytes where source and destination overlap are free (R392). -/
def State.copyLine (s : State) (g : Group) (c : CopyOps) (pos : Nat) : LineRes :=
  match pieceAt (kindWrap c.dk) c.dst c.dpitch c.len c.rows pos with
  | none => .finished
  | some p =>
      let land := fun (s : State) (bs : List Byte) =>
        match s.engineLoc g c.dk p.addr .write with
        | .fault k => LineRes.pause k (p.addr / 128 * 128) true
        | .err => .failed s p.addr
        | .ok l =>
            if s.locHeld l then .wait
            else match s.engineWrite g l bs.zipIdx with
              | none => .failed (s.lineFailed g l) p.addr
              | some s1 => .moved ((s1.meetPlace g.core g.ctx l.place).landBar g c.bd c.bar c.par p.n) p.n noFlag []
      match c.pattern with
      | some w => land s ((List.range p.n).map fun k => w.extractLsb' (8 * ((p.off + k) % 4)) 8)
      | none =>
          let sa := rowAddr (kindWrap c.sk) c.src c.spitch p.row + p.off
          if s.engineHeld g c.sk sa p.n then .wait
          else
          let s1 := (s.prepareEngine g c.sk sa).prepareEngine g c.sk (sa + p.n - 1)
          let s2 := (s1.meetEngine g c.sk sa).meetEngine g c.sk (sa + p.n - 1)
          match s1.engineBytes g c.sk sa p.n with
          | .fault k va => .pause k va false
          | .err va => .failed (s2.noteOwnError g.ctx va) va
          | .ok bs =>
              let same := (c.sk == 0) == (c.dk == 0)
              let sb := s.spaceAddr g c.sk c.src
              let bs' := bs.zipIdx.map fun (b, k) =>
                if same && inRows (2 ^ 66) sb c.spitch c.len c.rows
                    (s.spaceAddr g c.dk (p.addr - p.off) + p.off + k) then s.freeByte .copy (p.addr + k) else b
              land s2 bs'

/-- Bytes of a strip in the slot's format that m bytes of its source complete (R405). -/
def tloadDone (dst src m : Nat) : Nat :=
  if dst = src then m
  else if sxCode dst then m / (16 * srcElemBytes src) * sxBytes (sxCodeW dst)
  else m / srcElemBytes src * 2

/-- One line of a strip of TLOAD (R175, R405): the slot format T, the source format, the strip after pos strips, and the bytes of it that have
been read. What the bytes read so far complete stands in the slot. -/
def State.tloadLine (s : State) (g : Group) (regs : List Word) (mod : BitVec 8) (fmt : Word) (pos : Nat) (buf : List Byte) : LineRes :=
  let dst := if mod.getLsbD 6 then fmtB fmt else fmtA fmt
  let src := (mod.extractLsb' 0 4).toNat
  if (regs.getD 4 0).toNat ≤ pos then .finished
  else
    let n := tloadSrcBytes dst src
    let a := rowAddr (2 ^ 64) (regPair regs 0) (s32 (regs.getD 2 0)) pos + buf.length
    let k := min (n - buf.length) (128 - a % 128)
    if s.engineHeld g 0 a k then .wait
    else
    let s1 := s.prepareEngine g 0 a
    let s2 := s1.meetEngine g 0 a
    match s1.engineBytes g 0 a k with
    | .fault kind va => .pause kind va false
    | .err va => .failed (s2.noteOwnError g.ctx va) va
    | .ok bs =>
        let got := buf ++ bs
        let r := tloadStrip dst src (got ++ List.replicate (n - got.length) 0)
        let old := tloadDone dst src buf.length
        let hit := slotHit g.team (regs.getD 3 0).toNat (pos * stripS dst + old) (tloadDone dst src got.length - old)
        let s3 := (s2.clearSram hit).modTeam g.team fun t =>
          t.putSlotBytes (regs.getD 3 0).toNat (pos * stripS dst + old) ((r.1.take (tloadDone dst src got.length)).drop old)
        if got.length < n then .moved s3 0 r.2 got else .moved s3 1 r.2 []

/-- A stream operation that reads some words of matrix storage completes: it finds their errors, and MEM_ERROR becomes due where the data of some
are lost (R68, R373, R417); the address that the record gives is 0 (DESIGN CHOICE, log 92). -/
def State.streamErrors (s : State) (g : Group) (p : SramAt → Bool) : State :=
  if s.sram.isEmpty then s
  else
    let s1 := s.meetIn g.ctx p
    if s.lostIn p then s1.modGroup g.uid fun h => h.due (memError { va := 0, lanes := 0 }) else s1

/-- Elements of a row of ACCST that one run of its transform, or one block, makes (R414). -/
def drainGrain (mod : BitVec 8) (fmt : Word) : Nat :=
  let hp := (mod.extractLsb' 4 2).toNat
  if hp ≠ 0 then 2 ^ (3 + hp) else if sxCode (fmtD fmt) then 16 else 1

/-- Byte o of row m of a drained tile depends on a lost accumulator word (R417). -/
def State.drainLost (s : State) (tu cbase mr nb : Nat) (mod : BitVec 8) (fmt : Word) (m o : Nat) : Bool :=
  let grain := drainGrain mod fmt
  let e := o * (16 * nb) / drainRowBytes (fmtD fmt) nb / grain * grain
  (List.range grain).any fun k => s.lostIn (accHit tu ((cbase + (e + k) / 16 * mr + m) * 16 + (e + k) % 16) 1)

/-- A range of a team's matrix storage: words of the accumulator, or bytes of its slots, numbered through. -/
structure MatRange where
  acc : Bool
  lo : Nat
  hi : Nat

/-- Rows of the accumulator. -/
def accRange (row n : Nat) : MatRange := ⟨true, row * 16, (row + n) * 16⟩
/-- Bytes of the run of slots that starts at a slot. -/
def slotRange (slot o n : Nat) : MatRange := ⟨false, slot * 16384 + o, slot * 16384 + o + n⟩

/-- What an operation writes in its team's matrix storage (R405, R406, R411, R412). -/
def Op.matrixWrites (o : Op) : Option MatRange :=
  match o.body with
  | .engine (.tload regs mod fmt) pos =>
      let k := stripS (if mod.getLsbD 6 then fmtB fmt else fmtA fmt)
      some (slotRange (regs.getD 3 0).toNat (pos * k) (((regs.getD 4 0).toNat - pos) * k))
  | .stream (.mma base _ _ mod _) => some (accRange base ((mod.extractLsb' 0 6).toNat * (32 <<< (mod.extractLsb' 6 2).toNat)))
  | .stream (.had slot count mod fmt) => some (slotRange slot 0 (count * stripS (if mod.getLsbD 2 then fmtB fmt else fmtA fmt)))
  | .stream (.accz row count) => some (accRange row count)
  | _ => none

/-- Operations of a group that were issued before one. -/
def Group.before (g : Group) (ouid : Nat) : List Op := g.ops.takeWhile fun o => o.uid != ouid

/-- The operation belongs to the matrix stream. -/
def Op.inStream (o : Op) : Bool :=
  match o.body with
  | .stream _ => true
  | .engine (.accst _ _ _) _ => true
  | _ => false

/-- A TLOAD that has not landed. -/
def Op.isTload (o : Op) : Bool :=
  match o.body with
  | .engine (.tload _ _ _) _ => !o.perf
  | _ => false

/-- A stream operation may take its place: the earlier ones of its group are complete, and the TLOADs before it into a slot it
reads have landed (R400). -/
def Group.streamReady (g : Group) (o : Op) : Bool :=
  (g.before o.uid).all fun p => (!p.inStream || p.perf) && !(p.isTload && p.slots.any o.slots.contains)

/-- What unfinished operations of the other groups of a group's team are writing in its matrix storage (R400). -/
def State.contested (s : State) (g : Group) : List MatRange :=
  (s.groups.filter fun h => h.team == g.team && h.uid != g.uid).flatMap fun h =>
    h.ops.filterMap fun o => if o.perf || o.deferred || !(h.streamReady o) then none else o.matrixWrites

/-- A team's matrix storage as an operation of a group reads it: free values in what another group's unfinished operation is writing (R400). -/
def State.contend (s : State) (g : Group) (t : Team) (reads : List MatRange) : Team :=
  (s.contested g).foldl (fun t c => reads.foldl (fun t r =>
    if c.acc != r.acc then t
    else (List.range (min c.hi r.hi - max c.lo r.lo)).foldl (fun t k =>
      let i := max c.lo r.lo + k
      if c.acc then { t with acc := sset 0 i (s.freeWord .slot (2 ^ 24 + i)) t.acc } else t.putSlotByte 0 i (s.freeByte .slot (2 ^ 23 + i))) t) t) t

/-- One line of ACCST (R414). Bytes that depend on a lost accumulator word keep their values, and MEM_ERROR becomes due as the operation completes
(R417). -/
def State.accstLine (s : State) (g : Group) (regs : List Word) (mod : BitVec 8) (fmt : Word) (pos : Nat) : LineRes :=
  let nb := (regs.getD 5 0).toNat
  let mr := (regs.getD 4 0).toNat
  let len := drainRowBytes (fmtD fmt) nb
  match pieceAt (2 ^ 64) (regPair regs 0) (s32 (regs.getD 2 0)) len mr pos, s.team g.team with
  | some p, some t =>
      let cbase := (regs.getD 3 0).toNat
      let row := (s.contend g t [accRange cbase (nb * mr)]).drainRow cbase mr nb mod fmt p.row
      let bs := ((row.1.drop p.off).take p.n).zipIdx.filter fun bi => !(s.drainLost t.uid cbase mr nb mod fmt p.row (p.off + bi.2))
      match s.engineLoc g 0 p.addr .write with
      | .fault k => .pause k (p.addr / 128 * 128) true
      | .err => .failed s p.addr
      | .ok l =>
          if s.locHeld l then .wait
          else match s.engineWrite g l bs with
            | none => .failed (s.lineFailed g l) p.addr
            | some s1 =>
                let s2 := (s1.meetPlace g.core g.ctx l.place).landBar g (mod.getLsbD 6) (regs.getD 6 0).toNat (mod.getLsbD 7) p.n
                .moved (if pos + p.n < len * mr then s2 else s2.streamErrors g (accHit t.uid (cbase * 16) (nb * mr * 16))) p.n row.2 []
  | _, _ => .finished

/-- One line of an engine operation. -/
def State.engineLine (s : State) (g : Group) (e : Engine) (pos : Nat) (buf : List Byte) : LineRes :=
  match e with
  | .copy regs twoD fill mod => s.copyLine g (copyOps regs twoD fill mod) pos
  | .tload regs mod fmt => s.tloadLine g regs mod fmt pos buf
  | .accst regs mod fmt => s.accstLine g regs mod fmt pos

/-- The agent of an engine's faults (R174). -/
def Engine.agent : Engine → Nat
  | .copy _ _ _ _ => 5
  | .tload _ _ _ => 6
  | .accst _ _ _ => 7

/-- Units (bytes or strips) that an engine operation moves in all. -/
def Engine.total : Engine → Nat
  | .copy regs twoD fill mod => (copyOps regs twoD fill mod).len * (copyOps regs twoD fill mod).rows
  | .tload regs _ _ => (regs.getD 4 0).toNat
  | .accst regs _ fmt => drainRowBytes (fmtD fmt) (regs.getD 5 0).toNat * (regs.getD 4 0).toNat

/-- Change an operation of a group and settle. -/
def State.modOp (s : State) (uid ouid : Nat) (f : Op → Op) : State := s.modGroup uid fun g => g.modOp ouid f

/-- An operation of a group is complete: settle its group, and free slots that waited for it. -/
def State.finishOp (s : State) (g : Group) (ouid : Nat) : State :=
  ((s.markPerf g.uid ouid).settle g.uid).freeSlots g.team

/-- One line of an engine operation lands, or it pauses, is abandoned or completes (R175, R188, R393). -/
def State.engineStep (s : State) (g : Group) (o : Op) (e : Engine) (pos : Nat) : State :=
  match s.engineLine g e pos o.buf with
  | .finished => s.finishOp g o.uid
  | .wait => s
  | .pause k va write =>
      (s.addFault g.ctx va k e.agent g.core write (s.queueOf g)).modOp g.uid o.uid fun p => { p with paused := some (k, va, write) }
  | .failed s1 va =>
      (s1.modGroup g.uid fun h => h.due (memError { va := va, lanes := 0 })).finishOp g o.uid
  | .moved s1 n fl buf =>
      let s2 := s1.modOp g.uid o.uid fun p => { p with body := .engine e (pos + n), buf := buf, flags := p.flags ||| fl }
      if e.total ≤ pos + n then s2.finishOp g o.uid else s2

/-- Abandon an engine operation (R175): no further byte lands, its count falls in turn, and ENGINE_FAULT becomes due. -/
def State.abandonOp (s : State) (g : Group) (o : Op) : State :=
  match o.paused, o.body with
  | some (k, va, _), .engine e _ =>
      let s1 := s.modGroup g.uid fun h =>
        (h.due (boundary 0x34 (BitVec.ofNat 32 (k + 256 * e.agent)) va 0)).modOp o.uid
          fun p => { p with paused := none }
      s1.finishOp g o.uid
  | _, _ => s

/-! ### The matrix stream (R400, R409) -/

/-- The words of matrix storage that a stream operation of a team reads, and, for an MMA of two arrays, its pair link (R407, R417). -/
def State.streamReads (s : State) (g : Group) (t : Team) (m : Stream) (a : SramAt) : Bool :=
  match m with
  | .mma base sa sb mod fmt =>
      let rows := 32 <<< (mod.extractLsb' 6 2).toNat
      let n := (mod.extractLsb' 0 6).toNat
      slotHit t.uid sa 0 (rows * stripS (fmtA fmt)) a || slotHit t.uid sb 0 (16 * n * stripS (fmtB fmt)) a || accHit t.uid (base * 16) (rows * n * 16) a
        || (decide (2 ≤ n) && !s.dev.coreExclude.getLsbD (g.core ^^^ 1) && a == .pair g.core)
  | .had slot count mod fmt => slotHit t.uid slot 0 (count * stripS (if mod.getLsbD 2 then fmtB fmt else fmtA fmt)) a
  | .accz _ _ => false
  | .accrd _ row _ _ _ => accHit t.uid (row * 16) 96 a

/-- C word (j, c) of an MMA depends on no lost word, and, where the follower computes its column, not on a pair link that fails (R407, R417). -/
def State.mmaKeeps (s : State) (g : Group) (t : Team) (base sa sb : Nat) (mod : BitVec 8) (fmt : Word) (j c : Nat) : Bool :=
  let rows := 32 <<< (mod.extractLsb' 6 2).toNat
  let n := (mod.extractLsb' 0 6).toNat
  let k := stripS (fmtA fmt)
  s.sram.isEmpty || !(s.lostIn fun a => slotHit t.uid sa (j * k) k a || slotHit t.uid sb (c * stripS (fmtB fmt)) (stripS (fmtB fmt)) a
    || accHit t.uid ((base + c / 16 * rows + j) * 16 + c % 16) 1 a
    || (decide ((n + 1) / 2 ≤ c / 16) && !s.dev.coreExclude.getLsbD (g.core ^^^ 1) && a == .pair g.core))

/-- Run a stream operation (R406, R411 to R413); ACCST runs line by line as an engine operation. What depends on a lost word keeps its earlier
value, and MEM_ERROR becomes due (R417). -/
def State.runStream (s : State) (g : Group) (o : Op) (m : Stream) : State :=
  match s.team g.team with
  | none => s.finishOp g o.uid
  | some t =>
      let s1 := s.streamErrors g (s.streamReads g t m)
      match m with
      | .mma base a b mod fmt =>
          let rows := 32 <<< (mod.extractLsb' 6 2).toNat
          let n := (mod.extractLsb' 0 6).toNat
          let u := s.contend g t [accRange base (n * rows), slotRange a 0 (rows * stripS (fmtA fmt)), slotRange b 0 (16 * n * stripS (fmtB fmt))]
          let r := u.mma base a b mod fmt (s.mmaKeeps g t base a b mod fmt)
          ((s1.modTeam t.uid fun _ => { t with acc := r.1.acc }).modOp g.uid o.uid fun p => { p with flags := r.2 }).finishOp g o.uid
      | .had slot count mod fmt =>
          let u := s.contend g t [slotRange slot 0 (count * stripS (if mod.getLsbD 2 then fmtB fmt else fmtA fmt))]
          let r := u.had slot count mod fmt fun o n => !(s.lostIn (slotHit t.uid slot o n))
          ((s1.modTeam t.uid fun _ => { t with slots := r.1.slots }).modOp g.uid o.uid fun p => { p with flags := r.2 }).finishOp g o.uid
      | .accz row count => ((s1.clearSram (accHit t.uid (row * 16) (count * 16))).modTeam t.uid fun t => t.accz row count).finishOp g o.uid
      | .accrd d row mask mod fmt =>
          let u := s.contend g t [accRange row 6]
          let rs := ((lanesOf mask).filter fun i => !(s.lostIn (accHit t.uid (row * 16 + i) 1))).map fun i => (i, u.accrdLane row mod fmt i)
          (s1.modOp g.uid o.uid fun p => { p with
            late := rs.map fun r => { vec := true, reg := d, lane := r.1, value := r.2.1, contested := false, landed := false,
                                      prev := 0 }
            flags := rs.foldl (fun f r => f ||| r.2.2) noFlag }).finishOp g o.uid

/-- Batch t of a group has retired: every operation of it and of earlier batches is complete (R409). -/
def Group.batchRetired (g : Group) (t : Nat) : Bool :=
  g.ops.all fun o => match o.batch with
    | some b => decide (t < b) || o.done
    | none => true

/-! ### One operation takes a step -/

/-- The group's table after an arrival in a phase: DROP removes the entry (R208, R389). -/
def Group.arrived (g : Group) (loc : Nat × Nat) (drop : Bool) (phase : Nat) : Group :=
  { g with bars := if drop then g.bars.filter fun r => !(r.team == loc.1 && r.off == loc.2)
      else g.bars.map fun r => if r.team == loc.1 && r.off == loc.2 then { r with last := some (BitVec.ofNat 16 phase) } else r }

/-- A barrier operation takes effect (R210, R217). An arrival's result is kept for its instruction; an arrival that BAR_STATE forbids
(R208, decided at the stash), or whose registration an earlier BAR.ARRIVE.DROP has ended, leaves an empty one. -/
def State.runBar (s : State) (g : Group) (o : Op) (b : BarOp) : State :=
  match b with
  | .join loc x => (s.barApply loc fun b => b.join (s.barWho g loc.1) x).finishOp g o.uid
  | .expect loc n => (s.barApply loc fun b => b.expect n).finishOp g o.uid
  | .drop loc => ((s.modTeam loc.1 fun t => t.putBar loc.2 { t.bar loc.2 with drops := (t.bar loc.2).drops + 1 }).noteDrop g loc).finishOp g o.uid
  | .arrive loc drop pc =>
      match s.team loc.1 with
      | none => s.finishOp g o.uid
      | some t =>
          let b := t.bar loc.2
          let again := (g.bars.find? fun r => r.team == loc.1 && r.off == loc.2).all fun r => r.last == some (BitVec.ofNat 16 b.phase)
          if again then (s.modGroup g.uid fun h => h.putAnswer pc []).finishOp g o.uid
          else
            let last := if b.maxreg = 0 then b.arrived + 1 == b.expected else s.barWho g loc.1 + 1 == b.maxreg
            let s0 := if drop then s.noteDrop g loc else s
            let s1 := (s0.modGroup g.uid fun h => h.arrived loc drop b.phase).barApply loc fun b => b.arrive drop
            (s1.modGroup g.uid fun h => h.putAnswer pc [BitVec.ofNat 32 (b.phase + 65536 * last.toNat)]).finishOp g o.uid

/-- An operation in flight takes one step towards its completion. -/
def State.runOp (s : State) (g : Group) (o : Op) : State :=
  if o.perf || o.paused.isSome then s
  else match o.body with
    | .load _ => s.finishOp g o.uid
    | .store ws _ =>
        if hostBlocked s ws then
          -- what goes to DRAM or to a stash is performed; what goes to the host waits for it
          let sp := ws.partition fun w => hostByte w
          if sp.2.isEmpty then s else s.performStore g o sp.2 sp.1
        else (s.performStore g o ws []).finishOp g o.uid
    | .atomic op w64 dest lanes =>
        if lanes.isEmpty then (s.acquire g.uid o.acq).finishOp g o.uid else (s.atomStep g o op w64 dest lanes).settle g.uid
    | .clean lo hi inval => (s.cleanRange g lo hi inval).finishOp g o.uid
    | .unmap m => (s.finishUnmap g.team m).finishOp g o.uid
    | .map m va off len => ((s.dropRange g va (va + len)).installMap g.team m va off len).finishOp g o.uid
    | .expect loc n => (s.barApply loc fun b => b.expect n).finishOp g o.uid
    | .trace _ => s
    | .reserve d n =>
        let r := s.reserve g n
        let late := [(d, r.1 % 2 ^ 32), (d + 1, r.1 / 2 ^ 32)].map fun kv : Nat × Nat =>
          ({ vec := false, reg := kv.1, lane := 0, value := BitVec.ofNat 32 kv.2, contested := false, landed := false,
             prev := 0 } : LateWrite)
        (r.2.modOp g.uid o.uid fun p => { p with late := late }).finishOp g o.uid
    | .engine e pos => if o.inStream && !g.streamReady o then s else s.engineStep g o e pos
    | .stream m => if g.streamReady o then s.runStream g o m else s
    | .bar b => s.runBar g o b

/-- Run the operation with a number of a group, n steps at most, until it is complete, pauses or cannot go on. -/
def State.runFully (s : State) (uid ouid : Nat) : Nat → State
  | 0 => s
  | n + 1 =>
      match s.group uid with
      | none => s
      | some g =>
          match g.ops.find? fun o => o.uid == ouid with
          | none => s
          | some o => if o.perf || o.paused.isSome then s else State.runFully (s.runOp g o) uid ouid n

/-- Steps that complete an operation: one per line, address or unit. -/
def Op.fuel (o : Op) : Nat :=
  match o.body with
  | .engine (.tload regs mod fmt) _ => 16 * (Engine.tload regs mod fmt).total + 1
  | .engine e _ => e.total + 1
  | .atomic _ _ _ lanes => lanes.length + 1
  | _ => 1

/-- The operation writes memory, the stash or a barrier, and no engine makes it. -/
def Op.isWrite (o : Op) : Bool :=
  match o.body with
  | .store _ _ | .atomic _ _ _ _ | .clean _ _ _ | .unmap _ | .expect _ _ | .bar _ => !o.perf && !o.deferred
  | _ => false

/-- The line of a virtual address, beside the lines of places: one address keeps its writes in order, whatever path they take (R200). -/
def vaLine (va : Nat) : Nat × Nat := (2 ^ 64, va / 128)

/-- The lines that an operation writes or reads at its homes. -/
def Op.lines (o : Op) : List (Nat × Nat) :=
  match o.body with
  | .store ws _ => ((ws.map fun w => w.place.line) ++ ws.map fun w => vaLine w.va).eraseDups
  | .atomic _ _ _ lanes => ((lanes.map fun l => l.place.line) ++ lanes.map fun l => vaLine l.va).eraseDups
  | .expect loc _ | .bar (.join loc _) | .bar (.arrive loc _ _) | .bar (.expect loc _) | .bar (.drop loc) =>
      [(loc.1 + 1, loc.2 / 128)]
  | _ => []

/-- A write-back or invalidation waits for every earlier write; another write for the earlier ones of its lines (R200, R384, R389). -/
def Group.writeReady (g : Group) (o : Op) : Bool :=
  (g.before o.uid).all fun p => !p.isWrite ||
    (match o.body with
     | .clean _ _ _ => false
     | .unmap _ => false
     | _ => !p.lines.any o.lines.contains)

/-! ### The order of messages (R176) -/

/-- The stop to which a core's write of a place sends a message: its home's, or another core's for the stash of a team there; none where the write
stays in the core (R176, R180). -/
def State.writeStop (s : State) (core : Nat) (p : Place) (attr : Attr) : Option (Nat × Nat) :=
  match p with
  | .phys pa => if attr.coh == 0 && attr.cache == 0 && !attr.track && inDram pa then none else some (s.homeStop pa)
  | .stash tu _ => if s.teamCore tu = core then none else some (coreStop (s.teamCore tu))

/-- The stops to which an operation of a core sends its writes. -/
def State.opStops (s : State) (core : Nat) (o : Op) : List (Nat × Nat) :=
  (match o.body with
   | .store ws _ => ws.filterMap fun w : ByteWrite => s.writeStop core w.place w.attr
   | .atomic _ _ _ lanes => lanes.filterMap fun l : AtomLane => s.writeStop core l.place { l.attr with track := true }
   | _ => []).eraseDups

/-- The writes in flight of a core's groups, by group, that were sent before an operation. -/
def State.sentBefore (s : State) (core ouid : Nat) : List (Nat × Op) :=
  (s.groups.filter fun g => g.core == core && s.onCore g).flatMap fun g => (g.ops.filter fun p => p.isWrite && decide (p.uid < ouid)).map fun p => (g.uid, p)

/-- Every message of the core to the stops of an operation that was sent before it has arrived (R176). -/
def State.meshReady (s : State) (g : Group) (o : Op) : Bool :=
  let stops := s.opStops g.core o
  stops.isEmpty || (s.sentBefore g.core o.uid).all fun p => !((s.opStops g.core p.2).any stops.contains)

/-- The earlier writes of the core that arrive before an operation does, oldest first: those with which it shares a stop, and those with which one of
these does (R176). -/
def State.meshEarlier (s : State) (g : Group) (o : Op) : List (Nat × Op) :=
  let newest := (s.sentBefore g.core o.uid).mergeSort fun a b => decide (b.2.uid ≤ a.2.uid)
  (newest.foldl (fun (acc : List (Nat × Op) × List (Nat × Nat)) p =>
    let st := s.opStops g.core p.2
    if st.any acc.2.contains then (p :: acc.1, st ++ acc.2) else acc) ([], s.opStops g.core o)).1

/-- Run operations of a group that a test selects, oldest first, and before each the messages of its core that arrive before it. -/
def State.runOps (s : State) (uid : Nat) (sel : Op → Bool) : State :=
  match s.group uid with
  | none => s
  | some g => (g.ops.filter sel).foldl (fun t o =>
      ((if o.isWrite then t.meshEarlier g o else []).foldl (fun u p => u.runFully p.1 p.2.uid p.2.fuel) t).runFully uid o.uid o.fuel) s

/-- Run the earlier writes of some lines that a group has in flight. -/
def State.performLines (s : State) (uid : Nat) (lines : List (Nat × Nat)) : State :=
  s.runOps uid fun o => o.isWrite && o.lines.any lines.contains

/-- The group's atomics in flight on some lines are applied, the earlier writes of those lines first: a load that follows an atomic
sees it (R200). -/
def State.performAtomics (s : State) (uid : Nat) (lines : List (Nat × Nat)) : State :=
  match s.group uid with
  | none => s
  | some g =>
      let at_ := g.ops.filter fun o => o.isWrite && o.lines.any lines.contains && (match o.body with
        | .atomic _ _ _ _ => true
        | _ => false)
      if at_.isEmpty then s else s.performLines uid (at_.flatMap Op.lines)

/-- Perform every earlier write of a group (R201, R205): all of them, or those issued before an operation. -/
def State.performWrites (s : State) (uid : Nat) (stop : Option Nat) : State :=
  match s.group uid with
  | none => s
  | some g =>
      let ops := match stop with
        | some u => g.before u
        | none => g.ops
      s.runOps uid fun o => o.isWrite && ops.any fun p => p.uid == o.uid

/-! ### Releases, acquires and phases (R201, R202) -/

/-- Increment the phase numbers of the scopes team, cluster, device and system up to a scope (R202). -/
def bumpPhases (scope : Nat) (ps : List Nat) : List Nat := ps.zipIdx.map fun (p, k) => if k < scope then (p + 1) % 2 ^ 32 else p

/-- A release at a scope (0 group to 4 system) by a group, and its phase numbers (R201, R202). -/
def State.release (s : State) (uid scope : Nat) : State :=
  if scope = 0 then s
  else
    let s1 := s.performWrites uid none
    let s2 := match s1.group uid with
      | some g => if 2 ≤ scope then s1.writeBackTeam g.team else s1
      | none => s1
    s2.modGroup uid fun g => { g with phases := bumpPhases scope g.phases }

/-- An earlier write of a group that a release at system scope waits for is not performed: it goes to the host, which cannot be
reached (R40, R201). -/
def State.releaseHeld (s : State) (uid scope : Nat) : Bool :=
  match s.group uid with
  | none => false
  | some g => decide (4 ≤ scope) && g.ops.any fun o => match o.body with
      | .store ws _ => !o.perf && !o.deferred && hostBlocked s ws
      | _ => false

/-- An earlier read of the group has not been made: that of an atomic on its way to its home. An acquire waits for it (R201); one that a
deterministic round defers comes at the boundary (R217). -/
def Group.readPending (g : Group) : Bool := g.ops.any fun o => !o.perf && !o.deferred && (match o.body with
  | .atomic _ _ _ _ => true
  | _ => false)

/-- The group's release or acquire that is under way completes, where what it waits for has happened (R201, R385). -/
def State.passFence (s : State) (uid : Nat) : State :=
  match s.group uid with
  | none => s
  | some g =>
      match g.fence with
      | none => s
      | some f =>
          if (f.rel && s.releaseHeld uid f.scope) || (f.acq && g.readPending) then s
          else
            let s1 := if f.rel then s.release uid f.scope else s
            let s2 := if f.acq then s1.acquire uid f.scope else s1
            s2.modGroup uid fun g => { g with fence := none }

/-- A release, an acquire or both begin, and complete at once where nothing keeps them (R201, R385). -/
def State.putFence (s : State) (uid : Nat) (f : Fence) : State := (s.modGroup uid fun g => { g with fence := some f }).passFence uid

end Sys2Proof.Machine
end

