-- ==== Sys2Proof/Machine/Sections.lean ====
section
/-! DEFINITION. Ordered sections: the entries of keys at their homes (R288), who enters (R289, R292), and the messages that
give keys up (R290, R291, R429). -/

namespace Sys2Proof.Machine

/-- The home slice of a key (R288). -/
def osSlice (k : Dword) : Nat :=
  bitsOf k.toNat 3 0 ^^^ bitsOf k.toNat 19 16 ^^^ bitsOf k.toNat 35 32 ^^^ bitsOf k.toNat 51 48

/-- The entry of a context's key. -/
def OsEntry.isFor (e : OsEntry) (ctx : BitVec 5) (key : Dword) : Bool := e.ctx == ctx && e.key == key
/-- The entry of a context's key at its home. -/
def State.osEntry (s : State) (ctx : BitVec 5) (key : Dword) : Option OsEntry := s.slices.osHomes.find? (·.isFor ctx key)
/-- Change the list of entries. -/
def State.mapOs (s : State) (f : List OsEntry → List OsEntry) : State :=
  { s with slices := { s.slices with osHomes := f s.slices.osHomes } }
/-- Change a key's entry. -/
def State.setOs (s : State) (ctx : BitVec 5) (key : Dword) (f : OsEntry → OsEntry) : State :=
  s.mapOs fun es => es.map fun e => if e.isFor ctx key then f e else e

/-- A new entry: NEXT 0, POISON 0 (R288). -/
def OsEntry.fresh (ctx : BitVec 5) (key : Dword) : OsEntry := { ctx := ctx, key := key, next := 0, poison := false, holder := none }

/-- A home has a free entry for a key: it holds fewer than 4096 (R288). -/
def State.osRoom (s : State) (key : Dword) : Bool :=
  decide ((s.slices.osHomes.filter fun e => osSlice e.key == osSlice key).length < 4096)

/-- An OSLEAVE or OSABORT message takes effect at its key's home (R290, R291, R429). -/
def State.osApply (s : State) (m : OsMsg) : State :=
  if m.free then s.mapOs fun es => es.filter fun e => !e.isFor m.ctx m.key
  else s.setOs m.ctx m.key fun e => { e with next := m.next, poison := e.poison || m.poison, holder := none }

/-- The messages on their way to a key reach its home, in the order they were sent. -/
def State.osFlush (s : State) (ctx : BitVec 5) (key : Dword) : State :=
  let mine := s.slices.osMsgs.filter fun m => m.ctx == ctx && m.key == key
  let s1 := mine.foldl State.osApply s
  { s1 with slices := { s1.slices with osMsgs := s.slices.osMsgs.filter fun m => !(m.ctx == ctx && m.key == key) } }

/-- Distinct keys that lanes of a core hold, and then those on which lanes wait (R288). -/
def State.osCoreKeys (s : State) (core : Nat) : List (BitVec 5 × Dword) :=
  let gs := s.groups.filter fun g => g.core == core && s.onCore g
  ((gs.flatMap fun g => (g.held.flatten ++ g.entering.flatMap (·.lanes)).map fun h => (g.ctx, h.key))
    ++ gs.flatMap fun g => (g.entering.flatMap (·.waiting)).map fun h => (g.ctx, h.key)).eraseDups

/-- A lane asks its key's home to enter: it enters when NEXT is its sequence number and no lane holds the key; entering clears
POISON, which the lane receives (R289). A lane without an entry of its core's cache or of the home waits (R288). -/
def State.osAsk (s : State) (g : Group) (h : HeldLane) : Option HeldLane × State :=
  let s0 := s.osFlush g.ctx h.key
  if !((s0.osCoreKeys g.core).take 512).contains (g.ctx, h.key) then (none, s0)
  else
    let s1 := if (s0.osEntry g.ctx h.key).isSome || !s0.osRoom h.key then s0 else s0.mapOs fun es => OsEntry.fresh g.ctx h.key :: es
    match s1.osEntry g.ctx h.key with
    | none => (none, s1)
    | some e =>
        if e.next = h.seq && e.holder.isNone then
          let s2 := s1.setOs g.ctx h.key fun e => { e with poison := false, holder := some (g.uid, h.lane) }
          (some { h with poison := e.poison },
            { s2 with slices := { s2.slices with osStalled := s2.slices.osStalled.filter (· != (g.ctx, h.key)) } })
        else (none, s1)

/-- The OSENTER of a row at a PC. -/
def Entering.isAt (e : Entering) (row : Nat) (pc : Pc) : Bool := e.row == row && e.pc == pc
/-- The OSENTER under way of a row at a PC. -/
def Group.enteringAt (g : Group) (row : Nat) (pc : Pc) : Option Entering := g.entering.find? (·.isAt row pc)

/-- A waiting lane has entered. -/
def Entering.enter (e : Entering) (h : HeldLane) : Entering :=
  { e with lanes := e.lanes ++ [h], waiting := e.waiting.filter fun w => w.lane != h.lane }

/-- One waiting lane of an OSENTER asks. -/
def State.osAskLane (s : State) (uid row : Nat) (pc : Pc) (h : HeldLane) : State :=
  match s.group uid with
  | none => s
  | some g =>
      match s.osAsk g h with
      | (none, s1) => s1
      | (some h', s1) => 
          s1.modGroup uid fun g => { g with entering := g.entering.map fun e => if e.isAt row pc then e.enter h' else e }

/-- The waiting lanes of an OSENTER ask, lanes ascending; key: only those that wait on it. -/
def State.osTry (s : State) (uid row : Nat) (pc : Pc) (key : Option Dword) : State :=
  match (s.group uid).bind fun g => g.enteringAt row pc with
  | none => s
  | some e => (e.waiting.filter fun h => key.isNone || key == some h.key).foldl (fun t h => t.osAskLane uid row pc h) s

/-- Every waiting lane of some groups asks, groups in the order given, and of each its lanes ascending (R292). -/
def State.osTryGroups (s : State) (uids : List Nat) (key : Option Dword) : State :=
  uids.foldl (fun t u =>
    match t.group u with
    | none => t
    | some g =>
        let ws := (g.entering.flatMap fun e => (e.waiting.filter fun h => key.isNone || key == some h.key).map fun h => (e, h)).mergeSort
          fun a b => decide (a.2.lane ≤ b.2.lane)
        ws.foldl (fun v x => v.osAskLane u x.1.row x.1.pc x.2) t) s

/-- Send messages to homes (R290). -/
def State.osSend (s : State) (ms : List OsMsg) : State := { s with slices := { s.slices with osMsgs := s.slices.osMsgs ++ ms } }

/-- The message of a lane that leaves a section (R290), or aborts it (R291). -/
def HeldLane.leave (h : HeldLane) (ctx : BitVec 5) (poison free : Bool) : OsMsg :=
  { ctx := ctx, key := h.key, next := h.seq + 1, poison := poison, free := free }

/-- OSABORT: every held set is given up with POISON, and POISONED is set in the status record (R291); with no set held it does
nothing (R429). -/
def State.osAbort (s : State) (uid : Nat) : State :=
  match s.group uid with
  | none => s
  | some g =>
      if g.held.isEmpty then s
      else
        let s1 := s.osSend (g.held.reverse.flatten.map fun h => h.leave g.ctx true false)
        (s1.modGroup uid fun g => { g with held := [] }).modCtx g.ctx fun c => { c with status := { c.status with poisoned := true } }

/-- The lanes of OSENTERs under way withdraw from their homes; those that entered keep their keys (R291). -/
def Group.withdraw (g : Group) : Group := { g with entering := g.entering.map fun e => { e with waiting := [] } }

/-- At a group's unhandled end, its held sections are given up, and with them the keys of lanes that entered under an OSENTER
that has not completed (R439). -/
def State.osEnd (s : State) (uid : Nat) : State :=
  (s.modGroup uid fun g =>
    { g with held := (g.entering.map (·.lanes)).filter (!·.isEmpty) ++ g.held, entering := [] }).osAbort uid

end Sys2Proof.Machine
end

