-- ==== Sys2Proof/Machine/Lifecycle.lean ====
section
/-! DEFINITION. How groups and teams end: exit arrivals (R213), the exit of a group (R119, R348), an unhandled end (R439), what
a team leaves behind (R132, R186), and a callback lane that ends without a verdict (R299). -/

namespace Sys2Proof.Machine

/-! ### Small pieces -/

/-- A region that is closed; VCOUNT goes on (R255, R256). -/
def Region.close (r : Region) : Region :=
  { r with st := .closed, rid := 0, rset := 0, sigs := [], ltol := [], miss := 0, ver := 0, vstore := [], preg := 0, pw := 0,
           quad := false, t0 := 0, spent := 0, vwritten := [], swritten := [], regions := [] }

/-- A group's number among the 48 slots of its core (R147). -/
def Group.slot48 (g : Group) : Nat := 12 * g.part + g.slot

/-- The group identifier of R439: TEAMID, GRPID, core, group slot. -/
def State.groupIdent (s : State) (g : Group) : Nat :=
  let team := match s.team g.team with
    | some t => (t.index.getD 0xFFFFFFFF) % 2 ^ 32
    | none => 0xFFFFFFFF
  team ||| g.gid <<< 32 ||| g.core <<< 40 ||| g.slot48 <<< 48

/-- Debit a core, in 1/16 AU: the debits of a clock leave its counter at the end of the clock (R97, R98). -/
def State.debit (s : State) (core units : Nat) : State := s.modCore core fun c => { c with debits := c.debits + units }

/-- Count a debit towards a context's average of the period (R104). -/
def State.noteDebit (s : State) (ctx : BitVec 5) (units : Nat) : State := s.modCtx ctx fun c => { c with debited := c.debited + units }

/-- COPY, COPY2D and FILL: the operations that an exit does not wait for (R205, R348). -/
def Op.isCopy (o : Op) : Bool :=
  match o.body with
  | .engine (.copy _ _ _ _) _ => true
  | _ => false

/-! ### Callback lanes (R298, R299) -/

/-- A handle as R298 lays it out. -/
def Ray.handle (core : Nat) (r : Ray) : Word := BitVec.ofNat 32 (r.entry + core <<< 11 + r.gen.toNat <<< 18)

/-- The ray awaits a verdict. -/
def Ray.awaits (r : Ray) : Bool :=
  match r.phase with
  | .awaiting _ _ => true
  | _ => false

/-- Change the ray that a handle of a context names while it awaits a verdict; any other handle has no effect (R299). -/
def State.onHandle (s : State) (ctx : BitVec 5) (h : Word) (f : Ray → Ray) : State :=
  s.modCore (h.extractLsb' 11 7).toNat fun c =>
    { c with rays := c.rays.map fun r => if r.ctx == ctx && r.handle (h.extractLsb' 11 7).toNat == h && r.awaits then f r else r }

/-- REJECT: the ray goes on without the candidate. -/
def Ray.reject (r : Ray) : Ray := { r with phase := .walking }

/-- Lanes of a callback wave end: each that has given no verdict gives REJECT (R299). -/
def State.endLanes (s : State) (g : Group) (lanes : Mask) : State :=
  match s.team g.team with
  | none => s
  | some t => (lanesOf lanes).foldl (fun u i =>
      match t.handles.getD i none with
      | some h => u.onHandle g.ctx h Ray.reject
      | none => u) s

/-! ### A team ends -/

/-- Every group of a team has gone: its mapped lines are written back (R186), the cells of its records become free (R132), and
it is counted; a coverage team waits for the Infill Unit (R275); where no locked context has a resident team left, the fabric and the memory
return (R108). -/
def State.teamOver (s : State) (tu : Nat) : State :=
  match s.team tu with
  | none => s
  | some t =>
      if s.groups.any fun g => g.team == tu then s
      else
        let s1 := s.writeBackTeam tu
        let s2 := s1.modLaunch t.launch fun l =>
          { l with exited := l.exited + 1, arena := l.arena.filter fun r => r.st != .running tu }
        let covered := match s2.launch t.launch with
          | some l => l.cover.isSome && t.index.isSome
          | none => false
        if covered then (s2.modTeam tu fun t => { t with st := .exited }).followRatio
        else ({ s2 with teams := s2.teams.filter fun u => u.uid != tu }).followRatio

/-! ### A group ends -/

/-- One exit arrival of a group: its registration leaves at the next advance (R210, R213). -/
def State.exitArrival (s : State) (g : Group) (r : BarReg) : State :=
  match s.team r.team with
  | none => s
  | some t =>
      let s1 := s.noteDrop g (r.team, r.off)
      if r.last == some (BitVec.ofNat 16 (t.bar r.off).phase) then
        s1.modTeam r.team fun t => t.putBar r.off { t.bar r.off with drops := ((t.bar r.off).drops + 1) % 256 }
      else s1.barApply (r.team, r.off) fun b => b.arrive true

/-- The exit arrivals of a group, whose registrations then go (R213). -/
def State.exitArrivals (s : State) (uid : Nat) : State :=
  match s.group uid with
  | none => s
  | some g => g.bars.foldl (fun t r => t.exitArrival g r) (s.modGroup uid fun g => { g with bars := [] })

/-- Every operation that an exit waits for is complete. -/
def Group.exitReady (g : Group) : Bool := g.ops.all fun o => o.perf || o.isCopy

/-- The physical blocks of the logical blocks from lo up to, not including, hi (R137). -/
def Group.blocksIn (g : Group) (lo hi : Nat) : List Nat := ((g.blockMap.take hi).drop lo).filterMap fun b => match b with
  | .resident p => some p
  | _ => none

/-- Physical blocks that a group holds (R137). -/
def Group.blocks (g : Group) : List Nat := g.blocksIn 0 g.blockMap.length

/-- What the registers of a group's blocks hold as some of the blocks are freed (R139). -/
def Group.leave (g : Group) (bs : List Nat) (m : Sparse Lanes) : Sparse Lanes :=
  g.blockMap.zipIdx.foldl (fun m p => match p.1 with
    | .resident b => if bs.contains b then (List.range 16).foldl (fun m r => sset zeroLanes (16 * b + r) (g.vraw (16 * p.2 + r)) m) m else m
    | _ => m) m

/-- Blocks of a group return to its partition's pool: R144 counts the time, R139 asks whose they were and what they hold. -/
def State.noteFree (s : State) (g : Group) (bs : List Nat) : State :=
  if bs.isEmpty then s
  else s.modPart g.core g.part fun p =>
    { p with lastFree := (s.core g.core).clocks, holders := bs.foldl (fun h b => h.set b (some g.ctx)) p.holders, left := g.leave bs p.left }

/-- A spinning group of a launch has stopped spinning: a stall may be reported again (R82). -/
def State.stopSpin (s : State) (g : Group) : State :=
  if g.spin.isSome then s.modLaunch g.launch fun l => { l with stallPosted := false } else s

/-- A partition that no group holds any more is in neither voltage mode (R101). -/
def State.islandOff (s : State) (core part : Nat) : State :=
  if s.groups.any fun g => g.core == core && g.part == part && s.onCore g then s
  else s.modPart core part fun p => { p with nearThreshold := false, vecSeen := [], vecReady := [] }

/-- The partitions of a core that no group holds any more are in neither voltage mode (R101). -/
def State.islandsOff (s : State) (core : Nat) : State := (List.range 4).foldl (fun t p => t.islandOff core p) s

/-- A group that has ended leaves once its copies are complete; its slot and blocks are free, and its team may end. -/
def State.reap (s : State) (uid : Nat) : State :=
  match s.group uid with
  | none => s
  | some g =>
      if g.ops.all (·.perf) then
        ((({ s with groups := s.groups.filter fun h => h.uid != uid }).noteFree g g.blocks).islandOff g.core g.part).teamOver g.team
      else s

/-- The steps of R348 once the group's late writes and stream operations are complete: the release at device scope, the exit
arrivals, the region abandoned. -/
def State.endGroup (s : State) (uid : Nat) : State :=
  ((s.release uid 3).exitArrivals uid).modGroup uid fun g => { g with region := g.region.close }

/-- An exiting group ends as far as it can. In deterministic mode its exit is applied at the round boundary (R213, R217). -/
def State.tryExit (s : State) (uid : Nat) (boundary : Bool) : State :=
  match s.group uid with
  | none => s
  | some g =>
      if !g.exiting || ((s.descOf g).det && !boundary) then s
      else
        let s1 := s.runOps uid fun o => !o.isCopy
        match s1.group uid with
        | none => s1
        | some g1 => if g1.exitReady then (s1.endGroup uid).reap uid else s1

/-- Every exiting group ends as far as it can. -/
def State.tryExits (s : State) : State :=
  ((s.groups.filter (·.exiting)).map (·.uid)).foldl (fun t u => t.tryExit u false) s

/-- No row of a group is live any more: it exits (R119, R348). -/
def Group.stop (g : Group) : Group :=
  { g with rows := g.rows.map fun r => { r with live := false, wait := .none, stopped := false },
           fams := g.fams.map fun f => { f with used := false }, serials := [], handler := none, pending := [], alloc := none,
           parked := none, spin := none, exiting := true, fence := none }

/-- The group ends by R439 for a cause: its sections are given up, its rows end, and TRAP_UNHANDLED is posted. -/
def State.endUnhandled (s : State) (uid cause : Nat) : State :=
  match s.group uid with
  | none => s
  | some g =>
      let s1 := (s.endLanes g (BitVec.allOnes 96)).osEnd uid
      let s2 := s1.postCtx g.ctx 0x0A cause (s.queueOf g) (s.groupIdent g) cause 0
      ((s2.stopSpin g).modGroup uid Group.stop).tryExit uid false

end Sys2Proof.Machine
end

