-- ==== Sys2Proof/Machine/Flags.lean ====
section
/-! DEFINITION. Conditions and flags: the branch conditions of R338, the integer comparisons of R352, the sticky flags of the
active lanes (R111, R230), EMPTY (R333, R367). -/

namespace Sys2Proof.Machine

/-- Cond(x, y) of a branch: TYPE in bits 4 to 3, CC in bits 2 to 0; −0 equals +0, a NaN makes only ne hold, no flush, no flag
(R338). -/
def condHolds (cond : BitVec 5) (x y : Word) : Bool :=
  let cc := (cond.extractLsb' 0 3).toNat
  match (cond.extractLsb' 3 2).toNat with
  | 0 => ccOf cc (x.slt y) (x == y) (y.slt x)
  | 1 => ccOf cc (x.ult y) (x == y) (y.ult x)
  | _ => (fp32.cmp cc x.toNat y.toNat).1

/-- The comparison of two integers (R352). -/
def intCmp (cc : Nat) (x y : Int) : Bool := ccOf cc (decide (x < y)) (x == y) (decide (y < x))

/-- The flags of the active lanes of a result, ORed (R111, R230). -/
def laneFlags (mask : Mask) (f : Nat → BitVec 3) : BitVec 3 := (lanesOf mask).foldl (fun a i => a ||| f i) noFlag

/-- EMPTY, bit 3 of STATUS (R333, R367). -/
def Group.setEmpty (g : Group) (v : Bool) : Group := g.setStatusBit 3 v
/-- MEMOHIT, bit 4 of STATUS (R259, R333). -/
def Group.setMemoHit (g : Group) (v : Bool) : Group := g.setStatusBit 4 v

/-- The legacy flush of FP32 in rows 2 and 3 (R229). -/
def State.ftz (s : State) (g : Group) : Bool :=
  match s.launch g.launch with
  | some l => l.ld.legacy && l.desc.legacyFtz
  | none => false

/-- The rounding mode of CVT's DEF (R228). -/
def State.cvtRm (s : State) (g : Group) (rm : BitVec 2) : Rm :=
  match s.launch g.launch with
  | some l => if rm == 0 && l.ld.legacy && l.desc.legacyRzCvt then .rz else rmOf rm
  | none => rmOf rm

end Sys2Proof.Machine
end

