-- ==== Sys2Proof/Machine/Operands.lean ====
section
/-! DEFINITION. Operand forms: lane permutations (R318, R319), the sources of shape V with their broadcast (R316, R351), the B
operand of shape S (R316, R330), elements of a lane (R225, R351), address forms (R317), register runs, and the registers that
every instruction reads and writes (R161, R262, R322 step 3). -/

namespace Sys2Proof.Machine

/-! ### Permutations -/

/-- The lane that lane i reads through a permutation field (R318). -/
def permLane (p : BitVec 10) (i : Nat) : Nat :=
  let k := (p.extractLsb' 0 7).toNat
  match (p.extractLsb' 7 3).toNat with
  | 0 => i
  | 1 => (i + k) % 96
  | 2 => k
  | 3 => if 96 ≤ i ^^^ 2 ^ k then i else i ^^^ 2 ^ k
  | _ => if k = 0 then i else k * (i / k) + k - 1 - (i - k * (i / k))

/-- A register as read through a permutation (R319). -/
def permute (p : BitVec 10) (v : Lanes) : Lanes := (List.range 96).map fun i => laneOf v (permLane p i)

/-! ### Sources -/

/-- Source A of a shape V instruction, or register k of its run (R351). -/
def Group.srcA (s : State) (g : Group) (v : VOps) (k : Nat) : Lanes := permute v.cuffD.pa (g.readV s (v.a.toNat + k))

/-- Source B of a shape V instruction, or register k of its run: a vector through PB, or a scalar in every lane (R316, R351). -/
def Group.srcB (s : State) (g : Group) (row : Nat) (v : VOps) (k : Nat) : Lanes :=
  if v.sb then List.replicate 96 (g.readS s row (v.b.toNat + k)) else permute v.cuffD.pb (g.readV s (v.b.toNat + k))

/-- The B operand of shape S (R316). -/
def Group.sop (s : State) (g : Group) (row : Nat) (b : SOp) : Word :=
  match b with
  | .reg r => g.readS s row r.toNat
  | .imm7 r => r.signExtend 32
  | .imm32 v => v

/-- n registers from n0: their numbers. -/
def run (n0 n : Nat) : List Nat := (List.range n).map (n0 + ·)

/-- A block of scalar registers, read at issue (R390, R405, R414, R420, R430). -/
def Group.sblock (s : State) (g : Group) (row n0 n : Nat) : List Word := (run n0 n).map (g.readS s row)

/-- A scalar pair as a number. -/
def Group.spair (s : State) (g : Group) (row n : Nat) : Nat := (g.readS64 s row n).toNat

/-- Lane i of a vector pair as a number. -/
def vpair (lo hi : Lanes) (i : Nat) : Nat := (laneOf hi i ++ laneOf lo i).toNat

/-! ### Elements of a lane -/

/-- The elements of w bits of a lane, element 0 first (R351). -/
def elems (w : Nat) (x : Word) : List Nat := (List.range (32 / w)).map fun j => x.toNat >>> (w * j) % 2 ^ w
/-- A lane from elements of w bits. -/
def ofElems (w : Nat) (es : List Nat) : Word := BitVec.ofNat 32 (es.zipIdx.foldl (fun a e => a + (e.1 % 2 ^ w) <<< (w * e.2)) 0)

/-- Apply an operation to each element of three lanes (R351). -/
def mapElems (w : Nat) (f : Nat → Nat → Nat → Nat) (a b d : Word) : Word :=
  ofElems w ((List.range (32 / w)).map fun j => f ((elems w a).getD j 0) ((elems w b).getD j 0) ((elems w d).getD j 0))

/-- The flags of several results, ORed. -/
def orFl (rs : List FRes) : BitVec 3 := rs.foldl (fun f r => f ||| r.2) noFlag

/-- Apply a floating-point operation to each element of three lanes, with flags (R225, R351). -/
def mapFp (w : Nat) (f : Nat → Nat → Nat → FRes) (a b d : Word) : Word × BitVec 3 :=
  let rs := (List.range (32 / w)).map fun j => f ((elems w a).getD j 0) ((elems w b).getD j 0) ((elems w d).getD j 0)
  (ofElems w (rs.map (·.1)), orFl rs)

/-- Width and signedness of TYPE in row 1 (R352). -/
def intType (mod : BitVec 8) : Nat × Bool :=
  let t := (mod.extractLsb' 0 3).toNat
  (if t ≤ 1 then 32 else if t ≤ 3 then 16 else 8, t % 2 == 0)

/-- The format of FTYPE (R355). -/
def ftype (mod : BitVec 8) : Fmt := if mod.extractLsb' 0 2 = 0 then fp32 else if mod.extractLsb' 0 2 = 1 then fp16 else bf16

/-! ### Addresses (R317) -/

/-- The 25-bit immediate offset of the memory cuff. -/
def immOffset (m : MOps) : Int := (m.ofsh ++ m.b).toInt

/-- What a lane adds to its base: vB, sB or the immediate (R317). -/
def Group.offsetOf (s : State) (g : Group) (row : Nat) (m : MOps) (i : Nat) : Int :=
  if m.aform = 0 then (if m.sb then g.readS s row m.b.toNat else laneOf (g.readV s m.b.toNat) i).toInt else immOffset m

/-- The virtual address of lane i (R317). -/
def Group.virtAddr (s : State) (g : Group) (row : Nat) (m : MOps) (i : Nat) : Nat :=
  let base := if m.aform = 2 then vpair (g.readV s m.a.toNat) (g.readV s (m.a.toNat + 1)) i else g.spair s row m.a.toNat
  ((base + g.offsetOf s row m i) % 2 ^ 64).toNat

/-- The stash offset or cluster stash address of lane i (R317). -/
def Group.stashAddr (s : State) (g : Group) (row : Nat) (m : MOps) (i : Nat) : Nat :=
  let base := if m.aform = 2 then laneOf (g.readV s m.a.toNat) i else g.readS s row m.a.toNat
  ((base.toNat + g.offsetOf s row m i) % 2 ^ 32).toNat

/-! ### Registers that an instruction reads and writes -/

/-- The registers an instruction names: vector reads, those of them that are not excluded, vector writes, and the same of scalar
registers. Only register numbers from 8 up can be pending or live-in scalars, so the fixed ones are not listed. -/
structure Uses where
  vr : List Nat
  vl : List Nat
  vw : List Nat
  sr : List Nat
  sl : List Nat
  sw : List Nat
  deriving DecidableEq, Repr

/-- Nothing. -/
def Uses.nil : Uses := ⟨[], [], [], [], [], []⟩
/-- Scalar reads and writes. -/
def Uses.scalar (r w : List Nat) : Uses := ⟨[], [], [], r, r, w⟩
/-- Join. -/
def Uses.add (x y : Uses) : Uses := ⟨x.vr ++ y.vr, x.vl ++ y.vl, x.vw ++ y.vw, x.sr ++ y.sr, x.sl ++ y.sl, x.sw ++ y.sw⟩
/-- Vector reads, excluded or not. -/
def Uses.vread (excl : Bool) (r : List Nat) : Uses := ⟨r, if excl then [] else r, [], [], [], []⟩
/-- Scalar reads, excluded or not. -/
def Uses.sread (excl : Bool) (r : List Nat) : Uses := ⟨[], [], [], r, if excl then [] else r, []⟩
/-- Vector writes. -/
def Uses.vwrite (w : List Nat) : Uses := ⟨[], [], w, [], [], []⟩
/-- Scalar writes. -/
def Uses.swrite (w : List Nat) : Uses := ⟨[], [], [], [], [], w⟩

end Sys2Proof.Machine

namespace Sys2Proof

open Machine

/-- Source A of shape V or G, n registers. -/
def VOps.useA (v : VOps) (n : Nat) : Uses := Uses.vread (memoXA v.cuffD.memo) (run v.a.toNat n)
/-- Source B of shape V or G, n registers. -/
def VOps.useB (v : VOps) (n : Nat) : Uses :=
  if v.sb then Uses.sread (memoXB v.cuffD.memo) (run v.b.toNat n) else Uses.vread (memoXB v.cuffD.memo) (run v.b.toNat n)
/-- Vector destination, n registers; old: the old contents are read, and cannot be excluded (R351). -/
def VOps.useD (v : VOps) (n : Nat) (old : Bool) : Uses :=
  (if old then Uses.vread false (run v.d.toNat n) else Uses.nil).add (Uses.vwrite (run v.d.toNat n))

/-- vD, vA, vB. -/
def VOps.uses3 (v : VOps) (old : Bool) : Uses := ((v.useA 1).add (v.useB 1)).add (v.useD 1 old)
/-- vD, vA. -/
def VOps.uses2 (v : VOps) (old : Bool) : Uses := (v.useA 1).add (v.useD 1 old)

/-- The B operand of shape S. -/
def sopUses : SOp → Uses
  | .reg r => Uses.scalar [r.toNat] []
  | _ => Uses.nil

/-- sD, sA, B. -/
def sUses (d a : R7) (b : SOp) : Uses := (Uses.scalar [a.toNat] [d.toNat]).add (sopUses b)

/-- Address registers of shape M; virt: a virtual form (R317). -/
def MOps.useAddr (m : MOps) (virt : Bool) : Uses :=
  let n := if virt then 2 else 1
  let base := run m.a.toNat n
  (if m.aform = 2 then Uses.vread (memoXA m.memo) base else Uses.sread (memoXA m.memo) base).add
    (if m.aform = 0 then (if m.sb then Uses.sread (memoXB m.memo) [m.b.toNat] else Uses.vread (memoXB m.memo) [m.b.toNat]) else Uses.nil)

/-- SZ of a load or store (R374). -/
def MOps.sz (m : MOps) : Nat := (m.mod.extractLsb' 0 3).toNat
/-- Data registers of a load or store (R374). -/
def MOps.data (m : MOps) : List Nat := run m.d.toNat (szRegs m.sz)
/-- Registers of one operand of an atomic (R379). -/
def MOps.atomRegs (m : MOps) : Nat := if atomW64 m then 2 else 1

/-- The registers of every instruction. Masks, LINK, BATCH, TOKEN and STATUS are not listed: no late write names them. -/
def Instr.uses : Instr → Uses
  | .add d a b | .sub d a b | .mul d a b | .mulh d a b | .mulhu d a b | .div d a b | .divu d a b | .rem d a b | .remu d a b
  | .and d a b | .or d a b | .xor d a b | .shl d a b | .shr d a b | .sar d a b | .min d a b | .max d a b | .minu d a b
  | .maxu d a b | .seq d a b | .sne d a b | .slt d a b | .sltu d a b => sUses d a b
  | .sel d a b => (sUses d a b).add (Uses.scalar [d.toNat] [])
  | .mov d b => (sopUses b).add (Uses.swrite [d.toNat])
  | .popc d a | .clz d a | .ctz d a => Uses.scalar [a.toNat] [d.toNat]
  | .braS _ sb b a _ => Uses.scalar (if sb then [a.toNat] else [a.toNat, b.toNat]) []
  | .braV _ sb b a _ _ => (Uses.vread false [a.toNat]).add
      (if sb then Uses.sread false [b.toNat] else Uses.vread false [b.toNat])
  | .loop sb x _ => if sb then Uses.nil else Uses.scalar [x.toNat] []
  | .callr b _ _ => Uses.scalar [b.toNat] []
  | .jmpr a => Uses.scalar [a.toNat] []
  | .acquire b | .release b | .wbase b | .swin b | .unwind b | .fmt b | .pclass b => sopUses b
  | .gets _ d => Uses.swrite [d.toNat]
  | .sets _ a => Uses.scalar [a.toNat] []
  | .mpop d a | .mfirst d a => Uses.scalar (run a.toNat 3) [d.toNat]
  | .vaddInt v | .vsubInt v | .vmulInt v | .vmulh v | .vadds v | .vsubs v | .vand v | .vor v | .vxor v | .vshl v | .vshr v
  | .vsar v | .vminInt v | .vmaxInt v | .vcmpInt v | .vbfe v | .vaddFp v | .vsubFp v | .vmulFp v | .vminFp v | .vmaxFp v
  | .vcmpFp v | .vdiv v | .vperm v => v.uses3 false
  | .vmad v | .vsel v | .vdot4 v | .vbfi v | .vfma v => v.uses3 true
  | .vnot v | .vabsInt v | .vpopc v | .vclz v | .vabsFp v | .vneg v | .vclass v | .sxpack v | .sxunpk v | .vrnd v | .vrcp v
  | .vrsq v | .vsqrt v | .vexp2 v | .vlog2 v | .vsin v | .vcos v | .vtanh v | .vcmpct v | .vexpnd v | .scan v => v.uses2 false
  | .cvt v => v.uses2 true
  | .vmov v => (v.useB 1).add (v.useD 1 false)
  | .rand v => v.useD (if v.mod == 0 then 1 else 2) false
  | .match_ v => (v.useA (if v.mod.extractLsb' 0 2 == 2 then 2 else 1)).add (v.useD (if v.mod.getLsbD 2 then 2 else 1) false)
  | .reduce v => (v.useA 1).add (if v.mod.getLsbD 7 then Uses.swrite [v.d.toNat] else v.useD 1 false)
  | .vballot v => (v.useA 1).add (Uses.swrite (run v.d.toNat 3))
  | .vlane v => v.useD 1 false
  | .ld m => (m.useAddr true).add (Uses.vwrite m.data)
  | .st m => (m.useAddr true).add (Uses.vread false m.data)
  | .lds m => (m.useAddr true).add (Uses.swrite m.data)
  | .sts m => (m.useAddr true).add (Uses.sread false m.data)
  | .ldsh m | .ldcl m => (m.useAddr false).add (Uses.vwrite m.data)
  | .stsh m | .stcl m => (m.useAddr false).add (Uses.vread false m.data)
  | .atom m | .xchg m => ((m.useAddr true).add (Uses.vread false (run m.d.toNat m.atomRegs))).add (Uses.vwrite (run m.d.toNat m.atomRegs))
  | .atomn m => (m.useAddr true).add (Uses.vread false (run m.d.toNat m.atomRegs))
  | .cas m => ((m.useAddr true).add (Uses.vread false (run m.d.toNat (2 * m.atomRegs)))).add (Uses.vwrite (run m.d.toNat m.atomRegs))
  | .stashMap b a _ => Uses.scalar (run a.toNat 2 ++ run b.toNat 2) []
  | .cwb b a | .cinv b a => Uses.scalar (run a.toNat 2 ++ [b.toNat]) []
  | .waitr a _ => Uses.scalar [a.toNat] []
  | .barJoin a _ => Uses.scalar [a.toNat] []
  | .barArrive _ _ a d => Uses.scalar [a.toNat] [d.toNat]
  | .barWait b a _ | .barExpect b a _ => Uses.scalar [a.toNat, b.toNat] []
  | .copy a _ | .fill a _ => Uses.scalar (run a.toNat 6) []
  | .copy2d a _ => Uses.scalar (run a.toNat 9) []
  | .spawn a d m => (Uses.scalar (run a.toNat 2) []).add (Uses.vread false (run d.toNat ((m.extractLsb' 0 4).toNat + 1)))
  | .reserve sb b d => Uses.scalar (if sb then [] else [b.toNat]) (run d.toNat 2)
  | .commit a => Uses.scalar (run a.toNat 4) []
  | .claim d => Uses.swrite [d.toNat]
  | .releaseSlot a => Uses.scalar [a.toNat] []
  | .tload a _ => Uses.scalar (run a.toNat 5) []
  | .mma d a b _ => Uses.scalar [d.toNat, a.toNat, b.toNat] []
  | .mwait a => Uses.scalar [a.toNat] []
  | .had a b _ => Uses.scalar [a.toNat, b.toNat] []
  | .accrd d a _ => (Uses.scalar [a.toNat] []).add (Uses.vwrite [d.toNat])
  | .accst a _ => Uses.scalar (run a.toNat 7) []
  | .vmx sb d a b m =>
      let n := 16 * ((m.extractLsb' 0 2).toNat + 1)
      (((Uses.vread false (run a.toNat 16)).add (if sb then Uses.sread false (run b.toNat 2) else Uses.vread false (run b.toNat 2))).add
        (if m.getLsbD 2 then Uses.vread false (run d.toNat n) else Uses.nil)).add (Uses.vwrite (run d.toNat n))
  | .accz a b => Uses.scalar [a.toNat, b.toNat] []
  | .rast d a => (Uses.scalar (run a.toNat 14) []).add (Uses.vwrite (run d.toNat 6))
  | .sample v => ((v.useA (sampleCoords v.mod)).add (Uses.sread (memoXB v.cuffD.memo) (run v.b.toNat 4))).add (v.useD 4 false)
  | .trace v => ((v.useA 8).add (Uses.sread (memoXB v.cuffD.memo) (run v.b.toNat 3))).add (v.useD 8 false)
  | .traceM memo d a b => ((Uses.vread (memoXA memo) (run a.toNat 8)).add (Uses.sread (memoXB memo) (run b.toNat 3))).add
      (Uses.vwrite (run d.toNat 8))
  | .verdict a => Uses.vread false (run a.toNat 3)
  | .bxunion v => ((v.useA 6).add (if v.mod == 0 then v.useB 6 else Uses.nil)).add (v.useD 6 false)
  | .sahcost d a => (Uses.vread false (run a.toNat 7)).add (Uses.vwrite [d.toNat])
  | .nodepack d a => (Uses.vread false (run a.toNat 7)).add (Uses.vwrite (run d.toNat 4))
  | .osenter d a b => (Uses.vread false (run a.toNat 2 ++ [b.toNat])).add (Uses.vwrite [d.toNat])
  | .tsig d a _ => Uses.scalar (run a.toNat 8) (run d.toNat 2)
  | .tcost b a => Uses.scalar [a.toNat, b.toNat] []
  | .tskip a => Uses.scalar [a.toNat] []
  | .pureBegin a => Uses.scalar [a.toNat] []
  | .mkey v =>
      let n := if v.mod == 4 then 2 else 1
      if v.sb then Uses.sread false (run v.b.toNat n) else Uses.vread false (run v.a.toNat n)
  | .pureProbe d m => Uses.vwrite (run d.toNat (m.extractLsb' 0 5).toNat)
  | _ => Uses.nil

end Sys2Proof
end

