-- ==== Sys2Proof/Machine/Ops.lean ====
section
/-! DEFINITION. Issue: which split issues, the checks of R322 in their order, retirement, traps (R435 to R440) and parking
(R173). Every instruction's meaning is `issue` applied to what the instruction does once the checks have passed. -/

namespace Sys2Proof

open Machine

/-! ### Classes of instructions -/

/-- Retiring it ends spinning: stores, atomics, barriers, the copy engine, SPAWN, COMMIT (R82). -/
def Instr.endsSpin : Instr → Bool
  | .st _ | .sts _ | .stsh _ | .stcl _ | .atom _ | .atomn _ | .cas _ | .xchg _ | .barJoin _ _ | .barArrive _ _ _ _
  | .barWait _ _ _ | .barExpect _ _ _ | .copy _ _ | .copy2d _ _ | .fill _ _ | .tload _ _ | .spawn _ _ _ | .commit _ => true
  | _ => false

/-- Retiring it ends a team's discardability, a store to the host window apart (R84). -/
def Instr.sideEffect : Instr → Bool
  | .atom _ | .atomn _ | .cas _ | .xchg _ | .spawn _ _ _ | .reserve _ _ _ | .commit _ | .osenter _ _ _ => true
  | _ => false

/-- The region instructions, which read registers without making them live-ins (R258, R262). -/
def Instr.isRegion : Instr → Bool
  | .pureBegin _ | .mkey _ | .pureProbe _ _ | .pureEnd => true
  | _ => false

/-- An ACCST that converts: any drain but FP32 or INT32 words copied unchanged (R98, R240, R414). -/
def accstConverts (mod : BitVec 8) (fmt : Word) : Bool :=
  !(mod.extractLsb' 4 2 == 0 && fmtScale fmt == 0 && fmtD fmt == (if mod.getLsbD 3 then 7 else 0))

/-- Rows 0 to 3 of the cost table and the rows that R418 gives: AU of one issue; MMA apart (R98, R351, R418). -/
def Instr.cost (fmt : Word) : Instr → Nat
  | .vaddInt _ | .vsubInt _ | .vmulInt _ | .vmulh _ | .vmad _ | .vadds _ | .vsubs _ | .vand _ | .vor _ | .vxor _ | .vnot _
  | .vshl _ | .vshr _ | .vsar _ | .vminInt _ | .vmaxInt _ | .vabsInt _ | .vcmpInt _ | .vsel _ | .vpopc _ | .vclz _ | .vmov _
  | .vdot4 _ | .vbfe _ | .vbfi _ | .vperm _ | .vcmpct _ | .vexpnd _ | .match_ _ | .reduce _ | .scan _ | .vballot _
  | .vlane _ => 4
  | .vaddFp _ | .vsubFp _ | .vmulFp _ | .vfma _ | .vminFp _ | .vmaxFp _ | .vcmpFp _ | .vabsFp _ | .vneg _ | .vclass _
  | .cvt _ | .sxpack _ | .sxunpk _ | .vrnd _ => 6
  | .vrcp _ | .vrsq _ | .vsqrt _ | .vexp2 _ | .vlog2 _ | .vsin _ | .vcos _ | .vtanh _ | .vdiv _ | .rand _ => 8
  | .rast _ _ | .sample _ | .trace _ | .traceM _ _ _ _ => 8
  | .ld _ | .st _ | .lds _ | .sts _ | .ldsh _ | .stsh _ | .ldcl _ | .stcl _ | .atom _ | .atomn _ | .cas _ | .xchg _
  | .stashMap _ _ _ | .stashUnmap _ | .cwb _ _ | .cinv _ _ | .rel _ | .acq _ | .phase _ | .barJoin _ _ | .barArrive _ _ _ _
  | .barWait _ _ _ | .barExpect _ _ _ | .spawn _ _ _ | .reserve _ _ _ | .commit _ | .osenter _ _ _ | .osleave | .osleaveDone
  | .osabort | .verdict _ => 3
  | .copy _ _ | .copy2d _ _ | .fill _ _ | .bxunion _ | .sahcost _ _ | .nodepack _ _ | .tsig _ _ _ | .tcost _ _ | .tskip _
  | .pureBegin _ | .mkey _ | .pureProbe _ _ | .pureEnd | .memoFlush => 4
  | .vmx _ _ _ _ _ => 24
  | .had _ _ _ => 16
  | .accst _ m => if accstConverts m fmt then 16 else 4
  | .claim _ | .releaseSlot _ | .tload _ _ | .mfence | .mwait _ | .mwaitImm _ | .accrd _ _ _ | .accz _ _ => 4
  | _ => 1

/-- The access of an instruction that faults as an agent is a write: CWB faults as a store and only reads (R169, R174, R384). -/
def Instr.writesAs (i : Instr) (agent : Nat) : Bool :=
  (agent == 1 || agent == 2) && (match i with
    | .cwb _ _ => false
    | _ => true)

/-- Formats that an MMA or VMX may pair (R406, R415). -/
def mmaPair (sx : Bool) (fmt : Word) : Bool :=
  let a := fmtA fmt
  let b := fmtB fmt
  ((a == 1 || a == 2) && (b == 1 || b == 2)) || ((a == 3 || a == 4) && (b == 3 || b == 4)) || (sx && a == b && sxCode a)

/-- CVT's formats and PART (R359). -/
def cvtOk (fmt : Word) (part : Nat) : Bool :=
  match elemOf (fmtA fmt), elemOf (fmtD fmt) with
  | some a, some d => decide (part < max a.width d.width / min a.width d.width)
  | _, _ => false

/-- SPLITST bits that must be zero in a write (R122). -/
def splitstRes0 : Word := 0x00000EFC#32

/-- Conditions on FMT and on operand values under which an instruction raises ILLEGAL (R122, R153, R236, R337, R359, R402). -/
def Instr.legalNow (s : State) (g : Group) (k : Nat) (i : Instr) : Bool :=
  let fmt := (g.row k).fmt
  match i with
  | .fmt b => fmtOk (g.sop s k b)
  | .pclass b => (g.sop s k b).extractLsb' 2 30 == 0
  | .sets c a =>
      let v := g.readS s k a.toNat
      if c = 0x10 then fmtOk v else if c = 0x11 then v.extractLsb' 2 30 == 0
      else if c = 0x15 then v &&& splitstRes0 == 0 else true
  | .cvt v => cvtOk fmt (v.mod.extractLsb' 2 2).toNat
  | .tload _ m => tloadPair (if m.getLsbD 6 then fmtB fmt else fmtA fmt) (m.extractLsb' 0 4).toNat
  | .mma _ _ _ _ => mmaPair true fmt
  | .had _ _ m =>
      let c := if m.getLsbD 2 then fmtB fmt else fmtA fmt
      (c == 1 || c == 2 || sxCode c) && decide (16 <<< (m.extractLsb' 0 2).toNat ≤ stripK c)
  | .accrd _ _ m => !m.getLsbD 0 || (elemOf (fmtD fmt)).isSome
  | .vmx _ _ _ _ _ => mmaPair false fmt
  | _ => true

end Sys2Proof

namespace Sys2Proof.Machine

/-! ### What an instruction does once it has issued -/

/-- What a trap's record says (R436, R440). -/
structure TrapInfo where
  cause : Nat
  detail : Word
  va : Nat
  lanes : Mask
  elected : Nat
  deriving DecidableEq, Repr

/-- A trap whose table entry leaves DETAIL, VA and LANES zero (R440). -/
def trapOf (cause : Nat) : TrapInfo := ⟨cause, 0, 0, 0, 0⟩
/-- A trap with a number in DETAIL. -/
def trapNum (cause n : Nat) : TrapInfo := ⟨cause, BitVec.ofNat 32 n, 0, 0, 0⟩
/-- A trap with an address and lanes. -/
def trapAt (cause va : Nat) (lanes : Mask) : TrapInfo := ⟨cause, 0, va, lanes, 0⟩

/-- How an instruction's own part ends. -/
inductive Res where
  /-- it completes, and its row goes on at the next instruction -/
  | retire (s : State)
  /-- it completes, and its row goes on at an address -/
  | jump (s : State) (pc : Pc)
  /-- it completes, and has set its rows' PCs itself -/
  | done (s : State)
  /-- it raises a trap and has done nothing (own EPC) -/
  | trap (t : TrapInfo)
  /-- it retires and then traps (EPC is the next instruction: TRAP, BRK) -/
  | raise (t : TrapInfo)
  /-- it is blocked, and is executed again -/
  | hold (w : Wait) (s : State)
  /-- a fault of an access parks it (R173): kind, agent, address, lanes -/
  | park (kind agent va : Nat) (lanes : Mask)
  deriving DecidableEq, Repr

/-- The split that holds the turn: its group and row, which is live. -/
def State.issuer (s : State) : Option (Group × Nat) :=
  match s.sched.cur with
  | none => none
  | some (uid, k) =>
      match s.group uid with
      | none => none
      | some g => if (g.row k).live then some (g, k) else none

/-- Replace a group. -/
def State.putGroup (s : State) (g : Group) : State := s.modGroup g.uid fun _ => g

/-! ### The checks of R322 -/

/-- The first number of a list that a test selects, as a trap with that number in DETAIL. -/
def firstTrap (cause : Nat) (ns : List Nat) (bad : Nat → Bool) : Option TrapInfo := (ns.find? bad).map (trapNum cause)

/-- Live-in registers of an instruction inside a pure region (R262): the PURITY trap. -/
def Group.purity (g : Group) (k : Nat) (i : Instr) : Option TrapInfo :=
  if g.region.st = .closed || i.isRegion then none
  else
    let u := i.uses
    let t := match i with
      | .gets _ _ => some (trapOf 0x74)
      | _ => (firstTrap 0x74 u.vl fun n => !(decide (1024 ≤ g.vreg n) || g.region.vwritten.contains (g.vreg n))).orElse fun _ =>
          firstTrap 0x74 u.sl fun n => decide (8 ≤ n) && !g.region.swritten.contains (g.sreg n)
    t.map fun t => { t with lanes := (g.row k).mask }

/-- ILLEGAL, FRAME_RANGE, LOAD_HAZARD, and then the live-in registers of PURITY: the first that holds (R138, R161, R322). -/
def State.precheck (s : State) (g : Group) (k : Nat) (i : Instr) : Option TrapInfo :=
  let u := i.uses
  if !i.wf || !i.legalNow s g k then some (trapOf 0x01)
  else if (u.vr ++ u.vw).any fun n => !g.vregOk (g.vreg n) then some (trapOf 0x20)
  else
    let d := s.descOf g
    let hz := if d.hazardCheck then
        (firstTrap 0x27 (u.vr ++ u.vw) fun n => g.isPending true (g.vreg n)).orElse fun _ =>
          firstTrap 0x27 (u.sr ++ u.sw) fun n => decide (3 ≤ n) && g.isPending false (g.sreg n)
      else none
    hz.orElse fun _ => if d.purityCheck then g.purity k i else none

/-! ### Traps (R435 to R440) -/

/-- Trap frames in use in a partition (R139, R151). -/
def State.trapFrames (s : State) (core part : Nat) : Nat :=
  (s.groups.filter fun g => g.core == core && g.part == part && g.handler.isSome && s.onCore g).length

/-- The words of the trap record, lanes 0 to 20 (R436). -/
def Group.trapRecord (g : Group) (k : Nat) (p : Pending) : Lanes :=
  let r := g.row k
  let w := fun n : Nat => BitVec.ofNat 32 n
  [w p.cause, r.pc.extractLsb' 0 32, (r.pc.extractLsb' 32 17).setWidth 32, p.detail, w p.va, w (p.va / 2 ^ 32), w k,
   maskWord r.mask 0, maskWord r.mask 1, maskWord r.mask 2, g.sraw 3, g.sraw 4, g.sraw 5, g.sraw 6, g.sraw 7, w g.swb,
   maskWord p.lanes 0, maskWord p.lanes 1, maskWord p.lanes 2, p.insn, w p.elected] ++ List.replicate 75 0

/-- Stop every live row but one at its instruction boundary (R121, R173). -/
def Group.stopOthers (g : Group) (k : Nat) : Group :=
  { g with rows := g.rows.zipIdx.map fun (r, j) => if j ≠ k && r.live then { r with stopped := true } else r }

/-- The waiting lanes of a row's OSENTER withdraw; a pending allocation request goes; the row is not blocked (R162, R291). -/
def Group.interrupt (g : Group) (k : Nat) : Group :=
  ({ g.withdraw with alloc := none, barWaits := g.barWaits.filter (fun w => w.row != k), answers := g.answers.filter fun a => !(a.1 == (g.row k).pc.toNat && a.2.isEmpty) }).modRow k
    fun r => { r with wait := .none }

/-- Trap entry by row k (R435): the trap frame, the record, MASK, SWB and PC. -/
def Group.enterTrap (g : Group) (k : Nat) (entry : Pc) (p : Pending) : Group :=
  let g1 := (g.interrupt k).stopOthers k
  let h : Handler := { frame := sset zeroLanes 0 (g.trapRecord k p) [], carried := 0, before := g.ops.map (·.uid), families := g.fams, serials := g.serials.length }
  { g1 with handler := some h, swb := 904, pending := g.pending.filter (· != p) }.modRow k fun r => { r with mask := r.own, pc := entry }

/-- A trap is raised in row k: the group ends by R439 where it is unhandled; it waits where both trap frames of the partition
are in use (R151); else its handler is entered, which debits 4 AU (R435). -/
def State.raiseTrap (s : State) (g : Group) (k : Nat) (p : Pending) : State :=
  let entry := (s.descOf g).trapEntry
  if g.handler.isSome || entry = 0 then s.endUnhandled g.uid p.cause
  else if 2 ≤ s.trapFrames g.core g.part then
    let p' := { p with row := some k }
    s.modGroup g.uid fun h =>
      { ((h.stopOthers k).modRow k fun r => { r with wait := .trapFrame }) with pending := p' :: h.pending.filter (· != p) }
  else ((s.modGroup g.uid fun h => h.enterTrap k entry p).debit g.core 64).noteDebit g.ctx 64

/-- The pending form of an instruction's trap. -/
def TrapInfo.pending (t : TrapInfo) (insn : Word) : Pending :=
  { cause := t.cause, detail := t.detail, va := t.va, lanes := t.lanes, row := none, insn := insn, elected := t.elected }

/-- Row k raises a trap by an instruction. -/
def State.trapRow (s : State) (uid k : Nat) (t : TrapInfo) (insn : Word) : State :=
  match s.group uid with
  | none => s
  | some g => s.raiseTrap g k (t.pending insn)

/-! ### Parking (R173, R174) -/

/-- A fault of row k's access parks its group. -/
def State.parkGroup (s : State) (g : Group) (k kind agent : Nat) (write : Bool) (va : Nat) (lanes : Mask) (fetch : Bool) : State :=
  let s1 := s.addFault g.ctx va kind agent g.core write (s.queueOf g)
  let id := (s1.faultOf g.ctx va kind).map (·.id)
  s1.modGroup g.uid fun g => { g with parked := some { kind := kind, agent := agent, write := write, va := va, lanes := lanes, row := k,
                                                        fetch := fetch, entry := id, convert := false } }

/-! ### Retirement -/

/-- The row owns a serial record (R117). -/
def Group.ownsSerial (g : Group) (k : Nat) : Bool := g.serials.any fun r => r.owner == k

/-- Rows a and b may fuse (R117). -/
def Group.canFuse (g : Group) (a b : Nat) : Bool :=
  let x := g.row a
  let y := g.row b
  x.live && y.live && !x.stopped && !y.stopped && x.wait == .none && y.wait == .none && x.parent == y.parent && x.pc == y.pc
    && x.fmt == y.fmt && !g.ownsSerial a && !g.ownsSerial b

/-- The lower row takes the union; the other becomes free (R117, R118). -/
def Group.fuseInto (g : Group) (a b : Nat) : Group :=
  let y := g.row b
  (g.modRow a fun r => { r with mask := r.mask ||| y.mask, own := r.own ||| y.own }).modRow b fun _ => Row.free

/-- Fuse every pair that may (R117). -/
def Group.fuse (g : Group) : Group :=
  [(0, 1), (0, 2), (0, 3), (1, 2), (1, 3), (2, 3)].foldl (fun h ab => if h.canFuse ab.1 ab.2 then h.fuseInto ab.1 ab.2 else h) g

/-- The registers an instruction wrote are no live-ins any more (R262). -/
def Region.wrote (r : Region) (vs ss : List Nat) : Region :=
  if r.st = .closed then r else { r with vwritten := (vs ++ r.vwritten).eraseDups, swritten := (ss ++ r.swritten).eraseDups }

/-- Spinning after an instruction retires (R82). -/
def spinAfter (i : Instr) (old : Option Nat) : Option Nat :=
  if i = .pause then some (old.getD 0) else if i.endsSpin then none else old

/-- A group after an instruction of row k has retired: RETIRED, its round, spinning, its region. before: the group at issue. -/
def Group.retire (g before : Group) (k : Nat) (i : Instr) (pc : Option Pc) : Group :=
  let u := i.uses
  let g1 := g.modRow k fun r => { r with pc := pc.getD r.pc, wait := .none }
  { g1 with retired := g.retired + 1, roundRetired := g.roundRetired + 1, spin := spinAfter i g.spin,
            region := g.region.wrote (u.vw.map before.vreg) (u.sw.map before.sreg) }

/-- The debit of one issue (R98); an MMA debits leader and follower (R99, R407). -/
def State.debitIssue (s : State) (ctx : BitVec 5) (core : Nat) (fmt : Word) (i : Instr) : State :=
  match i with
  | .mma _ _ _ m =>
      let n := (m.extractLsb' 0 6).toNat
      let unit := 96 * 16 * 2 ^ (m.extractLsb' 6 2).toNat
      let h := (n + 1) / 2
      let other := if s.dev.coreExclude.getLsbD (core ^^^ 1) then core else core ^^^ 1
      ((s.debit core (unit * h)).debit other (unit * (n - h))).noteDebit ctx (unit * n)
  | _ => (s.debit core (16 * i.cost fmt)).noteDebit ctx (16 * i.cost fmt)

/-- An instruction of row k retires. fuse: rows may fuse now; a row that traps next does not (R117, R435). -/
def State.finish (s : State) (before : Group) (k : Nat) (i : Instr) (pc : Option Pc) (fuse : Bool) : State :=
  let mayFuse := fuse && !(s.descOf before).det
  let s1 := s.modGroup before.uid fun g =>
    let g' := g.retire before k i pc
    if mayFuse then g'.fuse else g'
  let spins := (s1.group before.uid).any fun g => g.spin.isSome
  let s2 := s1.modLaunch before.launch fun l =>
    { l with retired := l.retired + 1, stallPosted := l.stallPosted && (before.spin.isNone || spins), spawnStall := false }
  if i.sideEffect then s2.modTeam before.team fun t => { t with sideEffect := true } else s2

/-- The address after an instruction of row k (R310). -/
def Group.nextPc (g : Group) (k : Nat) (i : Instr) : Pc := (g.row k).pc + BitVec.ofNat 49 i.size

/-- The elected lane of an MMA: its lowest active lane, or lane 0 (R406, R436). -/
def electedLane (g : Group) (k : Nat) : Instr → Nat
  | .mma _ _ _ _ => (lanesOf (g.row k).mask).headD 0
  | _ => 0

/-- The state after an instruction of row k has ended in some way. -/
def State.conclude (s : State) (g : Group) (k : Nat) (i : Instr) (r : Res) : State :=
  match r with
  | .retire s' => s'.finish g k i (some (g.nextPc k i)) true
  | .jump s' pc => s'.finish g k i (some pc) true
  | .done s' => s'.finish g k i none true
  | .trap t => s.trapRow g.uid k { t with elected := electedLane g k i } i.insn
  | .raise t =>
      let s' := s.finish g k i (some (g.nextPc k i)) false
      s'.trapRow g.uid k t i.insn
  | .hold w s' => s'.modGroup g.uid fun h => h.modRow k fun r => { r with wait := w }
  | .park kind agent va lanes => s.parkGroup g k kind agent (i.writesAs agent) va lanes false

/-- Issue: the checks, and then the instruction's own part, for the split that holds the turn. -/
def issue (i : Instr) (s : State) (body : Group → Nat → Res) : Host.Outcome State Fault Refusal :=
  match s.issuer with
  | none => .fault .noIssuer
  | some (g, k) =>
      .next (s.conclude g k i (match s.precheck g k i with
        | some t => .trap t
        | none => body g k))

/-- An instruction that changes its group alone and goes on. -/
def keep (s : State) (g : Group) : Res := .retire (s.putGroup g)

end Sys2Proof.Machine
end

