-- ==== Sys2Proof/Machine/Start.lean ====
section
/-! DEFINITION. How groups and teams start: the state of R74, the resources that admission reserves (R76), the admission serial
(R219), and a core's allowance when it gains its first team (R97). -/

namespace Sys2Proof.Machine

/-! ### Resources -/

/-- The groups that hold slots and blocks of a partition. -/
def State.partGroups (s : State) (core part : Nat) : List Group :=
  s.groups.filter fun g => g.core == core && g.part == part && s.onCore g

/-- The physical blocks of a partition that nobody holds, of the 30 that are not reserved (R139). -/
def State.unheldBlocks (s : State) (core part : Nat) : List Nat :=
  let used := (s.partGroups core part).flatMap Group.blocks
  (List.range Config.poolBlocks).filter fun b => !used.contains b

/-- Blocks granted to a request whose instruction has not taken them yet (R142). -/
def Group.granted (g : Group) : Nat :=
  match g.alloc with
  | some r => if r.granted then r.blocks else 0
  | none => 0

/-- The free physical blocks of a partition: unheld, and not granted. -/
def State.freeBlocks (s : State) (core part : Nat) : List Nat :=
  (s.unheldBlocks core part).drop ((s.partGroups core part).foldl (fun n g => n + g.granted) 0)

/-- The lowest free group slot of a partition. -/
def State.freeSlot (s : State) (core part : Nat) : Option Nat :=
  let used := (s.partGroups core part).map (·.slot)
  (List.range Config.slotsPerPartition).find? fun k => !used.contains k

/-- The partition that takes a group with a base frame of n blocks: the most free blocks, then the lowest number (R76). -/
def State.pickPart (s : State) (core n : Nat) : Option Nat :=
  (List.range 4).foldl (fun best p =>
    if decide (n ≤ (s.freeBlocks core p).length) && (s.freeSlot core p).isSome then
      match best with
      | none => some p
      | some b => if (s.freeBlocks core b).length < (s.freeBlocks core p).length then some p else best
    else best) none

/-! ### A group's first state (R74) -/

/-- A block map with its first blocks resident. -/
def blockMapOf (bs : List Nat) : List Block := bs.map Block.resident ++ List.replicate (16 - bs.length) Block.unmapped

/-- The base frame (R140). -/
def baseFrame (n born : Nat) : Frame :=
  { first := 0, blks := n, init := n, args := 0, swb := 0, rpc := 0, spilled := false, born := born, image := none }

/-- The region of a group that has just started (R255). -/
def Region.fresh : Region :=
  { st := .closed, rid := 0, rset := 0, sigs := [], ltol := [], miss := 0, ver := 0, vstore := [], preg := 0, pw := 0,
    quad := false, t0 := 0, spent := 0, vcount := 0, vwritten := [], swritten := [], regions := [] }

/-- Row 0 at group start (R114). -/
def startRow (entry : Pc) (mask : Mask) : Row :=
  { live := true, pc := entry, mask := mask, own := BitVec.allOnes 96, parent := 7, fmt := 0, wait := .none, stopped := false }

/-- A family that is not used (R114). -/
def Family.free : Family := { used := false, jpc := 0, up := 7, sfmt := 0 }

/-- Where a group is placed and what it starts with. -/
structure GroupStart where
  uid : Nat
  team : Nat
  launch : Nat
  ctx : BitVec 5
  gid : Nat
  core : Nat
  part : Nat
  slot : Nat
  clock : Nat
  entry : Pc
  args : Pc
  blocks : List Nat
  mask : Mask
  pclass : BitVec 2

/-- A group as R74 and R114 start it. -/
def Group.start (p : GroupStart) : Group :=
  { uid := p.uid, team := p.team, launch := p.launch, ctx := p.ctx, gid := p.gid, core := p.core, part := p.part, slot := p.slot,
    born := p.uid, codeHi := p.entry.extractLsb' 32 17, rows := [startRow p.entry p.mask, Row.free, Row.free, Row.free],
    fams := List.replicate 3 Family.free, serials := [], forceSerial := false, lc := [0, 0, 0], loops := [],
    frames := [baseFrame p.blocks.length p.clock], wb := 0, blockMap := blockMapOf p.blocks, vregs := [],
    sregs := sset 0 8 (p.args.extractLsb' 0 32) (sset 0 9 ((p.args.extractLsb' 32 17).setWidth 32) []), swb := 8, handler := none,
    pclass := p.pclass, pclassNow := p.pclass, clock0 := p.clock, retired := 0, cycLatch := 0, retLatch := 0, randKey := 0, randCtr := 0, ops := [], nb := 0,
    bars := [], phases := [0, 0, 0, 0], region := Region.fresh, held := [], entering := [], spin := none, parked := none,
    pending := [], alloc := none, roundRetired := 0, spawnWait := 0, exiting := false, stopped := false,
    answers := [], barWaits := [], roundOwn := [], fence := none, sysRels := 0 }

/-- The mask of group g of a team of l lanes: lane i when 96 g + i is below l (R73, R74). -/
def startMask (l g : Nat) : Mask := BitVec.ofNat 96 (2 ^ min 96 (l - 96 * g) - 1)

/-- A group takes its slot: the slot's admission serial rises (R219). -/
def State.addGroup (s : State) (g : Group) : State :=
  ({ s with groups := s.groups ++ [g] }).modCore g.core fun c =>
    { c with serials := sset 0 g.slot48 (sget 0 c.serials g.slot48 + 1) c.serials }

/-- The maximum of the allowance counter, 65,535 AU in 1/16 AU (R97). -/
def maxAllowance : Int := 65535 * 16

/-- A core that has no resident team gains one: its counter is set, and no debit of an earlier clock is left (R97). Until the governor's next
period its clock and grant stay as the last period set them (DESIGN CHOICE, log 91). -/
def State.wakeCore (s : State) (core : Nat) : State :=
  if s.coreHasTeam core then s else s.modCore core fun c => { c with allowance := maxAllowance, debits := 0 }

/-- Lanes of a team shape (R72, R73). -/
def LDesc.lanes (d : LDesc) : Nat := d.teamX * d.teamY * d.teamZ
/-- The base frame's blocks of group g (R135). -/
def LDesc.baseOf (d : LDesc) (g : Nat) : Nat := if d.roles && decide (d.prodGroups ≤ g) then d.baseCons else d.base
/-- The entry of group g (R74, R135). -/
def LDesc.entryOf (d : LDesc) (g : Nat) : Pc := if d.roles && decide (d.prodGroups ≤ g) then d.entryCons else d.entry

/-- A team as admission makes it: zeroed stash, unclaimed slots, zeroed rows (R76, R189). -/
def Team.start (uid : Nat) (l : Launch) (core groups stash slots rows : Nat) : Team :=
  { uid := uid, launch := l.uid, ctx := l.ctx, index := none, clid := 0xFFFFFFFF, clsize := 1, first := 0, core := core,
    groups := groups, st := .resident, since := 0, quanta := 0, discards := 0, sideEffect := false, callback := false, handles := [], unsaved := false,
    stashBytes := stash, stash := [], maps := List.replicate 8 none, slots := List.replicate slots Slot.empty, accRows := rows,
    acc := [], arenaRun := none, clocks := 0, barDrops := [] }

end Sys2Proof.Machine
end

