-- ==== Sys2Proof/Machine/Scalar.lean ====
section
/-! DEFINITION. Scalar arithmetic, mask and special-register instructions (R331 to R337, R347, R153 to R156, R122). -/

namespace Sys2Proof.Machine

/-! ### Values -/

/-- Div of R335. -/
def divS (a b : Word) : Word :=
  if b = 0 then 0xFFFFFFFF else if a = 0x80000000 ∧ b = 0xFFFFFFFF then 0x80000000 else BitVec.ofInt 32 (a.toInt.tdiv b.toInt)
/-- DivU of R335. -/
def divU (a b : Word) : Word := if b = 0 then 0xFFFFFFFF else BitVec.ofNat 32 (a.toNat / b.toNat)
/-- Rem of R335. -/
def remS (a b : Word) : Word :=
  if b = 0 then a else if a = 0x80000000 ∧ b = 0xFFFFFFFF then 0 else BitVec.ofInt 32 (a.toInt.tmod b.toInt)
/-- RemU of R335. -/
def remU (a b : Word) : Word := if b = 0 then a else BitVec.ofNat 32 (a.toNat % b.toNat)
/-- sh of R334. -/
def shAmount (b : Word) : Nat := (b.extractLsb' 0 5).toNat
/-- 1 or 0. -/
def bit32 (c : Bool) : Word := if c then 1 else 0
/-- PopCount of w bits of a number. -/
def popCount (w x : Nat) : Nat := (List.range w).foldl (fun n i => n + (x.testBit i).toNat) 0
/-- The lowest set bit below w; w where there is none. -/
def lowestSet (w x : Nat) : Nat := ((List.range w).find? x.testBit).getD w
/-- Leading zeros of w bits (R334, R353). -/
def leadingZeros (w x : Nat) : Nat := w - (((List.range w).reverse.find? x.testBit).map (· + 1)).getD 0

/-! ### Two-source instructions (R334) -/

/-- sD := f(sA, B). -/
def scalarOp (i : Instr) (d a : R7) (b : SOp) (f : Word → Word → Word) (s : State) : Host.Outcome State Fault Refusal :=
  issue i s fun g k => keep s (g.writeS s k d.toNat (f (g.readS s k a.toNat) (g.sop s k b)))

/-- ADD: Wrap32 of a + b (R334). -/
def execAdd (d a : R7) (b : SOp) (s : State) : Host.Outcome State Fault Refusal :=
  scalarOp (.add d a b) d a b (fun a b => a + b) s
/-- SUB: Wrap32 of a − b (R334). -/
def execSub (d a : R7) (b : SOp) (s : State) : Host.Outcome State Fault Refusal :=
  scalarOp (.sub d a b) d a b (fun a b => a - b) s
/-- MUL: Wrap32 of a × b (R334). -/
def execMul (d a : R7) (b : SOp) (s : State) : Host.Outcome State Fault Refusal :=
  scalarOp (.mul d a b) d a b (fun a b => a * b) s
/-- MULH: (a × b) >> 32, signed (R334). -/
def execMulh (d a : R7) (b : SOp) (s : State) : Host.Outcome State Fault Refusal :=
  scalarOp (.mulh d a b) d a b (fun a b => BitVec.ofInt 32 ((a.toInt * b.toInt) >>> 32)) s
/-- MULHU: (a × b) >> 32, unsigned (R334). -/
def execMulhu (d a : R7) (b : SOp) (s : State) : Host.Outcome State Fault Refusal :=
  scalarOp (.mulhu d a b) d a b (fun a b => BitVec.ofNat 32 ((a.toNat * b.toNat) >>> 32)) s
/-- DIV: signed division (R335) (R334). -/
def execDiv (d a : R7) (b : SOp) (s : State) : Host.Outcome State Fault Refusal :=
  scalarOp (.div d a b) d a b (fun a b => divS a b) s
/-- DIVU: unsigned division (R335) (R334). -/
def execDivu (d a : R7) (b : SOp) (s : State) : Host.Outcome State Fault Refusal :=
  scalarOp (.divu d a b) d a b (fun a b => divU a b) s
/-- REM: signed remainder (R335) (R334). -/
def execRem (d a : R7) (b : SOp) (s : State) : Host.Outcome State Fault Refusal :=
  scalarOp (.rem d a b) d a b (fun a b => remS a b) s
/-- REMU: unsigned remainder (R335) (R334). -/
def execRemu (d a : R7) (b : SOp) (s : State) : Host.Outcome State Fault Refusal :=
  scalarOp (.remu d a b) d a b (fun a b => remU a b) s
/-- AND: a AND b (R334). -/
def execAnd (d a : R7) (b : SOp) (s : State) : Host.Outcome State Fault Refusal :=
  scalarOp (.and d a b) d a b (fun a b => a &&& b) s
/-- OR: a OR b (R334). -/
def execOr (d a : R7) (b : SOp) (s : State) : Host.Outcome State Fault Refusal :=
  scalarOp (.or d a b) d a b (fun a b => a ||| b) s
/-- XOR: a XOR b (R334). -/
def execXor (d a : R7) (b : SOp) (s : State) : Host.Outcome State Fault Refusal :=
  scalarOp (.xor d a b) d a b (fun a b => a ^^^ b) s
/-- SHL: a << sh (R334). -/
def execShl (d a : R7) (b : SOp) (s : State) : Host.Outcome State Fault Refusal :=
  scalarOp (.shl d a b) d a b (fun a b => a <<< shAmount b) s
/-- SHR: a >> sh, unsigned (R334). -/
def execShr (d a : R7) (b : SOp) (s : State) : Host.Outcome State Fault Refusal :=
  scalarOp (.shr d a b) d a b (fun a b => a >>> shAmount b) s
/-- SAR: a >> sh, signed (R334). -/
def execSar (d a : R7) (b : SOp) (s : State) : Host.Outcome State Fault Refusal :=
  scalarOp (.sar d a b) d a b (fun a b => a.sshiftRight (shAmount b)) s
/-- MIN: signed minimum (R334). -/
def execMin (d a : R7) (b : SOp) (s : State) : Host.Outcome State Fault Refusal :=
  scalarOp (.min d a b) d a b (fun a b => if a.slt b then a else b) s
/-- MAX: signed maximum (R334). -/
def execMax (d a : R7) (b : SOp) (s : State) : Host.Outcome State Fault Refusal :=
  scalarOp (.max d a b) d a b (fun a b => if a.slt b then b else a) s
/-- MINU: unsigned minimum (R334). -/
def execMinu (d a : R7) (b : SOp) (s : State) : Host.Outcome State Fault Refusal :=
  scalarOp (.minu d a b) d a b (fun a b => if a.ult b then a else b) s
/-- MAXU: unsigned maximum (R334). -/
def execMaxu (d a : R7) (b : SOp) (s : State) : Host.Outcome State Fault Refusal :=
  scalarOp (.maxu d a b) d a b (fun a b => if a.ult b then b else a) s
/-- SEQ: 1 if a = b (R334). -/
def execSeq (d a : R7) (b : SOp) (s : State) : Host.Outcome State Fault Refusal :=
  scalarOp (.seq d a b) d a b (fun a b => bit32 (a == b)) s
/-- SNE: 1 if a ≠ b (R334). -/
def execSne (d a : R7) (b : SOp) (s : State) : Host.Outcome State Fault Refusal :=
  scalarOp (.sne d a b) d a b (fun a b => bit32 (a != b)) s
/-- SLT: 1 if a < b, signed (R334). -/
def execSlt (d a : R7) (b : SOp) (s : State) : Host.Outcome State Fault Refusal :=
  scalarOp (.slt d a b) d a b (fun a b => bit32 (a.slt b)) s
/-- SLTU: 1 if a < b, unsigned (R334). -/
def execSltu (d a : R7) (b : SOp) (s : State) : Host.Outcome State Fault Refusal :=
  scalarOp (.sltu d a b) d a b (fun a b => bit32 (a.ult b)) s
/-- SEL: a if the old sD is not 0, else b (R334). -/
def execSel (d a : R7) (b : SOp) (s : State) : Host.Outcome State Fault Refusal :=
  issue (.sel d a b) s fun g k =>
    keep s (g.writeS s k d.toNat (if g.readS s k d.toNat = 0 then g.sop s k b else g.readS s k a.toNat))
/-- MOV: b (R334). -/
def execMov (d : R7) (b : SOp) (s : State) : Host.Outcome State Fault Refusal :=
  issue (.mov d b) s fun g k => keep s (g.writeS s k d.toNat (g.sop s k b))

/-- sD := f(sA). -/
def scalarOp1 (i : Instr) (d a : R7) (f : Word → Word) (s : State) : Host.Outcome State Fault Refusal :=
  issue i s fun g k => keep s (g.writeS s k d.toNat (f (g.readS s k a.toNat)))

/-- POPC (R334). -/
def execPopc (d a : R7) (s : State) : Host.Outcome State Fault Refusal :=
  scalarOp1 (.popc d a) d a (fun a => BitVec.ofNat 32 (popCount 32 a.toNat)) s
/-- CLZ: 32 for 0 (R334). -/
def execClz (d a : R7) (s : State) : Host.Outcome State Fault Refusal :=
  scalarOp1 (.clz d a) d a (fun a => BitVec.ofNat 32 (leadingZeros 32 a.toNat)) s
/-- CTZ: 32 for 0 (R334). -/
def execCtz (d a : R7) (s : State) : Host.Outcome State Fault Refusal :=
  scalarOp1 (.ctz d a) d a (fun a => BitVec.ofNat 32 (lowestSet 32 a.toNat)) s

/-! ### Masks (R336) -/

/-- The 96-bit value of three registers from sA (R336). -/
def Group.mask3 (s : State) (g : Group) (k a : Nat) : Mask := g.readS s k (a + 2) ++ g.readS s k (a + 1) ++ g.readS s k a

/-- MPOP (R336). -/
def execMpop (d a : R7) (s : State) : Host.Outcome State Fault Refusal :=
  issue (.mpop d a) s fun g k => keep s (g.writeS s k d.toNat (BitVec.ofNat 32 (popCount 96 (g.mask3 s k a.toNat).toNat)))
/-- MFIRST: an all-zero value gives 0xFFFFFFFF (R336). -/
def execMfirst (d a : R7) (s : State) : Host.Outcome State Fault Refusal :=
  issue (.mfirst d a) s fun g k =>
    let v := g.mask3 s k a.toNat
    keep s (g.writeS s k d.toNat (if v = 0 then 0xFFFFFFFF else BitVec.ofNat 32 (lowestSet 96 v.toNat)))

/-! ### NOP and PAUSE (R347) -/

/-- NOP. -/
def execNop (s : State) : Host.Outcome State Fault Refusal := issue .nop s fun g _ => keep s g
/-- PAUSE: the group spins (R82, R347). -/
def execPause (s : State) : Host.Outcome State Fault Refusal := issue .pause s fun g _ => keep s g

/-! ### Special registers (R153 to R156, R122) -/

/-- SPLITST as row k reads it (R122). -/
def Group.splitst (g : Group) (k : Nat) : Word :=
  let bits := fun (f : Nat → Bool) (n : Nat) => (List.range n).foldl (fun a i => a + (f i).toNat <<< i) 0
  BitVec.ofNat 32 ((k % 4) <<< 30 + bits (fun i => (g.row i).live) 4 <<< 26 + ((g.row k).parent % 8) <<< 23
    + bits (fun i => (g.fams.getD i Family.free).used) 3 <<< 20 + (g.serials.length % 16) <<< 16
    + ((g.serials.filter fun r => r.owner == k).length % 16) <<< 12 + g.forceSerial.toNat <<< 8 + g.loops.length % 4)

/-- FRAMEST (R155). -/
def Group.framest (g : Group) : Word :=
  BitVec.ofNat 32 ((g.depth % 32) <<< 27 + (g.heldBlocks % 32) <<< 22 + (g.cur.blks % 32) <<< 17 + (g.cur.first % 32) <<< 12
    + (g.cur.args % 32) <<< 7 + ((g.frames.filter (·.spilled)).length % 32) <<< 2 + g.handler.isSome.toNat <<< 1)

/-- WIN (R156). -/
def Group.win (g : Group) : Word := BitVec.ofNat 32 ((g.wb % 256) <<< 16 + g.swb % 1024)

/-- The count that CYCLES reads: core clocks since group start; in deterministic mode, RETIRED (R109, R154). -/
def State.cycles (s : State) (g : Group) : Nat :=
  if (s.descOf g).det then g.retired else ((s.core g.core).clocks - g.clock0 : Int).toNat

/-- A count's bits 63 to 32. -/
def hi32 (n : Nat) : Word := BitVec.ofNat 32 (n / 2 ^ 32)

/-- Team coordinate n of a group: 0 x, 1 y, 2 z; all ones in spawned groups (R73, R131). -/
def State.teamCoord (s : State) (g : Group) (n : Nat) : Word :=
  match s.team g.team, s.launch g.launch with
  | some t, some l =>
      match t.index with
      | none => 0xFFFFFFFF
      | some i => BitVec.ofNat 32 (if n = 0 then i % l.ld.gridX else if n = 1 then i / l.ld.gridX % l.ld.gridY
          else i / (l.ld.gridX * l.ld.gridY))
  | _, _ => 0xFFFFFFFF

/-- TEAMID, 64 bits (R153); all ones in spawned groups (R131). -/
def State.teamId (s : State) (g : Group) : Dword :=
  match s.team g.team with
  | some t => match t.index with
    | some i => BitVec.ofNat 64 i
    | none => 0xFFFFFFFFFFFFFFFF
  | none => 0xFFFFFFFFFFFFFFFF

/-- What a selector reads for row k (R153). -/
def State.special (s : State) (g : Group) (k : Nat) (sel : BitVec 8) : Word :=
  match sel.toNat with
  | 0x00 => BitVec.ofNat 32 g.gid
  | 0x01 => (s.teamId g).extractLsb' 0 32
  | 0x02 => (s.teamId g).extractLsb' 32 32
  | 0x03 => s.teamCoord g 0
  | 0x04 => s.teamCoord g 1
  | 0x05 => s.teamCoord g 2
  | 0x06 => match s.team g.team with
    | some t => t.clid
    | none => 0xFFFFFFFF
  | 0x07 => match s.team g.team with
    | some t => BitVec.ofNat 32 t.clsize
    | none => 1
  | 0x08 => BitVec.ofNat 32 (96 * g.gid)
  | 0x09 => BitVec.ofNat 32 (s.cycles g)
  | 0x0A => g.cycLatch
  | 0x0B => BitVec.ofNat 32 g.retired
  | 0x0C => g.retLatch
  | 0x10 => (g.row k).fmt
  | 0x11 => g.pclass.setWidth 32
  | 0x12 => g.lc.getD 0 0
  | 0x13 => g.lc.getD 1 0
  | 0x14 => g.lc.getD 2 0
  | 0x15 => g.splitst k
  | 0x16 => g.framest
  | 0x17 => g.win
  | 0x18 => g.inflight
  | 0x19 => g.randKey.extractLsb' 0 32
  | 0x1A => g.randKey.extractLsb' 32 32
  | 0x1B => g.randCtr.extractLsb' 0 32
  | 0x1C => g.randCtr.extractLsb' 32 32
  | _ => 0

/-- GETS of a low half latches its high half (R154). -/
def State.latch (s : State) (g : Group) (sel : BitVec 8) : Group :=
  if sel = 0x09 then { g with cycLatch := hi32 (s.cycles g) }
  else if sel = 0x0B then { g with retLatch := hi32 g.retired }
  else g

/-- Replace one half of a 64-bit register. -/
def setHalf (old : Dword) (high : Bool) (v : Word) : Dword := if high then v ++ old.extractLsb' 0 32 else old.extractLsb' 32 32 ++ v

/-- A write of a selector by row k (R153, R122, R162). -/
def Group.setSpecial (g : Group) (k : Nat) (sel : BitVec 8) (v : Word) : Group :=
  match sel.toNat with
  | 0x10 => g.modRow k fun r => { r with fmt := v }
  | 0x11 => { g with pclass := v.extractLsb' 0 2 }
  | 0x12 => { g with lc := g.lc.set 0 v }
  | 0x13 => { g with lc := g.lc.set 1 v }
  | 0x14 => { g with lc := g.lc.set 2 v }
  | 0x15 => { g with forceSerial := v.getLsbD 8 }
  | 0x19 => { g with randKey := setHalf g.randKey false v }
  | 0x1A => { g with randKey := setHalf g.randKey true v }
  | 0x1B => { g with randCtr := setHalf g.randCtr false v }
  | 0x1C => { g with randCtr := setHalf g.randCtr true v }
  | _ => g

/-- GETS (R337). -/
def execGets (sel : BitVec 8) (d : R7) (s : State) : Host.Outcome State Fault Refusal :=
  issue (.gets sel d) s fun g k => keep s ((s.latch g sel).writeS s k d.toNat (s.special g k sel))
/-- SETS (R337). -/
def execSets (sel : BitVec 8) (a : R7) (s : State) : Host.Outcome State Fault Refusal :=
  issue (.sets sel a) s fun g k => keep s (g.setSpecial k sel (g.readS s k a.toNat))
/-- FMT: the format register of the issuing split (R337). -/
def execFmt (b : SOp) (s : State) : Host.Outcome State Fault Refusal :=
  issue (.fmt b) s fun g k => keep s (g.setSpecial k 0x10 (g.sop s k b))
/-- PCLASS (R337). -/
def execPclass (b : SOp) (s : State) : Host.Outcome State Fault Refusal :=
  issue (.pclass b) s fun g k => keep s (g.setSpecial k 0x11 (g.sop s k b))

end Sys2Proof.Machine
end

