-- ==== Sys2Proof/Machine/VecInt.lean ====
section
/-! DEFINITION. Vector integer instructions, row 1 (R350 to R354). -/

namespace Sys2Proof.Machine

/-! ### Shape V -/

/-- The lanes of vD := f(a, b, d) for the active lanes, with the flags of f (R111, R351). -/
def vecFl (i : Instr) (v : VOps) (f : State → Group → Word → Word → Word → Word × BitVec 3) (s : State) :
    Host.Outcome State Fault Refusal :=
  issue i s fun g k =>
    let a := g.srcA s v 0
    let b := g.srcB s k v 0
    let d := g.readV s v.d.toNat
    let r := (List.range 96).map fun l => f s g (laneOf a l) (laneOf b l) (laneOf d l)
    let m := (g.row k).mask
    keep s ((g.writeV s v.d.toNat m fun l => (r.getD l (0, noFlag)).1).orFlags
      (laneFlags m fun l => (r.getD l (0, noFlag)).2))

/-- The lanes of vD := f(a, b, d) for the active lanes; no flag (R351). -/
def vec (i : Instr) (v : VOps) (f : Word → Word → Word → Word) (s : State) : Host.Outcome State Fault Refusal :=
  issue i s fun g k =>
    let a := g.srcA s v 0
    let b := g.srcB s k v 0
    let d := g.readV s v.d.toNat
    keep s (g.writeV s v.d.toNat (g.row k).mask fun l => f (laneOf a l) (laneOf b l) (laneOf d l))

/-- An element-wise instruction of row 1: f of the width and the elements read by TYPE, wrapped (R352, R353). -/
def vecInt (i : Instr) (v : VOps) (f : Nat → Int → Int → Int → Int) (s : State) : Host.Outcome State Fault Refusal :=
  let w := (intType v.mod).1
  let rd := readInt (intType v.mod).2 w
  vec i v (mapElems w fun a b d => wrapNat w (f w (rd a) (rd b) (rd d))) s

/-- An element-wise instruction of row 1 on unsigned patterns of width w. -/
def vecNat (i : Instr) (v : VOps) (f : Nat → Nat → Nat → Nat → Nat) (s : State) : Host.Outcome State Fault Refusal :=
  vec i v (mapElems (intType v.mod).1 (f (intType v.mod).1)) s

/-- sh of R353: the low log2(w) bits. -/
def shOf (w b : Nat) : Nat := b % w
/-- Sat_w or SatU_w (R13, R353). -/
def satInt (signed : Bool) (w : Nat) (x : Int) : Int := max (intLo signed w) (min (intHi signed w) x)

/-- VADD (R353). -/
def execVaddInt (v : VOps) (s : State) : Host.Outcome State Fault Refusal := vecInt (.vaddInt v) v (fun _ a b _ => a + b) s
/-- VSUB (R353). -/
def execVsubInt (v : VOps) (s : State) : Host.Outcome State Fault Refusal := vecInt (.vsubInt v) v (fun _ a b _ => a - b) s
/-- VMUL (R353). -/
def execVmulInt (v : VOps) (s : State) : Host.Outcome State Fault Refusal := vecInt (.vmulInt v) v (fun _ a b _ => a * b) s
/-- VMULH (R353). -/
def execVmulh (v : VOps) (s : State) : Host.Outcome State Fault Refusal := vecInt (.vmulh v) v (fun w a b _ => (a * b) >>> w) s
/-- VMAD (R353). -/
def execVmad (v : VOps) (s : State) : Host.Outcome State Fault Refusal := vecInt (.vmad v) v (fun _ a b d => a * b + d) s
/-- VADDS (R353). -/
def execVadds (v : VOps) (s : State) : Host.Outcome State Fault Refusal :=
  vecInt (.vadds v) v (fun w a b _ => satInt (intType v.mod).2 w (a + b)) s
/-- VSUBS (R353). -/
def execVsubs (v : VOps) (s : State) : Host.Outcome State Fault Refusal :=
  vecInt (.vsubs v) v (fun w a b _ => satInt (intType v.mod).2 w (a - b)) s
/-- VAND (R353). -/
def execVand (v : VOps) (s : State) : Host.Outcome State Fault Refusal := vec (.vand v) v (fun a b _ => a &&& b) s
/-- VOR (R353). -/
def execVor (v : VOps) (s : State) : Host.Outcome State Fault Refusal := vec (.vor v) v (fun a b _ => a ||| b) s
/-- VXOR (R353). -/
def execVxor (v : VOps) (s : State) : Host.Outcome State Fault Refusal := vec (.vxor v) v (fun a b _ => a ^^^ b) s
/-- VNOT (R353). -/
def execVnot (v : VOps) (s : State) : Host.Outcome State Fault Refusal := vec (.vnot v) v (fun a _ _ => ~~~a) s
/-- VSHL (R353). -/
def execVshl (v : VOps) (s : State) : Host.Outcome State Fault Refusal := vecNat (.vshl v) v (fun w a b _ => a <<< shOf w b) s
/-- VSHR (R353). -/
def execVshr (v : VOps) (s : State) : Host.Outcome State Fault Refusal := vecNat (.vshr v) v (fun w a b _ => a >>> shOf w b) s
/-- VSAR (R353). -/
def execVsar (v : VOps) (s : State) : Host.Outcome State Fault Refusal :=
  vecNat (.vsar v) v (fun w a b _ => wrapNat w (readInt true w a >>> shOf w b)) s
/-- VMIN (R353). -/
def execVminInt (v : VOps) (s : State) : Host.Outcome State Fault Refusal := vecInt (.vminInt v) v (fun _ a b _ => min a b) s
/-- VMAX (R353). -/
def execVmaxInt (v : VOps) (s : State) : Host.Outcome State Fault Refusal := vecInt (.vmaxInt v) v (fun _ a b _ => max a b) s
/-- VABS (R353). -/
def execVabsInt (v : VOps) (s : State) : Host.Outcome State Fault Refusal := vecInt (.vabsInt v) v (fun _ a _ _ => a.natAbs) s
/-- VCMP (R353). -/
def execVcmpInt (v : VOps) (s : State) : Host.Outcome State Fault Refusal :=
  vecInt (.vcmpInt v) v (fun _ a b _ => if intCmp (v.mod.extractLsb' 3 3).toNat a b then -1 else 0) s
/-- VSEL (R353). -/
def execVsel (v : VOps) (s : State) : Host.Outcome State Fault Refusal :=
  vecNat (.vsel v) v (fun _ a b d => if d = 0 then b else a) s
/-- VPOPC (R353). -/
def execVpopc (v : VOps) (s : State) : Host.Outcome State Fault Refusal := vecNat (.vpopc v) v (fun w a _ _ => popCount w a) s
/-- VCLZ (R353). -/
def execVclz (v : VOps) (s : State) : Host.Outcome State Fault Refusal := vecNat (.vclz v) v (fun w a _ _ => leadingZeros w a) s
/-- VMOV (R353). -/
def execVmov (v : VOps) (s : State) : Host.Outcome State Fault Refusal := vec (.vmov v) v (fun _ b _ => b) s

/-! ### R354 -/

/-- Dot4 of R354. -/
def dot4 (signed sat : Bool) (a b d : Word) : Word :=
  let s := readInt signed 32 d.toNat
    + ((elems 8 a).zip (elems 8 b)).foldl (fun t p => t + readInt signed 8 p.1 * readInt signed 8 p.2) 0
  BitVec.ofInt 32 (if sat then satInt signed 32 s else s)

/-- off and len of R354. -/
def fieldOf (b : Word) : Nat × Nat :=
  let off := (b.extractLsb' 0 5).toNat
  (off, min (b.extractLsb' 8 6).toNat (32 - off))

/-- Bfe of R354. -/
def bfe (signed : Bool) (a b : Word) : Word :=
  let p := fieldOf b
  if p.2 = 0 then 0 else BitVec.ofInt 32 (readInt signed p.2 (a.toNat >>> p.1 % 2 ^ p.2))

/-- Bfi of R354. -/
def bfi (a b d : Word) : Word :=
  let p := fieldOf b
  let m : Word := BitVec.ofNat 32 ((2 ^ p.2 - 1) <<< p.1)
  (d &&& ~~~m) ||| ((a <<< p.1) &&& m)

/-- VDOT4 (R354). -/
def execVdot4 (v : VOps) (s : State) : Host.Outcome State Fault Refusal :=
  vec (.vdot4 v) v (dot4 (intType v.mod).2 (v.mod.getLsbD 6)) s
/-- VBFE (R354). -/
def execVbfe (v : VOps) (s : State) : Host.Outcome State Fault Refusal :=
  vec (.vbfe v) v (fun a b _ => bfe (intType v.mod).2 a b) s
/-- VBFI (R354). -/
def execVbfi (v : VOps) (s : State) : Host.Outcome State Fault Refusal := vec (.vbfi v) v bfi s

end Sys2Proof.Machine
end

