-- ==== Sys2Proof/Machine/VecFp.lean ====
section
/-! DEFINITION. Vector floating point, row 2 (R355 to R357). -/

namespace Sys2Proof.Machine

/-- An element-wise instruction of row 2: f of the elements of FTYPE after the legacy flush of sources, its results flushed
(R225, R229, R355). -/
def vecFp (i : Instr) (v : VOps) (f : Fmt → Nat → Nat → Nat → FRes) (s : State) : Host.Outcome State Fault Refusal :=
  let t := ftype v.mod
  vecFl i v (fun s g => mapFp t.width fun a b d =>
    t.flushRes (s.ftz g) (f t (t.flushSrc (s.ftz g) a) (t.flushSrc (s.ftz g) b) (t.flushSrc (s.ftz g) d))) s

/-- An instruction of row 2 whose result is no arithmetic value and is never flushed. -/
def vecFpRaw (i : Instr) (v : VOps) (f : Fmt → Nat → Nat → FRes) (s : State) : Host.Outcome State Fault Refusal :=
  let t := ftype v.mod
  vecFl i v (fun s g => mapFp t.width fun a b _ => f t (t.flushSrc (s.ftz g) a) (t.flushSrc (s.ftz g) b)) s

/-- RM of rows 2 and 3, DEF meaning RNE (R228, R355, R358). -/
def rmField (mod : BitVec 8) : Rm := rmOf (mod.extractLsb' 2 2)

/-- VADD (R356). -/
def execVaddFp (v : VOps) (s : State) : Host.Outcome State Fault Refusal :=
  vecFp (.vaddFp v) v (fun t a b _ => t.sum (rmField v.mod) [t.dec a, t.dec b]) s
/-- VSUB: the sum with the subtrahend negated (R227, R356). -/
def execVsubFp (v : VOps) (s : State) : Host.Outcome State Fault Refusal :=
  vecFp (.vsubFp v) v (fun t a b _ => t.sum (rmField v.mod) [t.dec a, (t.dec b).flip]) s
/-- VMUL (R356). -/
def execVmulFp (v : VOps) (s : State) : Host.Outcome State Fault Refusal :=
  vecFp (.vmulFp v) v (fun t a b _ => t.ofVal (rmField v.mod) (mulVal (t.dec a) (t.dec b))) s
/-- VFMA (R356). -/
def execVfma (v : VOps) (s : State) : Host.Outcome State Fault Refusal :=
  vecFp (.vfma v) v (fun t a b d => t.fma (rmField v.mod) (v.mod.getLsbD 5) (v.mod.getLsbD 4) (t.dec a) (t.dec b) (t.dec d)) s
/-- VMIN (R357). -/
def execVminFp (v : VOps) (s : State) : Host.Outcome State Fault Refusal :=
  vecFp (.vminFp v) v (fun t a b _ => t.minmax false a b) s
/-- VMAX (R357). -/
def execVmaxFp (v : VOps) (s : State) : Host.Outcome State Fault Refusal :=
  vecFp (.vmaxFp v) v (fun t a b _ => t.minmax true a b) s
/-- VCMP (R357). -/
def execVcmpFp (v : VOps) (s : State) : Host.Outcome State Fault Refusal :=
  vecFpRaw (.vcmpFp v) v (fun t a b =>
    let r := t.cmp (v.mod.extractLsb' 4 3).toNat a b
    (if r.1 then 2 ^ t.width - 1 else 0, r.2)) s
/-- VABS: a NaN gives the canonical NaN, no flag (R357). -/
def execVabsFp (v : VOps) (s : State) : Host.Outcome State Fault Refusal :=
  vecFp (.vabsFp v) v (fun t a _ _ => (if (t.dec a).isNan then t.nan else t.mag a, noFlag)) s
/-- VNEG (R357). -/
def execVneg (v : VOps) (s : State) : Host.Outcome State Fault Refusal :=
  vecFp (.vneg v) v (fun t a _ _ => (if (t.dec a).isNan then t.nan else t.withSign (!t.sign a) (t.mag a), noFlag)) s
/-- VCLASS (R357). -/
def execVclass (v : VOps) (s : State) : Host.Outcome State Fault Refusal :=
  vecFpRaw (.vclass v) v (fun t a _ => (t.classOf a, noFlag)) s

end Sys2Proof.Machine
end

