-- ==== Sys2Proof/Machine/Convert.lean ====
section
/-! DEFINITION. Conversions and special functions, row 3 (R358 to R363). -/

namespace Sys2Proof.Machine

/-! ### CVT (R359) -/

/-- One lane of CVT: its value and flags. -/
def cvtLane (ftz : Bool) (m : Rm) (src dst : Elem) (part : Nat) (a d : Word) : Word × BitVec 3 :=
  let ns := 32 / src.width
  let nd := 32 / dst.width
  let ea := elems src.width a
  let ed := elems dst.width d
  let from_ := if nd ≤ ns then part * nd else 0
  let at_ := if nd ≤ ns then 0 else part * ns
  let rs := (List.range (min ns nd)).map fun k => convElem ftz m src dst (ea.getD (from_ + k) 0)
  (ofElems dst.width ((List.range nd).map fun j =>
    if at_ ≤ j && j < at_ + min ns nd then (rs.getD (j - at_) (0, noFlag)).1 else ed.getD j 0), orFl rs)

/-- CVT (R359). -/
def execCvt (v : VOps) (s : State) : Host.Outcome State Fault Refusal :=
  issue (.cvt v) s fun g k =>
    let fmt := (g.row k).fmt
    match elemOf (fmtA fmt), elemOf (fmtD fmt) with
    | some src, some dst =>
        let a := g.srcA s v 0
        let d := g.readV s v.d.toNat
        let m := (g.row k).mask
        let rm := s.cvtRm g (v.mod.extractLsb' 0 2)
        let f := cvtLane (s.ftz g) rm src dst (v.mod.extractLsb' 2 2).toNat
        let r := (List.range 96).map fun l => f (laneOf a l) (laneOf d l)
        keep s ((g.writeV s v.d.toNat m fun l => (r.getD l (0, noFlag)).1).orFlags
          (laneFlags m fun l => (r.getD l (0, noFlag)).2))
    | _, _ => .trap (trapOf 0x01)

/-! ### SXPACK and SXUNPK (R360) -/

/-- Block b of SXPACK, and its flags. -/
def sxPackRun (ftz : Bool) (w b : Nat) (a : Lanes) : FRes :=
  toSX w ((List.range 16).map fun j => fp32.dec (fp32.flushSrc ftz (laneOf a (16 * b + j)).toNat))

/-- Some lane of run b is active. -/
def runActive (m : Mask) (b : Nat) : Bool := (List.range 16).any fun j => m.getLsbD (16 * b + j)

/-- SXPACK (R360). -/
def execSxpack (v : VOps) (s : State) : Host.Outcome State Fault Refusal :=
  issue (.sxpack v) s fun g k =>
    let a := g.srcA s v 0
    let m := (g.row k).mask
    let w := sxW v.mod.toNat
    let rs := (List.range 6).map fun b => if runActive m b then sxPackRun (s.ftz g) w b a else (0, noFlag)
    let whole : Mask := BitVec.ofNat 96 ((List.range 96).foldl (fun x l => if runActive m (l / 16) then x + 2 ^ l else x) 0)
    keep s ((g.writeV s v.d.toNat whole fun l =>
      BitVec.ofNat 32 ((rs.getD (l / 16) (0, noFlag)).1 >>> (32 * (l % 16)))).orFlags (orFl rs))

/-- SXUNPK (R360): sets no flag. -/
def execSxunpk (v : VOps) (s : State) : Host.Outcome State Fault Refusal :=
  issue (.sxunpk v) s fun g k =>
    let a := g.srcA s v 0
    let w := sxW v.mod.toNat
    let blk := fun b => ((List.range (sxWords w)).foldl (fun x j => x + (laneOf a (16 * b + j)).toNat <<< (32 * j)) 0) % 2 ^ sxBits w
    keep s (g.writeV s v.d.toNat (g.row k).mask fun l => BitVec.ofNat 32 (sxToFp32 (s.ftz g) w (blk (l / 16)) (l % 16)).1)

/-! ### Correctly rounded functions (R361) -/

/-- VRND (R361). -/
def execVrnd (v : VOps) (s : State) : Host.Outcome State Fault Refusal :=
  vecFp (.vrnd v) v (fun t a _ _ => t.rnd (rmField v.mod) a) s
/-- VSQRT (R361). -/
def execVsqrt (v : VOps) (s : State) : Host.Outcome State Fault Refusal :=
  vecFp (.vsqrt v) v (fun t a _ _ => t.sqrt (rmField v.mod) (t.dec a)) s
/-- VDIV (R361). -/
def execVdiv (v : VOps) (s : State) : Host.Outcome State Fault Refusal :=
  vecFp (.vdiv v) v (fun t a b _ => t.ofVal (rmField v.mod) (divVal (t.dec a) (t.dec b))) s

/-! ### Approximate functions (R362) -/

/-- An approximate function of each element. -/
def vecApprox (i : Instr) (v : VOps) (fn : ApproxFn) (s : State) : Host.Outcome State Fault Refusal :=
  vecFp i v (fun t a _ _ => t.approx fn a) s

/-- VRCP (R362). -/
def execVrcp (v : VOps) (s : State) : Host.Outcome State Fault Refusal := vecApprox (.vrcp v) v .rcp s
/-- VRSQ (R362). -/
def execVrsq (v : VOps) (s : State) : Host.Outcome State Fault Refusal := vecApprox (.vrsq v) v .rsq s
/-- VEXP2 (R362). -/
def execVexp2 (v : VOps) (s : State) : Host.Outcome State Fault Refusal := vecApprox (.vexp2 v) v .exp2 s
/-- VLOG2 (R362). -/
def execVlog2 (v : VOps) (s : State) : Host.Outcome State Fault Refusal := vecApprox (.vlog2 v) v .log2 s
/-- VSIN (R362). -/
def execVsin (v : VOps) (s : State) : Host.Outcome State Fault Refusal := vecApprox (.vsin v) v .sin s
/-- VCOS (R362). -/
def execVcos (v : VOps) (s : State) : Host.Outcome State Fault Refusal := vecApprox (.vcos v) v .cos s
/-- VTANH (R362). -/
def execVtanh (v : VOps) (s : State) : Host.Outcome State Fault Refusal := vecApprox (.vtanh v) v .tanh s

/-! ### RAND (R242, R243, R363) -/

/-- RAND: lane i receives Mix(K, C + i), and the counter advances by 96 (R242, R243, R363). -/
def execRand (v : VOps) (s : State) : Host.Outcome State Fault Refusal :=
  issue (.rand v) s fun g k =>
    let r := (List.range 96).map fun l => mix g.randKey (g.randCtr + BitVec.ofNat 64 l)
    let m := (g.row k).mask
    let g1 := g.writeV s v.d.toNat m fun l => (r.getD l 0).extractLsb' 0 32
    let g2 := if v.mod == 1 then g1.writeV s (v.d.toNat + 1) m fun l => (r.getD l 0).extractLsb' 32 32 else g1
    keep s { g2 with randCtr := g.randCtr + 96 }

end Sys2Proof.Machine
end

