-- ==== Sys2Proof/Machine/CrossLane.lean ====
section
/-! DEFINITION. Permute, match, reduce and scan, row 4 (R364 to R370). -/

namespace Sys2Proof.Machine

/-! ### Movement between lanes (R365) -/

/-- VPERM: 0 where the index is 96 or more (R365). -/
def execVperm (v : VOps) (s : State) : Host.Outcome State Fault Refusal :=
  issue (.vperm v) s fun g k =>
    let a := g.srcA s v 0
    let b := g.srcB s k v 0
    keep s (g.writeV s v.d.toNat (g.row k).mask fun l => laneOf a (laneOf b l).toNat)

/-- The lowest n lanes. -/
def lowLanes (n : Nat) : Mask := BitVec.ofNat 96 (2 ^ n - 1)

/-- VCMPCT: lanes 0 to n − 1 are written whatever the mask (R365). -/
def execVcmpct (v : VOps) (s : State) : Host.Outcome State Fault Refusal :=
  issue (.vcmpct v) s fun g k =>
    let a := g.srcA s v 0
    let act := lanesOf (g.row k).mask
    keep s (g.writeV s v.d.toNat (lowLanes act.length) fun l => laneOf a (act.getD l 0))

/-- VEXPND (R365). -/
def execVexpnd (v : VOps) (s : State) : Host.Outcome State Fault Refusal :=
  issue (.vexpnd v) s fun g k =>
    let a := g.srcA s v 0
    let act := lanesOf (g.row k).mask
    keep s (g.writeV s v.d.toNat (g.row k).mask fun l => laneOf a (act.idxOf l))

/-! ### MATCH (R366) -/

/-- Values of two lanes are the same, by KIND (R366). -/
def matchSame (kind : Nat) (x y : Word × Word) : Bool :=
  if kind = 2 then x == y
  else if kind = 0 then x.1 == y.1
  else (fp32.dec x.1.toNat).eqv (fp32.dec y.1.toNat)

/-- L(i): the active lanes whose value is the same as lane i's; a lane is the same as itself (R366). -/
def matchSet (kind : Nat) (act : List Nat) (val : Nat → Word × Word) (i : Nat) : List Nat :=
  act.filter fun j => j == i || matchSame kind (val j) (val i)

/-- MATCH (R366). -/
def execMatch (v : VOps) (s : State) : Host.Outcome State Fault Refusal :=
  issue (.match_ v) s fun g k =>
    let kind := (v.mod.extractLsb' 0 2).toNat
    let a := g.srcA s v 0
    let a1 := if kind = 2 then g.srcA s v 1 else zeroLanes
    let m := (g.row k).mask
    let act := lanesOf m
    let sets := fun i => matchSet kind act (fun j => (laneOf a j, laneOf a1 j)) i
    let g1 := g.writeV s v.d.toNat m fun i => BitVec.ofNat 32 ((sets i).headD i)
    keep s (if v.mod.getLsbD 2 then g1.writeV s (v.d.toNat + 1) m fun i => BitVec.ofNat 32 (sets i).length else g1)

/-! ### REDUCE and SCAN (R367, R368) -/

/-- VMIN or VMAX over lanes: NaN lanes take no part beside others; a signalling one sets NV (R367). -/
def minmaxSet (isMax : Bool) (xs : List Word) : Word × BitVec 3 :=
  let fl := xs.foldl (fun f x => f ||| (fp32.dec x.toNat).sigFlag) noFlag
  match xs.filter fun x => !(fp32.dec x.toNat).isNan with
  | [] => (BitVec.ofNat 32 fp32.nan, fl)
  | x :: r => (BitVec.ofNat 32 (r.foldl (fun m y => (fp32.minmax isMax m y.toNat).1) x.toNat), fl)

/-- The combination of a list of lanes by OPC; an empty one gives the identity (R367). -/
def combine (opc : Nat) (xs : List Word) : Word × BitVec 3 :=
  let by_ := fun (f : Word → Word → Word) (e : Word) => (xs.foldl f e, noFlag)
  match opc with
  | 0 => by_ (fun a b => a + b) 0
  | 1 =>
      if xs.isEmpty then (0, noFlag)
      else let r := fp32.sum .rne (xs.map fun x => fp32.dec x.toNat); (BitVec.ofNat 32 r.1, r.2)
  | 2 => by_ (fun a b => if b.slt a then b else a) 0x7FFFFFFF
  | 3 => by_ (fun a b => if a.slt b then b else a) 0x80000000
  | 4 => by_ (fun a b => if b.ult a then b else a) 0xFFFFFFFF
  | 5 => by_ (fun a b => if a.ult b then b else a) 0
  | 6 => by_ (fun a b => a &&& b) 0xFFFFFFFF
  | 7 => by_ (fun a b => a ||| b) 0
  | 8 => by_ (fun a b => a ^^^ b) 0
  | 9 => if xs.isEmpty then (0x7F800000, noFlag) else minmaxSet false xs
  | _ => if xs.isEmpty then (0xFF800000, noFlag) else minmaxSet true xs

/-- REDUCE (R367). -/
def execReduce (v : VOps) (s : State) : Host.Outcome State Fault Refusal :=
  issue (.reduce v) s fun g k =>
    let a := g.srcA s v 0
    let m := (g.row k).mask
    let act := lanesOf m
    let r := combine (v.mod.extractLsb' 0 4).toNat (act.map (laneOf a))
    let g1 := if v.mod.getLsbD 7 then g.writeS s k v.d.toNat r.1 else g.writeV s v.d.toNat m fun _ => r.1
    keep s ((g1.orFlags r.2).setEmpty act.isEmpty)

/-- The lanes that the prefix of lane i combines (R368). -/
def prefixOf (excl : Bool) (act : List Nat) (i : Nat) : List Nat := act.filter fun j => if excl then j < i else j ≤ i

/-- SCAN (R368). -/
def execScan (v : VOps) (s : State) : Host.Outcome State Fault Refusal :=
  issue (.scan v) s fun g k =>
    let a := g.srcA s v 0
    let m := (g.row k).mask
    let act := lanesOf m
    let rs := act.map fun i => (i, combine (v.mod.extractLsb' 0 4).toNat ((prefixOf (v.mod.getLsbD 4) act i).map (laneOf a)))
    let g1 := g.writeV s v.d.toNat m fun i => ((rs.find? fun r => r.1 == i).map (·.2.1)).getD 0
    keep s ((g1.orFlags (rs.foldl (fun f r => f ||| r.2.2) noFlag)).setEmpty act.isEmpty)

/-! ### VBALLOT and VLANE (R369) -/

/-- VBALLOT (R369). -/
def execVballot (v : VOps) (s : State) : Host.Outcome State Fault Refusal :=
  issue (.vballot v) s fun g k =>
    let a := g.srcA s v 0
    let x : Mask := BitVec.ofNat 96 ((lanesOf (g.row k).mask).foldl (fun n i => if laneOf a i = 0 then n else n + 2 ^ i) 0)
    let d := v.d.toNat
    keep s (((g.writeS s k d (maskWord x 0)).writeS s k (d + 1) (maskWord x 1)).writeS s k (d + 2) (maskWord x 2))

/-- VLANE: LANEBASE is 96 × GRPID (R153, R369). -/
def execVlane (v : VOps) (s : State) : Host.Outcome State Fault Refusal :=
  issue (.vlane v) s fun g k =>
    let base := if v.mod == 1 then 96 * g.gid else 0
    keep s (g.writeV s v.d.toNat (g.row k).mask fun i => BitVec.ofNat 32 (base + i))

end Sys2Proof.Machine
end

