-- ==== Sys2Proof/Machine/Control.lean ====
section
/-! DEFINITION. Control flow: jumps, branches, splits and their reconvergence, hardware loops, EXIT (R114 to R123, R338 to R344,
R348). -/

namespace Sys2Proof.Machine

/-! ### Targets (R312, R339) -/

/-- The target an offset in words encodes, as an exact address (R330, R339). -/
def Group.target (g : Group) (k : Nat) (ofs : BitVec 16) : Int := ((g.row k).pc.toNat : Int) + 4 * ofs.toInt

/-- The address lies in the code range (R312). -/
def inCodeRange (r : BitVec 17) (t : Int) : Bool := t >>> 32 == (r.toNat : Int)

/-- A 64-bit address for a trap record. -/
def wrapVa (t : Int) : Nat := (t % 2 ^ 64).toNat

/-- The PC of a target. -/
def pcOf (t : Int) : Pc := BitVec.ofInt 49 t

/-- PC_RANGE for the first target outside the code range, else what follows (R339). -/
def checkTargets (s : State) (g : Group) (ts : List Int) (r : Res) : Res :=
  match ts.find? fun t => !inCodeRange (g.codeRange s) t with
  | some t => .trap (trapAt 0x17 (wrapVa t) 0)
  | none => r

/-- The address in the code range that a register names (R312). -/
def State.regTarget (s : State) (g : Group) (v : Word) : Pc := g.codeRange s ++ v

/-- The trap of a register target that is not aligned (R312). -/
def misaligned (s : State) (g : Group) (v : Word) : Option TrapInfo :=
  if v.extractLsb' 0 2 = 0 then none else some (trapAt 0x16 (s.regTarget g v).toNat 0)

/-! ### Jumps and scalar branches (R339) -/

/-- JMP (R339). -/
def execJmp (tofs : BitVec 16) (s : State) : Host.Outcome State Fault Refusal :=
  issue (.jmp tofs) s fun g k => checkTargets s g [g.target k tofs] (.jump s (pcOf (g.target k tofs)))

/-- JMPR (R339). -/
def execJmpr (a : R7) (s : State) : Host.Outcome State Fault Refusal :=
  issue (.jmpr a) s fun g k =>
    let v := g.readS s k a.toNat
    match misaligned s g v with
    | some t => .trap t
    | none => .jump s (s.regTarget g v)

/-- BRA.S: evaluated once per split (R339). -/
def execBraS (cond : BitVec 5) (sb : Bool) (b a : R7) (tofs : BitVec 16) (s : State) : Host.Outcome State Fault Refusal :=
  issue (.braS cond sb b a tofs) s fun g k =>
    let y := if sb then b.signExtend 32 else g.readS s k b.toNat
    checkTargets s g [g.target k tofs]
      (if condHolds cond (g.readS s k a.toNat) y then .jump s (pcOf (g.target k tofs)) else .retire s)

/-! ### Divergence (R116, R340) -/

/-- The lowest row that is not live. -/
def Group.freeRow (g : Group) : Option Nat := (List.range 4).find? fun j => !(g.row j).live
/-- The lowest family that is not used. -/
def Group.freeFam (g : Group) : Option Nat := (List.range 3).find? fun f => !(g.fams.getD f Family.free).used

/-- Row n and family f take the lanes of X to T; row k goes on at F (R116). -/
def Group.divide (g : Group) (k n f : Nat) (x : Mask) (t j fall : Pc) : Group :=
  let r := g.row k
  let r' := { r with mask := r.mask &&& ~~~x, own := r.own &&& ~~~x, parent := f, pc := fall }
  let taken := { live := true, pc := t, mask := x, own := x, parent := f, fmt := r.fmt, wait := .none, stopped := false : Row }
  { g with fams := g.fams.set f { used := true, jpc := j, up := r.parent, sfmt := r.fmt },
           rows := (g.rows.set k r').set n taken }

/-- The serial path: the lanes of X go on, the others are deferred (R116). The newest record stands first. -/
def Group.defer (g : Group) (k : Nat) (x : Mask) (t j fall : Pc) : Group :=
  let r := g.row k
  let rec_ : Serial := { owner := k, dmask := r.mask &&& ~~~x, down := r.own &&& ~~~x, dpc := fall, jpc := j, phase := false,
                         smask := 0, sown := 0 }
  ({ g with serials := rec_ :: g.serials }).modRow k fun r => { r with mask := x, own := x, pc := t }

/-- R116 for row k, whose active lanes X take the branch. -/
def Group.diverge (s : State) (g : Group) (k : Nat) (x : Mask) (t j fall : Pc) : Res :=
  let m := (g.row k).mask
  if x = 0 then .jump s fall
  else if x = m then .jump s t
  else match g.freeRow, g.freeFam with
    | some n, some f =>
        if !g.forceSerial then .done (s.putGroup (g.divide k n f x t j fall))
        else if g.serials.length < 8 then .done (s.putGroup (g.defer k x t j fall)) else .trap (trapOf 0x10)
    | _, _ => if g.serials.length < 8 then .done (s.putGroup (g.defer k x t j fall)) else .trap (trapOf 0x10)

/-- A mask from a test of each lane. -/
def maskOf (f : Nat → Bool) : Mask := BitVec.ofNat 96 ((List.range 96).foldl (fun n i => if f i then n + 2 ^ i else n) 0)

/-- BRA.V (R340). -/
def execBraV (cond : BitVec 5) (sb : Bool) (b a : R7) (tofs jofs : BitVec 16) (s : State) : Host.Outcome State Fault Refusal :=
  issue (.braV cond sb b a tofs jofs) s fun g k =>
    let av := g.readV s a.toNat
    let bv := if sb then List.replicate 96 (g.readS s k b.toNat) else g.readV s b.toNat
    let x := (g.row k).mask &&& maskOf fun i => condHolds cond (laneOf av i) (laneOf bv i)
    checkTargets s g [g.target k tofs, g.target k jofs]
      (g.diverge s k x (pcOf (g.target k tofs)) (pcOf (g.target k jofs)) ((g.row k).pc + 8))

/-! ### JOIN (R118, R341) -/

/-- A family. -/
def Group.fam (g : Group) (f : Nat) : Family := g.fams.getD f Family.free

/-- Family p is f, or reaches f through UP, n steps at most (R118). -/
def Group.descends (g : Group) (f : Nat) : Nat → Nat → Bool
  | 0, _ => false
  | n + 1, p => p == f || (decide (p < 3) && Group.descends g f n (g.fam p).up)

/-- How a JOIN ends: it completes, its split (the row given) waits, or it traps. -/
inductive JoinRes where
  | pass (g : Group)
  | wait (g : Group) (row : Nat)
  | order

/-- The rows that have arrived at the JOIN at J with a parent and wait there. -/
def Group.joiners (g : Group) (k : Nat) (j : Pc) (f : Nat) : List Nat :=
  (List.range 4).filter fun n => n != k && (g.row n).live && !(g.row n).stopped && (g.row n).wait == .join && (g.row n).pc == j
    && (g.row n).parent == f

/-- Row k and rows that wait for it become one, the lowest-numbered (R118). -/
def Group.fuseAll (g : Group) (k : Nat) (ns : List Nat) : Group × Nat :=
  ns.foldl (fun (h, a) b => (h.fuseInto (min a b) (max a b), min a b)) (g, k)

/-- JOIN by row k, n repetitions at most (R118). -/
def Group.join : Nat → Group → Nat → JoinRes
  | 0, g, k => .pass (g.modRow k fun r => { r with pc := r.pc + 4, wait := .none })
  | n + 1, g, k =>
      let r := g.row k
      let byFamily : Unit → JoinRes := fun _ =>
        if r.parent < 3 && (g.fam r.parent).jpc == r.pc then
          if g.ownsSerial k then .order
          else
            let p := g.fuseAll k (g.joiners k r.pc r.parent)
            if (List.range 4).any fun j => j != p.2 && (p.1.row j).live && p.1.descends r.parent 4 (p.1.row j).parent then .wait p.1 p.2
            else
              let f := p.1.fam r.parent
              let g2 := { p.1 with fams := p.1.fams.set r.parent Family.free }
              Group.join n (g2.modRow p.2 fun x => { x with parent := f.up, fmt := f.sfmt }) p.2
        else .pass (g.modRow k fun r => { r with pc := r.pc + 4, wait := .none })
      match g.serials with
      | [] => byFamily ()
      | t :: rest =>
          if t.owner = k && t.jpc = r.pc then
            if !t.phase then
              let t' := { t with phase := true, smask := r.mask, sown := r.own }
              .pass (({ g with serials := t' :: rest }).modRow k fun r =>
                { r with mask := t.dmask, own := t.down, pc := t.dpc, wait := .none })
            else
              Group.join n (({ g with serials := rest }).modRow k fun r =>
                { r with mask := r.mask ||| t.smask, own := r.own ||| t.sown }) k
          else byFamily ()

/-- JOIN (R118, R341). The surviving row's JOIN retires. -/
def execJoin (s : State) : Host.Outcome State Fault Refusal :=
  issue .join s fun g k =>
    match g.join 16 k with
    | .pass g' => .done (s.putGroup g')
    | .wait g' j => if j = k then .hold .join (s.putGroup g') else .hold .none (s.putGroup g')
    | .order => .trap (trapOf 0x11)

/-! ### Hardware loops (R123, R342 to R344) -/

/-- LOOP (R343): the innermost level stands first in the list. -/
def execLoop (sb : Bool) (x : R7) (tofs : BitVec 16) (s : State) : Host.Outcome State Fault Refusal :=
  issue (.loop sb x tofs) s fun g k =>
    let c := if sb then x.setWidth 32 else g.readS s k x.toNat
    let e := g.target k tofs
    let n := g.loops.length
    if !g.single then .trap (trapOf 0x13)
    else checkTargets s g [e]
      (if 3 ≤ n then .trap (trapOf 0x14)
       else if c = 0 then .jump s (pcOf e + 4)
       else
         let l : LoopRec := { start := (g.row k).pc + 8, stop := pcOf e, sdepth := g.serials.length }
         .retire (s.putGroup { g with lc := g.lc.set n c, loops := l :: g.loops }))

/-- Lend(x) of R344. -/
def lendRes (s : State) (g : Group) (k : Nat) (x : Bool) : Res :=
  match g.loops with
  | [] => .trap (trapOf 0x15)
  | l :: rest =>
      let n := rest.length
      let c := g.lc.getD n 0
      if !x && (g.row k).pc ≠ l.stop then .trap (trapOf 0x15)
      else if !g.single || decide (g.serials.length ≠ l.sdepth) then .trap (trapOf 0x13)
      else if !x && decide (1 < c.toNat) then .jump (s.putGroup { g with lc := g.lc.set n (c - 1) }) l.start
      else .retire (s.putGroup { g with lc := if x then g.lc else g.lc.set n 0, loops := rest })

/-- LEND (R344). -/
def execLend (s : State) : Host.Outcome State Fault Refusal := issue .lend s fun g k => lendRes s g k false
/-- LEND.X (R344). -/
def execLendX (s : State) : Host.Outcome State Fault Refusal := issue .lendX s fun g k => lendRes s g k true

/-! ### EXIT (R119, R348, R437) -/

/-- Families that no live row and no used family name are freed, n passes (R119). -/
def Group.freeFams (g : Group) : Nat → Group
  | 0 => g
  | n + 1 =>
      let used := fun f : Nat => g.rows.any (fun r => r.live && r.parent == f) || g.fams.any fun x => x.used && x.up == f
      Group.freeFams { g with fams := g.fams.zipIdx.map fun (x, f) => if x.used && !used f then Family.free else x } n

/-- The lanes of row k's OWN end; a serial record takes its place (R119). -/
def Group.endSplit (g : Group) (k : Nat) : Group :=
  let free := (g.modRow k fun _ => Row.free).freeFams 3
  match g.serials with
  | [] => free
  | t :: rest =>
      if t.owner = k then
        if !t.phase then
          ({ g with serials := { t with phase := true, smask := 0, sown := 0 } :: rest }).modRow k fun r =>
            { r with pc := t.dpc, mask := t.dmask, own := t.down }
        else ({ g with serials := rest }).modRow k fun r => { r with pc := t.jpc + 4, mask := t.smask, own := t.sown }
      else free

/-- EXIT (R119, R348); in a handler it ends every live row (R437), and with them every lane that a serial record defers. -/
def execExit (s : State) : Host.Outcome State Fault Refusal :=
  issue .exit s fun g k =>
    if !g.held.isEmpty then .trap (trapNum 0x6B g.held.length)
    else
      let whole := g.handler.isSome
      let s1 := s.endLanes g (if whole then BitVec.allOnes 96 else (g.row k).own)
      let g1 := g.endSplit k
      if whole || g1.liveRows.isEmpty then .done ((s1.putGroup g.stop).tryExit g.uid false) else .done (s1.putGroup g1)

end Sys2Proof.Machine
end

