-- ==== Sys2Proof/Machine/Frames.lean ====
section
/-! DEFINITION. Call frames, their allocation, and the windows (R137 to R143, R345, R346). -/

namespace Sys2Proof.Machine

/-! ### Allocation (R142, R143) -/

/-- The lowest spilled frame record, with its place in the stack's list (R143). -/
def Group.lowestSpilled (g : Group) : Option (Nat × Frame) :=
  (g.frames.zipIdx.reverse.find? fun fi => fi.1.spilled).map fun fi => (fi.2, fi.1)

/-- The blocks of the group's pending request: a refill stands before an Allocate (R143); none inside a handler, or once the request is
withdrawn (R145). -/
def Group.request (g : Group) : Option Nat :=
  if g.handler.isSome then none
  else match g.lowestSpilled with
    | some (_, f) => if g.alloc.any (·.exhausted) then none else some f.blks
    | none => match g.alloc with
      | some r => if r.granted || r.exhausted || r.blocks = 0 then none else some r.blocks
      | none => none

/-- A request of k blocks by a group would be served now: no older request is pending in its partition, and the free blocks
cover it (R142). -/
def State.canGrant (s : State) (g : Group) (k : Nat) : Bool :=
  k == 0 || (decide (k ≤ (s.freeBlocks g.core g.part).length)
    && !(s.partGroups g.core g.part).any fun h => decide (h.born < g.born) && h.request.isSome)

/-- Another context than the group's last held a physical block of its partition (R139). -/
def State.foreign (s : State) (g : Group) (p : Nat) : Bool :=
  ((s.partOf g.core g.part).holders.getD p none).any fun c => c != g.ctx

/-- What register l holds in a granted physical block p: zeros where another context last held the block; else, lane by lane, what groups of
the same context left there, or zero (R139). -/
def State.grantedLanes (s : State) (g : Group) (p l : Nat) : Lanes :=
  if s.foreign g p then zeroLanes
  else
    let old := sget zeroLanes (s.partOf g.core g.part).left (16 * p + l % 16)
    (List.range 96).map fun i => if s.freeBit .block (l * 128 + i) then laneOf old i else 0

/-- Logical blocks from lo map to physical blocks; fill: what a register of a physical block holds. -/
def Group.mapBlocks (g : Group) (lo : Nat) (ps : List Nat) (fill : Nat → Nat → Lanes) : Group :=
  let g1 := { g with blockMap := ps.zipIdx.foldl (fun m pi => m.set (lo + pi.2) (.resident pi.1)) g.blockMap }
  (run (16 * lo) (16 * ps.length)).foldl (fun h l => h.vput l (fill (ps.getD (l / 16 - lo) 0) l)) g1

/-- Allocate(k): what follows receives the group with its new blocks, or the instruction waits (R141, R142). -/
def allocate (s : State) (g : Group) (k : Nat) (go : Group → Res) : Res :=
  let take := fun (_ : Unit) =>
    go (({ g with alloc := none }).mapBlocks g.heldBlocks ((s.unheldBlocks g.core g.part).take k) (s.grantedLanes g))
  if k = 0 then go g
  else match g.alloc with
    | some r =>
        if r.exhausted then .trap (trapOf 0x23)
        else if r.granted || s.canGrant g k then take ()
        else .hold .alloc s
    | none =>
        if s.canGrant g k then take ()
        else .hold .alloc (s.putGroup { g with
          alloc := some { blocks := k, since := (s.core g.core).clocks, granted := false, exhausted := false } })

/-! ### Free (R141) -/

/-- A register of the logical blocks from lo up to, not including, hi. -/
def inBlocks (lo hi l : Nat) : Bool := decide (16 * lo ≤ l) && decide (l < 16 * hi)

/-- A late write is outstanding to a block (R141). -/
def Group.lateIn (g : Group) (lo hi : Nat) : Bool :=
  g.ops.any fun o => !o.done && o.dests.any fun d => d.1 && inBlocks lo hi d.2

/-- Blocks return to the pool: their entries are UNMAPPED, their contents and the late writes bound to them go. -/
def Group.unmapBlocks (g : Group) (lo hi : Nat) : Group :=
  { g with
    blockMap := g.blockMap.zipIdx.map fun (b, i) => if lo ≤ i && i < hi then .unmapped else b
    vregs := g.vregs.filter fun e => !inBlocks lo hi e.1
    ops := g.ops.map fun o => { o with dests := o.dests.filter fun d => !(d.1 && inBlocks lo hi d.2),
                                       late := o.late.filter fun w => !(w.vec && inBlocks lo hi w.reg) } }

/-- Free(list) and what follows; held while a late write is outstanding (R141). -/
def freeThen (s : State) (g : Group) (lo hi : Nat) (go : State → Group → Res) : Res :=
  if g.lateIn lo hi then .hold .late s else go (s.noteFree g (g.blocksIn lo hi)) (g.unmapBlocks lo hi)

/-! ### CALL, CALLR, RET (R141, R346) -/

/-- FRAME_MAX of the group's launch (R75). -/
def State.frameMax (s : State) (g : Group) : Nat :=
  match s.launch g.launch with
  | some l => l.ld.frameMax
  | none => 16

/-- LINK, absolute scalar register 3 (R152). -/
def Group.setLink (s : State) (g : Group) (pc : Pc) : Group := g.writeAbs s 3 (pc.extractLsb' 0 32)

/-- FrameCall of R141. -/
def frameCall (s : State) (g : Group) (k : Nat) (i : Instr) (d a : Nat) (target : Pc) : Res :=
  if g.depth = 16 then .trap (trapOf 0x21)
  else if 16 * g.cur.blks < a then .trap (trapOf 0x20)
  else if s.frameMax g < g.heldBlocks + d then .trap (trapOf 0x22)
  else
    let f : Frame := { first := g.heldBlocks, blks := d, init := d, args := a, swb := g.wb, rpc := g.nextPc k i, spilled := false,
                       born := s.sched.tick, image := none }
    allocate s g d fun g1 =>
      .jump (s.putGroup (({ g1 with frames := f :: g1.frames, wb := 16 * f.first - a }).setLink s f.rpc)) target

/-- The checks of R346 that stand before the operands of CALL, CALLR, RET, ACQUIRE and RELEASE. -/
def frameChecks (g : Group) (r : Res) : Res :=
  if !g.single then .trap (trapOf 0x12) else if g.handler.isSome then .trap (trapOf 0x20) else r

/-- CALL (R141, R345, R346). -/
def execCall (demand args : BitVec 5) (tofs : BitVec 16) (s : State) : Host.Outcome State Fault Refusal :=
  issue (.call demand args tofs) s fun g k =>
    frameChecks g (checkTargets s g [g.target k tofs]
      (frameCall s g k (.call demand args tofs) demand.toNat args.toNat (pcOf (g.target k tofs))))

/-- CALLR (R141, R345, R346). -/
def execCallr (b : R7) (demand args : BitVec 5) (s : State) : Host.Outcome State Fault Refusal :=
  issue (.callr b demand args) s fun g k =>
    let v := g.readS s k b.toNat
    frameChecks g (match misaligned s g v with
      | some t => .trap t
      | none => frameCall s g k (.callr b demand args) demand.toNat args.toNat (s.regTarget g v))

/-- RET (R141, R345, R346). -/
def execRet (s : State) : Host.Outcome State Fault Refusal :=
  issue .ret s fun g k =>
    let v := g.readS s k 3
    frameChecks g
      (if g.depth ≤ 1 then .trap (trapOf 0x20)
       else match misaligned s g v with
        | some t => .trap t
        | none => freeThen s g g.cur.first g.heldBlocks fun s1 g1 =>
            .jump (s1.putGroup { g1 with frames := g1.frames.tail, wb := g.cur.swb }) (s.regTarget g v))

/-! ### ACQUIRE, RELEASE, WBASE, UNWIND, SWIN (R141, R151, R345) -/

/-- Change the current frame record. -/
def Group.modCur (g : Group) (f : Frame → Frame) : Group := { g with frames := g.frames.modify 0 f }

/-- ACQUIRE (R141, R345). -/
def execAcquire (b : SOp) (s : State) : Host.Outcome State Fault Refusal :=
  issue (.acquire b) s fun g row =>
    let k := (g.sop s row b).toNat
    frameChecks g
      (if k < 1 || 16 < k then .trap (trapOf 0x20)
       else if s.frameMax g < g.heldBlocks + k then .trap (trapOf 0x22)
       else allocate s g k fun g1 => keep s (g1.modCur fun f => { f with blks := f.blks + k }))

/-- RELEASE (R141, R345). -/
def execRelease (b : SOp) (s : State) : Host.Outcome State Fault Refusal :=
  issue (.release b) s fun g row =>
    let k := (g.sop s row b).toNat
    frameChecks g
      (if k < 1 || 16 < k || g.cur.blks < g.cur.init + k then .trap (trapOf 0x20)
       else freeThen s g (g.heldBlocks - k) g.heldBlocks fun s1 g1 => keep s1 (g1.modCur fun f => { f with blks := f.blks - k }))

/-- The lowest value WBASE may set: any in a handler (R141, R151). -/
def Group.wbLow (g : Group) : Nat := if g.handler.isSome then 0 else 16 * g.cur.first - g.cur.args

/-- WBASE (R141, R151, R345). -/
def execWbase (b : SOp) (s : State) : Host.Outcome State Fault Refusal :=
  issue (.wbase b) s fun g row =>
    let w := (g.sop s row b).toNat
    if !g.single then .trap (trapOf 0x12)
    else if w < g.wbLow || 16 * g.heldBlocks ≤ w then .trap (trapOf 0x20)
    else keep s { g with wb := w }

/-- UNWIND (R141, R345): it pops the n top records; f is the deepest of them. -/
def execUnwind (b : SOp) (s : State) : Host.Outcome State Fault Refusal :=
  issue (.unwind b) s fun g row =>
    let n := (g.sop s row b).toNat
    let f := g.frames.getD (n - 1) Frame.empty
    if !g.single then .trap (trapOf 0x12)
    else if n < 1 || 15 < n || g.depth ≤ n then .trap (trapOf 0x20)
    else freeThen s g f.first g.heldBlocks fun s1 g1 =>
      keep s1 (({ g1 with frames := g1.frames.drop n, wb := f.swb }).setLink s f.rpc)

/-- SWIN (R152, R345). -/
def execSwin (b : SOp) (s : State) : Host.Outcome State Fault Refusal :=
  issue (.swin b) s fun g row =>
    let w := (g.sop s row b).toNat
    if !g.single then .trap (trapOf 0x12)
    else if w % 8 ≠ 0 || w < 8 || 904 < w then .trap (trapOf 0x26)
    else keep s { g with swb := w }

end Sys2Proof.Machine
end

