-- ==== Sys2Proof/Machine/Memory.lean ====
section
/-! DEFINITION. Loads and stores (R371 to R378), with their checks (R372), the purity and race checks of an access (R220, R262),
and what every memory instruction shares. -/

namespace Sys2Proof.Machine

/-! ### Operations of a group -/

/-- A new operation of a group, newest last. -/
def Op.start (uid : Nat) (cls : Option Cls) (body : OpBody) : Op :=
  { uid := uid, cls := cls, body := body, dests := [], late := [], perf := false, done := false, deferred := false, batch := none,
    paused := none, buf := [], ord := 0, flags := noFlag, acq := 0, err := none }

/-- Put an operation in flight. -/
def State.pushOp (s : State) (uid : Nat) (cls : Option Cls) (body : OpBody) (f : Op → Op) : State :=
  let n := s.fresh
  n.2.modGroup uid fun g => { g with ops := g.ops ++ [f (Op.start n.1 cls body)] }

/-- One more operation of a class would pass the counter's maximum (R157). -/
def Group.full (g : Group) (c : Cls) : Bool := decide (c.max ≤ g.count c)

/-- Hold an instruction while its class's counter is at its maximum (R157). -/
def counted (s : State) (g : Group) (c : Cls) (r : Res) : Res := if g.full c then .hold .counter s else r

/-- DET of the group's launch (R50, R215). -/
def State.det (s : State) (g : Group) : Bool := (s.descOf g).det

/-- An acquire of the group waits for an atomic in flight: no later load reads before it (R201, R380). -/
def Group.acqPending (g : Group) : Bool := g.ops.any fun o => decide (o.acq ≠ 0) && !o.perf

/-! ### Releases and acquires by an instruction (R201, R397) -/

/-- A release by a group of a deterministic round: it waits for nothing, since the boundary performs what is deferred; at system scope it is the
boundary that makes it (R397). -/
def Group.roundRelease (g : Group) (scope : Nat) : Group :=
  if scope = 4 then { g with sysRels := g.sysRels + 1 } else { g with phases := bumpPhases scope g.phases }

/-- Release at a scope and go on: in a deterministic round at once; else once every earlier write can be performed. -/
def releaseThen (s : State) (g : Group) (scope : Nat) (go : State → Res) : Res :=
  if s.det g then go (s.modGroup g.uid fun g => g.roundRelease scope)
  else if s.releaseHeld g.uid scope then .hold .release s
  else go (s.release g.uid scope)

/-- A release, an acquire or both of a group: in a deterministic round at once; else once nothing keeps them, until which the group issues no later
memory-slot instruction (R201, R202, R385, R397, R462). -/
def State.fenceBy (s : State) (g : Group) (f : Fence) : State :=
  if s.det g then
    let s1 := if f.rel then s.modGroup g.uid fun g => g.roundRelease f.scope else s
    if f.acq then s1.acquire g.uid f.scope else s1
  else s.putFence g.uid f

/-! ### Addresses and locations (R317, R371) -/

/-- The kinds of location (R371). -/
inductive Space where
  | virt | stash | cluster
  deriving DecidableEq, Repr

/-- Bytes of a transfer (R374). -/
def szBytes (sz : Nat) : Nat := if sz ≤ 1 then 1 else if sz ≤ 3 then 2 else if sz = 4 then 4 else if sz = 5 then 8 else 16

/-- The lanes of an access and their addresses; a scalar form makes one access, named lane 0 (R372, R377). -/
def accAddrs (s : State) (g : Group) (row : Nat) (m : MOps) (sp : Space) (scalar : Bool) : List (Nat × Nat) :=
  (if scalar then [0] else lanesOf (g.row row).mask).map fun i =>
    (i, if sp = .virt then g.virtAddr s row m i else g.stashAddr s row m i)

/-- The lanes of a list of accesses. -/
def lanesMask {α : Type} (xs : List (Nat × α)) : Mask := xs.foldl (fun m x => m ||| (1#96 <<< x.1)) 0

/-- A trap that names the lowest offending lane's address, and the offending lanes. -/
def laneTrap (cause : Nat) (bad : List (Nat × Nat)) : Option TrapInfo :=
  match bad with
  | [] => none
  | b :: _ => some (trapAt cause b.2 (lanesMask bad))

/-- Bytes of a team's stash. -/
def State.stashSize (s : State) (tu : Nat) : Nat :=
  match s.team tu with
  | some t => t.stashBytes
  | none => 0

/-- The stash location of an offset or cluster stash address, where all n bytes exist (R371). -/
def State.stashLoc (s : State) (g : Group) (sp : Space) (a n : Nat) : Option (Nat × Nat) :=
  let l := if sp = .cluster then s.clusterLoc g a else some (g.team, a)
  match l with
  | some (t, o) => if o + n ≤ s.stashSize t then some (t, o) else none
  | none => none

/-- ADDR_RANGE or STASH_RANGE, and then ADDR_ALIGN (R163, R371, R372). -/
def State.addrTrap (s : State) (g : Group) (sp : Space) (n align : Nat) (as : List (Nat × Nat)) : Option TrapInfo :=
  let range := if sp = .virt then laneTrap 0x30 (as.filter fun a => decide (2 ^ 49 ≤ a.2))
    else (as.find? fun a => (s.stashLoc g sp a.2 n).isNone).map fun a => trapNum 0x36 a.2
  range.orElse fun _ => laneTrap 0x31 (as.filter fun a => decide (a.2 % align ≠ 0))

/-- Where each lane's access goes. -/
def State.locate (s : State) (g : Group) (sp : Space) (k : AccKind) (as : List (Nat × Nat)) : List (Nat × Nat × LocRes) :=
  as.map fun a => (a.1, a.2, match sp with
    | .virt => s.resolve g a.2 k
    | _ => match s.stashLoc g sp a.2 1 with
      | some (t, o) => .ok ⟨offVa o, .stash t o, stashAttr⟩
      | none => .err)

/-- Lanes that fault: lane, address, kind. -/
def faultsOf (rs : List (Nat × Nat × LocRes)) : List (Nat × Nat × Nat) := rs.filterMap fun r => match r.2.2 with
  | .fault k => some (r.1, r.2.1, k)
  | _ => none
/-- Lanes whose walk ended with an error indication. -/
def errsOf (rs : List (Nat × Nat × LocRes)) : List (Nat × Nat) := rs.filterMap fun r => match r.2.2 with
  | .err => some (r.1, r.2.1)
  | _ => none
/-- Lanes that have a location. -/
def oksOf (rs : List (Nat × Nat × LocRes)) : List (Nat × Loc) := rs.filterMap fun r => match r.2.2 with
  | .ok l => some (r.1, l)
  | _ => none

/-- A mapping of a team whose removal is not performed yet (R383). -/
def State.unmapping (s : State) (tu k : Nat) : Bool :=
  s.groups.any fun g => g.team == tu && g.ops.any fun o => !o.perf && !o.deferred && (match o.body with
    | .unmap m => m == k
    | _ => false)

/-- A location of a mapping that is being removed: the access waits (R383). -/
def State.locWaits (s : State) (l : Loc) : Bool :=
  match l.place with
  | .phys _ => false
  | .stash tu off =>
      if isOff l.va then false
      else match s.team tu with
        | none => false
        | some t => match t.mapAt off with
          | some (k, _) => s.unmapping tu k
          | none => false

/-- Every page that an access used stays translated, and the first access to a region through a NEAR translation asks its registry, before the
access is made (R170, R178); a mapped line has asked as it was filled. -/
def State.notePages (s : State) (g : Group) (ls : List (Nat × Loc)) : State :=
  ls.foldl (fun t l => match l.2.place with
    | .phys pa => if l.2.attr.near then t.touchNear g.core pa else t
    | .stash _ _ => t)
    (((ls.filterMap fun l => if isOff l.2.va then none else some (l.2.va / 4096)).eraseDups).foldl (fun t p => t.cacheTlb g (p * 4096)) s)

/-- The walk of some lane's address reads a line that the controller is retrying (R35). -/
def State.walksHeld (s : State) (ctx : BitVec 5) (as : List (Nat × Nat)) : Bool :=
  s.dram.bad.any (·.retrying) && as.any fun a => (s.tableEntries ctx a.2).any s.paHeld

/-- Steps 4 and 5 of R372 for some lanes' addresses, and what follows for the lanes that have locations and those whose walk
failed. n: bytes of an access; agent: of its faults (a stash fill's is 4, R174). -/
def locateThen (s : State) (g : Group) (sp : Space) (k : AccKind) (agent n align : Nat) (as : List (Nat × Nat))
    (go : List (Nat × Loc) → List (Nat × Nat) → Res) : Res :=
  match s.addrTrap g sp n align as with
  | some t => .trap t
  | none =>
      if sp = .virt && s.walksHeld g.ctx as then .hold .unit s
      else
      let rs := s.locate g sp k as
      match faultsOf rs with
      | f :: fs => .park f.2.2 (if f.2.2 = 6 then 4 else agent) f.2.1 (lanesMask (f :: fs))
      | [] => if (oksOf rs).any fun l => s.locWaits l.2 then .hold .unit s else go (oksOf rs) (errsOf rs)

/-! ### Purity and races of an access (R219, R220, R262) -/

/-- The group is inside a pure region of a checked context (R262). -/
def State.pureChecked (s : State) (g : Group) : Bool := (s.descOf g).purityCheck && g.region.st != .closed

/-- A read at an address is no live-in for a lane: it has absorbed the generation of the 64 KiB region there (R247, R262). -/
def Group.absorbed (g : Group) (lane va : Nat) : Bool := !isOff va && g.region.regions.contains (lane, va / 65536)

/-- The PURITY trap of memory that some lanes read or write (R262): a write always; a read of what some active lane has not absorbed. who: the lanes
whose address a lane's is. -/
def State.purityOf (s : State) (g : Group) (write excl : Bool) (who : Nat → List Nat) (ls : List (Nat × Loc)) : Option TrapInfo :=
  if !s.pureChecked g || (!write && excl) then none
  else laneTrap 0x74 (ls.flatMap fun l =>
    ((who l.1).filter fun i => write || !g.absorbed i l.2.va).map fun i => (i, l.2.va % 2 ^ 63))

/-- The PURITY trap of memory that an operation of the whole split reads: an address whose region some active lane has not absorbed (R262). -/
def State.purityRead (s : State) (g : Group) (k : Nat) (excl : Bool) (as : List Nat) : Option TrapInfo :=
  if !s.pureChecked g || excl then none
  else
    let bad := fun a : Nat => (lanesOf (g.row k).mask).filter fun i => !g.absorbed i a
    (as.find? fun a => !(bad a).isEmpty).map fun a => trapAt 0x74 a (maskOf fun i => (bad a).contains i)

/-- The PURITY trap of memory that an operation of the whole split writes (R262). -/
def State.purityWrite (s : State) (g : Group) (k a : Nat) (moves : Bool) : Option TrapInfo :=
  if s.pureChecked g && moves then some (trapAt 0x74 a (g.row k).mask) else none

/-- The physical address, at its home, of a byte of a COHERENT page (R219). -/
def State.homeAddr (s : State) (g : Group) (l : Loc) : Option Nat :=
  if l.attr.coh ≠ 2 then none
  else match l.place with
    | .phys pa => some pa
    | .stash _ _ =>
        if isOff l.va then none
        else match s.translateFor g l.va .read with
          | .ok t => some t.pa
          | _ => none

/-- The lanes of an access that race, with the writer of the lowest (R219). -/
def State.racing (s : State) (g : Group) (atomic : Bool) (ls : List (Nat × Loc)) : List (Nat × Nat × Nat × Nat) :=
  ls.filterMap fun l => match s.homeAddr g l.2 with
    | some pa => (s.raceOn g pa atomic).map fun w => (l.1, l.2.va, w.1, w.2)
    | none => none

/-- The checked writes of a store update their shadows (R219); an atomic's are updated as it writes at its home. -/
def State.noteShadows (s : State) (g : Group) (ls : List (Nat × Loc)) : State :=
  ls.foldl (fun t l => match t.homeAddr g l.2 with
    | some pa => t.shadowAt g l.2.attr.coh pa false
    | none => t) s

/-- The lanes whose address a lane's is: every active one for a scalar access (R262). -/
def accessors (g : Group) (row : Nat) (scalar : Bool) (lane : Nat) : List Nat := if scalar then lanesOf (g.row row).mask else [lane]

/-- The record of a race cannot be written yet (R35, R39, R40). -/
def State.raceHeld (s : State) (g : Group) : Bool :=
  let d := (s.ctx g.ctx).desc
  s.ownHeld g.ctx d.raceLogBase.toNat 1 || s.ownHeld g.ctx (d.raceLogBase.toNat + 32 + 32 * (s.ctx g.ctx).raceWritten.toNat) 1

/-- The purity and race checks of an access, then what follows. kind: 1 load, 2 store, 3 atomic; excl: its address operand is
excluded; scalar: one address serves every active lane. -/
def guarded (s : State) (g : Group) (row kind : Nat) (excl scalar : Bool) (ls : List (Nat × Loc)) (go : State → Res) : Res :=
  match s.purityOf g (kind != 1) excl (accessors g row scalar) ls with
  | some t => .trap t
  | none =>
      let mode := (s.descOf g).raceMode
      if mode = 0 then go s
      else
        match s.racing g (kind == 3) ls with
        | [] => go s
        | r :: rs =>
            if mode = 1 then .trap ⟨0x3A, BitVec.ofNat 32 (r.2.2.1 + r.2.2.2 <<< 8), r.2.1, lanesMask (r :: rs), 0⟩
            else if s.raceHeld g then .hold .unit s
            else go (s.raceLog g kind r.2.1 (g.row row).pc.toNat (r.2.2.1, r.2.2.2))

/-- Some location's read waits (R35, R39, R40). -/
def State.anyHeld (s : State) (ls : List (Nat × Loc)) : Bool := ls.any fun l => s.locHeld l.2

/-! ### Loads (R376) -/

/-- Extend of R376, as a number of at least 32 bits. -/
def extendSz (sz x : Nat) : Nat :=
  if sz = 1 then wrapNat 32 (readInt true 8 x) else if sz = 3 then wrapNat 32 (readInt true 16 x) else x

/-- What some lanes read of their locations, n bytes each; the lanes that failed; and the state after, with its fills and its error
records (R68, R186, R200, R373). -/
def State.readLanes (s : State) (g : Group) (ls : List (Nat × Loc)) (n : Nat) : List (Nat × Nat) × List (Nat × Nat) × State :=
  let s1 := ls.foldl (fun t l => t.prepareLoad g l.2) s
  let rs := ls.map fun l => (l.1, l.2, if s1.placeLost g.core l.2.place then none else s1.loadNat g l.2 (!isOff l.2.va) n)
  let s2 := ls.foldl (fun t l => t.touchLoad g l.2) s1
  let s3 := rs.foldl (fun t r => match r.2.2, r.2.1.place with
    | none, .phys pa => if s1.lineBad pa then t.noteBadAccess pa (some g.ctx) else t
    | _, _ => t) s2
  let s4 := if s.sram.isEmpty then s3 else ((ls.map fun l => l.2.place).eraseDups).foldl (fun t p => t.meetPlace g.core g.ctx p) s3
  (rs.filterMap fun r => r.2.2.map fun v => (r.1, v), rs.filterMap fun r => if r.2.2.isNone then some (r.1, r.2.1.va) else none, s4)

/-- The lines of some locations. -/
def linesOf (ls : List (Nat × Loc)) : List (Nat × Nat) := (ls.map fun l => l.2.place.line).eraseDups

/-- The latest state of a group. -/
def State.regroup (s : State) (g : Group) : Group := (s.group g.uid).getD g

/-- The values that lanes load become an operation of class LD with late writes (R158, R376). -/
def State.pushLoad (s : State) (g : Group) (vec : Bool) (regs : List Nat) (vals : List (Nat × Nat)) (bad : List (Nat × Nat)) : State :=
  s.pushOp g.uid (some .ld) (.load (errOf bad)) fun o =>
    { o with dests := regs.map fun r => (vec, r), late := vals.flatMap fun v => lateOf vec regs v.1 v.2 }

/-- A load (R376). -/
def loadRes (s : State) (g : Group) (row : Nat) (m : MOps) (sp : Space) (scalar : Bool) : Res :=
  let n := szBytes m.sz
  locateThen s g sp .read 0 n n (accAddrs s g row m sp scalar) fun ls errs =>
    if g.acqPending then .hold .unit s
    else counted s g .ld (if s.anyHeld ls then .hold .unit s
      else guarded s g row 1 (memoXA m.memo) scalar ls fun s1 =>
        let s2 := (s1.performAtomics g.uid (linesOf ls)).notePages g ls
        let r := s2.readLanes (s2.regroup g) ls n
        let regs := m.data.map fun d => if scalar then g.sreg d else g.vreg d
        let s3 := r.2.2.pushLoad g (!scalar) regs (r.1.map fun v => (v.1, extendSz m.sz v.2)) (errs ++ r.2.1)
        .retire (if m.mod.extractLsb' 3 2 = 1 then s3.fenceBy g ⟨(m.mod.extractLsb' 5 3).toNat, false, true⟩ else s3))

/-- LD (R375). -/
def execLd (m : MOps) (s : State) : Host.Outcome State Fault Refusal := issue (.ld m) s fun g k => loadRes s g k m .virt false
/-- LDS (R377). -/
def execLds (m : MOps) (s : State) : Host.Outcome State Fault Refusal := issue (.lds m) s fun g k => loadRes s g k m .virt true
/-- LDSH (R378). -/
def execLdsh (m : MOps) (s : State) : Host.Outcome State Fault Refusal := issue (.ldsh m) s fun g k => loadRes s g k m .stash false
/-- LDCL (R378). -/
def execLdcl (m : MOps) (s : State) : Host.Outcome State Fault Refusal := issue (.ldcl m) s fun g k => loadRes s g k m .cluster false

/-! ### Stores (R376) -/

/-- The data of each lane of a store, low word first. -/
def storeData (s : State) (g : Group) (row : Nat) (m : MOps) (scalar : Bool) (lane : Nat) : Nat :=
  (m.data.zipIdx.map fun dk =>
    (if scalar then g.readS s row dk.1 else laneOf (g.readV s dk.1) lane).toNat <<< (32 * dk.2)).sum

/-- The bytes that a lane writes at a location. -/
def writesOf (l : Loc) (n v : Nat) : List ByteWrite :=
  (bytesOf n v).map fun kb => { va := l.va + kb.1, place := (l.plus kb.1).place, attr := l.attr, val := kb.2 }

/-- Some location lies in the host window (R84). -/
def anyHost (ls : List (Nat × Loc)) : Bool := ls.any fun l => match l.2.place with
  | .phys pa => inHost pa
  | .stash _ _ => false

/-- A store (R376). -/
def storeRes (s : State) (g : Group) (row : Nat) (m : MOps) (sp : Space) (scalar : Bool) : Res :=
  let n := szBytes m.sz
  locateThen s g sp .write 1 n n (accAddrs s g row m sp scalar) fun ls errs =>
    let rel := m.mod.extractLsb' 3 2 = 2
    let scope := (m.mod.extractLsb' 5 3).toNat
    if rel && !s.det g && s.releaseHeld g.uid scope then .hold .release s
    else counted s g .st (guarded s g row 2 false scalar ls fun s1 =>
      let go := fun s2 : State =>
        let ws := ls.flatMap fun l => writesOf l.2 n (storeData s g row m scalar l.1)
        let s3 := ((s2.notePages g ls).noteShadows g ls).pushOp g.uid (some .st) (.store ws (errOf errs)) fun o =>
          { o with deferred := s.det g }
        Res.retire (if anyHost ls then s3.modTeam g.team fun t => { t with sideEffect := true } else s3)
      if rel then releaseThen s1 g scope go else go s1)

/-- ST (R375). -/
def execSt (m : MOps) (s : State) : Host.Outcome State Fault Refusal := issue (.st m) s fun g k => storeRes s g k m .virt false
/-- STS (R377). -/
def execSts (m : MOps) (s : State) : Host.Outcome State Fault Refusal := issue (.sts m) s fun g k => storeRes s g k m .virt true
/-- STSH (R378). -/
def execStsh (m : MOps) (s : State) : Host.Outcome State Fault Refusal := issue (.stsh m) s fun g k => storeRes s g k m .stash false
/-- STCL (R378). -/
def execStcl (m : MOps) (s : State) : Host.Outcome State Fault Refusal := issue (.stcl m) s fun g k => storeRes s g k m .cluster false

end Sys2Proof.Machine
end

