-- ==== Sys2Proof/Machine/Atomics.lean ====
section
/-! DEFINITION. Atomics (R379, R380, R191 to R193). -/

namespace Sys2Proof.Machine

/-- Locations in the host window, as lanes and addresses (R169). -/
def hostLanes (ls : List (Nat × Loc)) : List (Nat × Nat) := ls.filterMap fun l => match l.2.place with
  | .phys pa => if inHost pa then some (l.1, l.2.va) else none
  | .stash _ _ => none

/-- A value of one or two registers of a lane, from operand vn. -/
def Group.laneVal (s : State) (g : Group) (n w lane : Nat) : Nat :=
  if w = 64 then vpair (g.readV s n) (g.readV s (n + 1)) lane else (laneOf (g.readV s n) lane).toNat

/-- ORD of an atomic releases, or acquires (R379). -/
def atomRel (m : MOps) : Bool := m.mod.getLsbD 5
/-- ORD of an atomic acquires (R379). -/
def atomAcq (m : MOps) : Bool := m.mod.getLsbD 4

/-- ASCOPE as a scope number, 0 group to 4 system (R379). -/
def atomScope (m : MOps) : Nat :=
  match (m.mod.extractLsb' 6 2).toNat with
  | 0 => 3
  | 1 => 1
  | 2 => 2
  | _ => 4

/-- SORTED of the group's launch (R71, R217). -/
def State.sortedLaunch (s : State) (g : Group) : Bool :=
  match s.launch g.launch with
  | some l => l.ld.sorted
  | none => false

/-- The lanes of an atomic in flight. -/
def atomLanesOf (s : State) (g : Group) (m : MOps) (w : Nat) (cas : Bool) (ls : List (Nat × Loc)) : List AtomLane :=
  ls.map fun l => { lane := l.1, va := l.2.va, place := l.2.place, attr := l.2.attr, a := g.laneVal s m.d.toNat w l.1,
                    b := if cas then g.laneVal s (m.d.toNat + w / 32) w l.1 else 0 }

/-- An atomic (R380). op: AOP, 8 exchange, 9 compare and swap; ret: it returns the old value (class LD). -/
def atomRes (s : State) (g : Group) (row : Nat) (m : MOps) (op : Nat) (ret : Bool) : Res :=
  let w := if atomW64 m then 64 else 32
  let cls : Cls := if ret then .ld else .st
  locateThen s g .virt .write 2 (w / 8) (w / 8) (accAddrs s g row m .virt false) fun ls errs =>
    match laneTrap 0x32 (hostLanes ls) with
    | some t => .trap t
    | none =>
        let later := s.det g && s.sortedLaunch g
        if g.acqPending || (atomRel m && !s.det g && s.releaseHeld g.uid (atomScope m)) then .hold .release s
        else counted s g cls (guarded s g row 3 false false ls fun s1 =>
          let go := fun s2 : State =>
            let dest := if ret then (run m.d.toNat m.atomRegs).map g.vreg else []
            let s3 := (s2.notePages g ls).pushOp g.uid (some cls)
              (.atomic op (atomW64 m) dest (atomLanesOf s g m w (op == 9) ls)) fun o =>
                { o with dests := dest.map fun r => (true, r), deferred := later, ord := (m.mod.extractLsb' 4 4).toNat,
                         acq := if atomAcq m && !s.det g then atomScope m else 0 }
            Res.retire (match errOf errs with
              | some e => s3.modGroup g.uid fun h => h.due (memError e)
              | none => s3)
          if atomRel m then releaseThen s1 g (atomScope m) go else go s1)

/-- AOP (R379). -/
def aopOf (m : MOps) : Nat := (m.mod.extractLsb' 0 3).toNat

/-- ATOM (R379, R380). -/
def execAtom (m : MOps) (s : State) : Host.Outcome State Fault Refusal := issue (.atom m) s fun g k => atomRes s g k m (aopOf m) true
/-- ATOMN (R379, R380). -/
def execAtomn (m : MOps) (s : State) : Host.Outcome State Fault Refusal := issue (.atomn m) s fun g k => atomRes s g k m (aopOf m) false
/-- CAS (R379, R380). -/
def execCas (m : MOps) (s : State) : Host.Outcome State Fault Refusal := issue (.cas m) s fun g k => atomRes s g k m 9 true
/-- XCHG (R379, R380). -/
def execXchg (m : MOps) (s : State) : Host.Outcome State Fault Refusal := issue (.xchg m) s fun g k => atomRes s g k m 8 true

end Sys2Proof.Machine
end

