-- ==== Sys2Proof/Machine/Boot.lean ====
section
/-! DEFINITION. The module, its resets, its boot, its channels, its link and its pins (R20 to R43): one meaning per event. -/

namespace Sys2Proof.Machine

/-! ### Resets (R26 to R28) -/

/-- Everything behind the PHY at its reset state; the host keeps what is its own, the test port and the model's own order stay, DRAM lists
nothing (R26, log 1). VDD_CORE counts as 0.75 V again: R22 gives that as the regulator's default output and does not say what the rail does
at a reset that sends no VOUT_COMMAND (DESIGN CHOICE, log 85). -/
def State.resetPart (s : State) (b : Boot) : State :=
  { State.reset with boot := b, host := { s.host with readData := [], poisoned := false, unsupported := false },
                     sched := { s.sched with cur := none } }

/-- The module with its rails up. -/
def State.powered (s : State) : Bool := s.boot.phase != .off
/-- PERST_N is high and the clocks run. -/
def State.awake (s : State) : Bool := s.boot.phase != .off && s.boot.phase != .perstLow && s.boot.phase != .tripped
/-- Step 6 of R23 is complete: configuration responses are enabled (R24). -/
def State.configured (s : State) : Bool :=
  s.boot.phase == .training || s.boot.phase == .bootFailed || s.boot.phase == .trained

/-- BAR accesses are served: configuration has been enabled, the link is up, the part is in D0 (R24, R39). -/
def State.served (s : State) : Bool := s.configured && s.boot.linkUp && !s.boot.d3hot

/-- The test port with its controller and registers at reset, its pins at the levels they have. -/
def Tap.cleared (t : Tap) : Tap := { Tap.reset with tck := t.tck, tdi := t.tdi, tms := t.tms, trstN := t.trstN }

/-- PERST_N_ASSERT: a fundamental reset, in which the part holds no state (R26, R28); THERM_TRIP_N is released (R43). -/
def execPerstNAssert (s : State) : Host.Outcome State Fault Refusal :=
  .next (if s.powered then s.resetPart { Boot.reset with tap := s.boot.tap.cleared } else s)

/-- PERST_N_DEASSERT: the boot ROM starts, with every SRAM word zero (R23 step 4). -/
def execPerstNDeassert (s : State) : Host.Outcome State Fault Refusal :=
  .next (if s.boot.phase = .perstLow then { s with boot := { s.boot with phase := .rom } } else s)

/-- HOT_RESET: received over the link, which retrains (R26, R27). -/
def execHotReset (s : State) : Host.Outcome State Fault Refusal :=
  .next (if s.awake && s.boot.linkUp then s.resetPart { Boot.reset with phase := .rom, tap := s.boot.tap } else s)

/-- FUNCTION_LEVEL_RESET: the link stays up (R26, R27). -/
def execFunctionLevelReset (s : State) : Host.Outcome State Fault Refusal :=
  .next (if s.awake && s.boot.linkUp then s.resetPart { Boot.reset with phase := .rom, linkUp := true, tap := s.boot.tap } else s)

/-- POWER_REMOVAL: after PERST_N has gone low; all state is lost, and CLKREQ_N is no longer held low (R20, R28). -/
def execPowerRemoval (s : State) : Host.Outcome State Fault Refusal :=
  .next (if s.boot.phase = .perstLow then s.resetPart { Boot.reset with phase := .off, clkreqLow := false } else s)

/-- POWER_UP: the rails rise with PERST_N low (R20, R23 steps 1 and 2). -/
def execPowerUp (s : State) : Host.Outcome State Fault Refusal :=
  .next (if s.boot.phase = .off then s.resetPart Boot.reset else s)

/-- THERM_TRIP_N goes low, all clocks stop, state is lost (R42, R43). -/
def State.thermalTrip (s : State) : State :=
  s.resetPart { Boot.reset with phase := .tripped, thermTrip := true, thermAlert := true, tap := s.boot.tap }

/-- THERMAL_TRIP (R42, R43). -/
def execThermalTrip (sensor : BitVec 8) (s : State) : Host.Outcome State Fault Refusal :=
  .next (if s.powered && s.boot.phase != .tripped && decide (sensor.toNat < 32) then s.thermalTrip else s)

/-! ### Boot (R23, R24, R32, R190) -/

/-- FIRMWARE_LOAD_DONE: the check of the firmware; BOOT_ERR 0 to 3, and the build number where it passed (R24, R47). -/
def execFirmwareLoadDone (bootErr build : BitVec 8) (s : State) : Host.Outcome State Fault Refusal :=
  .next (if s.boot.phase = .rom then
      if bootErr = 0 then { s with boot := { s.boot with phase := .training }, dev := { s.dev with fwBuild := build } }
      else if bootErr.toNat ≤ 3 then { s with boot := { s.boot with phase := .bootFailed }, dev := { s.dev with bootErr := bootErr } }
      else s
    else s)

/-- The generation store holds zeros, and no region has been written since (R178, R190). -/
def State.zeroGenerations (s : State) : State :=
  { s with dram := { s.dram with mem := ⟨s.dram.mem.cells.filter fun c => decide (c.1 < Config.genBase)⟩ } }

/-- A channel that failed at 3.2 Gb/s is reported as lasting; R32 names no address and no sub-channel for this record, and both are 0 (DESIGN
CHOICE, log 86). -/
def State.reportChannel (s : State) (n : Nat) : State :=
  s.lastingError { cls := .lasting, unit := 4, index := n, struct := 10, sub := 0, addr := 0, detail := 0, ctx := none }

/-- CHANNEL_TRAINING_DONE: the generation store is zeroed and READY set, or the failed channels reported (R32, R47, R190). -/
def execChannelTrainingDone (failed : Word) (rate : BitVec 8) (s : State) : Host.Outcome State Fault Refusal :=
  .next (if s.boot.phase = .training && decide (rate.toNat ≤ 5) && (rate != 0 || failed == 0xFFFFFFFF#32) then
      let s0 := ({ s with boot := { s.boot with phase := .trained } }).zeroGenerations
      let s1 : State := { s0 with gov := { s0.gov with memRate := rate } }
      if failed = 0 then { s1 with dev := { s1.dev with ready := true, memRate := rate } }
      else
        let s2 : State := { s1 with dev := { s1.dev with bootErr := 4, chanFail := failed } }
        ((List.range 32).filter fun n => failed.getLsbD n).foldl State.reportChannel s2
    else s)

/-- What a configuration write that completes changes: the base of a BAR, without the bits below its size, or the size of BAR 2, 256 MiB to
128 GiB (R37; log 81). -/
def Dev.configure (d : Dev) (r : CfgReq) : Dev :=
  let aligned := fun (a : Dword) (n : Nat) => BitVec.ofNat 64 (a.toNat / 2 ^ n * 2 ^ n)
  match r with
  | .other => d
  | .base b a =>
      if b = 0 then { d with bar0 := aligned a 26 }
      else if b = 2 then { d with bar2 := aligned a d.bar2Log2 }
      else if b = 4 then { d with bar4 := aligned a 16 } else d
  | .resize n =>
      if 28 ≤ n.toNat && n.toNat ≤ 37 then { d with bar2Log2 := n.toNat, bar2 := aligned d.bar2 n.toNat } else d

/-- A configuration request arrives over the link and waits for its answer; without a link none arrives (R24, log 81). -/
def State.hostAsk (s : State) (req : CfgReq) : State :=
  if s.boot.linkUp && s.awake then { s with boot := { s.boot with asks := s.boot.asks ++ [req] } } else s

/-- CONFIGURATION_REQUEST: the oldest request is answered, with Configuration Request Retry Status until step 6 is complete (R24, R27). -/
def execConfigurationRequest (s : State) : Host.Outcome State Fault Refusal :=
  .next (if s.boot.linkUp && s.awake then
      if s.configured then
        { s with boot := { s.boot with configAnswer := .completed, asks := s.boot.asks.tail }, dev := s.dev.configure (s.boot.asks.headD .other) }
      else { s with boot := { s.boot with configAnswer := .retry, asks := s.boot.asks.tail } }
    else s)

/-! ### The link (R36, R39, R40) -/

/-- LINK_UP: the link has trained in Flit Mode, or recovered; held records are posted where the host can be reached (R36, R40, R66). -/
def execLinkUp (s : State) : Host.Outcome State Fault Refusal :=
  .next (if s.awake then ({ s with boot := { s.boot with linkUp := true } }).hostReturns else s)

/-- CORRECTABLE_LINK_ERROR: counted, and not otherwise reported (R36). -/
def execCorrectableLinkError (s : State) : Host.Outcome State Fault Refusal :=
  .next (if s.awake && s.boot.linkUp then { s with boot := { s.boot with aerCorrectable := satInc s.boot.aerCorrectable } } else s)

/-- A queue halts with the link: it keeps its cause, and nothing of it starts (R40). -/
def Queue.linkHalt (q : Queue) : Queue := if q.st = .running then { q with st := .halted } else q

/-- The byte goes to the host. -/
def Place.isHost : Place → Bool
  | .phys pa => inHost pa
  | .stash _ _ => false

/-- Writes to the host that have not been sent are discarded (R40). -/
def Op.dropHost (o : Op) : Op :=
  match o.body with
  | .store ws e => if o.perf then o else { o with body := .store (ws.filter fun w => !w.place.isHost) e }
  | _ => o

/-- UNCORRECTABLE_LINK_ERROR, with the bus address concerned (R70): reported through Advanced Error Reporting; after a fatal one, or a link-down, every
queue halts, requests to the host stop, unsent writes are discarded (R40), and requests over the link that wait for an answer are gone with it. -/
def execUncorrectableLinkError (err : LinkErr) (s : State) : Host.Outcome State Fault Refusal :=
  .next (if !(s.awake && s.boot.linkUp) then s
    else
      let s1 := s.logError { cls := .link, unit := 6, index := 0, struct := 0, sub := 0, addr := 0, detail := err.bus.toNat, ctx := none }
      if !err.fatal then { s1 with boot := { s1.boot with aerNonfatal := satInc s1.boot.aerNonfatal } }
      else { s1 with boot := { s1.boot with aerFatal := satInc s1.boot.aerFatal, linkUp := false, linkDead := true, asks := [] }
                     queues := s1.queues.map Queue.linkHalt
                     groups := s1.groups.map fun g => { g with ops := g.ops.map Op.dropHost } })

/-- D3HOT_ENTRY: all state is kept, and no request goes to the host (R39). -/
def execD3hotEntry (s : State) : Host.Outcome State Fault Refusal :=
  .next (if s.configured && s.boot.linkUp then { s with boot := { s.boot with d3hot := true } } else s)

/-- D0_RETURN: held records are posted in order; waiting accesses proceed as their own events come (R39). -/
def execD0Return (s : State) : Host.Outcome State Fault Refusal :=
  .next (if s.boot.d3hot then ({ s with boot := { s.boot with d3hot := false } }).hostReturns else s)

/-! ### Pins (R20, R22) -/

/-- REGULATOR_ALERT: STATUS_WORD is read, logged and posted; nothing else (R22). -/
def execRegulatorAlert (statusWord : BitVec 16) (s : State) : Host.Outcome State Fault Refusal :=
  .next (if s.boot.phase = .training || s.boot.phase = .trained then
      (({ s with boot := { s.boot with pmbAlert := statusWord } }).logError
        { cls := .regulator, unit := 5, index := 0, struct := 0, sub := 0, addr := 0, detail := statusWord.toNat, ctx := none }).postDev
        0x13 0 statusWord.toNat 0
    else s)

/-- The next state of a TAP controller on a rising edge of TCK (R20; log 22). -/
def TapState.next (t : TapState) (tms : Bool) : TapState :=
  match t, tms with
  | .testLogicReset, true => .testLogicReset
  | .testLogicReset, false => .runTestIdle
  | .runTestIdle, true => .selectDr
  | .runTestIdle, false => .runTestIdle
  | .selectDr, true => .selectIr
  | .selectDr, false => .captureDr
  | .captureDr, true => .exit1Dr
  | .captureDr, false => .shiftDr
  | .shiftDr, true => .exit1Dr
  | .shiftDr, false => .shiftDr
  | .exit1Dr, true => .updateDr
  | .exit1Dr, false => .pauseDr
  | .pauseDr, true => .exit2Dr
  | .pauseDr, false => .pauseDr
  | .exit2Dr, true => .updateDr
  | .exit2Dr, false => .shiftDr
  | .updateDr, true => .selectDr
  | .updateDr, false => .runTestIdle
  | .selectIr, true => .testLogicReset
  | .selectIr, false => .captureIr
  | .captureIr, true => .exit1Ir
  | .captureIr, false => .shiftIr
  | .shiftIr, true => .exit1Ir
  | .shiftIr, false => .shiftIr
  | .exit1Ir, true => .updateIr
  | .exit1Ir, false => .pauseIr
  | .pauseIr, true => .exit2Ir
  | .pauseIr, false => .pauseIr
  | .exit2Ir, true => .updateIr
  | .exit2Ir, false => .shiftIr
  | .updateIr, true => .selectDr
  | .updateIr, false => .runTestIdle

/-- The instruction in force selects the boundary-scan register: EXTEST 0000 or SAMPLE/PRELOAD 0001; BYPASS otherwise (log 22). -/
def Tap.scans (t : Tap) : Bool := !(t.inst.drop 1).any id

/-- The levels of the signal balls in the order of R20; those that the state does not hold are free (log 22). -/
def State.balls (s : State) : List Bool :=
  (List.range Config.scanCells).map fun i =>
    if i = 66 then s.boot.phase != .off && s.boot.phase != .perstLow
    else if i = 67 then !s.boot.clkreqLow
    else if i = 68 then !s.boot.thermAlert
    else if i = 69 then !s.boot.thermTrip else s.freeBit .other i

/-- A rising edge of TCK: the registers capture and shift, and the controller moves (log 22). -/
def Tap.rise (t : Tap) (balls : List Bool) : Tap :=
  let u := match t.st with
    | .captureIr => { t with ir := true :: List.replicate (Config.irBits - 1) false }
    | .shiftIr => { t with ir := t.ir.drop 1 ++ [t.tdi] }
    | .captureDr => { t with dr := if t.scans then balls else [false] }
    | .shiftDr => { t with dr := t.dr.drop 1 ++ [t.tdi] }
    | _ => t
  { u with st := t.st.next t.tms }

/-- A falling edge of TCK: TDO moves, and the registers update (log 22). -/
def Tap.fall (t : Tap) : Tap :=
  match t.st with
  | .shiftIr => { t with tdo := t.ir.head? }
  | .shiftDr => { t with tdo := t.dr.head? }
  | .updateIr => { t with tdo := none, inst := t.ir }
  | .updateDr => { t with tdo := none, cells := if t.scans then t.dr else t.cells }
  | _ => { t with tdo := none }

/-- New levels on the test pins: TRST_N low resets the controller, and Test-Logic-Reset selects BYPASS (log 22). -/
def Tap.drive (t : Tap) (tck tdi tms trstN : Bool) (balls : List Bool) : Tap :=
  let u : Tap := { t with tck := tck, tdi := tdi, tms := tms, trstN := trstN }
  let v := if !trstN then u.cleared else if tck && !t.tck then u.rise balls else if t.tck && !tck then u.fall else u
  if v.st = .testLogicReset then { v with inst := List.replicate Config.irBits true } else v

/-- BOUNDARY_SCAN: levels on the test pins (R20; log 22); with PERST_N low nothing but the levels is held (R28). -/
def execBoundaryScan (tck tdi tms trstN : Bool) (s : State) : Host.Outcome State Fault Refusal :=
  .next (if !s.powered then s
    else
      let t := s.boot.tap.drive tck tdi tms trstN s.balls
      { s with boot := { s.boot with tap := if s.boot.phase = .perstLow then t.cleared else t } })

/-! ### Channels (R33 to R35) -/

/-- Change one channel. -/
def State.modChan (s : State) (n : Nat) (f : Chan → Chan) : State := { s with dram := { s.dram with chans := s.dram.chans.modify n f } }

/-- WRITE_TIMING_RECENTRE: the channel's requests wait, and nothing else changes (R33). -/
def execWriteTimingRecentre (chan : BitVec 5) (s : State) : Host.Outcome State Fault Refusal :=
  .next (if s.boot.phase = .trained then s.modChan chan.toNat fun c => { c with recentres := c.recentres + 1 } else s)
/-- REFRESH: one interval's refresh, done twice while the package has reported more than 85 °C (R33, R42). It is of all banks or of one; the spec gives
the two the same effect, and the channel counts both. -/
def execRefresh (chan : BitVec 5) (_perBank : Bool) (s : State) : Host.Outcome State Fault Refusal :=
  .next (if s.boot.phase = .trained then s.modChan chan.toNat fun c =>
    if c.selfRefresh then c else { c with refreshes := c.refreshes + if c.hot then 2 else 1 } else s)
/-- SELF_REFRESH_ENTRY: the channel's idle timer ends; a channel that has served a request since it started starts it anew (R34). -/
def execSelfRefreshEntry (chan : BitVec 5) (s : State) : Host.Outcome State Fault Refusal :=
  .next (if s.boot.phase = .trained then s.modChan chan.toNat fun c =>
    if c.used then { c with used := false } else { c with selfRefresh := true } else s)
/-- SELF_REFRESH_EXIT (R34). -/
def execSelfRefreshExit (chan : BitVec 5) (s : State) : Host.Outcome State Fault Refusal :=
  .next (if s.boot.phase = .trained then s.modChan chan.toNat fun c => { c with selfRefresh := false, used := true } else s)

/-- DRAM_READ_COMPLETE: data that cannot be corrected make the controller retry the read (R35). -/
def execDramReadComplete (pa : BitVec 48) (correctable : Bool) (s : State) : Host.Outcome State Fault Refusal :=
  let line := lineOf pa.toNat
  .next (if s.boot.phase = .trained && inDram pa.toNat && !correctable && !s.dram.bad.any (fun b => b.line == line) then
      { s with dram := { s.dram with bad := { line := line, retrying := true, lasting := false } :: s.dram.bad } }
    else s)

/-- DRAM_READ_RETRY: correct data make the error transient; else it is lasting, and accesses to the line end with an error indication
(R35). -/
def execDramReadRetry (pa : BitVec 48) (correct : Bool) (s : State) : Host.Outcome State Fault Refusal :=
  let line := lineOf pa.toNat
  .next (if !s.dram.bad.any (fun b => b.line == line && b.retrying) then s
    else if correct then
      ({ s with dram := { s.dram with bad := s.dram.bad.filter fun b => b.line != line } }).transientError (lineError pa.toNat none)
    else ({ s with dram := { s.dram with bad := s.dram.bad.map fun b : BadLine => (if b.line = line then { b with retrying := false, lasting := true } else b) } }).lastingError
      (lineError pa.toNat none))

end Sys2Proof.Machine
end

