-- ==== Sys2Proof/Machine/Astc.lean ====
section
/-! DEFINITION. The two decodings of texels that R306 takes from other standards: the sRGB transfer function of IEC 61966-2-1, and the LDR profile of
ASTC of the Khronos data format specification. PRESUMED throughout (log 13): the spec names the standards and does not repeat them. -/

namespace Sys2Proof.Machine

/-! ### sRGB -/

/-- The greatest number whose fifth power is not above n, bit by bit: r holds the bits above the k that are left. -/
def fifthRoot (n : Nat) : Nat → Nat → Nat
  | 0, r => r
  | k + 1, r => fifthRoot n k (if (r + 2 ^ k) ^ 5 ≤ n then r + 2 ^ k else r)

/-- The linear value of an sRGB code of 8 bits: x / 12.92 up to 0.04045, and ((x + 0.055) / 1.055)^2.4 above, where an irrational value is given
to 2^-160. -/
def srgbVal (c : Nat) : FVal :=
  if c * 100000 ≤ 4045 * 255 then .fin false (c * 100) (255 * 1292)
  else .fin false (fifthRoot ((1000 * c + 14025) ^ 12 * 2 ^ 800 / 269025 ^ 12) 161 0) (2 ^ 160)

/-! ### ASTC: sequences of small integers -/

/-- How a range of integers is stored: in bits alone, or with a trit (kind 1) or a quint (kind 2) each. -/
structure IseRange where
  kind : Nat
  bits : Nat

/-- Bits that n integers of a range take. -/
def IseRange.size (r : IseRange) (n : Nat) : Nat :=
  n * r.bits + (if r.kind = 1 then (8 * n + 4) / 5 else if r.kind = 2 then (7 * n + 2) / 3 else 0)

/-- Five trits from their 8 bits. -/
def tritsOf (t : Nat) : List Nat :=
  let b := fun hi lo : Nat => bitsOf t hi lo
  let top := b 4 2 == 7
  let c := if top then b 7 5 * 4 + b 1 0 else b 4 0
  let t4 := if top then 2 else if b 6 5 = 3 then 2 else b 7 7
  let t3 := if top then 2 else if b 6 5 = 3 then b 7 7 else b 6 5
  let k := fun hi lo : Nat => bitsOf c hi lo
  let low :=
    if k 1 0 = 3 then [k 3 3 * 2 + (k 2 2) * (1 - k 3 3), k 4 4, 2]
    else if k 3 2 = 3 then [k 1 0, 2, 2]
    else [k 1 1 * 2 + (k 0 0) * (1 - k 1 1), k 3 2, k 4 4]
  low ++ [t3, t4]

/-- Three quints from their 7 bits. -/
def quintsOf (q : Nat) : List Nat :=
  let b := fun hi lo : Nat => bitsOf q hi lo
  if b 2 1 = 3 && b 6 5 = 0 then [4, 4, b 0 0 * 4 + (b 4 4) * (1 - b 0 0) * 2 + (b 3 3) * (1 - b 0 0)]
  else
    let c := if b 2 1 = 3 then b 4 3 * 8 + (3 - b 6 5) * 2 + b 0 0 else b 4 0
    let q2 := if b 2 1 = 3 then 4 else b 6 5
    if c % 8 = 5 then [c / 8, 4, q2] else [c % 8, c / 8, q2]

/-- Integer i of a sequence: its trit or quint, and its bits. -/
def IseRange.get (r : IseRange) (v i : Nat) : Nat × Nat :=
  let b := r.bits
  let at_ := fun o n : Nat => v >>> o % 2 ^ n
  match r.kind with
  | 1 =>
      let o := i / 5 * (5 * b + 8)
      let t := at_ (o + b) 2 + at_ (o + 2 * b + 2) 2 * 4 + at_ (o + 3 * b + 4) 1 * 16 + at_ (o + 4 * b + 5) 2 * 32 + at_ (o + 5 * b + 7) 1 * 128
      ((tritsOf t).getD (i % 5) 0, at_ (o + i % 5 * b + [0, 2, 4, 5, 7].getD (i % 5) 0) b)
  | 2 =>
      let o := i / 3 * (3 * b + 7)
      let q := at_ (o + b) 3 + at_ (o + 2 * b + 3) 2 * 8 + at_ (o + 3 * b + 5) 2 * 32
      ((quintsOf q).getD (i % 3) 0, at_ (o + i % 3 * b + [0, 3, 5].getD (i % 3) 0) b)
  | _ => (0, at_ (i * b) b)

/-- b bits repeated to n. -/
def repeatBits (b n m : Nat) : Nat :=
  let k := (n + b - 1) / b
  (List.range k).foldl (fun (x : Nat) j => x + m <<< (b * j)) 0 >>> (k * b - n)

/-- A colour value of 8 bits from an integer of a range. -/
def IseRange.colour (r : IseRange) (x : Nat × Nat) : Nat :=
  if r.kind = 0 then repeatBits r.bits 8 x.2
  else
    let a := if x.2 % 2 = 1 then 511 else 0
    let m := x.2 / 2
    let b := if r.kind = 1 then [0, m * 278, m <<< 7 + m <<< 2 + m, m <<< 6 + m, m <<< 5 + m >>> 2, m <<< 4 + m >>> 4].getD (r.bits - 1) 0
      else [0, m * 268, m <<< 7 + m <<< 1 + m >>> 1, m <<< 6 + m >>> 1, m <<< 5 + m >>> 3].getD (r.bits - 1) 0
    let c := if r.kind = 1 then [204, 93, 44, 22, 11, 5].getD (r.bits - 1) 0 else [113, 54, 26, 13, 6].getD (r.bits - 1) 0
    (a &&& 0x80) ||| (((x.1 * c + b) ^^^ a) >>> 2)

/-- A weight from 0 to 64 from an integer of a range. -/
def IseRange.weight (r : IseRange) (x : Nat × Nat) : Nat :=
  let w :=
    if r.kind = 0 then repeatBits r.bits 6 x.2
    else if r.bits = 0 then (if r.kind = 1 then [0, 32, 63].getD x.1 0 else [0, 16, 32, 47, 63].getD x.1 0)
    else
      let a := if x.2 % 2 = 1 then 127 else 0
      let m := x.2 / 2
      let b := if r.kind = 1 then [0, m * 69, m <<< 5 + m].getD (r.bits - 1) 0 else [0, m * 66].getD (r.bits - 1) 0
      let c := if r.kind = 1 then [50, 23, 11].getD (r.bits - 1) 0 else [28, 13].getD (r.bits - 1) 0
      (a &&& 0x20) ||| (((x.1 * c + b) ^^^ a) >>> 2)
  if 32 < w then w + 1 else w

/-- The ranges of weights. -/
def weightRanges : List IseRange :=
  [⟨0, 1⟩, ⟨1, 0⟩, ⟨0, 2⟩, ⟨2, 0⟩, ⟨1, 1⟩, ⟨0, 3⟩, ⟨2, 1⟩, ⟨1, 2⟩, ⟨0, 4⟩, ⟨2, 2⟩, ⟨1, 3⟩, ⟨0, 5⟩]
/-- The ranges of colour values, ascending. -/
def colourRanges : List IseRange :=
  [⟨1, 1⟩, ⟨0, 3⟩, ⟨2, 1⟩, ⟨1, 2⟩, ⟨0, 4⟩, ⟨2, 2⟩, ⟨1, 3⟩, ⟨0, 5⟩, ⟨2, 3⟩, ⟨1, 4⟩, ⟨0, 6⟩, ⟨2, 4⟩, ⟨1, 5⟩, ⟨0, 7⟩, ⟨2, 5⟩, ⟨1, 6⟩, ⟨0, 8⟩]

/-! ### ASTC: the block mode -/

/-- Width and height of the weight grid, the number of the weights' range, and whether there are two planes; none where the mode is reserved. -/
structure AstcMode where
  w : Nat
  h : Nat
  range : Nat
  dual : Bool

/-- The mode of the low 11 bits of a block. -/
def astcMode (m : Nat) : Option AstcMode :=
  let b := fun hi lo : Nat => bitsOf m hi lo
  let x := b 6 5
  let y := b 8 7
  let mk := fun (r : Nat) (wh : Nat × Nat) => some (⟨wh.1, wh.2, 6 * b 9 9 + r - 2, b 10 10 == 1⟩ : AstcMode)
  if b 1 0 ≠ 0 then
    mk (b 4 4 + 2 * b 1 0) (match b 3 2 with
      | 0 => (y + 4, x + 2)
      | 1 => (y + 8, x + 2)
      | 2 => (x + 2, y + 8)
      | _ => if b 8 8 = 0 then (x + 2, b 7 7 + 6) else (b 7 7 + 2, x + 2))
  else if b 3 2 = 0 then none
  else
    let r := b 4 4 + 2 * b 3 2
    match y with
    | 0 => mk r (12, x + 2)
    | 1 => mk r (x + 2, 12)
    | 2 => some ⟨x + 6, b 10 9 + 6, r - 2, false⟩
    | _ => if x = 0 then mk r (6, 10) else if x = 1 then mk r (10, 6) else none

/-! ### ASTC: partitions -/

/-- The hash of a partition's seed, in 32 bits. -/
def astcHash (p : Nat) : Nat :=
  let m := 2 ^ 32
  let p := p ^^^ (p >>> 15)
  let p := (p + m * 2 ^ 17 - p <<< 17) % m
  let p := (p + p <<< 7) % m
  let p := (p + p <<< 4) % m
  let p := p ^^^ (p >>> 5)
  let p := (p + p <<< 16) % m
  let p := p ^^^ (p >>> 7)
  let p := p ^^^ (p >>> 3)
  let p := (p ^^^ (p <<< 6)) % m
  p ^^^ (p >>> 17)

/-- The partition of texel (x, y) of a block in n parts; small: fewer than 31 texels. -/
def astcPart (seed x y n : Nat) (small : Bool) : Nat :=
  if n < 2 then 0
  else
    let x := if small then 2 * x else x
    let y := if small then 2 * y else y
    let r := astcHash (seed + (n - 1) * 1024)
    let sq := fun k : Nat => let v := r >>> k % 16; v * v
    let a := if seed.testBit 1 then 4 else 5
    let b := if n = 3 then 6 else 5
    let s1 := if seed.testBit 0 then a else b
    let s2 := if seed.testBit 0 then b else a
    let at_ := fun i j k : Nat => ((sq i >>> s1) * x + (sq j >>> s2) * y + r >>> k) % 64
    let v0 := at_ 0 4 14
    let v1 := at_ 8 12 10
    let v2 := if n < 3 then 0 else at_ 16 20 6
    let v3 := if n < 4 then 0 else at_ 24 28 2
    if v1 ≤ v0 && v2 ≤ v0 && v3 ≤ v0 then 0 else if v2 ≤ v1 && v3 ≤ v1 then 1 else if v3 ≤ v2 then 2 else 3

/-! ### ASTC: endpoints -/

/-- A number held to 0 to 255. -/
def unorm8 (x : Int) : Nat := (min (max x 0) 255).toNat

/-- A base and an offset: the base takes the offset's top bit, and the offset is signed in 6 bits. -/
def transferBit (offset base : Nat) : Int × Int :=
  let o := offset / 2 % 64
  (if 32 ≤ o then (o : Int) - 64 else o, (base / 2 + offset / 128 * 128 : Nat))

/-- Red and green drawn towards blue. -/
def blueContract (c : List Int) : List Int :=
  [(c.getD 0 0 + c.getD 2 0) / 2, (c.getD 1 0 + c.getD 2 0) / 2, c.getD 2 0, c.getD 3 0]

/-- The two endpoints of an LDR mode, from its values; none: an HDR mode. -/
def astcEnds (mode : Nat) (v : List Nat) : Option (List Nat × List Nat) :=
  let u := fun k : Nat => (v.getD k 0 : Int)
  let ends := fun a b : List Int => some (a.map unorm8, b.map unorm8)
  let pair := fun (base : List Int) (off : List Int) =>
    let sum := (base.zip off).map fun x => x.1 + x.2
    if 0 ≤ off.getD 0 0 + off.getD 1 0 + off.getD 2 0 then ends base sum else ends (blueContract sum) (blueContract base)
  let t := fun k : Nat => transferBit (v.getD (k + 1) 0) (v.getD k 0)
  let direct := fun a b : List Int =>
    if a.getD 0 0 + a.getD 1 0 + a.getD 2 0 ≤ b.getD 0 0 + b.getD 1 0 + b.getD 2 0 then ends a b else ends (blueContract b) (blueContract a)
  let scaled := fun k : Nat => (v.getD k 0 * v.getD 3 0 / 256 : Int)
  match mode with
  | 0 => ends [u 0, u 0, u 0, 255] [u 1, u 1, u 1, 255]
  | 1 =>
      let l0 : Int := (v.getD 0 0 / 4 + v.getD 1 0 / 64 * 64 : Nat)
      let l1 := l0 + (v.getD 1 0 % 64 : Nat)
      ends [l0, l0, l0, 255] [l1, l1, l1, 255]
  | 4 => ends [u 0, u 0, u 0, u 2] [u 1, u 1, u 1, u 3]
  | 5 =>
      let l := t 0
      let a := t 2
      ends [l.2, l.2, l.2, a.2] [l.2 + l.1, l.2 + l.1, l.2 + l.1, a.2 + a.1]
  | 6 => ends [scaled 0, scaled 1, scaled 2, 255] [u 0, u 1, u 2, 255]
  | 8 => direct [u 0, u 2, u 4, 255] [u 1, u 3, u 5, 255]
  | 9 => pair [(t 0).2, (t 2).2, (t 4).2, 255] [(t 0).1, (t 2).1, (t 4).1, 0]
  | 10 => ends [scaled 0, scaled 1, scaled 2, u 4] [u 0, u 1, u 2, u 5]
  | 12 => direct [u 0, u 2, u 4, u 6] [u 1, u 3, u 5, u 7]
  | 13 => pair [(t 0).2, (t 2).2, (t 4).2, (t 6).2] [(t 0).1, (t 2).1, (t 4).1, (t 6).1]
  | _ => none

/-! ### ASTC: a texel -/

/-- A block's bits from the top down. -/
def reversed128 (v : Nat) : Nat := (List.range 128).foldl (fun (x : Nat) k => 2 * x + (v.testBit k).toNat) 0

/-- The weight of texel (x, y) of a block of w by h texels in a plane of a grid's weights. -/
def gridWeight (m : AstcMode) (w h x y : Nat) (at_ : Nat → Nat) : Nat :=
  let gs := ((1024 + w / 2) / (w - 1) * x * (m.w - 1) + 32) >>> 6
  let gt := ((1024 + h / 2) / (h - 1) * y * (m.h - 1) + 32) >>> 6
  let fs := gs % 16
  let ft := gt % 16
  let k := gs / 16 + gt / 16 * m.w
  let w11 := (fs * ft + 8) >>> 4
  (at_ k * (16 + w11 - fs - ft) + at_ (k + 1) * (fs - w11) + at_ (k + m.w) * (ft - w11) + at_ (k + m.w + 1) * w11 + 8) >>> 4

/-- The four channels of a texel in 16 bits, or none, which is the error colour. -/
def astcChannels (srgb : Bool) (w h v pos : Nat) : Option (List Nat) :=
  if v % 512 = 0x1FC then
    let ext := [bitsOf v 24 12, bitsOf v 37 25, bitsOf v 50 38, bitsOf v 63 51]
    let e := fun k : Nat => ext.getD k 0
    if bitsOf v 11 9 = 6 && (ext.all (· == 8191) || (decide (e 0 < e 1) && decide (e 2 < e 3))) then
      some ((List.range 4).map fun k => bitsOf v (79 + 16 * k) (64 + 16 * k))
    else none
  else (astcMode (v % 2048)).bind fun m =>
    let planes := if m.dual then 2 else 1
    let n := m.w * m.h * planes
    let wr := weightRanges.getD m.range ⟨0, 0⟩
    let wbits := wr.size n
    let parts := bitsOf v 12 11 + 1
    let sel := bitsOf v 24 23
    let extra := if parts = 1 || sel = 0 then 0 else 3 * parts - 4
    let start := if parts = 1 then 17 else 29
    let used := start + wbits + extra + (if m.dual then 2 else 0)
    let enc := bitsOf v 28 23 + 64 * (v >>> (128 - wbits - extra) % 2 ^ extra)
    let modes := (List.range parts).map fun i =>
      if parts = 1 then bitsOf v 16 13
      else if sel = 0 then bitsOf v 28 25
      else 4 * (enc >>> (2 + i) % 2 + sel - 1) + enc >>> (2 + parts + 2 * i) % 4
    let count := fun mode : Nat => 2 * (mode / 4) + 2
    let total := (modes.map count).sum
    if w < m.w || h < m.h || 64 < n || wbits < 24 || 96 < wbits || (m.dual && parts == 4) || 18 < total || 128 < used then none
    else (colourRanges.reverse.find? fun r => decide (r.size total ≤ 128 - used)).bind fun cr =>
      let cs := v >>> start % 2 ^ cr.size total
      let vals := (List.range total).map fun i => cr.colour (cr.get cs i)
      let p := astcPart (bitsOf v 22 13) (pos % w) (pos / w) parts (decide (w * h < 31))
      if modes.any fun mode => (astcEnds mode []).isNone then none
      else (astcEnds (modes.getD p 0) (vals.drop ((modes.take p).map count).sum)).map fun e =>
        let ws := reversed128 v % 2 ^ wbits
        let plane := fun k : Nat => gridWeight m w h (pos % w) (pos / w) fun i => if n ≤ i * planes + k then 0 else wr.weight (wr.get ws (i * planes + k))
        let second := v >>> (128 - wbits - extra - 2) % 4
        (List.range 4).map fun k =>
          let i := plane (if m.dual && k == second then 1 else 0)
          let wide := fun x : Nat => x * 256 + (if srgb && k < 3 then 0x80 else x)
          (wide (e.1.getD k 0) * (64 - i) + wide (e.2.getD k 0) * i + 32) / 64

/-- A channel of 16 bits as a value: an FP16, rounded towards zero. -/
def astcVal (c : Nat) : FVal := if c = 65535 then .fin false 1 1 else fp16.dec (fp16.roundTo .rz false c 65536).1

/-- The four channels of texel pos of an ASTC block of w by h texels; opaque magenta where the LDR profile does not permit the block. -/
def astcTexel (srgb : Bool) (w h v pos : Nat) : List FVal :=
  match astcChannels srgb w h v pos with
  | none => [.fin false 1 1, .fin false 0 1, .fin false 1 1, .fin false 1 1]
  | some cs => cs.zipIdx.map fun ck => if srgb && ck.2 < 3 then srgbVal (ck.1 / 256) else astcVal ck.1

end Sys2Proof.Machine
end

