-- ==== Sys2Proof/Machine/StashCache.lean ====
section
/-! DEFINITION. Stash mappings, cache maintenance, releases, acquires and phases (R381 to R385). -/

namespace Sys2Proof.Machine

/-! ### Ranges of pages (R382, R384) -/

/-- The addresses of the 4 KiB pages of a range, the first one at its own address. -/
def pagesOf (lo hi : Nat) : List Nat :=
  if hi ≤ lo then [] else (List.range ((hi - 1) / 4096 - lo / 4096 + 1)).map fun k => max lo ((lo / 4096 + k) * 4096)

/-- The first page of a range that faults for a read, with its kind. -/
def State.pageFaultIn (s : State) (g : Group) (uncached : Bool) (ps : List Nat) : Option (Nat × Nat) :=
  ps.findSome? fun va => match s.translateFor g va .read with
    | .fault k => some (va, k)
    | .ok t => if uncached && t.attr.cache == 2 then some (va, 6) else none
    | .err => none

/-- Pages whose walk ends with an error indication: the address of the first (R373). -/
def State.pageErrIn (s : State) (g : Group) (ps : List Nat) : Option Nat :=
  ps.find? fun va => match s.translateFor g va .read with
    | .err => true
    | _ => false

/-- The pages of a range stay translated (R170). -/
def State.noteTlbs (s : State) (g : Group) (ps : List Nat) : State := ps.foldl (fun t va => t.cacheTlb g va) s

/-- MEM_ERROR becomes due for a walk that failed. -/
def State.dueErr (s : State) (uid : Nat) (e : Option Nat) : State :=
  match e with
  | some va => s.modGroup uid fun g => g.due (memError { va := va, lanes := 0 })
  | none => s

/-- Two ranges overlap. -/
def overlap (a n b m : Nat) : Bool := decide (a < b + m) && decide (b < a + n)

/-! ### STASH.MAP and STASH.UNMAP -/

/-- Mapping m of the group's team is in use: it is installed and its removal has not issued, or a deterministic round will
install it. -/
def State.mapUsed (s : State) (t : Team) (m : Nat) : Bool :=
  ((t.maps.getD m none).isSome && !s.unmapping t.uid m)
    || s.groups.any fun g => g.team == t.uid && g.ops.any fun o => !o.perf && (match o.body with
      | .map k _ _ _ => k == m
      | _ => false)

/-- Ranges overlap those of a mapping; going: one whose removal is under way, else one that is live, or that a deterministic round will
install (R382, R383, R397). -/
def State.mapClash (s : State) (t : Team) (going : Bool) (va off len : Nat) : Bool :=
  (t.maps.zipIdx.any fun mk => s.unmapping t.uid mk.2 == going && (match mk.1 with
    | some m => overlap va len m.va m.len || overlap off len m.off m.len
    | none => false))
    || !going && s.groups.any fun g => g.team == t.uid && g.ops.any fun o => !o.perf && (match o.body with
      | .map _ va' off' len' => overlap va len va' len' || overlap off len off' len'
      | _ => false)

/-- STASH.MAP (R382). -/
def execStashMap (b a : R7) (m : BitVec 3) (s : State) : Host.Outcome State Fault Refusal :=
  issue (.stashMap b a m) s fun g k =>
    let va := g.spair s k a.toNat
    let off := (g.readS s k b.toNat).toNat
    let len := (g.readS s k (b.toNat + 1)).toNat
    let mapTrap := Res.trap (trapNum 0x37 m.toNat)
    match s.team g.team with
    | none => mapTrap
    | some t =>
        if s.mapUsed t m.toNat then mapTrap
        else if va % 128 ≠ 0 || off % 128 ≠ 0 || len % 128 ≠ 0 || len = 0 then mapTrap
        else if t.stashBytes < off + len then .trap (trapNum 0x36 off)
        else if 2 ^ 49 < va + len then .trap (trapAt 0x30 va 0)
        else if s.mapClash t false va off len then mapTrap
        else if s.walksHeld g.ctx ((pagesOf va (va + len)).map fun a => (0, a)) then .hold .unit s
        else match s.pageFaultIn g true (pagesOf va (va + len)) with
          | some f => .park f.2 4 f.1 0
          | none =>
              if s.unmapping t.uid m.toNat || s.mapClash t true va off len then .hold .unit s
              else
                let s1 := (s.noteTlbs g (pagesOf va (va + len))).dueErr g.uid (s.pageErrIn g (pagesOf va (va + len)))
                if s.det g then .retire (s1.pushOp g.uid none (.map m.toNat va off len) fun o => { o with deferred := true })
                else .retire ((s1.dropRange g va (va + len)).installMap t.uid m.toNat va off len)

/-- STASH.UNMAP (R383). -/
def execStashUnmap (m : BitVec 3) (s : State) : Host.Outcome State Fault Refusal :=
  issue (.stashUnmap m) s fun g _ =>
    match s.team g.team with
    | none => .trap (trapNum 0x37 m.toNat)
    | some t =>
        if (t.maps.getD m.toNat none).isNone || s.unmapping t.uid m.toNat then .trap (trapNum 0x37 m.toNat)
        else counted s g .st (.retire (s.pushOp g.uid (some .st) (.unmap m.toNat) fun o => { o with deferred := s.det g }))

/-! ### CWB and CINV (R384) -/

/-- CWB or CINV. -/
def cleanRes (s : State) (g : Group) (k : Nat) (b a : R7) (inval : Bool) : Res :=
  let va := g.spair s k a.toNat
  let len := (g.readS s k b.toNat).toNat
  if 2 ^ 24 < len then .trap (trapOf 0x38)
  else if 2 ^ 49 ≤ va || 2 ^ 49 < va + len then .trap (trapAt 0x30 va 0)
  else if s.walksHeld g.ctx ((pagesOf va (va + len)).map fun a => (0, a)) then .hold .unit s
  else match s.pageFaultIn g false (pagesOf va (va + len)) with
    | some f => .park f.2 (if inval then 0 else 1) f.1 0
    | none => counted s g .st
        (.retire (((s.noteTlbs g (pagesOf va (va + len))).dueErr g.uid (s.pageErrIn g (pagesOf va (va + len)))).pushOp g.uid (some .st) (.clean va (va + len) inval)
          fun o => { o with deferred := s.det g }))

/-- CWB (R384). -/
def execCwb (b a : R7) (s : State) : Host.Outcome State Fault Refusal := issue (.cwb b a) s fun g k => cleanRes s g k b a false
/-- CINV (R384). -/
def execCinv (b a : R7) (s : State) : Host.Outcome State Fault Refusal := issue (.cinv b a) s fun g k => cleanRes s g k b a true

/-! ### REL, ACQ and PHASE (R201, R202, R385) -/

/-- REL (R385). -/
def execRel (scope : BitVec 3) (s : State) : Host.Outcome State Fault Refusal :=
  issue (.rel scope) s fun g _ => .retire (s.fenceBy g ⟨scope.toNat, true, false⟩)
/-- ACQ (R385). -/
def execAcq (scope : BitVec 3) (s : State) : Host.Outcome State Fault Refusal :=
  issue (.acq scope) s fun g _ => .retire (s.fenceBy g ⟨scope.toNat, false, true⟩)
/-- PHASE: a release and an acquire (R202, R385). -/
def execPhase (scope : BitVec 3) (s : State) : Host.Outcome State Fault Refusal :=
  issue (.phase scope) s fun g _ => .retire (s.fenceBy g ⟨scope.toNat, true, true⟩)

end Sys2Proof.Machine
end

