-- ==== Sys2Proof/Machine/Sync.lean ====
section
/-! DEFINITION. Waiting on counters, and barriers (R157, R159, R207 to R213, R386 to R389). -/

namespace Sys2Proof.Machine

/-! ### WAIT and WAITR (R386, R387) -/

/-- Cover, in one class, every operation but the t that issued last; covered operations that are done go (R159). -/
def Group.cover (g : Group) (c : Cls) (t : Nat) : Group :=
  let mine := (g.ops.filter fun o => o.cls == some c).map (·.uid)
  let gone := mine.take (mine.length - t)
  { g with ops := g.ops.filter fun o => !(gone.contains o.uid && o.done) }

/-- A class's counter is above a threshold that blocks. -/
def Group.above (g : Group) (c : Cls) (t : Nat) : Bool := decide (t < c.max) && decide (t < g.count c)

/-- Operations of a class covered by a threshold; one at the maximum covers what has been issued before the last t as any does. -/
def Group.coverAll (g : Group) (ts : List (Cls × Nat)) : Group := ts.foldl (fun h ct => h.cover ct.1 ct.2) g

/-- A wait on thresholds: it blocks, and then covers. -/
def waitRes (s : State) (g : Group) (ts : List (Cls × Nat)) : Res :=
  if ts.any fun ct => g.above ct.1 ct.2 then
    .hold (.waitOn ((ts.filter fun ct => g.above ct.1 ct.2).map (·.1))) s
  else keep s (g.coverAll ts)

/-- WAIT (R386). -/
def execWait (tl cp : BitVec 4) (st ld : BitVec 6) (s : State) : Host.Outcome State Fault Refusal :=
  issue (.wait tl cp st ld) s fun g _ => waitRes s g [(.ld, ld.toNat), (.st, st.toNat), (.cp, cp.toNat), (.tl, tl.toNat)]

/-- The class of D in WAITR (R387). -/
def waitCls (k : BitVec 2) : Cls := if k = 0 then .ld else if k = 1 then .st else if k = 2 then .cp else .tl

/-- WAITR (R387). -/
def execWaitr (a : R7) (k : BitVec 2) (s : State) : Host.Outcome State Fault Refusal :=
  issue (.waitr a k) s fun g row => waitRes s g [(waitCls k, (g.readS s row a.toNat).toNat)]

/-! ### Barriers (R388, R389) -/

/-- The barrier that a register names: its team and offset, or none where it lies outside the stash reached or is not 16-byte
aligned (R207, R388). -/
def State.barLoc (s : State) (g : Group) (cl : Bool) (v : Word) : Option (Nat × Nat) :=
  match s.stashLoc g (if cl then .cluster else .stash) v.toNat 16 with
  | some (t, o) => if o % 16 = 0 then some (t, o) else none
  | none => none

/-- The barrier object at a location. -/
def State.barAt (s : State) (loc : Nat × Nat) : Bar :=
  match s.team loc.1 with
  | some t => t.bar loc.2
  | none => { phase := 0, expected := 0, arrived := 0, drops := 0, maxreg := 0, xteam := false, balCur := 0, balNext := 0 }

/-- BAR_RANGE, or what follows with the barrier's location (R207). -/
def atBar (s : State) (g : Group) (cl : Bool) (v : Word) (go : Nat × Nat → Res) : Res :=
  match s.barLoc g cl v with
  | none => .trap ⟨0x40, v, 0, 0, 0⟩
  | some loc => go loc

/-- The group's registration at a barrier (R208). -/
def Group.barReg (g : Group) (loc : Nat × Nat) : Option BarReg := g.bars.find? fun r => r.team == loc.1 && r.off == loc.2

/-- BAR.JOIN: the entry is added at issue, and Join is sent (R208, R209, R389). -/
def execBarJoin (a : R7) (cl : Bool) (s : State) : Host.Outcome State Fault Refusal :=
  issue (.barJoin a cl) s fun g k =>
    let v := g.readS s k a.toNat
    atBar s g cl v fun loc =>
      if 8 ≤ g.bars.length then .trap ⟨0x41, v, 0, 0, 0⟩
      else if (g.barReg loc).isSome then .trap ⟨0x42, v, 0, 0, 0⟩
      else .retire ((s.modGroup g.uid fun g => { g with bars := g.bars ++ [{ team := loc.1, off := loc.2, last := none }] }).pushOp
        g.uid none (.bar (.join loc cl)) fun o => { o with deferred := s.det g })

/-- BAR.EXPECT (R389). -/
def execBarExpect (b a : R7) (cl : Bool) (s : State) : Host.Outcome State Fault Refusal :=
  issue (.barExpect b a cl) s fun g k =>
    atBar s g cl (g.readS s k a.toNat) fun loc =>
      counted s g .st (.retire (s.pushOp g.uid (some .st) (.expect loc (g.readS s k b.toNat)) fun o => { o with deferred := s.det g }))

/-- LAST of an arrival (R212). -/
def State.barLast (s : State) (g : Group) (loc : Nat × Nat) (b : Bar) : Bool :=
  if s.det g && b.maxreg != 0 then s.barWho g loc.1 + 1 == b.maxreg else b.arrived + 1 == b.expected

/-- What BAR.ARRIVE writes to sD (R389). -/
def arriveWord (phase : Nat) (last : Bool) : Word := BitVec.ofNat 32 (phase % 65536 + 65536 * last.toNat)

/-- BAR.ARRIVE of a normal context: the release, and then the arrival (R389). -/
def arriveNow (s : State) (g : Group) (k : Nat) (drop : Bool) (d : R7) (loc : Nat × Nat) : Res :=
  let scope := if (s.barAt loc).xteam then 2 else 1
  releaseThen s g scope fun s1 =>
    let b := s1.barAt loc
    let s0 := if drop then s1.noteDrop g loc else s1
    let s2 := (s0.modGroup g.uid fun h => h.arrived loc drop b.phase).barApply loc fun b => b.arrive drop
    .retire (s2.modGroup g.uid fun h => h.writeS s k d.toNat (arriveWord b.phase (s.barLast g loc b)))

/-- BAR.ARRIVE (R208, R389). In a deterministic round the arrival is deferred, and the group blocks until its result has come at the
boundary (R397). -/
def execBarArrive (drop cl : Bool) (a d : R7) (s : State) : Host.Outcome State Fault Refusal :=
  issue (.barArrive drop cl a d) s fun g k =>
    let v := g.readS s k a.toNat
    atBar s g cl v fun loc =>
      let pc := (g.row k).pc.toNat
      match g.answerAt pc with
      | some [] => .trap ⟨0x42, v, 0, 0, 0⟩
      | some (w :: _) => keep s (((g.takeAnswer pc).arrived loc drop (w.toNat % 65536)).writeS s k d.toNat w)
      | none =>
          if g.ops.any fun o => !o.perf && o.deferred && (match o.body with
              | .bar (.arrive _ _ p) => p == pc
              | _ => false) then .hold .barArrive s
          else match g.barReg loc with
            | none => .trap ⟨0x42, v, 0, 0, 0⟩
            | some r =>
                if s.det g then .hold .barArrive (s.pushOp g.uid none (.bar (.arrive loc drop pc)) fun o => { o with deferred := true })
                else
                  -- the operations before it on this barrier are applied first
                  let s1 := s.performLines g.uid [(loc.1 + 1, loc.2 / 128)]
                  if r.last == some (BitVec.ofNat 16 (s1.barAt loc).phase) then .trap ⟨0x42, v, 0, 0, 0⟩
                  else arriveNow s1 (s1.regroup g) k drop d loc

/-- Row k's wait at a barrier for the end of a phase, where it blocks in one. -/
def Group.barWaitOf (g : Group) (k : Nat) (loc : Nat × Nat) (n : Nat) : Option BarWait :=
  g.barWaits.find? fun w => w.row == k && w.team == loc.1 && w.off == loc.2 && w.phase == n

/-- Row k blocks in no BAR.WAIT. -/
def Group.unwait (g : Group) (k : Nat) : Group := { g with barWaits := g.barWaits.filter fun w => w.row != k }

/-- Row k blocks at a barrier until its phase is not n. -/
def Group.waitBar (g : Group) (k : Nat) (loc : Nat × Nat) (n : Nat) : Group :=
  { g.unwait k with barWaits := { row := k, team := loc.1, off := loc.2, phase := n, passed := false } :: (g.unwait k).barWaits }

/-- BAR.WAIT: it blocks while PHASE is the given one; a row that PHASE has released stays released. Its return is an acquire at the barrier's scope
(R211, R214, R389). -/
def execBarWait (b a : R7) (cl : Bool) (s : State) : Host.Outcome State Fault Refusal :=
  issue (.barWait b a cl) s fun g k =>
    atBar s g cl (g.readS s k a.toNat) fun loc =>
      let o := s.barAt loc
      let n := (g.readS s k b.toNat).toNat % 65536
      let w := g.barWaitOf k loc n
      if o.phase = n && !(w.any (·.passed)) then .hold .barWait (if w.isSome then s else s.modGroup g.uid fun h => h.waitBar k loc n)
      else .retire ((s.modGroup g.uid fun h => h.unwait k).fenceBy g ⟨if o.xteam then 2 else 1, false, true⟩)

end Sys2Proof.Machine
end

