-- ==== Sys2Proof/Machine/CopyEngine.lean ====
section
/-! DEFINITION. COPY, COPY2D and FILL: their checks and their operation (R390 to R393). The lines land by Machine/Inflight.lean. -/

namespace Sys2Proof.Machine

/-- Counts and pitches that R391 allows. -/
def CopyOps.countsOk (c : CopyOps) (twoD : Bool) : Bool :=
  c.len % 4 == 0 && c.spitch % 4 == 0 && c.dpitch % 4 == 0
    && (if twoD then decide (c.len ≤ 2 ^ 20) && decide (1 ≤ c.rows) && decide (c.rows ≤ 65536) else decide (c.len ≤ 2 ^ 28))

/-- Addresses of the rows of a side of an operation that moves bytes. -/
def rowStarts (c : CopyOps) (kind base : Nat) (pitch : Int) : List Nat :=
  if c.len = 0 then [] else (List.range c.rows).map fun r => rowAddr (kindWrap kind) base pitch r

/-- The space of a kind (R390). -/
def kindSpace (kind : Nat) : Space := if kind = 0 then .virt else if kind = 1 then .stash else .cluster

/-- ADDR_RANGE or STASH_RANGE for a row that passes its space (R163, R391); ADDR_RANGE for a virtual address with a bit of [63:49] set, whatever
the length (R163). -/
def State.rowTrap (s : State) (g : Group) (c : CopyOps) (kind base : Nat) (pitch : Int) : Option TrapInfo :=
  if kind = 0 && decide (2 ^ 49 ≤ base) then some (trapAt 0x30 base 0)
  else if kind = 0 then ((rowStarts c kind base pitch).find? fun a => decide (2 ^ 49 < a + c.len)).map fun a => trapAt 0x30 a 0
  else ((rowStarts c kind base pitch).find? fun a => (s.stashLoc g (kindSpace kind) a c.len).isNone).map fun a => trapNum 0x36 a

/-- The checks of R391, in their order. -/
def State.copyTrap (s : State) (g : Group) (c : CopyOps) (twoD : Bool) : Option TrapInfo :=
  let reads := c.pattern.isNone
  if !c.countsOk twoD then some (trapOf 0x38)
  else if c.dst % 4 ≠ 0 then some (trapAt 0x31 c.dst 0)
  else if reads && c.src % 4 ≠ 0 then some (trapAt 0x31 c.src 0)
  else (s.rowTrap g c c.dk c.dst c.dpitch).orElse fun _ =>
    (if reads then s.rowTrap g c c.sk c.src c.spitch else none).orElse fun _ =>
      if c.bd && (s.barLoc g true (BitVec.ofNat 32 c.bar)).isNone then some (trapNum 0x40 c.bar) else none

/-- A copy-engine operation issues: class CP, deferred in a deterministic round (R217, R391). -/
def copyRes (s : State) (g : Group) (k : Nat) (a : R7) (n : Nat) (twoD fill : Bool) (mod : BitVec 8) : Res :=
  let regs := g.sblock s k a.toNat n
  let c := copyOps regs twoD fill mod
  match (s.copyTrap g c twoD).orElse fun _ => s.purityWrite g k c.dst (c.len != 0) with
  | some t => .trap t
  | none => counted s g .cp (.retire (s.pushOp g.uid (some .cp) (.engine (.copy regs twoD fill mod) 0) fun o =>
      { o with deferred := s.det g }))

/-- COPY (R390 to R393). -/
def execCopy (a : R7) (mod : BitVec 8) (s : State) : Host.Outcome State Fault Refusal :=
  issue (.copy a mod) s fun g k => copyRes s g k a 6 false false mod
/-- COPY2D (R390 to R393). -/
def execCopy2d (a : R7) (mod : BitVec 8) (s : State) : Host.Outcome State Fault Refusal :=
  issue (.copy2d a mod) s fun g k => copyRes s g k a 9 true false mod
/-- FILL (R390 to R393). -/
def execFill (a : R7) (mod : BitVec 8) (s : State) : Host.Outcome State Fault Refusal :=
  issue (.fill a mod) s fun g k => copyRes s g k a 6 false true mod

end Sys2Proof.Machine
end

