-- ==== Sys2Proof/Machine/Spawn.lean ====
section
/-! DEFINITION. Spawn bins and their groups (R129 to R131, R133), arenas and their consumer groups (R132), and SPAWN, RESERVE and
COMMIT (R394 to R396). -/

namespace Sys2Proof.Machine

/-! ### A group takes its place -/

/-- A core that CORE_EXCLUDE leaves in service (R47). -/
def State.inService (s : State) (core : Nat) : Bool := decide (core < Config.cores) && !s.dev.coreExclude.getLsbD core

/-- Place one group of a team in its partition: its slot, base frame and first state (R74, R76); none where there is no room. -/
def State.placeGroup (s : State) (l : Launch) (t : Team) (gid core blocks : Nat) (entry : Pc) (mask : Mask) : Option (State × Nat) :=
  match s.pickPart core blocks with
  | none => none
  | some p =>
      match s.freeSlot core p with
      | none => none
      | some sl =>
          let n := s.fresh
          some (n.2.addGroup (Group.start
            { uid := n.1, team := t.uid, launch := l.uid, ctx := l.ctx, gid := gid, core := core, part := p, slot := sl,
              clock := (s.core core).clocks, entry := entry, args := l.ld.args, blocks := (s.freeBlocks core p).take blocks,
              mask := mask, pclass := l.ld.pclass }), n.1)

/-! ### Groups that records start (R130, R131, R132) -/

/-- What a spawned or consumer group starts with. -/
structure Wave where
  entry : Pc
  sprec : Word
  recs : List BinRec
  arenaRun : Option (Nat × Nat)

/-- The registers of a group that records start: word w of lane i's record in v(w)[i], and SPREC (R131, R132). -/
def Group.giveRecords (g : Group) (w : Wave) : Group :=
  let n := w.recs.foldl (fun m r => max m r.words.length) 0
  let g1 := (List.range n).foldl (fun h k =>
    h.vput k ((List.range 96).map fun i => (((w.recs[i]?).map (·.words)).getD []).getD k 0)) g
  g1.sput 7 w.sprec

/-- A core on which pre-emption drains a team of a launch: its groups start no new teams' work there (R85 step 1). -/
def State.drains (s : State) (launch core : Nat) : Bool :=
  s.teams.any fun t => t.launch == launch && t.core == core && (match t.st with
    | .draining _ => true
    | .discarding => true
    | _ => false)

/-- Start a one-group team on a core, where it has room: no stash, slots or accumulator rows (R130), the acquire of a released team
(R203); a lane is active exactly when it has a record. None on a core that pre-emption drains (R85), nor of a locked context whose set does
not run (R108). Its team's number is the second result. -/
def State.startWave (s : State) (l : Launch) (core : Nat) (w : Wave) : Option (State × Nat) :=
  if !s.inService core || s.drains l.uid core || !s.ratioRuns l then none
  else
    let n := s.fresh
    let t := { Team.start n.1 l core 1 0 0 0 with
      callback := w.recs.any (·.callback), handles := w.recs.map fun r => if r.callback then some (r.words.headD 0) else none,
      arenaRun := w.arenaRun, since := s.sched.tick }
    let s1 := n.2.wakeCore core
    match ({ s1 with teams := s1.teams ++ [t] }).placeGroup l t 0 core l.ld.base w.entry (maskOf fun i => decide (i < w.recs.length)) with
    | none => none
    | some (s2, uid) => some (((s2.dropCoherent core).modLaunch l.uid fun x => x.holds core).modGroup uid fun g => g.giveRecords w, n.1)

/-! ### Bins (R129) -/

/-- The key of a bin (R129). -/
structure BinKey where
  ctx : BitVec 5
  launch : Nat
  entry : Pc
  words : Nat
  deriving DecidableEq, Repr

/-- The bin of a key that is filling. -/
def Bin.fills (b : Bin) (k : BinKey) : Bool :=
  !b.full && b.ctx == k.ctx && b.launch == k.launch && b.entry == k.entry && b.words == k.words

/-- A bin with its first record. -/
def Bin.start (k : BinKey) (now : Nat) (r : BinRec) : Bin :=
  { ctx := k.ctx, launch := k.launch, entry := k.entry, words := k.words, recs := [r], since := now, full := false, fullSince := 0,
    gdist := false }

/-- A bin has received another record; with 96 it is full. -/
def Bin.add (b : Bin) (now : Nat) (r : BinRec) : Bin :=
  let b' := { b with recs := b.recs ++ [r] }
  if 96 ≤ b'.recs.length then { b' with full := true, fullSince := now } else b'

/-- Put a record into a list of at most n bins; none where no bin can take it. -/
def binPut (n now : Nat) (k : BinKey) (r : BinRec) (bs : List Bin) : Option (List Bin) :=
  match bs.findIdx? (·.fills k) with
  | some i => some (bs.modify i fun b => b.add now r)
  | none => if bs.length < n then some (bs ++ [Bin.start k now r]) else none

/-- The group of a bin. -/
def Bin.wave (b : Bin) : Wave := { entry := b.entry, sprec := 0, recs := b.recs, arenaRun := none }

/-- Start the group of bin i of a core on a core that has room; the bin then becomes free (R130). -/
def State.startBin (s : State) (core i dest : Nat) : State :=
  match (s.core core).bins[i]? with
  | none => s
  | some b =>
      match s.launch b.launch with
      | none => s
      | some l =>
          match s.startWave l dest b.wave with
          | none => s
          | some (s1, _) => s1.modCore core fun c => { c with bins := c.bins.eraseIdx i }

/-- Start every full bin of a core that has room for its group, the newest first, so that the others keep their places (the order is the model's:
log 38). -/
def State.startBins (s : State) (core : Nat) : State :=
  ((List.range 16).reverse).foldl (fun t i =>
    match (t.core core).bins[i]? with
    | some b => if b.full then t.startBin core i core else t
    | none => t) s

/-- A record goes to a bin of its key on a core; a bin that this fills starts its group where there is room. -/
def State.sendRecord (s : State) (core : Nat) (k : BinKey) (r : BinRec) : Option State :=
  (binPut 16 (s.core core).clocks k r (s.core core).bins).map fun bs =>
    (s.modCore core fun c => { c with bins := bs }).startBins core

/-- A core that the part chooses among those that hold a launch (R129, R298). -/
def State.anyCore (s : State) (launch n : Nat) : Option Nat :=
  match s.coresOf launch with
  | [] => none
  | c :: cs => (c :: cs)[s.freeNat .order n cs.length]?

/-! ### SPAWN (R394) -/

/-- Lanes of the SPAWN at an address that have sent their records. -/
def Group.sent (g : Group) (pc : Nat) : Mask :=
  match g.answerAt pc with
  | some [a, b, c] => setMaskWord (setMaskWord (setMaskWord 0 0 a) 1 b) 2 c
  | _ => 0

/-- Keep the lanes that have sent their records. -/
def Group.setSent (g : Group) (pc : Nat) (m : Mask) : Group :=
  if m = 0 then g.takeAnswer pc else g.putAnswer pc [maskWord m 0, maskWord m 1, maskWord m 2]

/-- Send the records of some lanes, in order, while bins can take them: the lanes that have sent theirs, and the state. -/
def State.sendAll (s : State) (core : Nat → Option Nat) (k : BinKey) (rec : Nat → List Word) : List Nat → Mask → Mask × State
  | [], m => (m, s)
  | i :: r, m =>
      match (core i).bind fun c => s.sendRecord c k { words := rec i, callback := false } with
      | none => (m, s)
      | some s1 => State.sendAll s1 core k rec r (m ||| (1#96 <<< i))

/-- SPAWN (R129, R133, R394). In a deterministic round its records are kept for the boundary. -/
def execSpawn (a d : R7) (mod : BitVec 8) (s : State) : Host.Outcome State Fault Refusal :=
  issue (.spawn a d mod) s fun g k =>
    let n := (mod.extractLsb' 0 4).toNat + 1
    let e := g.spair s k a.toNat
    let pc := (g.row k).pc.toNat
    let mask := (g.row k).mask
    let vs := (run d.toNat n).map (g.readV s)
    let rec_ := fun i : Nat => vs.map fun v => laneOf v i
    let entry : Pc := BitVec.ofNat 49 e
    if 2 ^ 49 ≤ e then .trap (trapAt 0x30 e 0)
    else if e % 4 ≠ 0 then .trap (trapAt 0x16 e 0)
    else if s.det g then
      let t := ((s.team g.team).bind (·.index)).getD (2 ^ 32)
      .retire (s.modLaunch g.launch fun l => { l with deferred := l.deferred ++ (lanesOf mask).map fun i =>
        { team := t, grp := g.gid, lane := i, entry := entry, words := rec_ i, callback := false, commit := none } })
    else
      let key : BinKey := { ctx := g.ctx, launch := g.launch, entry := entry, words := n }
      let core := fun i : Nat => if mod.getLsbD 4 then s.anyCore g.launch i else some g.core
      let old := g.sent pc &&& mask
      let r := s.sendAll core key rec_ (lanesOf (mask &&& ~~~old)) old
      let others := g.sent pc &&& ~~~mask
      if r.1 = mask then .retire (r.2.modGroup g.uid fun h => h.setSent pc others)
      else .hold .spawn (r.2.modGroup g.uid fun h => h.setSent pc (others ||| r.1))

/-! ### RESERVE (R395) -/

/-- RESERVE (R132, R395, R397). -/
def execReserve (sb : Bool) (b d : R7) (s : State) : Host.Outcome State Fault Refusal :=
  issue (.reserve sb b d) s fun g k =>
    let n := if sb then b.toNat else (g.readS s k b.toNat).toNat
    if n < 1 || 96 < n then .trap (trapOf 0x38)
    else counted s g .ld (.retire (s.pushOp g.uid (some .ld) (.reserve (g.sreg d.toNat) n) fun o =>
      { o with dests := (run (g.sreg d.toNat) 2).map fun r => (false, r), deferred := s.det g }))

/-! ### Arenas (R132) -/

/-- The runs of a launch that wait for a consumer group of an entry, in commit order: cell, records. -/
def Launch.waiting (l : Launch) (entry : Pc) : List (Nat × Nat) :=
  l.arena.filterMap fun r => match r.st with
    | .committed e _ => if e = entry then some (r.cell, r.n) else none
    | _ => none

/-- The entries for which committed records wait, the oldest first. -/
def Launch.waitingEntries (l : Launch) : List Pc :=
  (l.arena.filterMap fun r => match r.st with
    | .committed e _ => some e
    | _ => none).eraseDups

/-- When the oldest record that waits for an entry was committed. -/
def Launch.oldest (l : Launch) (entry : Pc) : Nat :=
  (l.arena.findSome? fun r => match r.st with
    | .committed e t => if e = entry then some t else none
    | _ => none).getD 0

/-- Take the first n records that wait for an entry into a running group: the runs that are taken whole change state, one taken in part
divides. -/
def takeRuns (entry : Pc) (team : Nat) : Nat → List ArenaRun → List ArenaRun
  | _, [] => []
  | n, r :: rs =>
      match r.st with
      | .committed e _ =>
          if e ≠ entry || n = 0 then r :: takeRuns entry team n rs
          else if r.n ≤ n then { r with st := .running team } :: takeRuns entry team (n - r.n) rs
          else { r with n := n, st := .running team } :: { r with cell := r.cell + n, n := r.n - n } :: takeRuns entry team 0 rs
      | _ => r :: takeRuns entry team n rs

/-- Cells of the records that a consumer group of an entry receives: 96 at most. -/
def Launch.nextCells (l : Launch) (entry : Pc) : List Nat := ((l.waiting entry).flatMap fun r => run r.1 r.2).take 96

/-- Start a consumer group of an entry on a core where it has room (R132). -/
def State.startConsumer (s : State) (launch : Nat) (entry : Pc) (core : Nat) : State :=
  match s.launch launch with
  | none => s
  | some l =>
      let cells := l.nextCells entry
      let addr := fun c : Nat => l.ld.arenaBase.toNat + 4096 + 64 * c
      match cells with
      | [] => s
      | c0 :: _ =>
          let w : Wave := { entry := entry, sprec := BitVec.ofNat 32 ((addr c0 - l.ld.arenaBase.toNat) / 64),
                            recs := cells.map fun c => { words := [BitVec.ofNat 32 (addr c), BitVec.ofNat 32 (addr c >>> 32)], callback := false },
                            arenaRun := some (c0, cells.length) }
          match s.startWave l core w with
          | none => s
          | some (s1, t) => s1.modLaunch launch fun l => { l with arena := takeRuns entry t cells.length l.arena }

/-- Start consumer groups of a launch for which 96 records wait, n at most. -/
def State.startFull (s : State) (launch core : Nat) : Nat → State
  | 0 => s
  | n + 1 =>
      match s.launch launch with
      | none => s
      | some l =>
          match l.waitingEntries.find? fun e => decide (96 ≤ (l.nextCells e).length) with
          | none => s
          | some e => State.startFull (s.startConsumer launch e core) launch core n

/-- A run is handed to GDIST (R132): it takes its place behind every run committed before it. -/
def State.commitRun (s : State) (launch cell : Nat) (entry : Pc) (now : Nat) : State :=
  s.modLaunch launch fun l =>
    { l with arena := (l.arena.filter fun r => r.cell != cell)
        ++ (l.arena.filter fun r => r.cell == cell).map fun r => { r with st := .committed entry now } }

/-- The reserved run of a launch that starts at an address (R396). -/
def Launch.reservedAt (l : Launch) (a : Nat) : Option ArenaRun :=
  l.arena.find? fun r => decide (l.ld.arenaBase.toNat + 4096 + 64 * r.cell = a) && (match r.st with
    | .reserved _ => true
    | _ => false)

/-! ### COMMIT (R396) -/

/-- A run that a group of a deterministic round has committed, and whose boundary has not come. -/
def Launch.committing (l : Launch) (cell : Nat) : Bool := l.deferred.any fun d => d.commit.any fun c => c.1 == cell

/-- COMMIT (R132, R133, R396). An address with a bit of [63:49] set raises ADDR_RANGE (R163), after PC_ALIGN (log 40). -/
def execCommit (a : R7) (s : State) : Host.Outcome State Fault Refusal :=
  issue (.commit a) s fun g k =>
    let addr := g.spair s k a.toNat
    let e := g.spair s k (a.toNat + 2)
    let entry : Pc := BitVec.ofNat 49 e
    if e % 4 ≠ 0 then .trap (trapAt 0x16 e 0)
    else if 2 ^ 49 ≤ e then .trap (trapAt 0x30 e 0)
    else if 2 ^ 49 ≤ addr then .trap (trapAt 0x30 addr 0)
    else match (s.launch g.launch).bind fun l => (l.reservedAt addr).bind fun r => if l.committing r.cell then none else some (l, r) with
      | none => .trap (trapAt 0x39 addr 0)
      | some (_, r) =>
          releaseThen s g 3 fun s1 =>
            if s.det g then
              let t := ((s.team g.team).bind (·.index)).getD (2 ^ 32)
              .retire (s1.modLaunch g.launch fun l => { l with deferred := l.deferred ++
                [{ team := t, grp := g.gid, lane := 0, entry := entry, words := [], callback := false, commit := some (r.cell, r.n) }] })
            else
              let s2 := s1.commitRun g.launch r.cell entry s.sched.tick
              .retire (match s2.anyCore g.launch 0 with
                | some c => s2.startFull g.launch c 96
                | none => s2)

end Sys2Proof.Machine
end

