-- ==== Sys2Proof/Machine/MatrixIns.lean ====
section
/-! DEFINITION. The matrix instructions: slots, tile loads, stream operations, batches, accumulator access and VMX (R399 to R417). -/

namespace Sys2Proof.Machine

/-! ### Checks (R402) -/

/-- The group's team, or one that owns nothing. -/
def State.teamOf (s : State) (g : Group) : Option Team := s.team g.team

/-- SLOT_RANGE, and then SLOT_STATE, over the slots that an instruction names or occupies (R402). -/
def Team.slotTrap (t : Team) (ns : List Nat) : Option TrapInfo :=
  (firstTrap 0x50 ns fun n => decide (t.slots.length ≤ n)).orElse fun _ =>
    firstTrap 0x51 ns fun n => !((t.slot n).st == .claimed)

/-- ACC_RANGE, for n rows from a row (R402). -/
def Team.accTrap (t : Team) (row n : Nat) : Option TrapInfo :=
  if t.accRows < row + n then some (trapNum 0x52 (max row t.accRows)) else none

/-- The first trap of a list of checks, or what follows. -/
def afterChecks (cs : List (Option TrapInfo)) (r : Res) : Res :=
  match cs.findSome? id with
  | some t => .trap t
  | none => r

/-- A check that fails with a trap whose record says no more. -/
def checkOr (ok : Bool) (cause : Nat) : Option TrapInfo := if ok then none else some (trapOf cause)

/-- What follows with the group's team; a group always has one. -/
def withTeam (s : State) (g : Group) (go : Team → Res) : Res :=
  match s.team g.team with
  | some t => go t
  | none => .hold .unit s

/-! ### The stream (R400) -/

/-- The group has 64 stream operations that are not complete (R400). -/
def Group.streamFull (g : Group) : Bool := decide (64 ≤ (g.ops.filter fun o => o.inStream && !o.perf).length)

/-- A stream operation joins the open set, unless 64 are under way (R400); deferred in a deterministic round (R417). -/
def streamRes (s : State) (g : Group) (cls : Option Cls) (body : OpBody) (dests : List (Bool × Nat)) : Res :=
  if g.streamFull then .hold .unit s
  else
    let r := Res.retire (s.pushOp g.uid cls body fun o => { o with dests := dests, deferred := s.det g })
    match cls with
    | some c => counted s g c r
    | none => r

/-! ### Slots (R403, R404) -/

/-- The lowest slot that is unclaimed. -/
def Team.freeSlotNo (t : Team) : Option Nat := (List.range t.slots.length).find? fun n => (t.slot n).st == .unclaimed

/-- A slot changes state. -/
def Team.setSlot (t : Team) (n : Nat) (st : SlotState) : Team := { t with slots := t.slots.modify n fun x => { x with st := st } }

/-- CLAIM (R403). In a deterministic launch it is granted at the round boundary (R417). -/
def execClaim (d : R7) (s : State) : Host.Outcome State Fault Refusal :=
  issue (.claim d) s fun g k =>
    withTeam s g fun t =>
      let pc := (g.row k).pc.toNat
      if t.slots.isEmpty then .trap (trapNum 0x51 0)
      else match g.answerAt pc with
        | some (w :: _) => keep s ((g.takeAnswer pc).writeS s k d.toNat w)
        | _ =>
            if s.det g then .hold .claim s
            else match t.freeSlotNo with
              | none => .hold .claim s
              | some n => .retire ((s.modTeam t.uid fun t => t.setSlot n .claimed).modGroup g.uid fun h =>
                  h.writeS s k d.toNat (BitVec.ofNat 32 n))

/-- RELEASE.SLOT (R404). -/
def execReleaseSlot (a : R7) (s : State) : Host.Outcome State Fault Refusal :=
  issue (.releaseSlot a) s fun g k =>
    withTeam s g fun t =>
      let n := (g.readS s k a.toNat).toNat
      afterChecks [t.slotTrap [n]] (.retire ((s.modTeam t.uid fun t => t.setSlot n .releasing).freeSlots t.uid))

/-- TLOAD (R405). -/
def execTload (a : R7) (mod : BitVec 8) (s : State) : Host.Outcome State Fault Refusal :=
  issue (.tload a mod) s fun g k =>
    withTeam s g fun t =>
      let regs := g.sblock s k a.toNat 5
      let fmt := (g.row k).fmt
      let b := mod.getLsbD 6
      let c := if b then fmtB fmt else fmtA fmt
      let addr := regPair regs 0
      let pitch := s32 (regs.getD 2 0)
      let count := (regs.getD 4 0).toNat
      let n := tloadSrcBytes c (mod.extractLsb' 0 4).toNat
      afterChecks
        [ checkOr (decide (1 ≤ count) && decide (count ≤ if b then 1008 else 128) && pitch % 4 == 0) 0x38,
          t.slotTrap (run (regs.getD 3 0).toNat (tileSlots c count)),
          if addr % 4 ≠ 0 then some (trapAt 0x31 addr 0) else none,
          (((List.range count).map (rowAddr (2 ^ 64) addr pitch)).find? fun x => decide (2 ^ 49 < x + n)).map fun x => trapAt 0x30 x 0,
          s.purityRead g k false ((List.range count).flatMap fun j => let x := rowAddr (2 ^ 64) addr pitch j; [x, x + n - 1]) ]
        (counted s g .tl (.retire (s.pushOp g.uid (some .tl) (.engine (.tload regs mod fmt) 0) fun o =>
          { o with deferred := s.det g })))

/-! ### MMA, HAD, ACCZ (R406, R411, R412) -/

/-- MMA (R406). -/
def execMma (d a b : R7) (mod : BitVec 8) (s : State) : Host.Outcome State Fault Refusal :=
  issue (.mma d a b mod) s fun g k =>
    withTeam s g fun t =>
      let fmt := (g.row k).fmt
      let m := 32 <<< (mod.extractLsb' 6 2).toNat
      let n := (mod.extractLsb' 0 6).toNat
      let rd := fun r : R7 => (g.readS s k r.toNat).toNat
      afterChecks
        [ t.slotTrap (run (rd a) (tileSlots (fmtA fmt) m) ++ run (rd b) (tileSlots (fmtB fmt) (16 * n))),
          t.accTrap (rd d) (n * m) ]
        (streamRes s g none (.stream (.mma (rd d) (rd a) (rd b) mod fmt)) [])

/-- HAD (R411). -/
def execHad (a b : R7) (mod : BitVec 8) (s : State) : Host.Outcome State Fault Refusal :=
  issue (.had a b mod) s fun g k =>
    withTeam s g fun t =>
      let fmt := (g.row k).fmt
      let kb := mod.getLsbD 2
      let slot := (g.readS s k a.toNat).toNat
      let count := (g.readS s k b.toNat).toNat
      afterChecks
        [ checkOr (decide (1 ≤ count) && decide (count ≤ if kb then 1008 else 128)) 0x38,
          t.slotTrap (run slot (tileSlots (if kb then fmtB fmt else fmtA fmt) count)) ]
        (streamRes s g none (.stream (.had slot count mod fmt)) [])

/-- ACCZ (R412). -/
def execAccz (a b : R7) (s : State) : Host.Outcome State Fault Refusal :=
  issue (.accz a b) s fun g k =>
    withTeam s g fun t =>
      let row := (g.readS s k a.toNat).toNat
      let n := (g.readS s k b.toNat).toNat
      afterChecks [checkOr (n != 0) 0x38, t.accTrap row n] (streamRes s g none (.stream (.accz row n)) [])

/-! ### Batches (R409, R410) -/

/-- Batches of a group that have not retired. -/
def Group.openBatches (g : Group) : Nat := ((List.range (g.nb + 1)).filter fun t => !g.batchRetired t).length

/-- MFENCE (R409). -/
def execMfence (s : State) : Host.Outcome State Fault Refusal :=
  issue .mfence s fun g _ =>
    if 15 ≤ g.openBatches then .hold .unit s
    else
      let nb := g.nb + 1
      let g1 := { g with nb := nb, ops := g.ops.map fun o : Op => if o.inStream && o.batch.isNone then { o with batch := some nb } else o }
      keep s (g1.writeAbs s 4 (BitVec.ofNat 32 (nb % 16)))

/-- The batch that a number names: the latest one, no later than NB, that equals it modulo 16 (R410). -/
def Group.batchOf (g : Group) (b : Nat) : Option Nat :=
  let d := (g.nb + 16 - b % 16) % 16
  if d ≤ g.nb then some (g.nb - d) else none

/-- MWAIT on a batch number (R410). -/
def mwaitRes (s : State) (g : Group) (b : Nat) : Res :=
  match g.batchOf b with
  | none => .retire s
  | some t => if g.batchRetired t then .retire s else .hold .mwait s

/-- MWAIT sA (R410). -/
def execMwait (a : R7) (s : State) : Host.Outcome State Fault Refusal :=
  issue (.mwait a) s fun g k => mwaitRes s g ((g.readS s k a.toNat).extractLsb' 0 4).toNat
/-- MWAIT #b (R410). -/
def execMwaitImm (b : BitVec 4) (s : State) : Host.Outcome State Fault Refusal :=
  issue (.mwaitImm b) s fun g _ => mwaitRes s g b.toNat

/-! ### Accumulator access (R413, R414) -/

/-- ACCRD (R413). -/
def execAccrd (d a : R7) (mod : BitVec 8) (s : State) : Host.Outcome State Fault Refusal :=
  issue (.accrd d a mod) s fun g k =>
    withTeam s g fun t =>
      let row := (g.readS s k a.toNat).toNat
      let v := g.vreg d.toNat
      afterChecks [t.accTrap row 6]
        (streamRes s g (some .tl) (.stream (.accrd v row (g.row k).mask mod (g.row k).fmt)) [(true, v)])

/-- ACCST (R414). -/
def execAccst (a : R7) (mod : BitVec 8) (s : State) : Host.Outcome State Fault Refusal :=
  issue (.accst a mod) s fun g k =>
    withTeam s g fun t =>
      let regs := g.sblock s k a.toNat 7
      let fmt := (g.row k).fmt
      let dst := regPair regs 0
      let pitch := s32 (regs.getD 2 0)
      let mr := (regs.getD 4 0).toNat
      let nb := (regs.getD 5 0).toNat
      let unit := drainUnit (fmtD fmt)
      let hp := (mod.extractLsb' 4 2).toNat
      let len := drainRowBytes (fmtD fmt) nb
      afterChecks
        [ checkOr (decide (1 ≤ mr) && decide (mr ≤ 128) && decide (1 ≤ nb) && decide (nb ≤ 63) && pitch % unit == 0
            && (hp == 0 || 16 * nb % 2 ^ (3 + hp) == 0)) 0x38,
          t.accTrap (regs.getD 3 0).toNat (nb * mr),
          if dst % unit ≠ 0 then some (trapAt 0x31 dst 0) else none,
          (((List.range mr).map (rowAddr (2 ^ 64) dst pitch)).find? fun x => decide (2 ^ 49 < x + len)).map fun x => trapAt 0x30 x 0,
          if mod.getLsbD 6 && (s.barLoc g true (regs.getD 6 0)).isNone then some ⟨0x40, regs.getD 6 0, 0, 0, 0⟩ else none,
          s.purityWrite g k dst true ]
        (streamRes s g (some .tl) (.engine (.accst regs mod fmt) 0) [])

/-! ### VMX (R415, R416) -/

/-- The K elements of a lane's vector: words of vA to vA+15. -/
def vmxLane (g : Group) (s : State) (a : R7) (lane : Nat) : Nat :=
  (((run a.toNat 16).map fun n => laneOf (g.readV s n) lane).zipIdx.map fun wk => wk.1.toNat <<< (32 * wk.2)).sum

/-- The elements of 64 bytes in a format that VMX takes. -/
def vmxVals (c v : Nat) : List FVal :=
  (List.range 32).map fun k => (if c = 1 then fp16 else bf16).dec (v >>> (16 * k) % 65536)
/-- The elements of 64 bytes as integers. -/
def vmxInts (c v : Nat) : List Int := (List.range 64).map fun k => readInt (c == 3) 8 (v >>> (8 * k) % 256)

/-- One result element of VMX: the old value, the lane's elements and a strip (R415). -/
def vmxElem (fmt : Word) (old : Word) (x w : Nat) : Word × BitVec 3 :=
  if fmtA fmt = 3 || fmtA fmt = 4 then (intSum old ((vmxInts (fmtA fmt) x).zip (vmxInts (fmtB fmt) w)), noFlag)
  else
    let r := matrixSum old.toNat ((vmxVals (fmtA fmt) x).zip (vmxVals (fmtB fmt) w)) 2
    (BitVec.ofNat 32 r.1, r.2)

/-- VMX (R415, R416). -/
def execVmx (sb : Bool) (d a b : R7) (mod : BitVec 8) (s : State) : Host.Outcome State Fault Refusal :=
  issue (.vmx sb d a b mod) s fun g k =>
    let n := 16 * ((mod.extractLsb' 0 2).toNat + 1)
    let fmt := (g.row k).fmt
    let lanes := lanesOf (g.row k).mask
    let at_ := fun i : Nat => if sb then g.spair s k b.toNat else vpair (g.readV s b.toNat) (g.readV s (b.toNat + 1)) i
    let as := lanes.map fun i => (i, at_ i)
    match laneTrap 0x53 (as.filter fun x => x.2 = 0 || x.2 % 64 ≠ 0) with
    | some t => .trap t
    | none =>
        match laneTrap 0x30 (as.filter fun x => decide (2 ^ 49 < x.2 + 64 * n)) with
        | some t => .trap t
        | none =>
            locateThen s g .virt .read 0 64 64 (as.flatMap fun x => (List.range n).map fun c => (x.1, x.2 + 64 * c)) fun ls errs =>
              if g.acqPending || s.anyHeld ls then .hold .unit s
              else guarded s g k 1 false false ls fun s1 =>
                let s2 := (s1.performAtomics g.uid (linesOf ls)).notePages g ls
                let r := s2.readLanes (s2.regroup g) ls 64
                let bad := errs ++ r.2.1
                let good := maskOf fun i => (g.row k).mask.getLsbD i && !bad.any fun x => x.1 == i
                let res := lanes.map fun i =>
                  let strips := (r.1.filter fun x => x.1 == i).map (·.2)
                  let x := vmxLane g s a i
                  (i, strips.zipIdx.map fun wc => vmxElem fmt (if mod.getLsbD 2 then laneOf (g.readV s (d.toNat + wc.2)) i else 0) x wc.1)
                let kept := res.filter fun e => good.getLsbD e.1
                let fl := kept.foldl (fun f e => e.2.foldl (fun f y => f ||| y.2) f) noFlag
                let write := fun h : Group => (List.range n).foldl (fun h c => h.writeV s (d.toNat + c) good fun i =>
                  match kept.find? fun e => e.1 == i with
                  | some e => (e.2.getD c (0, noFlag)).1
                  | none => 0) h
                let s3 := r.2.2.modGroup g.uid fun h => (write h).orFlags fl
                .retire (match errOf bad with
                  | some e => s3.modGroup g.uid fun h => h.due (memError e)
                  | none => s3)

end Sys2Proof.Machine
end

