-- ==== Sys2Proof/Machine/Raster.lean ====
section
/-! DEFINITION. RAST: coverage in integers, ordinals, and what each lane receives (R282 to R287, R420). -/

namespace Sys2Proof.Machine

/-- Sample positions of a pattern, in 1/16 pixel (R283). -/
def samplePos (pattern : Nat) : List (Int × Int) :=
  match pattern with
  | 0 => [(8, 8)]
  | 1 => [(4, 4), (12, 12)]
  | 2 => [(6, 2), (14, 6), (2, 10), (10, 14)]
  | _ => [(9, 5), (7, 11), (13, 9), (5, 3), (3, 13), (1, 7), (11, 15), (15, 1)]

/-- A raster block (R282). -/
structure Tri where
  x : Nat → Int
  y : Nat → Int
  z : Nat → FVal
  w : Nat → FVal
  rx : Nat
  ry : Nat
  cull : Nat
  pattern : Nat
  qh : Nat
  qw : Nat

/-- Read a raster block (R282). -/
def triOf (b : List Word) : Tri :=
  let r := fun k : Nat => b.getD k 0
  { x := fun v => (r (4 * v)).toInt, y := fun v => (r (4 * v + 1)).toInt, z := fun v => fp32.dec (r (4 * v + 2)).toNat,
    w := fun v => fp32.dec (r (4 * v + 3)).toNat, rx := bitsOf (r 12).toNat 15 0, ry := bitsOf (r 12).toNat 31 16,
    cull := bitsOf (r 13).toNat 21 20, pattern := bitsOf (r 13).toNat 19 16, qh := bitsOf (r 13).toNat 12 8 + 1,
    qw := bitsOf (r 13).toNat 4 0 + 1 }

/-- A register of the block breaks R282. -/
def triBad (b : List Word) (k : Nat) : Bool :=
  let r := b.getD k 0
  if k < 12 then decide (k % 4 < 2) && (decide (r.toInt < -(2 ^ 23)) || decide (2 ^ 23 ≤ r.toInt))
  else if k = 12 then r.getLsbD 0 || r.getLsbD 16
  else r.extractLsb' 22 10 != 0 || r.extractLsb' 13 3 != 0 || r.extractLsb' 5 3 != 0 || r.extractLsb' 20 2 == 3
    || decide (4 ≤ bitsOf r.toNat 19 16)

/-- A (R284). -/
def Tri.area (t : Tri) : Int := (t.x 1 - t.x 0) * (t.y 2 - t.y 0) - (t.x 2 - t.x 0) * (t.y 1 - t.y 0)
/-- First and last vertex of edge i (R284). -/
def edgeEnds (i : Nat) : Nat × Nat := ((i + 1) % 3, (i + 2) % 3)
/-- E_i(P) (R284). -/
def Tri.edge (t : Tri) (i : Nat) (px py : Int) : Int :=
  let a := (edgeEnds i).1
  let b := (edgeEnds i).2
  (t.x b - t.x a) * (py - t.y a) - (t.y b - t.y a) * (px - t.x a)
/-- Incl(i) (R284). -/
def Tri.incl (t : Tri) (i : Nat) : Bool :=
  let sg := t.area.sign
  let dx := sg * (t.x (edgeEnds i).2 - t.x (edgeEnds i).1)
  let dy := sg * (t.y (edgeEnds i).2 - t.y (edgeEnds i).1)
  decide (dy < 0) || (dy == 0 && decide (0 < dx))
/-- CULL drops the triangle (R282). -/
def Tri.culled (t : Tri) : Bool := (t.cull == 1 && decide (t.area < 0)) || (t.cull == 2 && decide (0 < t.area))
/-- Covered(P) (R284). -/
def Tri.covered (t : Tri) (px py : Int) : Bool :=
  t.area != 0 && !t.culled && [0, 1, 2].all fun i =>
    decide (0 < t.area.sign * t.edge i px py) || (t.edge i px py == 0 && t.incl i)

/-- The pixel of lane c of an ordinal's quad (R285, R286). -/
def Tri.pixel (t : Tri) (k c : Nat) : Nat × Nat :=
  let q := k / (samplePos t.pattern).length
  (t.rx + 2 * (q % t.qw) + c % 2, t.ry + 2 * (q / t.qw) + c / 2)
/-- The sample point of a lane of an ordinal (R284). -/
def Tri.point (t : Tri) (k c : Nat) : Int × Int :=
  let s := (samplePos t.pattern).getD (k % (samplePos t.pattern).length) (8, 8)
  let p := t.pixel k c
  (256 * p.1 + 16 * s.1, 256 * p.2 + 16 * s.2)
/-- The pixel of a lane of an ordinal is covered at its sample. -/
def Tri.hits (t : Tri) (k c : Nat) : Bool := let p := t.point k c; t.covered p.1 p.2

/-- S × Q (R285). -/
def Tri.ordinals (t : Tri) : Nat := (samplePos t.pattern).length * (t.qw * t.qh)

/-- The ordinals that RAST emits, and TOKEN after (R285). -/
def Tri.walk (t : Tri) (token : Nat) : List Nat × Nat :=
  let ems := (((List.range t.ordinals).drop (token - 1)).filter fun k => (List.range 4).any (t.hits k)).take 24
  let next := if ems.length = 24 then ems.getLastD 0 + 1 else t.ordinals
  (ems, if t.ordinals ≤ next then 0 else next + 1)

/-- The exact sum of values, or a NaN. -/
def sumVal (xs : List FVal) : FVal :=
  if xs.any FVal.isNan || bothInf xs then .nan false
  else match xs.find? FVal.isInf with
    | some v => v
    | none => let r := sumExact .rne xs; .fin r.1 r.2.1 r.2.2

/-- b_i of a sample point, exactly (R286). -/
def Tri.bary (t : Tri) (i : Nat) (p : Int × Int) : FVal :=
  let e := t.edge i p.1 p.2
  .fin (decide (e * t.area < 0)) e.natAbs t.area.natAbs

/-- V0 + b1 (V1 − V0) + b2 (V2 − V0), rounded once (R286). -/
def Tri.interp (t : Tri) (v : Nat → FVal) (p : Int × Int) : Nat :=
  let d := fun i : Nat => mulVal (t.bary i p) (sumVal [v i, (v 0).flip])
  (fp32.sum .rne [v 0, d 1, d 2]).1

/-- What register d + r receives in a filled lane (R286). -/
def Tri.lane (t : Tri) (k c r : Nat) : Word :=
  let p := t.point k c
  let px := t.pixel k c
  match r with
  | 0 => BitVec.ofNat 32 (px.1 % 65536 + 65536 * px.2)
  | 1 => BitVec.ofNat 32 (k % (samplePos t.pattern).length + 16 * (decide (0 < t.area)).toNat + 32 * (!t.hits k c).toNat)
  | 2 => BitVec.ofNat 32 (fp32.ofVal .rne (t.bary 1 p)).1
  | 3 => BitVec.ofNat 32 (fp32.ofVal .rne (t.bary 2 p)).1
  | 4 => BitVec.ofNat 32 (t.interp t.z p)
  | _ => BitVec.ofNat 32 (t.interp t.w p)

/-- RAST (R282 to R286, R420). -/
def execRast (d a : R7) (s : State) : Host.Outcome State Fault Refusal :=
  issue (.rast d a) s fun g k =>
    let b := g.sblock s k a.toNat 14
    match firstTrap 0x60 (List.range 14) (triBad b) with
    | some t => .trap t
    | none =>
        let t := triOf b
        let r := t.walk (g.readS s k 5).toNat
        let filled : Mask := maskOf fun i => decide (i < 4 * r.1.length)
        let g1 := (List.range 6).foldl (fun h n => h.writeV s (d.toNat + n) (BitVec.allOnes 96) fun i =>
          match r.1[i / 4]? with
          | some o => t.lane o (i % 4) n
          | none => 0) g
        keep s ((g1.modRow k fun w => { w with mask := filled &&& w.own }).writeAbs s 5 (BitVec.ofNat 32 r.2))

end Sys2Proof.Machine
end

