-- ==== Sys2Proof/Machine/Sample.lean ====
section
/-! DEFINITION. SAMPLE: descriptors, layout, level of detail, taps and filtering (R304 to R308, R421, R422). -/

namespace Sys2Proof.Machine

/-! ### Exact reals -/

/-- A whole number. -/
def fracInt (n : Int) : Frac := ⟨n, 1⟩
/-- a × b. -/
def fracMul (a b : Frac) : Frac := ⟨a.num * b.num, a.den * b.den⟩
/-- −a. -/
def fracNeg (a : Frac) : Frac := ⟨-a.num, a.den⟩
/-- a − b. -/
def fracSub (a b : Frac) : Frac := fracAdd a (fracNeg b)
/-- The greatest whole number not above a. -/
def fracFloor (a : Frac) : Int := a.num / a.den
/-- a rounded to a multiple of 1/k, ties to even. -/
def fracRne (k : Nat) (a : Frac) : Frac :=
  let m := roundQuot .rne (decide (a.num < 0)) (a.num.natAbs * k) a.den
  ⟨if a.num < 0 then -(m : Int) else m, k⟩
/-- a rounded down to a multiple of 1/k. -/
def fracDown (k : Nat) (a : Frac) : Frac := ⟨a.num * k / a.den, k⟩
/-- The greater and the lesser of two numbers. -/
def fracMax (a b : Frac) : Frac := if fracLt a b then b else a
def fracMin (a b : Frac) : Frac := if fracLt b a then b else a
/-- A finite FP32 value as a number; 0 for the others. -/
def fracOf32 (w : Word) : Frac :=
  match fp32.dec w.toNat with
  | .fin s n d => fracOf s n d
  | _ => fracInt 0
/-- The pattern is a NaN or an infinity. -/
def notFinite (w : Word) : Bool := w.extractLsb' 23 8 == 0xFF

/-- log2 of n / d, both positive: exact for a power of two, and else irrational and given to 2^-150. -/
def fracLog2 (n d : Nat) : Frac :=
  let e := floorLog2 n d
  let p := scale2 n d (-e)
  if p.1 = p.2 then fracInt e
  else fracAdd (fracInt e) ⟨(fxLog ((p.1 - p.2) * fxOne / (p.1 + p.2)) * fxOne / fxLn2 : Nat), fxOne⟩

/-! ### Descriptors (R304) -/

/-- A texture descriptor. -/
structure Tex where
  mips : Nat
  type : Nat
  format : Nat
  base : Nat
  depth : Nat
  height : Nat
  width : Nat

/-- The 32 bytes of a texture descriptor (R304). -/
def texOf (v : Nat) : Tex :=
  { mips := bitsOf v 63 60, type := bitsOf v 59 58, format := bitsOf v 57 53, base := bitsOf v 48 0, depth := bitsOf v 111 96 + 1,
    height := bitsOf v 95 80 + 1, width := bitsOf v 79 64 + 1 }

/-- A texture descriptor that R304 allows; dim: DIM of the instruction, which must match TYPE (R421). -/
def texOk (v dim : Nat) : Bool :=
  let t := texOf v
  let ext := max (max t.width t.height) (if t.type = 2 then t.depth else 1)
  bitsOf v 52 49 == 0 && bitsOf v 127 112 == 0 && bitsOf v 255 128 == 0 && t.type != 3 && decide (t.format < 24)
    && t.base % 256 == 0 && decide (t.mips ≤ Nat.log2 ext) && t.type == dim

/-- A sampler descriptor. -/
structure Samp where
  w6 : Bool
  lodDown : Bool
  white : Bool
  addrs : List Nat
  aniso : Nat
  mip : Nat
  min : Nat
  mag : Nat
  maxLod : Frac
  minLod : Frac
  bias : Frac

/-- The 16 bytes of a sampler descriptor (R304). -/
def sampOf (v : Nat) : Samp :=
  { w6 := bitsOf v 20 20 == 1, lodDown := bitsOf v 21 21 == 1, white := bitsOf v 19 19 == 1,
    addrs := [bitsOf v 12 10, bitsOf v 15 13, bitsOf v 18 16], aniso := bitsOf v 9 7, mip := bitsOf v 6 5, min := bitsOf v 4 3,
    mag := bitsOf v 2 1, maxLod := ⟨bitsOf v 63 56, 16⟩, minLod := ⟨bitsOf v 55 48, 16⟩,
    bias := ⟨(BitVec.ofNat 16 (bitsOf v 47 32)).toInt, 256⟩ }

/-- A sampler descriptor that R304 allows; legacy: the launch's LEGACY bit. -/
def sampOk (v : Nat) (legacy : Bool) : Bool :=
  let p := sampOf v
  bitsOf v 31 22 == 0 && bitsOf v 0 0 == 0 && bitsOf v 127 64 == 0 && p.addrs.all (fun a => decide (a < 4)) && decide (p.aniso < 5)
    && p.mip != 3 && decide (p.min < 2) && decide (p.mag < 2) && (legacy || bitsOf v 21 20 == 0)

/-! ### Layout (R305) -/

/-- Texels of a block of a format: width, height, bytes (R304). -/
def texelBlock (f : Nat) : Nat × Nat × Nat :=
  if f < 8 then (1, 1, [4, 4, 8, 4, 2, 4, 8, 1].getD f 4)
  else
    let b := [(4, 4), (5, 4), (5, 5), (6, 5), (6, 6), (8, 5), (8, 6), (8, 8)].getD (f % 8) (4, 4)
    (b.1, b.2, 16)

/-- W_l, H_l and D_l. -/
def Tex.ext (t : Tex) (l : Nat) : Nat × Nat × Nat :=
  (max 1 (t.width >>> l), max 1 (t.height >>> l), if t.type = 2 then max 1 (t.depth >>> l) else t.depth)
/-- Rows of a level, and the row pitch R_l. -/
def Tex.rows (t : Tex) (l : Nat) : Nat := let b := texelBlock t.format; ((t.ext l).2.1 + b.2.1 - 1) / b.2.1
def Tex.pitch (t : Tex) (l : Nat) : Nat :=
  let b := texelBlock t.format
  (((t.ext l).1 + b.1 - 1) / b.1 * b.2.2 + 255) / 256 * 256
/-- Bytes of a level. -/
def Tex.levelSize (t : Tex) (l : Nat) : Nat := t.pitch l * t.rows l * (t.ext l).2.2
/-- Where a level starts. -/
def Tex.levelBase (t : Tex) (l : Nat) : Nat := t.base + ((List.range l).map t.levelSize).sum
/-- The image range ends here (R268, R305). -/
def Tex.imageEnd (t : Tex) : Nat := t.levelBase (t.mips + 1)
/-- The address of the texel, or block, that holds texel (i, j, k) of level l. -/
def Tex.texelAddr (t : Tex) (l i j k : Nat) : Nat :=
  let b := texelBlock t.format
  t.levelBase l + (k * t.rows l + j / b.2.1) * t.pitch l + i / b.1 * b.2.2

/-! ### Texels (R306) -/

/-- The four channels of a texel from its bytes; pos: its place in an ASTC block. -/
def texelOf (f v pos : Nat) : List FVal :=
  let un := fun c : Nat => FVal.fin false c 255
  let b := fun k : Nat => bitsOf v (8 * k + 7) (8 * k)
  let h := fun k : Nat => fp16.dec (bitsOf v (16 * k + 15) (16 * k))
  let w := fun k : Nat => fp32.dec (bitsOf v (32 * k + 31) (32 * k))
  let zero := FVal.fin false 0 1
  let one := FVal.fin false 1 1
  match f with
  | 0 => [un (b 0), un (b 1), un (b 2), un (b 3)]
  | 1 => [srgbVal (b 0), srgbVal (b 1), srgbVal (b 2), un (b 3)]
  | 2 => [h 0, h 1, h 2, h 3]
  | 3 => [h 0, h 1, zero, one]
  | 4 => [h 0, zero, zero, one]
  | 5 => [w 0, zero, zero, one]
  | 6 => [w 0, w 1, zero, one]
  | 7 => [un (b 0), zero, zero, one]
  | _ => astcTexel (decide (16 ≤ f)) (texelBlock f).1 (texelBlock f).2.1 v pos

/-- The border colour (R304). -/
def borderVal (white : Bool) : List FVal := List.replicate 4 (.fin false white.toNat 1)

/-! ### Level of detail (R307) -/

/-- The coordinates of a lane: u, v and, for 3D, w; a layer is not among them. -/
abbrev Coords := List Word

/-- Derivatives of a quad, in level-0 texels and in coordinates, along x and y; none where a component is a NaN or an infinity. -/
structure Deriv where
  dx : List Frac
  dy : List Frac
  rx2 : Frac
  ry2 : Frac

/-- The squared length of a vector. -/
def len2 (v : List Frac) : Frac := (v.map fun a => fracMul a a).foldl fracAdd (fracInt 0)

/-- The derivatives of a quad whose lanes 0, 1 and 2 have coordinates (R307). -/
def derivOf (t : Tex) (c0 c1 c2 : Coords) : Option Deriv :=
  if (c0 ++ c1 ++ c2).any notFinite then none
  else
    let exts := [(t.ext 0).1, (t.ext 0).2.1, (t.ext 0).2.2]
    let d := fun c : Coords => (c.zip c0).map fun ab => fracSub (fracOf32 ab.1) (fracOf32 ab.2)
    let sc := fun v : List Frac => (v.zip exts).map fun ae => fracMul ae.1 (fracInt ae.2)
    some { dx := d c1, dy := d c2, rx2 := len2 (sc (d c1)), ry2 := len2 (sc (d c2)) }

/-- N: the probes of ANISO (R307). -/
def Deriv.probes (d : Deriv) (aniso : Nat) : Nat :=
  let hi := fracMax d.rx2 d.ry2
  let lo := fracMin d.rx2 d.ry2
  if aniso = 0 || lo.num = 0 then 1
  else 2 ^ ((List.range aniso).find? fun j => !fracLt (fracMul lo (fracInt (4 ^ j))) hi).getD aniso

/-- The clamp of R307; where its bounds cross, the spec states no result, and either bound is free (log 15). -/
def clampLod (s : State) (lane : Nat) (p : Samp) (t : Tex) (x : Frac) : Frac :=
  let hi := fracMin p.maxLod (fracInt t.mips)
  if fracLt hi p.minLod then (if s.freeBit .other lane then hi else p.minLod) else fracMin hi (fracMax p.minLod x)

/-- The upper bound of the clamp. -/
def topLod (p : Samp) (t : Tex) : Frac := fracMin p.maxLod (fracInt t.mips)

/-- λ rounded (R307). -/
def roundLod (p : Samp) (x : Frac) : Frac := if p.lodDown then fracDown 16 x else fracRne 256 x

/-- λ before its clamp, of derivatives that are not all zero. -/
def Deriv.lod (d : Deriv) (n : Nat) (bias : Frac) : Option Frac :=
  let hi := fracMax d.rx2 d.ry2
  if hi.num ≤ 0 then none
  else some (fracAdd (fracSub (fracMul ⟨1, 2⟩ (fracLog2 hi.num.natAbs hi.den)) (fracInt (Nat.log2 n))) bias)

/-- How a lane samples: λ, probes, and the step between the ends of the probes, as coordinates. -/
structure Footprint where
  lod : Frac
  n : Nat
  major : List Frac

/-- λ and the probes of a lane (R307, R422). mode: LODM; x: its bias or level. -/
def footprint (s : State) (lane mode : Nat) (p : Samp) (t : Tex) (d : Option Deriv) (x : Frac) : Footprint :=
  if mode = 2 then { lod := roundLod p (clampLod s lane p t x), n := 1, major := [] }
  else match d with
    | none => { lod := roundLod p (topLod p t), n := 1, major := [] }
    | some d =>
        let n := d.probes p.aniso
        let bias := if mode = 1 then fracAdd p.bias x else p.bias
        let l := match d.lod n bias with
          | some y => clampLod s lane p t y
          | none => clampLod s lane p t (fracInt (-(2 ^ 40)))
        { lod := roundLod p l, n := n, major := if fracLt d.rx2 d.ry2 then d.dy else d.dx }

/-- The levels that λ selects, with their weights (R307). -/
def Footprint.levels (f : Footprint) (p : Samp) (t : Tex) : List (Frac × Nat) :=
  match p.mip with
  | 0 => [(fracInt 1, 0)]
  | 1 => [(fracInt 1, min (fracFloor (fracAdd f.lod ⟨1, 2⟩)).toNat t.mips)]
  | _ =>
      let l := (fracFloor f.lod).toNat
      let a := fracSub f.lod (fracInt l)
      [(fracSub (fracInt 1) a, min l t.mips), (a, min (l + 1) t.mips)]

/-! ### Taps (R308) -/

/-- An index mapped by an address mode into a level's extent; none: the border colour. -/
def mapIndex (mode w : Nat) (i : Int) : Option Nat :=
  match mode with
  | 0 => some (i % w).toNat
  | 1 => let m := (i % (2 * w : Nat)).toNat; some (if m < w then m else 2 * w - 1 - m)
  | 2 => some (min (max i 0) (w - 1 : Nat)).toNat
  | _ => if 0 ≤ i && i < w then some i.toNat else none

/-- The indices along one axis with their weights; x: the texel-space coordinate. -/
def axisTaps (p : Samp) (bilinear : Bool) (x : Frac) : List (Frac × Int) :=
  if bilinear then
    let y := fracSub x ⟨1, 2⟩
    let i := fracFloor y
    let a := fracSub y (fracInt i)
    let q := if p.w6 then fracDown 64 a else fracRne 256 a
    [(fracSub (fracInt 1) q, i), (q, i + 1)]
  else [(fracInt 1, fracFloor x)]

/-- A tap: its weight, and its texel's level and indices; none: the border. -/
abbrev TexTap := Frac × Option (Nat × Nat × Nat × Nat)

/-- The taps of one probe at one level. -/
def levelTaps (t : Tex) (p : Samp) (bilinear : Bool) (c : List Frac) (layer : Nat) (l : Nat) : List TexTap :=
  let e := t.ext l
  let ax := fun (k ext : Nat) => (axisTaps p bilinear (fracMul (c.getD k (fracInt 0)) (fracInt ext))).map fun wi =>
    (wi.1, mapIndex (p.addrs.getD k 0) ext wi.2)
  let zs := if t.type = 2 then ax 2 e.2.2 else [(fracInt 1, some layer)]
  (ax 0 e.1).flatMap fun x => (ax 1 e.2.1).flatMap fun y => zs.map fun z =>
    (fracMul (fracMul x.1 y.1) z.1, match x.2, y.2, z.2 with
      | some i, some j, some k => some (l, i, j, k)
      | _, _, _ => none)

/-- Every tap of a lane; those of weight 0 take no part. -/
def lanetaps (t : Tex) (p : Samp) (f : Footprint) (c : List Frac) (layer : Nat) : List TexTap :=
  let bil := (if f.lod.num ≤ 0 then p.mag else p.min) == 1
  let taps := (List.range f.n).flatMap fun k : Nat =>
    let off : Frac := fracSub ⟨2 * (k : Int) + 1, 2 * f.n⟩ ⟨1, 2⟩
    let c' := c.zipIdx.map fun xi => fracAdd xi.1 (fracMul off (f.major.getD xi.2 (fracInt 0)))
    (f.levels p t).flatMap fun wl => (levelTaps t p bil c' layer wl.2).map fun tp =>
      (fracMul (fracMul wl.1 ⟨1, f.n⟩) tp.1, tp.2)
  taps.filter fun tp => tp.1.num != 0

/-- A channel: the exact weighted sum of the taps' values, rounded once (R308). -/
def weighted (xs : List (Frac × List FVal)) (ch : Nat) : Nat :=
  (fp32.sum .rne (xs.map fun x => mulVal (.fin (decide (x.1.num < 0)) x.1.num.natAbs x.1.den) (x.2.getD ch (.fin false 0 1)))).1

/-- Four channels as one number. -/
def packRgba (f : Nat → Nat) : Nat := f 0 + (f 1) <<< 32 + (f 2) <<< 64 + (f 3) <<< 96

/-! ### The instruction (R421, R422) -/

/-- How the read of a descriptor ends. -/
inductive DescRead where
  | ok (v : Nat)
  | fault (kind va : Nat)
  | err (va : Nat)

/-- Read a descriptor as a load of the group. -/
def State.readDesc (s : State) (g : Group) (va n : Nat) : DescRead :=
  match s.resolve g va .read with
  | .fault k => .fault k va
  | .err => .err va
  | .ok l =>
      match (s.prepareLoad g l).loadNat g l true n with
      | some v => .ok v
      | none => .err va

/-- The operands of a SAMPLE that its lanes read. -/
structure SampleArgs where
  mode : Nat
  nc : Nat
  layered : Bool
  regs : List Lanes

/-- Component k of a lane. -/
def SampleArgs.comp (a : SampleArgs) (k lane : Nat) : Word := laneOf (a.regs.getD k zeroLanes) lane
/-- The coordinates that form derivatives. -/
def SampleArgs.coords (a : SampleArgs) (lane : Nat) : Coords := (List.range (if a.layered then 2 else a.nc)).map fun k => a.comp k lane
/-- Every component of a lane is finite. -/
def SampleArgs.finite (a : SampleArgs) (lane : Nat) : Bool :=
  (List.range (a.nc + if a.mode = 0 then 0 else 1)).all fun k => !notFinite (a.comp k lane)

/-- The layer of a lane (R308). -/
def SampleArgs.layer (a : SampleArgs) (t : Tex) (lane : Nat) : Nat :=
  if a.layered then (min (max (fracRne 1 (fracOf32 (a.comp 2 lane))).num 0) (t.depth - 1 : Nat)).toNat else 0

/-- The taps of a lane that samples. -/
def SampleArgs.taps (a : SampleArgs) (s : State) (t : Tex) (p : Samp) (lane : Nat) : List TexTap :=
  let q := lane / 4 * 4
  let d := derivOf t (a.coords q) (a.coords (q + 1)) (a.coords (q + 2))
  lanetaps t p (footprint s lane a.mode p t d (fracOf32 (a.comp a.nc lane))) ((a.coords lane).map fracOf32) (a.layer t lane)

/-- The result of a lane from the texels that were read. -/
def laneColour (t : Tex) (p : Samp) (taps : List TexTap) (read : Nat → Nat) : Nat :=
  let b := texelBlock t.format
  let vs := taps.map fun tp => (tp.1, match tp.2 with
    | some (l, i, j, k) => texelOf t.format (read (t.texelAddr l i j k)) (i % b.1 + b.1 * (j % b.2.1))
    | none => borderVal p.white)
  packRgba (weighted vs)

/-- LEGACY of the group's launch (R71). -/
def State.legacyLaunch (s : State) (g : Group) : Bool :=
  match s.launch g.launch with
  | some l => l.ld.legacy
  | none => false

/-- SAMPLE's texel reads and results, with its descriptors read. -/
def sampleRes (s : State) (g : Group) (row : Nat) (v : VOps) (a : SampleArgs) (t : Tex) (p : Samp) : Res :=
  let lanes := lanesOf (g.row row).mask
  let taps := lanes.map fun i => (i, if a.finite i then a.taps s t p i else [])
  let n := (texelBlock t.format).2.2
  let as := (taps.flatMap fun it => it.2.filterMap fun tp => tp.2.map fun e => (it.1, t.texelAddr e.1 e.2.1 e.2.2.1 e.2.2.2)).eraseDups
  locateThen s g .virt .read 9 n n as fun ls errs =>
    counted s g .ld (if s.anyHeld ls then .hold .unit s
      else match s.purityOf g false (memoXB v.cuffD.memo) (accessors g row false) ls with
      | some t => .trap t
      | none =>
        let s2 := (s.performAtomics g.uid (linesOf ls)).notePages g ls
        let r := s2.readLanes (s2.regroup g) ls n
        let bad := errs ++ r.2.1
        let got := (ls.filter fun l => !r.2.1.any fun b => b.1 == l.1 && b.2 == l.2.va).zip r.1
        let value := fun (i va : Nat) => ((got.find? fun x => x.1.1 == i && x.1.2.va == va).map fun x => x.2.2).getD 0
        let good := taps.filter fun it => !bad.any fun b => b.1 == it.1
        let vals := good.map fun it => (it.1,
          if a.finite it.1 then laneColour t p it.2 (value it.1) else packRgba fun _ => fp32.nan)
        .retire (r.2.2.pushLoad g true ((run v.d.toNat 4).map g.vreg) vals bad))

/-- SAMPLE (R421, R422). -/
def execSample (v : VOps) (s : State) : Host.Outcome State Fault Refusal :=
  issue (.sample v) s fun g k =>
    let tex := g.spair s k v.b.toNat
    let smp := g.spair s k (v.b.toNat + 2)
    let dim := (v.mod.extractLsb' 3 2).toNat
    let mode := (v.mod.extractLsb' 0 2).toNat
    let nc := if dim = 0 then 2 else 3
    let a : SampleArgs := { mode := mode, nc := nc, layered := dim == 1, regs := (run v.a.toNat (sampleCoords v.mod)).map (g.readV s) }
    let s := (s.noteTlb g tex).noteTlb g smp
    let allBad := fun va : Nat => (lanesOf (g.row k).mask).map fun i => (i, va)
    let failed := fun va : Nat => counted s g .ld (.retire ((s.noteOwnError g.ctx va).pushLoad g true ((run v.d.toNat 4).map g.vreg) [] (allBad va)))
    if 2 ^ 49 ≤ tex then .trap (trapAt 0x30 tex 0)
    else if 2 ^ 49 ≤ smp then .trap (trapAt 0x30 smp 0)
    else if tex % 32 ≠ 0 then .trap (trapAt 0x31 tex 0)
    else if smp % 16 ≠ 0 then .trap (trapAt 0x31 smp 0)
    else if g.acqPending || s.ownHeld g.ctx tex 1 || s.ownHeld g.ctx smp 1 then .hold .unit s
    else match s.readDesc g tex 32 with
      | .fault kd va => .park kd 9 va 0
      | .err va => failed va
      | .ok tv =>
          match s.readDesc g smp 16 with
          | .fault kd va => .park kd 9 va 0
          | .err va => failed va
          | .ok sv =>
              if !texOk tv dim then .trap (trapAt 0x61 tex 0)
              else if !sampOk sv (s.legacyLaunch g) then .trap (trapAt 0x62 smp 0)
              else match s.purityRead g k (memoXB v.cuffD.memo) [tex, smp] with
                | some t => .trap t
                | none => sampleRes s g k v a (texOf tv) (sampOf sv)

end Sys2Proof.Machine
end

