-- ==== Sys2Proof/Machine/Memo.lean ====
section
/-! DEFINITION. Signatures (R245 to R249), memo tables (R250 to R252), tolerance classes (R254), and pure regions with their
instructions (R255 to R261, R264, R265, R432 to R434). -/

namespace Sys2Proof.Machine

/-! ### Signatures (R245 to R247) -/

/-- SigBegin. -/
def sigBegin (seed : Dword) (eligible : Bool) : SigState :=
  { h := 0x6A09E667F3BCC908#64 ^^^ seed, c := 0x811C9DC5#32 ^^^ seed.extractLsb' 0 32 ^^^ seed.extractLsb' 32 32, n := 0,
    eligible := eligible }

/-- SigWord. -/
def SigState.word (x : SigState) (w : Word) : SigState :=
  let h := (x.h ^^^ w.setWidth 64) * 0xC2B2AE3D27D4EB4F#64
  let c := (x.c ^^^ w) * 0x01000193#32
  { x with h := h ^^^ (h >>> 29), c := c ^^^ (c >>> 15), n := x.n + 1 }

/-- SigWord64. -/
def SigState.word64 (x : SigState) (v : Dword) : SigState := (x.word (v.extractLsb' 0 32)).word (v.extractLsb' 32 32)
/-- SigWord of each word of a list. -/
def SigState.words (x : SigState) (ws : List Word) : SigState := ws.foldl SigState.word x

/-- SigEnd: SIG64 and CHK32. -/
def SigState.fin (x : SigState) : Dword × Word :=
  let s := (x.h ^^^ BitVec.ofNat 64 x.n) * 0xFF51AFD7ED558CCD#64
  let k := (x.c ^^^ BitVec.ofNat 32 x.n) * 0x85EBCA6B#32
  let k := (k ^^^ (k >>> 13)) * 0xC2B2AE35#32
  (s ^^^ (s >>> 33), k ^^^ (k >>> 16))

/-- How the generation word of an address is read. -/
inductive GenRes where
  | ok (gen : Word) (attr : Attr) (pa : Nat)
  | fault (kind : Nat)
  | err

/-- Read the generation of the region that holds an address, for a group, at device scope (R247). -/
def State.genRead (s : State) (g : Group) (va : Nat) : GenRes :=
  match s.translateFor g va .read with
  | .fault k => .fault k
  | .err => .err
  | .ok t =>
      match s.generation t.pa with
      | some v => .ok (BitVec.ofNat 32 v) t.attr t.pa
      | none => .err

/-- The read of a generation waits: a line of the walk, or the line of the generation, is being retried, or needs the host (R35, R39, R40). -/
def State.genHeld (s : State) (g : Group) (va : Nat) : Bool :=
  (s.tableEntries g.ctx va).any s.paHeld || match s.translateFor g va .read with
    | .ok t => s.paHeld (genAddr (regionOf t.pa))
    | _ => false

/-- A group has read a generation: its translation is kept, and a line that could not be read is recorded (R49, R170, R190). -/
def State.noteGen (s : State) (g : Group) (va : Nat) : State :=
  let pas := match s.genRead g va with
    | .err => s.tableEntries g.ctx va ++ match s.translateFor g va .read with
        | .ok t => [genAddr (regionOf t.pa)]
        | _ => []
    | _ => []
  pas.foldl (fun t a => if t.lineBad a then t.noteBadAccess a (some g.ctx) else t) (s.cacheTlb g va)

/-- A group has read the generations of some addresses. -/
def State.noteGens (s : State) (g : Group) (vas : List Nat) : State := vas.foldl (fun t va => t.noteGen g va) s

/-- Absorb a generation word (R247); a region not tracked, or not for memos, makes the signature ineligible (R249). -/
def SigState.gen (x : SigState) (va : Nat) (gen : Word) (attr : Attr) : SigState :=
  let y := (x.word64 (BitVec.ofNat 64 (va >>> 16))).word gen
  { y with eligible := y.eligible && attr.track && attr.memo }

/-- The code identity of a launch, and whether it has one (R248). -/
def State.codeId (s : State) (g : Group) : Option (Dword × Word) := (s.launch g.launch).bind (·.code)

/-- Absorb a code identity (R248). -/
def SigState.code (x : SigState) (c : Option (Dword × Word)) : SigState :=
  match c with
  | some (h, k) => (x.word64 h).word k
  | none => { x with eligible := false }

/-! ### Tolerance classes (R254) -/

/-- Fraction bits dropped from FP32. -/
def tolBits (tol : Nat) : Nat := [0, 8, 13, 17].getD tol 0

/-- Quantise, of a pattern of a format (R254). -/
def Fmt.quantise (f : Fmt) (d x : Nat) : Nat :=
  if d = 0 then x
  else if (f.dec x).isNan then f.nan
  else
    let low := f.mag x % 2 ^ d
    let m := f.mag x - low
    let m := if 2 ^ (d - 1) < low || (low = 2 ^ (d - 1) && m.testBit d) then m + 2 ^ d else m
    let m := min m f.infBits
    if m = 0 then 0 else f.withSign (f.sign x) m

/-- Quantise an FP32 word. -/
def quant32 (tol : Nat) (w : Word) : Word := BitVec.ofNat 32 (fp32.quantise (tolBits tol) w.toNat)

/-- Quantise two packed elements. -/
def quantPair (f : Fmt) (d : Nat) (w : Word) : Word :=
  BitVec.ofNat 32 (f.quantise d (w.toNat % 65536) + 65536 * f.quantise d (w.toNat / 65536))

/-- The word that MKEY absorbs for a value (R258). -/
def keyWord (form tol : Nat) (w : Word) : Word :=
  match form with
  | 0 => quant32 tol w
  | 2 => quantPair fp16 (if tol = 3 then 4 else 0) w
  | 3 => quantPair bf16 (if tol = 3 then 1 else 0) w
  | _ => w

/-! ### Memo tables (R250 to R252) -/

/-- The entry of a table that holds nothing. -/
def MemoEntry.none : MemoEntry := { sig := 0, chk := 0, ctx := 0, kind := 0, tol := 0, cost := 0, payload := [] }

/-- The number of the set of a key, over all slices (R250). -/
def memoSet (ctx : BitVec 5) (sig : Dword) : Nat :=
  (bitsOf sig.toNat 3 0 ^^^ bitsOf sig.toNat 63 60) * 1024 + (bitsOf sig.toNat 13 4 ^^^ ctx.toNat)

/-- Way w of a set: an entry, where it is valid. -/
def State.memoWay (s : State) (set w : Nat) : Option MemoEntry :=
  (s.slices.memo.find? fun e => e.1 == set * 8 + w).map (·.2)

/-- The way of a set that a key hits (R251). -/
def State.memoFind (s : State) (ctx : BitVec 5) (kind : BitVec 2) (key : Dword × Word) : Option Nat :=
  (List.range 8).find? fun w => (s.memoWay (memoSet ctx key.1) w).any fun e =>
    e.ctx == ctx && e.kind == kind && e.sig == key.1 && e.chk == key.2

/-- The tree pseudo-LRU points away from a way that was used (log 16: the sense of its bits). -/
def plruTouch (b : BitVec 7) (w : Nat) : BitVec 7 :=
  let put := fun (b : BitVec 7) (n : Nat) (v : Bool) => if v then b ||| (1#7 <<< n) else b &&& ~~~(1#7 <<< n)
  put (put (put b 0 (decide (w < 4))) (1 + w / 4) (decide (w / 2 % 2 = 0))) (3 + w / 2) (decide (w % 2 = 0))
/-- The way that the tree names. -/
def plruVictim (b : BitVec 7) : Nat :=
  let r0 := (b.getLsbD 0).toNat
  let r1 := (b.getLsbD (1 + r0)).toNat
  4 * r0 + 2 * r1 + (b.getLsbD (3 + 2 * r0 + r1)).toNat

/-- A way of a set was used. -/
def State.memoTouch (s : State) (set w : Nat) : State :=
  { s with slices := { s.slices with memoLru := sset 0 set (plruTouch (sget 0 s.slices.memoLru set) w) s.slices.memoLru } }

/-- A store that has reached its slice (R251). -/
def State.memoStore (s : State) (e : MemoEntry) : State :=
  let set := memoSet e.ctx e.sig
  let w := match s.memoFind e.ctx e.kind (e.sig, e.chk) with
    | some w => w
    | none => match (List.range 8).find? fun w => (s.memoWay set w).isNone with
      | some w => w
      | none => plruVictim (sget 0 s.slices.memoLru set)
  ({ s with slices := { s.slices with memo := sput (set * 8 + w) e s.slices.memo } }.clearSram fun a => a == SramAt.memo (set * 8 + w)).memoTouch set w

/-- The slice drops the entry of a key, if it still holds it (R265). -/
def State.memoDrop (s : State) (e : MemoEntry) : State :=
  match s.memoFind e.ctx e.kind (e.sig, e.chk) with
  | some w => { s with slices := { s.slices with memo := sdel (memoSet e.ctx e.sig * 8 + w) s.slices.memo } }
  | none => s

/-- The slice of a key (R250). -/
def memoSlice (sig : Dword) : Nat := bitsOf sig.toNat 3 0 ^^^ bitsOf sig.toNat 63 60

/-- Two messages travel from one core to one slice, and so in order (R176). -/
def MemoMsg.sameRoute (a b : MemoMsg) : Bool := a.core == b.core && memoSlice a.entry.sig == memoSlice b.entry.sig

/-- A core posts a memo store, or an invalidation: no counter counts it, and it reaches its slice at some later time (R251). -/
def State.memoPost (s : State) (m : MemoMsg) : State := { s with slices := { s.slices with memoMsgs := s.slices.memoMsgs ++ [m] } }

/-- A message reaches its slice. -/
def State.memoApply (s : State) (m : MemoMsg) : State := if m.drop then s.memoDrop m.entry else s.memoStore m.entry

/-- Some of the messages under way have reached their slices by now: those that a test names, others by free choice, and with each what was sent
before it from its core to its slice (R176, R251; log 93). -/
def State.memoArrive (s : State) (must : MemoMsg → Bool) : State :=
  let ms := s.slices.memoMsgs.zipIdx
  let here := ms.filter fun m => must m.1 || s.freeBit .probe m.2
  let by_ := ms.partition fun m => here.any fun h => decide (m.2 ≤ h.2) && h.1.sameRoute m.1
  let s1 : State := { s with slices := { s.slices with memoMsgs := by_.2.map (·.1) } }
  by_.1.foldl (fun t m => t.memoApply m.1) s1

/-- A lookup of a core reaches its slice: the entry that it hits (R251). One whose entry has an ECC error misses, but that the spec also delivers
what a single-bit error corrects: there either may be (R68, R252, R281; log 93); an entry with two bits wrong is invalidated (R68). -/
def State.memoLookup (s : State) (core : Nat) (ctx : BitVec 5) (kind : BitVec 2) (key : Dword × Word) : Option MemoEntry × State :=
  let s0 := s.memoArrive fun m => m.core == core && memoSlice m.entry.sig == memoSlice key.1
  let set := memoSet ctx key.1
  match s0.memoFind ctx kind key with
  | none => (none, s0)
  | some w =>
      match s0.sramAt (.memo (set * 8 + w)) with
      | none => (s0.memoWay set w, s0.memoTouch set w)
      | some e =>
          let s1 := s0.meetSram (some ctx) (.memo (set * 8 + w)) (some true)
          if e.double then (none, { s1 with slices := { s1.slices with memo := sdel (set * 8 + w) s1.slices.memo } })
          else if e.again || s0.freeBit .ecc (set * 8 + w) then (none, s1)
          else (s0.memoWay set w, s1.memoTouch set w)

/-- A flush of a context acts at every slice on what has reached it; what reaches a slice later stays (R252). -/
def State.memoFlush (s : State) (ctx : BitVec 5) : State :=
  let t := s.memoArrive fun _ => false
  { t with slices := { t.slices with memo := t.slices.memo.filter fun e => e.2.ctx != ctx } }

/-! ### Verification (R259, R264, R265) -/

/-- Period(VERIFY_RATE). -/
def verifyPeriod (rate : BitVec 2) : Nat := if rate = 1 then 64 else if rate = 2 then 256 else 4096

/-- A hit is verified: the counter after it, and the choice (R259). -/
def verifies (rate : BitVec 2) (count : Word) : Word × Bool :=
  (count + 1, rate != 0 && (count + 1).toNat % verifyPeriod rate == 0)

/-- A recomputed result matches a stored payload (R265). -/
def matchesEntry (e : MemoEntry) (ws : List Word) : Bool :=
  e.payload.length == ws.length && (e.payload.zip ws).all fun ab => quant32 e.tol.toNat ab.1 == quant32 e.tol.toNat ab.2

/-- A verified result that does not match (R265). -/
def State.memoMismatch (s : State) (g : Group) (e : MemoEntry) : State :=
  ((s.memoPost { core := g.core, drop := true, entry := e }).modCtx g.ctx fun c => { c with status := { c.status with memoMismatch := c.status.memoMismatch + 1 } }).postCtx
    g.ctx 6 0 (s.queueOf g) e.sig.toNat e.chk.toNat 0

/-- MEMO_CHECKED counts a verified hit (R264). -/
def State.memoChecked (s : State) (ctx : BitVec 5) (n : Nat) : State :=
  s.modCtx ctx fun c => { c with status := { c.status with memoChecked := c.status.memoChecked + BitVec.ofNat 64 n } }

/-- A context is credited with cycles (R104); one that ends has none (R109). -/
def State.credit (s : State) (ctx : BitVec 5) (n : Nat) : State :=
  s.modCtx ctx fun c => if c.st = .active || c.st = .halted then { c with credits := c.credits + n } else c

/-! ### Checks (R256, R433) -/

/-- STATE as PURE_STATE reports it (R440). -/
def RegionState.code : RegionState → Nat
  | .closed => 0
  | .opened => 1
  | .probed => 2

/-- PURE_SPLIT, and then PURE_STATE, or what follows (R256, R433). -/
def regionCheck (g : Group) (split : Bool) (want : RegionState) (r : Res) : Res :=
  if split && !g.single then .trap (trapOf 0x73)
  else if g.region.st ≠ want then .trap (trapNum 0x72 g.region.st.code)
  else r

/-- A signature of the region in a lane. -/
def Region.sig (r : Region) (i : Nat) : SigState := r.sigs.getD i (sigBegin 0 false)
/-- LTOL of a lane. -/
def Region.tol (r : Region) (i : Nat) : BitVec 2 := r.ltol.getD i 0

/-! ### PURE.BEGIN (R257) -/

/-- PURE.BEGIN (R257, R432). -/
def execPureBegin (a : R7) (s : State) : Host.Outcome State Fault Refusal :=
  issue (.pureBegin a) s fun g k =>
    regionCheck g true .closed
      (let rid := g.readS s k a.toNat
       let x := (sigBegin ((2#8 ++ 0#24) ++ rid) (s.descOf g).memo).code (s.codeId g)
       keep s { g with region := { g.region with st := .opened, rid := rid, rset := (g.row k).mask, sigs := List.replicate 96 x,
                                                 ltol := List.replicate 96 0, miss := 0, ver := 0, vstore := [], vwritten := [],
                                                 swritten := [], regions := [] } })

/-! ### MKEY (R258) -/

/-- Absorb a value into some lanes. -/
def Region.absorb (r : Region) (lanes : List Nat) (tol : BitVec 2) (f : Nat → SigState → SigState) : Region :=
  { r with sigs := r.sigs.zipIdx.map fun xi => if lanes.contains xi.2 then f xi.2 xi.1 else xi.1
           ltol := r.ltol.zipIdx.map fun ti => if lanes.contains ti.2 && ti.1.toNat < tol.toNat then tol else ti.1 }

/-- MKEY (R258, R432). -/
def execMkey (v : VOps) (s : State) : Host.Outcome State Fault Refusal :=
  issue (.mkey v) s fun g k =>
    regionCheck g false .opened
      (let form := v.mod.toNat
       let tol := memoTol v.cuffD.memo
       let m := (g.row k).mask
       let n := if form = 4 then 2 else 1
       let named := fun r : Region => r.wrote (if v.sb then [] else (run v.a.toNat n).map g.vreg) (if v.sb then (run v.b.toNat n).map g.sreg else [])
       if (if v.sb then memoXB v.cuffD.memo else memoXA v.cuffD.memo) then keep s { g with region := named g.region }
       else
         let lanes := (lanesOf m).filter fun i => g.region.rset.getLsbD i
         let head := BitVec.ofNat 32 (tol.toNat + 4 * form)
         if form < 4 then
           let val := fun i : Nat => if v.sb then g.readS s k v.b.toNat else laneOf (g.readV s v.a.toNat) i
           keep s { g with region := named (g.region.absorb lanes tol fun i x => (x.word head).word (keyWord form tol.toNat (val i))) }
         else
           let addr := fun i : Nat => if v.sb then g.spair s k v.b.toNat else vpair (g.readV s v.a.toNat) (g.readV s (v.a.toNat + 1)) i
           let as := (lanesOf m).map fun i => (i, addr i)
           match laneTrap 0x30 (as.filter fun a => decide (2 ^ 49 ≤ a.2)) with
           | some t => .trap t
           | none =>
               if g.acqPending || as.any fun a => s.genHeld g a.2 then .hold .unit s
               else
               let rs := as.map fun a => (a.1, a.2, s.genRead g a.2)
               let faults := rs.filterMap fun r => match r.2.2 with
                 | .fault kd => some (r.1, r.2.1, kd)
                 | _ => none
               match faults with
               | f :: _ => .park f.2.2 0 f.2.1 (lanesMask faults)
               | [] =>
                   let ok := rs.filterMap fun r => match r.2.2 with
                     | .ok gen at_ pa => if lanes.contains r.1 then some (r.1, r.2.1, gen, at_, pa) else none
                     | _ => none
                   let bad := rs.filterMap fun r => match r.2.2 with
                     | .err => some (r.1, r.2.1)
                     | _ => none
                   let r1 := g.region.absorb (ok.map (·.1)) tol fun i x => match ok.find? fun o => o.1 == i with
                     | some o => (x.word head).gen o.2.1 o.2.2.1 o.2.2.2.1
                     | none => x
                   let r2 := named { r1 with regions := ok.map (fun o => (o.1, o.2.1 / 65536)) ++ r1.regions }
                   let g1 := { g with region := r2 }
                   keep (s.noteGens g (as.map (·.2))) (match errOf bad with
                     | some e => g1.due (memError e)
                     | none => g1))

/-! ### PURE.PROBE (R259) -/

/-- The lookups of the lanes of P that may hit, in order: lane and entry (R251, R259). -/
def State.probeAll (s : State) (g : Group) : List Nat → List (Nat × MemoEntry) × State
  | [] => ([], s)
  | i :: r =>
      let x := g.region.sig i
      if !x.eligible || ((s.descOf g).det && g.region.tol i != 0) then State.probeAll s g r
      else
        let l := s.memoLookup g.core g.ctx 2 x.fin
        let t := State.probeAll l.2 g r
        (match l.1 with
         | some e => ((i, e) :: t.1, t.2)
         | none => t)

/-- Remove from H the lanes of quads that do not hit as a whole (R259). -/
def quadHits (p : Mask) (h : List (Nat × MemoEntry)) : List (Nat × MemoEntry) :=
  h.filter fun e => (List.range 4).all fun j =>
    let i := e.1 / 4 * 4 + j
    !p.getLsbD i || h.any fun x => x.1 == i

/-- VCOUNT over the lanes of H, and which of them are verified (R259). -/
def verifyAll (rate : BitVec 2) : Word → List (Nat × MemoEntry) → Word × List (Nat × MemoEntry) × List (Nat × MemoEntry)
  | c, [] => (c, [], [])
  | c, e :: r =>
      let v := verifies rate c
      let t := verifyAll rate v.1 r
      if v.2 then (t.1, t.2.1, e :: t.2.2) else (t.1, e :: t.2.1, t.2.2)

/-- The mask of some lanes. -/
def lanesOfHits (h : List (Nat × MemoEntry)) : Mask := maskOf fun i => h.any fun e => e.1 == i

/-- PURE.PROBE once its lookups have returned (R259, R261). -/
def probeRes (s : State) (g : Group) (k : Nat) (d : R7) (pw : Nat) (quad : Bool) : Res :=
  let p := (g.row k).mask &&& g.region.rset
  let l := s.probeAll g (lanesOf p)
  let h0 := l.1.filter fun e => e.2.payload.length == pw
  let h1 := if quad then quadHits p h0 else h0
  let v := verifyAll (s.descOf g).verifyRate g.region.vcount h1
  let h := lanesOfHits v.2.1
  let g1 := (List.range pw).foldl (fun u j => u.writeV s (d.toNat + j) h fun i =>
    match v.2.1.find? fun e => e.1 == i with
    | some e => e.2.payload.getD j 0
    | none => 0) g
  let g2 := (g1.modRow k fun r => { r with mask := r.mask &&& ~~~h }).setMemoHit (h != 0)
  let region := { g2.region with st := .probed, miss := p &&& ~~~h, ver := lanesOfHits v.2.2, vstore := v.2.2, preg := g.vreg d.toNat,
                                 pw := pw, quad := quad, vcount := v.1 }
  let s1 := (l.2.modGroup g.uid fun _ => { g2 with region := region }).memoChecked g.ctx v.2.2.length
  .retire (if h = p && p != 0 && v.2.2.isEmpty then
    s1.credit g.ctx (v.2.1.foldl (fun m e => max m e.2.cost.toNat) 0) else s1)

/-- PURE.PROBE (R259, R433): it blocks until its lookups have returned. -/
def execPureProbe (d : R7) (mod : BitVec 8) (s : State) : Host.Outcome State Fault Refusal :=
  issue (.pureProbe d mod) s fun g k =>
    regionCheck g true .opened
      (let pc := (g.row k).pc.toNat
       match g.answerAt pc with
       | some _ =>
           let g1 := g.takeAnswer pc
           probeRes (s.putGroup g1) g1 k d (mod.extractLsb' 0 5).toNat (mod.getLsbD 5)
       | none => .hold .probe (if (g.row k).wait == .probe then s
           else s.modGroup g.uid fun h => { h with region := { h.region with t0 := (s.core g.core).clocks, spent := 0 } }))

/-! ### PURE.END (R260) -/

/-- The contents of a logical register as an instruction reads them. -/
def Group.readLog (s : State) (g : Group) (l : Nat) : Lanes :=
  if g.isPending true l then (List.range 96).map fun i => g.readLane s true l i (laneOf (g.vraw l) i) else g.vraw l

/-- One lane of MISS at PURE.END: it verifies or stores (R251, R260). -/
def State.endLane (s : State) (g : Group) (cost : Nat) (ws : Nat → List Word) (i : Nat) : State :=
  if g.region.ver.getLsbD i then
    match g.region.vstore.find? fun e => e.1 == i with
    | some e => if matchesEntry e.2 (ws i) then s else s.memoMismatch g e.2
    | none => s
  else
    let x := g.region.sig i
    if !x.eligible || ((s.descOf g).det && g.region.tol i != 0) then s
    else
      let e : MemoEntry := { sig := x.fin.1, chk := x.fin.2, ctx := g.ctx, kind := 2, tol := g.region.tol i, cost := BitVec.ofNat 16 (min cost 65535),
                             payload := ws i }
      s.memoPost { core := g.core, drop := false, entry := e }

/-- PURE.END (R260, R433). -/
def execPureEnd (s : State) : Host.Outcome State Fault Refusal :=
  issue .pureEnd s fun g k =>
    regionCheck g true .probed
      (let r := g.region
       let regs := run r.preg r.pw
       if regs.any fun l => !g.vregOk l then .trap (trapOf 0x20)
       else match (if (s.descOf g).hazardCheck then firstTrap 0x27 regs fun l => g.isPending true l else none) with
        | some t => .trap t
        | none =>
            let vs := regs.map (g.readLog s)
            let lanes := lanesOf (r.miss &&& (g.row k).mask)
            let s1 := lanes.foldl (fun t i => t.endLane g (r.spent + ((s.core g.core).clocks - r.t0)) (fun i => vs.map fun v => laneOf v i) i) s
            .retire (s1.modGroup g.uid fun h => { (h.modRow k fun w => { w with mask := r.rset &&& w.own }) with region := r.close }))

/-- MEMO.FLUSH (R252, R434). -/
def execMemoFlush (s : State) : Host.Outcome State Fault Refusal :=
  issue .memoFlush s fun g _ => .retire (s.memoFlush g.ctx)

/-- MEMO_LOOKUP_RETURN: the lookups of a group's PURE.PROBE return (R259), and posted stores go on (R251). -/
def execMemoLookupReturn (group : Nat) (s : State) : Host.Outcome State Fault Refusal :=
  .next ((s.memoArrive fun _ => false).modGroup group fun g =>
    (g.liveRows.filter fun k => (g.row k).wait == .probe).foldl (fun h k => h.putAnswer (g.row k).pc.toNat [0]) g)

end Sys2Proof.Machine
end

