-- ==== Sys2Proof/Machine/Trace.lean ====
section
/-! DEFINITION. Ray traversal: the ray table, nodes, exact tests, candidates and callbacks (R294 to R303), TRACE, TRACE.M and VERDICT
(R263, R423, R424), and the build helpers BXUNION, SAHCOST and NODEPACK (R302, R425 to R427). -/

namespace Sys2Proof.Machine

/-! ### Exact vectors -/

/-- Three exact components. -/
structure Vec3 where
  x : Frac
  y : Frac
  z : Frac

/-- Component k. -/
def Vec3.get (v : Vec3) (k : Nat) : Frac := if k = 0 then v.x else if k = 1 then v.y else v.z
/-- a − b. -/
def Vec3.sub (a b : Vec3) : Vec3 := ⟨fracSub a.x b.x, fracSub a.y b.y, fracSub a.z b.z⟩
/-- a · b. -/
def Vec3.dot (a b : Vec3) : Frac := fracAdd (fracAdd (fracMul a.x b.x) (fracMul a.y b.y)) (fracMul a.z b.z)
/-- a × b. -/
def Vec3.cross (a b : Vec3) : Vec3 :=
  ⟨fracSub (fracMul a.y b.z) (fracMul a.z b.y), fracSub (fracMul a.z b.x) (fracMul a.x b.z), fracSub (fracMul a.x b.y) (fracMul a.y b.x)⟩
/-- a / b, of a b that is not 0. -/
def fracDiv (a b : Frac) : Frac := if b.num < 0 then ⟨-(a.num * b.den), a.den * b.num.natAbs⟩ else ⟨a.num * b.den, a.den * b.num.natAbs⟩
/-- a ≤ b. -/
def fracLe (a b : Frac) : Bool := !fracLt b a
/-- Rounded to FP32 with RNE. -/
def fracTo32 (a : Frac) : Word := BitVec.ofNat 32 (fp32.roundTo .rne (decide (a.num < 0)) a.num.natAbs a.den).1

/-! ### Rays -/

/-- Word k of a ray: origin, direction, TMIN, TMAX (R294). -/
def rayWord (r : List Word) (k : Nat) : Word := r.getD k 0
/-- Origin and direction. -/
def rayOrigin (r : List Word) : Vec3 := ⟨fracOf32 (rayWord r 0), fracOf32 (rayWord r 1), fracOf32 (rayWord r 2)⟩
def rayDir (r : List Word) : Vec3 := ⟨fracOf32 (rayWord r 3), fracOf32 (rayWord r 4), fracOf32 (rayWord r 5)⟩
/-- The FP32 value of a word. -/
def valOf (w : Word) : FVal := fp32.dec w.toNat

/-- Origin or direction has a component that is no finite number, or the direction is zero. -/
def rayFlat (r : List Word) : Bool := (r.take 6).any notFinite || (r.drop 3 |>.take 3).all fun w => (valOf w).isZero
/-- The ray misses at once (R294). -/
def rayMisses (r : List Word) : Bool :=
  r.any (fun w => (valOf w).isNan) || (valOf (rayWord r 7)).lt (valOf (rayWord r 6)) || (r.drop 3 |>.take 3).all fun w => (valOf w).isZero

/-- A bound of a range of t; none is unbounded on its side. -/
abbrev Bound := Option Frac

/-- A range of t that may be empty. -/
structure TRange where
  lo : Bound
  hi : Bound
  empty : Bool

/-- [TMIN, TMAX] (R294). -/
def rayRange (r : List Word) : TRange :=
  let a := valOf (rayWord r 6)
  let b := valOf (rayWord r 7)
  { lo := if a.isInf then none else some (fracOf32 (rayWord r 6)), hi := if b.isInf then none else some (fracOf32 (rayWord r 7)),
    empty := (a.isInf && !a.neg) || (b.isInf && b.neg) }

/-- The range holds some t. -/
def TRange.some? (t : TRange) : Bool :=
  !t.empty && match t.lo, t.hi with
    | some a, some b => fracLe a b
    | _, _ => true
/-- A t lies in the range. -/
def TRange.has (t : TRange) (x : Frac) : Bool := !t.empty && t.lo.all (fun a => fracLe a x) && t.hi.all (fracLe x)
/-- The range above, or below, a bound. -/
def TRange.above (t : TRange) (a : Frac) : TRange := { t with lo := match t.lo with
  | some l => some (fracMax l a)
  | none => some a }
def TRange.below (t : TRange) (b : Frac) : TRange := { t with hi := match t.hi with
  | some h => some (fracMin h b)
  | none => some b }

/-- A side of a box along one axis: a number, or an infinity. -/
def sideOf (v : FVal) : Option Frac :=
  match v with
  | .fin s n d => some (fracOf s n d)
  | _ => none

/-- The slab of one axis (R296): d = 0 asks that the origin lies between the sides. -/
def slab (o d : Frac) (lo hi : FVal) (t : TRange) : TRange :=
  if lo.isNan || hi.isNan || (lo.isInf && !lo.neg) || (hi.isInf && hi.neg) then { t with empty := true }
  else if d.num = 0 then
    if (sideOf lo).all (fun l => fracLe l o) && (sideOf hi).all (fracLe o) then t else { t with empty := true }
  else
    let q := fun v : FVal => (sideOf v).map fun x => fracDiv (fracSub x o) d
    let near := if 0 < d.num then q lo else q hi
    let far := if 0 < d.num then q hi else q lo
    let t1 := match near with
      | some a => t.above a
      | none => t
    match far with
    | some b => t1.below b
    | none => t1

/-- The part of a ray's range that lies in a box of six values, lo and then hi (R296). -/
def boxRange (r : List Word) (b : List FVal) : TRange :=
  let o := rayOrigin r
  let d := rayDir r
  (List.range 3).foldl (fun t k => slab (o.get k) (d.get k) (b.getD k (.nan false)) (b.getD (k + 3) (.nan false)) t) (rayRange r)

/-- A linear form in b1 and b2: its coefficients and its constant. -/
structure Lin where
  a : Frac
  b : Frac
  c : Frac

/-- The value of a form at a point. -/
def Lin.at_ (l : Lin) (p : Frac × Frac) : Frac := fracAdd (fracAdd (fracMul l.a p.1) (fracMul l.b p.2)) l.c
/-- The point at which two forms are zero, where there is exactly one. -/
def Lin.meet (l m : Lin) : Option (Frac × Frac) :=
  let det := fracSub (fracMul l.a m.b) (fracMul l.b m.a)
  if det.num = 0 then none
  else some (fracDiv (fracSub (fracMul l.b m.c) (fracMul m.b l.c)) det, fracDiv (fracSub (fracMul m.a l.c) (fracMul l.a m.c)) det)

/-- The corners of the set of b1 and b2 at which a ray in a triangle's plane, or one that meets a triangle without area, satisfies R296's equation
and bounds, each with its t. -/
def flatCorners (r : List Word) (v0 e1 e2 : Vec3) : List (Frac × Frac × Frac) :=
  let d := rayDir r
  let w := v0.sub (rayOrigin r)
  let dd := d.dot d
  let zero := (List.range 3).map fun k => (⟨(e1.cross d).get k, (e2.cross d).get k, (w.cross d).get k⟩ : Lin)
  let tOf : Lin := ⟨fracDiv (e1.dot d) dd, fracDiv (e2.dot d) dd, fracDiv (w.dot d) dd⟩
  let neg := fun x : Frac => (⟨-x.num, x.den⟩ : Frac)
  let lo := (rayRange r).lo.toList.map fun x => ({ tOf with c := fracSub tOf.c x } : Lin)
  let hi := (rayRange r).hi.toList.map fun x => (⟨neg tOf.a, neg tOf.b, fracSub x tOf.c⟩ : Lin)
  let pos := [⟨fracInt 1, fracInt 0, fracInt 0⟩, ⟨fracInt 0, fracInt 1, fracInt 0⟩, (⟨fracInt (-1), fracInt (-1), fracInt 1⟩ : Lin)] ++ lo ++ hi
  if (rayRange r).empty then []
  else
    let all := zero ++ pos
    let ps := all.flatMap fun l => all.filterMap l.meet
    (ps.filter fun p => zero.all (fun l => (l.at_ p).num = 0) && pos.all fun l => 0 ≤ (l.at_ p).num).map fun p => (tOf.at_ p, p.1, p.2)

/-- Some mean of corners, by weights; equal ones where every weight is 0. -/
def cornerMean (weight : Nat → Nat) (cs : List (Frac × Frac × Frac)) : Frac × Frac :=
  let total := (List.range cs.length).foldl (fun n k => n + weight k) 0
  let ws := cs.zipIdx.map fun ck => (ck.1, fracDiv (fracInt (if total = 0 then 1 else weight ck.2)) (fracInt (if total = 0 then cs.length else total)))
  ws.foldl (fun b x => (fracAdd b.1 (fracMul x.2 x.1.2.1), fracAdd b.2 (fracMul x.2 x.1.2.2))) (fracInt 0, fracInt 0)

/-- The hit of a ray for which R296's equation has no single solution: the least t, which is the closest, and at it b1 and b2 that the spec does not
fix among the solutions there: free ones (log 17). -/
def flatHit (weight : Nat → Nat) (r : List Word) (v0 e1 e2 : Vec3) : Option (Frac × Frac × Frac × Bool) :=
  match flatCorners r v0 e1 e2 with
  | [] => none
  | c :: cs =>
      let t := cs.foldl (fun m x => fracMin m x.1) c.1
      let b := cornerMean weight ((c :: cs).filter fun x => fracLe x.1 t)
      some (t, b.1, b.2, decide (((e1.cross e2).dot (rayDir r)).num < 0))

/-- Where a ray hits a triangle: t, b1, b2 and whether from the front (R296). weight: free numbers, for where more than one point satisfies the
equation. -/
def triHit (weight : Nat → Nat) (r : List Word) (v0 v1 v2 : Vec3) : Option (Frac × Frac × Frac × Bool) :=
  let o := rayOrigin r
  let d := rayDir r
  let e1 := v1.sub v0
  let e2 := v2.sub v0
  let p := d.cross e2
  let det := e1.dot p
  if det.num = 0 then flatHit weight r v0 e1 e2
  else
    let w := o.sub v0
    let q := w.cross e1
    let b1 := fracDiv (w.dot p) det
    let b2 := fracDiv (d.dot q) det
    let t := fracDiv (e2.dot q) det
    if 0 ≤ b1.num && 0 ≤ b2.num && fracLe (fracAdd b1 b2) (fracInt 1) && (rayRange r).has t then
      some (t, b1, b2, decide (((e1.cross e2).dot d).num < 0))
    else none

/-! ### Nodes (R301) -/

/-- Word k of a node. -/
def nodeWord (v k : Nat) : Word := BitVec.ofNat 32 (bitsOf v (32 * k + 31) (32 * k))

/-- A RES0 bit of a node is set (R295, R301). -/
def nodeRes (type v : Nat) : Bool :=
  match type with
  | 1 => bitsOf v 127 120 != 0 || bitsOf v 511 448 != 0
  | 2 => bitsOf v 351 345 != 0 || bitsOf v 383 368 != 0 || bitsOf v 511 384 != 0
  | 3 => bitsOf v 63 49 != 0 || bitsOf v 511 506 != 0
  | _ => bitsOf v 255 249 != 0 || bitsOf v 287 272 != 0 || bitsOf v 511 288 != 0

/-- The box of child c of a box node (R301). -/
def childBox (v c : Nat) : List FVal :=
  let e := fun k : Nat => bitsOf v (96 + 8 * k + 7) (96 + 8 * k)
  let q := fun k : Nat => bitsOf v (8 * (32 + 6 * c + k) + 7) (8 * (32 + 6 * c + k))
  let side := fun (k n : Nat) =>
    match valOf (nodeWord v k) with
    | .fin s a b =>
        let p := scale2 n 1 ((e k : Int) - 127)
        let f := fracAdd (fracOf s a b) ⟨p.1, p.2⟩
        FVal.fin (decide (f.num < 0)) f.num.natAbs f.den
    | x => x
  if (List.range 3).any fun k => q (3 + k) < q k then []
  else (List.range 3).map (fun k => side k (q k)) ++ (List.range 3).map fun k => side k (q (3 + k))

/-- A child reference: its type, and the address it gives from a node. -/
def childRef (v node c : Nat) : Nat × Int :=
  let w := nodeWord v (4 + c)
  ((w.extractLsb' 0 3).toNat, (node : Int) + 64 * (w.extractLsb' 3 29).toInt)

/-- The children of a box node that a ray enters: entry distance, index, type and address. -/
def childrenOf (r : List Word) (v node : Nat) : List (Bound × Nat × Nat × Int) :=
  (List.range 4).filterMap fun c =>
    let ref := childRef v node c
    let b := childBox v c
    let t := boxRange r b
    if ref.1 = 0 || b.isEmpty || !t.some? then none else some (t.lo, c, ref.1, ref.2)

/-- a comes before b by entry distance, and among equals by index (R423). -/
def nearer (a b : Bound × Nat × Nat × Int) : Bool :=
  match a.1, b.1 with
  | none, none => decide (a.2.1 < b.2.1)
  | none, some _ => true
  | some _, none => false
  | some x, some y => fracLt x y || (fracLe x y && decide (a.2.1 < b.2.1))

/-- Insert by that order. -/
def insertNear (a : Bound × Nat × Nat × Int) : List (Bound × Nat × Nat × Int) → List (Bound × Nat × Nat × Int)
  | [] => [a]
  | b :: r => if nearer a b then a :: b :: r else b :: insertNear a r

/-- The object-space ray below an instance (R296). -/
def objectRay (r : List Word) (v : Nat) : List Word :=
  let m := fun (i j : Nat) => fracOf32 (nodeWord v (2 + 4 * i + j))
  let mul := fun (i : Nat) (p : Vec3) (one : Bool) =>
    let s := fracAdd (fracAdd (fracMul (m i 0) p.x) (fracMul (m i 1) p.y)) (fracMul (m i 2) p.z)
    fracTo32 (if one then fracAdd s (m i 3) else s)
  (List.range 3).map (fun i => mul i (rayOrigin r) true) ++ (List.range 3).map (fun i => mul i (rayDir r) false) ++ r.drop 6

/-- Some number of an instance's matrix is not finite. -/
def matrixFlat (v : Nat) : Bool := (List.range 12).any fun k => notFinite (nodeWord v (2 + k))

/-! ### Candidates (R297) -/

/-- The ray's flags (R294). -/
def rayFlag (r : Ray) (k : Nat) : Bool := r.flags.getLsbD k
/-- CULL_MASK. -/
def cullMask (r : Ray) : BitVec 8 := r.flags.extractLsb' 8 8

/-- a is closer than the committed hit (R297). -/
def closer (a : Hit) (c : Option Hit) : Bool :=
  match c with
  | none => true
  | some b =>
      let x := valOf a.t
      let y := valOf b.t
      let key := fun h : Hit => (h.instId.toNat * 2 ^ 24 + h.geom.toNat) * 2 ^ 32 + h.prim.toNat
      x.lt y || (!y.lt x && decide (key a < key b))

/-- +∞. -/
def posInf : Word := 0x7F800000#32

/-- The hit record (R303). -/
def Hit.record (h : Hit) : List Word :=
  [h.t, h.b1, h.b2, h.prim, BitVec.ofNat 32 (h.geom.toNat + h.kind.toNat <<< 24 + h.front.toNat <<< 28), h.instId.setWidth 32, h.shader,
   h.hitKind.setWidth 32]
/-- The record of a miss (R303). -/
def missRecord : List Word := [posInf, 0, 0, 0, 0, 0, 0, 0]
/-- The record of a fault (3) or a node error (4); the spec states no t for it (log 17). -/
def badRecord (t : Word) (kind : Nat) : List Word := [t, 0, 0, 0, BitVec.ofNat 32 (kind <<< 24), 0, 0, 0]
/-- The record of a ray whose traversal has ended. -/
def Ray.result (r : Ray) : List Word :=
  match r.commit with
  | some h => h.record
  | none => missRecord

/-- Commit a candidate: FIRST_HIT then ends the traversal (R297). -/
def Ray.take (r : Ray) (h : Hit) : Ray :=
  let r1 := { r with commit := some h }
  if rayFlag r 1 then { r1 with phase := .done h.record } else r1

/-! ### One node (R295 to R300) -/

/-- What the visit of a node leads to. -/
inductive Visit where
  | go (r : Ray)
  | fault (kind va : Nat)
  | err (va : Nat)
  | wait
  | bad
  | wild
  | call (h : Hit) (isect : Bool) (entry : Pc) (obj : List Word)

/-- Read n bytes of a node or of the shader table, which must lie below 2^49 and be aligned; a read may have to wait (R35, R39, R40). -/
def State.readBlock (s : State) (g : Group) (va n : Nat) (ok : Nat → Visit) : Visit :=
  if 2 ^ 49 < va + n || va % n ≠ 0 then .wild
  else if s.ownHeld g.ctx va 1 then .wait
  else match s.readDesc g va n with
    | .fault k a => .fault k a
    | .err a => .err a
    | .ok v => ok v

/-- The shader-table entry of an index: ANYHIT and ISECT (R300); zero where there is no table (R423). One that is no address of an instruction
(R310) starts nothing, and ends the ray as a node that cannot be read does (log 17). -/
def State.shaderEntry (s : State) (g : Group) (idx : Nat) (go : Pc → Pc → Visit) : Visit :=
  match s.launch g.launch with
  | none => go 0 0
  | some l =>
      if l.ld.shaderTable = 0 then go 0 0
      else s.readBlock g (l.ld.shaderTable.toNat + 16 * idx) 16 fun v =>
        if bitsOf v 63 49 != 0 || bitsOf v 127 113 != 0 then .bad
        else if bitsOf v 1 0 != 0 || bitsOf v 65 64 != 0 then .wild
        else go (BitVec.ofNat 49 (bitsOf v 48 0)) (BitVec.ofNat 49 (bitsOf v 112 64))

/-- The ray as a node's level sees it: below an instance, in object space. -/
def levelRay (r : Ray) (w : RayWork) : List Word :=
  match w.inst with
  | some i => i.ray
  | none => r.ray
/-- INST_ID and SHADER_BASE of a level (R301). -/
def levelId (w : RayWork) : Nat := (w.inst.map (·.instId)).getD 0xFFFFFF
def levelBase (w : RayWork) : Nat := (w.inst.map (·.shaderBase)).getD 0

/-- A box node. -/
def visitBox (r : Ray) (w : RayWork) (det : Bool) (v : Nat) : Visit :=
  let cs := childrenOf (levelRay r w) v w.node
  let ord := if det then cs.foldr insertNear [] else cs
  if ord.any fun c => c.2.2.2 < 0 then .wild
  else .go { r with work := ord.map (fun c => { node := c.2.2.2.toNat, type := c.2.2.1, inst := w.inst }) ++ r.work }

/-- A triangle leaf. -/
def State.visitTri (s : State) (g : Group) (r : Ray) (w : RayWork) (v : Nat) : Visit :=
  let vx := fun k : Nat => (⟨fracOf32 (nodeWord v (3 * k)), fracOf32 (nodeWord v (3 * k + 1)), fracOf32 (nodeWord v (3 * k + 2))⟩ : Vec3)
  let culls := !(w.inst.any (·.noCull))
  if (List.range 9).any fun k => notFinite (nodeWord v k) then .go r
  else match triHit (fun k => s.freeNat .order (2 ^ 61 + r.entry * 64 + k) (2 ^ 32)) (levelRay r w) (vx 0) (vx 1) (vx 2) with
    | none => .go r
    | some (t, b1, b2, front) =>
        if culls && ((rayFlag r 2 && !front) || (rayFlag r 3 && front)) then .go r
        else
          let idx := levelBase w + bitsOf v 367 352
          let h : Hit := { t := fracTo32 t, b1 := fracTo32 b1, b2 := fracTo32 b2, prim := nodeWord v 9, geom := BitVec.ofNat 24 (bitsOf v 343 320),
                           kind := 1, front := front, instId := BitVec.ofNat 24 (levelId w), shader := BitVec.ofNat 32 idx, hitKind := 0 }
          if !closer h r.commit then .go r
          else if bitsOf v 344 344 == 1 || w.inst.any (·.forceOpaque) || rayFlag r 0 then .go (r.take h)
          else s.shaderEntry g idx fun anyhit _ => if anyhit = 0 then .go (r.take h) else .call h false anyhit (levelRay r w)

/-- An instance: its children are tested with the object-space ray (R296). -/
def visitInst (r : Ray) (w : RayWork) (v : Nat) : Visit :=
  if w.inst.isSome then .bad
  else if BitVec.ofNat 8 (bitsOf v 479 472) &&& cullMask r == 0 then .go r
  else
    let o := objectRay r.ray v
    if matrixFlat v || rayFlat o then .go r
    else
      let i : InstCtx := { ray := o, instId := bitsOf v 471 448, shaderBase := bitsOf v 503 480, forceOpaque := bitsOf v 504 504 == 1,
                           noCull := bitsOf v 505 505 == 1 }
      .go { r with work := { node := bitsOf v 48 0, type := 1, inst := some i } :: r.work }

/-- A procedural leaf. -/
def State.visitProc (s : State) (g : Group) (r : Ray) (w : RayWork) (v : Nat) : Visit :=
  if rayFlag r 4 || !(boxRange (levelRay r w) ((List.range 6).map fun k => valOf (nodeWord v k))).some? then .go r
  else
    let idx := levelBase w + bitsOf v 271 256
    let h : Hit := { t := 0, b1 := 0, b2 := 0, prim := nodeWord v 6, geom := BitVec.ofNat 24 (bitsOf v 247 224), kind := 2, front := false,
                     instId := BitVec.ofNat 24 (levelId w), shader := BitVec.ofNat 32 idx, hitKind := 0 }
    s.shaderEntry g idx fun _ isect => if isect = 0 then .go r else .call h true isect (levelRay r w)

/-- Visit a node (R295). -/
def State.visit (s : State) (g : Group) (r : Ray) (w : RayWork) : Visit :=
  if w.type = 0 || 4 < w.type then .bad
  else s.readBlock g w.node 64 fun v =>
    if nodeRes w.type v then .bad
    else match w.type with
      | 1 => visitBox r w (s.descOf g).det v
      | 2 => s.visitTri g r w v
      | 3 => visitInst r w v
      | _ => s.visitProc g r w v

/-! ### Traversal -/

/-- Change the ray of a table entry. -/
def State.putRay (s : State) (core : Nat) (r : Ray) : State :=
  s.modCore core fun c => { c with rays := c.rays.map fun x => if x.entry = r.entry then r else x }

/-- The record of a callback (R298). -/
def callRecord (core : Nat) (r : Ray) (h : Hit) (isect : Bool) (obj : List Word) : List Word :=
  let z := fun w : Word => if isect then 0 else w
  [r.handle core, if isect then 2 else 1, z h.t, z h.b1, z h.b2, h.prim, h.geom.setWidth 32, h.instId.setWidth 32] ++ obj.take 6
    ++ [rayWord r.ray 6, (r.commit.map (·.t)).getD posInf]

/-- Dispatch a callback (R298): the entry's generation rises, and the record goes to a bin of a core that holds the launch; in a
deterministic launch it waits for the boundary (R423). None where no bin can take it. -/
def State.dispatch (s : State) (g : Group) (core : Nat) (r : Ray) (h : Hit) (isect : Bool) (entry : Pc) (obj : List Word) : Option State :=
  let gen := sget 0 (s.core core).rayGen r.entry + 1
  let r1 := { r with gen := gen, called := true, phase := RayPhase.awaiting h isect }
  let s1 := (s.modCore core fun c => { c with rayGen := sset 0 r.entry gen c.rayGen }).putRay core r1
  let rec_ := callRecord core r1 h isect obj
  if s.det g then
    let t := ((s.team g.team).bind (·.index)).getD (2 ^ 32)
    some (s1.modLaunch g.launch fun l => { l with deferred := l.deferred ++
      [{ team := t, grp := g.gid, lane := r.lane, entry := entry, words := rec_, callback := true, commit := none }] })
  else
    match s.anyCore g.launch r.entry with
    | none => none
    | some c => s1.sendRecord c { ctx := g.ctx, launch := g.launch, entry := entry, words := 16 } { words := rec_, callback := true }

/-- A node's read faults: the ray waits, and the fault goes to the FCP with agent 8 (R295). -/
def State.parkRay (s : State) (g : Group) (core : Nat) (r : Ray) (kind va : Nat) : State :=
  (s.putRay core { r with phase := .parked va kind }).addFault g.ctx va kind 8 core false (s.queueOf g)

/-- Walk a ray, n nodes at most. In a deterministic launch the first piece of work comes next; otherwise any may (R297, R423). -/
def State.walkRay (s : State) (g : Group) (core : Nat) (r : Ray) : Nat → State
  | 0 => s.putRay core r
  | n + 1 =>
      match r.phase, r.work with
      | .walking, [] => s.putRay core { r with phase := .done r.result }
      | .walking, w0 :: ws =>
          let i := if (s.descOf g).det then 0 else s.freeNat .order (r.entry * 8192 + n) ws.length
          let w := (w0 :: ws).getD i w0
          let rest := { r with work := (w0 :: ws).eraseIdx i }
          let s := s.noteTlb g w.node
          match s.visit g rest w with
          | .go r1 => State.walkRay s g core r1 n
          | .fault k va => s.parkRay g core { r with work := w :: rest.work } k va
          | .wait => s.putRay core { r with work := w :: rest.work }
          | .err va => ((s.noteOwnError g.ctx va).putRay core { r with phase := .done [] }).modGroup g.uid fun h =>
              h.due (memError { va := va, lanes := 1#96 <<< r.lane })
          | .bad => s.putRay core { r with phase := .done (badRecord (s.freeWord .other r.entry) 4) }
          | .wild => s.putRay core { r with phase := .done (badRecord (s.freeWord .other r.entry) (if s.freeBit .other r.entry then 3 else 4)) }
          | .call h isect entry obj =>
              match s.dispatch g core rest h isect entry obj with
              | some s1 => s1
              | none => s.putRay core { r with work := w :: rest.work }
      | _, _ => s.putRay core r

/-- A ray's record for the memo table, or its verification (R263 to R265). -/
def State.keepRay (s : State) (g : Group) (core : Nat) (r : Ray) (ws : List Word) : State :=
  match r.key, r.verify with
  | some _, some e => if matchesEntry e ws then s else s.memoMismatch g e
  | some (x, tol), none =>
      if x.eligible && !r.called && !((s.descOf g).det && tol != 0) && ws.length == 8 then
        let e : MemoEntry := { sig := x.fin.1, chk := x.fin.2, ctx := g.ctx, kind := 3, tol := tol,
                               cost := BitVec.ofNat 16 (min ((s.core core).clocks - r.since) 65535), payload := ws }
        s.memoPost { core := core, drop := false, entry := e }
      else s
  | none, _ => s

/-- A ray's record lands: its entry is free; with the last ray of an operation, the operation is complete (R294). -/
def State.landRay (s : State) (g : Group) (core : Nat) (r : Ray) (ws : List Word) : State :=
  let s1 := (s.keepRay g core r ws).modCore core fun c => { c with rays := c.rays.filter fun x => x.entry != r.entry }
  let s2 := s1.modOp g.uid r.op fun o => { o with late := o.late ++
    (if ws.isEmpty then [] else lateOf true (o.dests.map (·.2)) r.lane ((ws.zipIdx.map fun wk => wk.1.toNat <<< (32 * wk.2)).sum)) }
  if s2.cores.any fun c => c.rays.any fun x => x.op == r.op then s2 else s2.finishOp g r.op

/-- TRAVERSAL_COMPLETE: the ray of a table entry goes on as far as it can, and its record lands where it has ended (R294 to R303). -/
def execTraversalComplete (core : BitVec 7) (entry : BitVec 11) (s : State) : Host.Outcome State Fault Refusal :=
  .next (match (s.core core.toNat).rays.find? fun r => r.entry == entry.toNat with
    | none => s
    | some r =>
        match s.group r.group with
        | none => s.modCore core.toNat fun c => { c with rays := c.rays.filter fun x => x.entry != r.entry }
        | some g =>
            let s1 := s.walkRay g core.toNat r Config.traversalFuel
            match (s1.core core.toNat).rays.find? fun x => x.entry == entry.toNat with
            | some r1 => (match r1.phase with
                | .done ws => (s1.landRay g core.toNat r1 ws).tryExit g.uid false
                | _ => s1)
            | none => s1)

/-! ### TRACE (R423) -/

/-- The checks of R423. -/
def State.traceTrap (s : State) (g : Group) (flags : Word) (root : Nat) : Option TrapInfo :=
  if (s.team g.team).any (·.callback) then some (trapOf 0x63)
  else if flags.extractLsb' 5 3 != 0 || flags.extractLsb' 16 16 != 0 then some (trapOf 0x38)
  else if 2 ^ 49 ≤ root then some (trapAt 0x30 root 0)
  else if root % 64 ≠ 0 then some (trapAt 0x31 root 0)
  else none

/-- Rays to park: lane, words, and for TRACE.M the key and the entry to verify. -/
structure RayStart where
  lane : Nat
  ray : List Word
  key : Option (SigState × BitVec 2)
  verify : Option MemoEntry

/-- Park rays under a new operation of class LD; hits have their records already. -/
def State.parkRays (s : State) (g : Group) (d : R7) (flags : Word) (root : Nat) (rays : List RayStart) (hits : List (Nat × List Word)) :
    State :=
  let ou := s.sched.nextUid
  let regs := (run d.toNat 8).map g.vreg
  let used := (s.core g.core).rays.map (·.entry)
  let free := ((List.range 2048).filter fun e => !used.contains e)
  let s1 := s.pushOp g.uid (some .ld) (.trace (g.vreg d.toNat)) fun o =>
    { o with dests := regs.map fun r => (true, r), perf := rays.isEmpty,
             late := hits.flatMap fun h => lateOf true regs h.1 ((h.2.zipIdx.map fun wk => wk.1.toNat <<< (32 * wk.2)).sum) }
  let new := (rays.zip free).map fun re =>
    ({ entry := re.2, gen := sget 0 (s.core g.core).rayGen re.2, ctx := g.ctx, launch := g.launch, group := g.uid, op := ou,
       lane := re.1.lane, ray := re.1.ray, flags := flags, work := [{ node := root, type := 1, inst := none }], commit := none,
       phase := if rayMisses re.1.ray then .done missRecord else if rayFlat re.1.ray then .done missRecord else .walking,
       called := false, key := re.1.key, verify := re.1.verify, since := (s.core g.core).clocks } : Ray)
  (s1.modCore g.core fun c => { c with rays := c.rays ++ new }).settle g.uid

/-- The ray table has room. -/
def State.raysFree (s : State) (core n : Nat) : Bool := decide ((s.core core).rays.length + n ≤ 2048)

/-- The rays of the active lanes. -/
def raysOf (s : State) (g : Group) (k : Nat) (a : R7) : List RayStart :=
  let vs := (run a.toNat 8).map (g.readV s)
  (lanesOf (g.row k).mask).map fun i => { lane := i, ray := vs.map fun v => laneOf v i, key := none, verify := none }

/-- TRACE (R294, R423). -/
def execTrace (v : VOps) (s : State) : Host.Outcome State Fault Refusal :=
  issue (.trace v) s fun g k =>
    let flags := g.readS s k v.b.toNat
    let root := g.spair s k (v.b.toNat + 1)
    match s.traceTrap g flags root with
    | some t => .trap t
    | none =>
        let rays := raysOf s g k v.a
        if g.acqPending then .hold .unit s
        else counted s g .ld (if !s.raysFree g.core rays.length then .hold .rays s
          else .retire (s.parkRays g v.d flags root rays []))

/-! ### TRACE.M (R263) -/

/-- The signature of a ray (R263). -/
def raySig (memo : Bool) (code : Bool) (tol : BitVec 2) (root : Nat) (gen : Word) (at_ : Attr) (flags : Word) (r : List Word) : SigState :=
  let x0 := ((sigBegin (3#8 ++ 0#56) (memo && code)).word (tol.setWidth 32)).word64 (BitVec.ofNat 64 root)
  let x1 := ((x0.gen root gen at_).word flags).word (flags.extractLsb' 8 8 |>.setWidth 32)
  x1.words (r.map (quant32 tol.toNat))

/-- What becomes of the keyed rays, lanes ascending: rays to trace, hits, VCOUNT, the entries' costs, and the state. -/
def State.keyRays (s : State) (g : Group) (tol : BitVec 2) (sig : List Word → SigState) :
    List RayStart → Word → List RayStart × List (Nat × List Word) × Word × Nat × Nat × State
  | [], c => ([], [], c, 0, 0, s)
  | r :: rs, c =>
      let x := sig r.ray
      let keyed := { r with key := some (x, tol) }
      let l := if x.eligible && !((s.descOf g).det && tol != 0) then s.memoLookup g.core g.ctx 3 x.fin else (none, s)
      match l.1 with
      | none => let t := State.keyRays l.2 g tol sig rs c; (keyed :: t.1, t.2)
      | some e =>
          let v := verifies (s.descOf g).verifyRate c
          let t := State.keyRays l.2 g tol sig rs v.1
          if v.2 then ({ keyed with verify := some e } :: t.1, t.2.1, t.2.2.1, t.2.2.2.1, t.2.2.2.2.1 + 1, t.2.2.2.2.2)
          else (t.1, (r.lane, e.payload) :: t.2.1, t.2.2.1, t.2.2.2.1 + e.cost.toNat, t.2.2.2.2)

/-- TRACE.M (R263, R423). -/
def execTraceM (memo : BitVec 4) (d a b : R7) (s : State) : Host.Outcome State Fault Refusal :=
  issue (.traceM memo d a b) s fun g k =>
    let flags := g.readS s k b.toNat
    let root := g.spair s k (b.toNat + 1)
    match s.traceTrap g flags root with
    | some t => .trap t
    | none =>
        let rays := raysOf s g k a
        -- with no lane active there is no ray to key: the root's generation is not read
        if rays.isEmpty then counted s g .ld (.retire (s.parkRays g d flags root [] []))
        else if g.acqPending || s.genHeld g root then .hold .unit s
        else counted s g .ld (match s.genRead g root with
          | .fault kd => .park kd 8 root (g.row k).mask
          | .err => .retire ((s.noteGen g root).pushLoad g true ((run d.toNat 8).map g.vreg) [] (rays.map fun r => (r.lane, root)))
          | .ok gen at_ _ =>
              let tol := memoTol memo
              let r := (s.noteGen g root).keyRays g tol (raySig (s.descOf g).memo (s.codeId g).isSome tol root gen at_ flags) rays g.region.vcount
              if !s.raysFree g.core r.1.length then .hold .rays s
              else
                let s1 := ((r.2.2.2.2.2.modGroup g.uid fun h => { h with region := { h.region with vcount := r.2.2.1 } }).credit g.ctx
                  r.2.2.2.1).memoChecked g.ctx r.2.2.2.2.1
                .retire (s1.parkRays g d flags root r.1 r.2.1))

/-! ### VERDICT (R299, R424) -/

/-- A verdict reaches its ray: code 0 and 3 REJECT, 1 ACCEPT, 2 TERMINATE. -/
def Ray.judge (code : Nat) (kind : BitVec 8) (t : Word) (r : Ray) : Ray :=
  match r.phase with
  | .awaiting h isect =>
      let walking := { r with phase := .walking }
      let x := valOf t
      let lo := valOf (rayWord r.ray 6)
      let hi := valOf ((r.commit.map (·.t)).getD posInf)
      let h' := if isect then { h with t := t, hitKind := kind } else h
      if code = 0 || code = 3 || (isect && (x.isNan || x.lt lo || hi.lt x)) then walking
      else
        let r1 := if closer h' r.commit then walking.take h' else walking
        if code = 2 then { r1 with phase := .done r1.result } else r1
  | _ => r

/-- VERDICT (R424). -/
def execVerdict (a : R7) (s : State) : Host.Outcome State Fault Refusal :=
  issue (.verdict a) s fun g k =>
    let v := (run a.toNat 3).map (g.readV s)
    let w := fun (n i : Nat) => laneOf (v.getD n zeroLanes) i
    releaseThen s g 3 fun s1 =>
      .retire ((lanesOf (g.row k).mask).foldl (fun t i =>
        t.onHandle g.ctx (w 0 i) (Ray.judge ((w 1 i).extractLsb' 0 2).toNat ((w 1 i).extractLsb' 8 8) (w 2 i))) s1)

/-! ### BXUNION and SAHCOST (R425, R426) -/

/-- BXUNION (R425). -/
def execBxunion (v : VOps) (s : State) : Host.Outcome State Fault Refusal :=
  issue (.bxunion v) s fun g k =>
    let m := (g.row k).mask
    let as := (List.range 6).map (g.srcA s v)
    let bs := (List.range 6).map (g.srcB s k v)
    let at_ := fun (xs : List Lanes) (c i : Nat) => laneOf (xs.getD c zeroLanes) i
    let red := (List.range 6).map fun c => combine (if c < 3 then 9 else 10) ((lanesOf m).map (at_ as c))
    let val := fun (c i : Nat) =>
      if v.mod = 1 then red.getD c (0, noFlag)
      else let r := fp32.minmax (decide (3 ≤ c)) (at_ as c i).toNat (at_ bs c i).toNat; (BitVec.ofNat 32 r.1, r.2)
    let fl := (List.range 6).foldl (fun f c => f ||| laneFlags m fun i => (val c i).2) noFlag
    keep s (((List.range 6).foldl (fun h c => h.writeV s (v.d.toNat + c) m fun i => (val c i).1) g).orFlags fl)

/-- SAHCOST of a box and a count (R426). -/
def sahCost (b : List Word) (n : Nat) : Word × BitVec 3 :=
  let v := fun k : Nat => valOf (b.getD k 0)
  let axes := List.range 3
  let nan := BitVec.ofNat 32 fp32.nan
  if (List.range 6).any fun k => (v k).isNan then (nan, if (List.range 6).any fun k => (v k).isSig then flNV else noFlag)
  else if axes.any fun k => (v k).isInf && (v (k + 3)).isInf && (v k).neg == (v (k + 3)).neg then (nan, flNV)
  else if axes.any (fun k => (v (k + 3)).lt (v k)) || n = 0 then (0, noFlag)
  else if (List.range 6).any fun k => (v k).isInf then (posInf, noFlag)
  else
    let d := fun k : Nat => fracSub (fracOf32 (b.getD (k + 3) 0)) (fracOf32 (b.getD k 0))
    let a := fracAdd (fracAdd (fracMul (d 0) (d 1)) (fracMul (d 1) (d 2))) (fracMul (d 2) (d 0))
    let r := fp32.roundTo .rne false (2 * n * a.num.natAbs) a.den
    (BitVec.ofNat 32 r.1, r.2)

/-- SAHCOST (R426). -/
def execSahcost (d a : R7) (s : State) : Host.Outcome State Fault Refusal :=
  issue (.sahcost d a) s fun g k =>
    let m := (g.row k).mask
    let vs := (run a.toNat 7).map (g.readV s)
    let r := fun i : Nat => let ws := vs.map fun v => laneOf v i; sahCost (ws.take 6) (ws.getD 6 0).toNat
    keep s ((g.writeV s d.toNat m fun i => (r i).1).orFlags (laneFlags m fun i => (r i).2))

/-! ### NODEPACK (R302, R427) -/

/-- A child to pack: its box and reference. -/
structure PackChild where
  lo : List Frac
  hi : List Frac
  ref : Word

/-- The least of some numbers. -/
def fracMinOf : List Frac → Frac
  | [] => fracInt 0
  | a :: r => r.foldl fracMin a
/-- The greatest of some numbers. -/
def fracMaxOf : List Frac → Frac
  | [] => fracInt 0
  | a :: r => r.foldl fracMax a

/-- ORIGIN of an axis, as a pattern: the least lo, rounded towards minus infinity (R302). -/
def packOrigin (los : List Frac) : Word :=
  let m := fracMinOf los
  BitVec.ofNat 32 (fp32.roundTo .rd (decide (m.num < 0)) m.num.natAbs m.den).1

/-- The step of an exponent. -/
def packStep (e : Nat) : Frac := let p := scale2 1 1 ((e : Int) - 127); ⟨p.1, p.2⟩

/-- EXP of an axis: the least that covers the extent (R302). -/
def packExp (origin hi : Frac) : Nat :=
  ((List.range 255).find? fun e => fracLe (fracSub hi origin) (fracMul (fracInt 255) (packStep e))).getD 254

/-- The least whole number not below a. -/
def fracCeil (a : Frac) : Int := -((-a.num) / a.den)

/-- The image of a box node from the children of a quad; none: excluded, with its reference (R301, R302, R427). -/
def packNode (cs : List (Option PackChild × Word)) : List Word :=
  let live := cs.filterMap (·.1)
  let axis := fun k : Nat =>
    let los := live.map fun c => c.lo.getD k (fracInt 0)
    let o := if live.isEmpty then 0 else packOrigin los
    let e := if live.isEmpty then 0 else packExp (fracOf32 o) (fracMaxOf (live.map fun c => c.hi.getD k (fracInt 0)))
    (o, e)
  let ax := [axis 0, axis 1, axis 2]
  let o := fun k : Nat => (ax.getD k (0, 0)).1
  let e := fun k : Nat => (ax.getD k (0, 0)).2
  let q := fun (c : Option PackChild) => match c with
    | none => [255, 255, 255, 0, 0, 0]
    | some c =>
        (List.range 3).map (fun k => (fracFloor (fracDiv (fracSub (c.lo.getD k (fracInt 0)) (fracOf32 (o k))) (packStep (e k)))).toNat)
          ++ (List.range 3).map fun k => (fracCeil (fracDiv (fracSub (c.hi.getD k (fracInt 0)) (fracOf32 (o k))) (packStep (e k)))).toNat
  let qs := cs.flatMap fun c => q c.1
  [o 0, o 1, o 2, BitVec.ofNat 32 (e 0 + 256 * e 1 + 65536 * e 2)] ++ cs.map (·.2)
    ++ (List.range 6).map (fun w => BitVec.ofNat 32 (((qs.drop (4 * w)).take 4).zipIdx.map fun b => b.1 <<< (8 * b.2)).sum) ++ [0, 0]

/-- NODEPACK (R427). -/
def execNodepack (d a : R7) (s : State) : Host.Outcome State Fault Refusal :=
  issue (.nodepack d a) s fun g k =>
    let m := (g.row k).mask
    let vs := (run a.toNat 7).map (g.readV s)
    let box := fun i : Nat => (vs.take 6).map fun v => laneOf v i
    if (lanesOf m).any fun i => (box i).any notFinite then .trap (trapOf 0x38)
    else
      let child := fun i : Nat =>
        let b := (box i).map fracOf32
        if !m.getLsbD i then (none, 0)
        else
          let ref := laneOf (vs.getD 6 zeroLanes) i
          if (List.range 3).any fun c => fracLt (b.getD (c + 3) (fracInt 0)) (b.getD c (fracInt 0)) then (none, ref)
          else (some { lo := b.take 3, hi := b.drop 3, ref := ref }, ref)
      let used : Mask := maskOf fun i => (List.range 4).any fun j => m.getLsbD (i / 4 * 4 + j)
      let node := fun q : Nat => packNode ((List.range 4).map fun c => child (4 * q + c))
      let nodes := (List.range 24).map fun q => if used.getLsbD (4 * q) then node q else []
      keep s ((List.range 4).foldl (fun h r => h.writeV s (d.toNat + r) used fun i =>
        (nodes.getD (i / 4) []).getD (4 * (i % 4) + r) 0) g)

end Sys2Proof.Machine
end

