-- ==== Sys2Proof/Machine/SectionsIns.lean ====
section
/-! DEFINITION. OSENTER, OSLEAVE, OSLEAVE.DONE and OSABORT, the messages that reach homes, and OS_STALL (R288 to R292, R428, R429). -/

namespace Sys2Proof.Machine

/-! ### OSENTER (R289, R428) -/

/-- The lanes of row k that have entered under the OSENTER at a PC, in whatever row they were then (R289). -/
def Group.entered (g : Group) (k : Nat) (pc : Pc) : List HeldLane :=
  (g.entering.filter (·.pc == pc)).flatMap fun e => e.lanes.filter fun h => (g.row k).mask.getLsbD h.lane

/-- What the active lanes of an OSENTER ask for: a lane that has entered keeps its key. -/
def Group.asking (s : State) (g : Group) (k : Nat) (a b : R7) : List HeldLane :=
  let old := g.entered k (g.row k).pc
  let lo := g.readV s a.toNat
  let hi := g.readV s (a.toNat + 1)
  let sq := g.readV s b.toNat
  (lanesOf (g.row k).mask).map fun i => match old.find? fun h => h.lane == i with
    | some h => h
    | none => { lane := i, key := laneOf hi i ++ laneOf lo i, seq := laneOf sq i, poison := false }

/-- The lanes that OS_DUP names: their key is another active lane's, or held by the group (R289). -/
def osDup (g : Group) (ask : List HeldLane) : Mask :=
  let held := g.held.flatten.map (·.key)
  maskOf fun i => ask.any fun h => h.lane == i && (held.contains h.key || ask.any fun x => x.lane != i && x.key == h.key)

/-- The OSENTERs under way but for that of row k at a PC: lanes of row k that entered there in another row are its now. -/
def Group.others (g : Group) (k : Nat) (pc : Pc) : List Entering :=
  ((g.entering.filter fun e => !e.isAt k pc).map fun e =>
    if e.pc = pc then { e with lanes := e.lanes.filter fun h => !(g.row k).mask.getLsbD h.lane
                               waiting := e.waiting.filter fun h => !(g.row k).mask.getLsbD h.lane } else e).filter fun e =>
      !(e.lanes.isEmpty && e.waiting.isEmpty)

/-- Keep what an OSENTER still waits for. -/
def Group.setEntering (g : Group) (k : Nat) (pc : Pc) (lanes waiting : List HeldLane) : Group :=
  { g with entering := { row := k, pc := pc, lanes := lanes, waiting := waiting } :: g.others k pc }

/-- OSENTER completes: the POISON flags are written and the held set is pushed (R289, R428). -/
def Group.enterDone (s : State) (g : Group) (k : Nat) (d : R7) : Group :=
  let pc := (g.row k).pc
  let lanes := g.entered k pc
  let active := (g.row k).mask &&& maskOf fun i => lanes.any fun h => h.lane == i
  let g1 := g.writeV s d.toNat active fun i => match lanes.find? fun h => h.lane == i with
    | some h => if h.poison then 1 else 0
    | none => 0
  { g1 with held := lanes :: g1.held, entering := g.others k pc }

/-- OSENTER (R288, R289, R428). In a deterministic round its lanes ask at the boundary only (R292). -/
def execOsenter (d a b : R7) (s : State) : Host.Outcome State Fault Refusal :=
  issue (.osenter d a b) s fun g k =>
    let pc := (g.row k).pc
    let ask := g.asking s k a b
    let old := g.entered k pc
    let dup := osDup g ask
    if dup ≠ 0 then .trap ⟨0x68, 0, 0, dup, 0⟩
    else if 8 ≤ g.held.length then .trap (trapOf 0x69)
    else
      let todo := ask.filter fun h => !old.any fun x => x.lane == h.lane
      let s1 := s.putGroup (g.setEntering k pc old todo)
      let s2 := if s.det g then s1 else s1.osTry g.uid k pc none
      let g2 := s2.regroup g
      match (g2.enteringAt k pc).map (·.waiting) with
      | some (_ :: _) => .hold .osEnter s2
      | _ => .retire (s2.putGroup (g2.enterDone s k d))

/-! ### OSLEAVE and OSABORT (R290, R291, R429) -/

/-- OSLEAVE, with or without DONE. -/
def leaveRes (s : State) (g : Group) (done : Bool) : Res :=
  match g.held with
  | [] => .trap (trapOf 0x6A)
  | set :: rest => .retire ((s.osSend (set.map fun h => h.leave g.ctx false done)).putGroup { g with held := rest })

/-- OSLEAVE (R290, R429). -/
def execOsleave (s : State) : Host.Outcome State Fault Refusal := issue .osleave s fun g _ => leaveRes s g false
/-- OSLEAVE.DONE (R290, R429). -/
def execOsleaveDone (s : State) : Host.Outcome State Fault Refusal := issue .osleaveDone s fun g _ => leaveRes s g true
/-- OSABORT (R291, R429). -/
def execOsabort (s : State) : Host.Outcome State Fault Refusal := issue .osabort s fun g _ => .retire (s.osAbort g.uid)

/-! ### The homes' own steps (R289, R290, R292) -/

/-- A list from its n-th place on, and then its start: the part chooses which comes first. -/
def rotate {α : Type} (n : Nat) (l : List α) : List α := l.drop n ++ l.take n

/-- Groups with lanes in an OSENTER whose homes grant at any time: those of contexts that are not deterministic (R292). -/
def State.askers (s : State) (ctx : BitVec 5) : List Nat :=
  (s.groups.filter fun g => g.ctx == ctx && s.onCore g && !(s.descOf g).det && !g.entering.isEmpty).map (·.uid)

/-- OS_ADVANCE_AT_HOME: the oldest message reaches its key's home, and lanes that wait there enter (R289, R290). -/
def execOsAdvanceAtHome (s : State) : Host.Outcome State Fault Refusal :=
  .next (match s.slices.osMsgs with
    | [] => s
    | m :: rest =>
        let s1 := { s with slices := { s.slices with osMsgs := rest } }.osApply m
        let us := s1.askers m.ctx
        s1.osTryGroups (rotate (s.freeNat .order 0 (us.length - 1)) us) (some m.key))

/-- A lane of a context waits on a key (R292). -/
def State.osWaits (s : State) (ctx : BitVec 5) (key : Dword) : Bool :=
  s.groups.any fun g => g.ctx == ctx && s.onCore g && g.entering.any fun e => e.waiting.any fun h => h.key == key

/-- OS_STALL: for 2^20 fabric clocks no lane has entered a key on which lanes wait (R292); posted once until a lane has entered it. -/
def execOsStall (ctx : BitVec 5) (key : Dword) (s : State) : Host.Outcome State Fault Refusal :=
  .next (if !s.osWaits ctx key || s.slices.osStalled.contains (ctx, key) then s
    else
      let s1 := { s with slices := { s.slices with osStalled := (ctx, key) :: s.slices.osStalled } }
      (s1.modCtx ctx fun c => { c with status := { c.status with osStall := true } }).postCtx ctx 5 0 0xFF key.toNat 0 0)

end Sys2Proof.Machine
end

