-- ==== Sys2Proof/Machine/Tile.lean ====
section
/-! DEFINITION. Tile signatures: TSIG, TCOST and TSKIP (R266 to R270, R430, R431), and code descriptors (R248). -/

namespace Sys2Proof.Machine

/-! ### Loads of the group for its tile -/

/-- How a run of loads ends; err: an error indication at an address (R430); wait: a read cannot be made yet (R35, R39, R40). -/
inductive Loads where
  | ok (ws : List Nat) (memo : Bool) (s : State)
  | fault (kind va : Nat)
  | err (va : Nat) (s : State)
  | wait (s : State)

/-- Loads of n bytes at some addresses, in order, as the group's own (R267, R430). memo: every translation has MEMO = 1. -/
def State.groupLoads (s : State) (g : Group) (n : Nat) : List Nat → Loads
  | [] => .ok [] true s
  | va :: r =>
      if (s.tableEntries g.ctx va).any s.paHeld then .wait s
      else match s.resolve g va .read with
      | .fault k => .fault k va
      | .err => .err va s
      | .ok l =>
          if s.locHeld l then .wait s
          else
          let s1 := (s.noteTlb g va).performAtomics g.uid [l.place.line]
          let q := s1.readLanes (s1.regroup g) [(0, l)] n
          match q.1 with
          | [] => .err va q.2.2
          | v :: _ =>
              match State.groupLoads q.2.2 g n r with
              | .ok ws m t => .ok (v.2 :: ws) (m && l.attr.memo) t
              | e => e

/-- Goes on with what loads have read; a fault parks with lane 0 named, and an error indication is handed on (R430). -/
def withLoads (q : Loads) (failed : Nat → State → Res) (go : List Nat → Bool → State → Res) : Res :=
  match q with
  | .ok ws m s => go ws m s
  | .fault k va => .park k 0 va 1
  | .err va s => failed va s
  | .wait s => .hold .unit s

/-- An instruction whose read fails retires, and MEM_ERROR becomes due with the address (R430, R431). -/
def tileFailed (g : Group) (va : Nat) (s : State) : Res :=
  .retire (s.modGroup g.uid fun h => h.due (memError { va := va, lanes := 1 }))

/-! ### Code descriptors (R248) -/

/-- A code descriptor of 64 bytes with every RES0 bit clear. -/
def codeDescOk (v : Nat) : Bool :=
  bitsOf v 63 49 == 0 && bitsOf v 127 96 == 0 && bitsOf v 255 224 == 0 && bitsOf v 511 256 == 0
/-- The code identity of a descriptor. -/
def codeDescId (v : Nat) : Dword × Word := (BitVec.ofNat 64 (bitsOf v 191 128), BitVec.ofNat 32 (bitsOf v 223 192))

/-! ### The tile signature (R268, R269) -/

/-- The bytes of words, low first, as one number. -/
def joinWords (w : Nat) (ws : List Nat) : Nat := ws.foldr (fun x acc => x + acc <<< w) 0

/-- A tile signature descriptor's 64-bit word k. -/
def tdWord (td k : Nat) : Nat := bitsOf td (64 * k + 63) (64 * k)
/-- CONST_BASE, EXCL_WORDS, EXCL_OFF and CONST_WORDS of constant range k. -/
def tdConst (td k : Nat) : Nat × Nat × Nat × Nat :=
  let w := tdWord td (3 + 2 * k)
  (tdWord td (2 + 2 * k), bitsOf w 47 32, bitsOf w 31 16, bitsOf w 15 0)
/-- TEX(t). -/
def tdTex (td t : Nat) : Nat := tdWord td (10 + t)

/-- A descriptor that R269 allows: RES0 bits clear, addresses aligned. -/
def tdOk (td : Nat) : Bool :=
  let addr := fun a n : Nat => decide (a < 2 ^ 49) && a % n == 0
  addr (tdWord td 0) 64 && addr (tdWord td 1) 64
    && (List.range 4).all (fun k => addr (tdConst td k).1 4 && bitsOf (tdWord td (3 + 2 * k)) 63 48 == 0)
    && (List.range 6).all fun t => addr (tdTex td t) 32

/-- A signature absorbs words that MemRead reads, memo: through translations with MEMO = 1 (R249, R268). -/
def SigState.read (x : SigState) (memo : Bool) (ws : List Nat) : SigState :=
  { x.words (ws.map (BitVec.ofNat 32)) with eligible := x.eligible && memo }

/-- The words of a constant range that are absorbed. -/
def tdIncluded (c : Nat × Nat × Nat × Nat) (ws : List Nat) : List Nat :=
  (ws.zipIdx.filter fun wi => decide (wi.2 < c.2.2.1) || decide (c.2.2.1 + c.2.1 ≤ wi.2)).map (·.1)
/-- The addresses of the words of a constant range that are absorbed. -/
def tdConstAddrs (c : Nat × Nat × Nat × Nat) : List Nat :=
  tdIncluded c ((List.range c.2.2.2).map fun i => c.1 + 4 * i)

/-- Addresses of the 64 KiB regions that a range overlaps, ascending. -/
def regionsIn (lo hi : Nat) : List Nat := if hi ≤ lo then [] else (List.range ((hi - 1) / 65536 - lo / 65536 + 1)).map fun k => (lo / 65536 + k) * 65536

/-- Absorb the generation words of some regions (R247, R268). -/
def sigGens (g : Group) (failed : Nat → State → Res) (go : State → SigState → Res) : List Nat → State → SigState → Res
  | [], s, x => go s x
  | va :: r, s, x =>
      if s.genHeld g va then .hold .unit s
      else match s.genRead g va with
      | .fault k => .park k 0 va 1
      | .err => failed va (s.noteGen g va)
      | .ok gen at_ _ => sigGens g failed go r (s.noteGen g va) (x.gen va gen at_)

/-- Absorb the code identities of a descriptor's code descriptors, each read through a translation (R248, R249, R268). -/
def sigCodes (g : Group) (failed : Nat → State → Res) (go : State → SigState → Res) : List Nat → State → SigState → Res
  | [], s, x => go s x
  | a :: r, s, x =>
      if a = 0 then sigCodes g failed go r s x
      else withLoads (s.groupLoads g 8 ((List.range 8).map fun i => a + 8 * i)) failed fun ws m s1 =>
        let y := x.code (some (codeDescId (joinWords 64 ws)))
        sigCodes g failed go r s1 { y with eligible := y.eligible && m }

/-- Absorb the constant ranges from k on (R268). -/
def sigConsts (g : Group) (td : Nat) (failed : Nat → State → Res) (go : State → SigState → Res) : List Nat → State → SigState → Res
  | [], s, x => go s x
  | k :: r, s, x =>
      let c := tdConst td k
      if c.2.2.2 = 0 then sigConsts g td failed go r s x
      else withLoads (s.groupLoads g 4 (tdConstAddrs c)) failed fun ws m s1 =>
        sigConsts g td failed go r s1
          (((x.word (BitVec.ofNat 32 k)).word (BitVec.ofNat 32 c.2.2.2)).read m ws)

/-- Absorb the textures from t on (R268). -/
def sigTexs (g : Group) (td : Nat) (failed : Nat → State → Res) (go : State → SigState → Res) : List Nat → State → SigState → Res
  | [], s, x => go s x
  | t :: r, s, x =>
      if tdTex td t = 0 then sigTexs g td failed go r s x
      else withLoads (s.groupLoads g 8 ((List.range 4).map fun i => tdTex td t + 8 * i)) failed fun ws _ s1 =>
        let tex := texOf (joinWords 64 ws)
        sigGens g failed (sigTexs g td failed go r) (regionsIn tex.base tex.imageEnd) s1 (x.word (BitVec.ofNat 32 t))

/-! ### Tile tables (R267) -/

/-- An entry, from its 32 bytes as a number. -/
structure TileEntry where
  sig : Dword
  chk : Word
  frame : Word
  valid : Bool
  skipped : Bool
  rendered : Bool
  credited : Bool
  cost : Word
  /-- Bits [63:36] of +0x10 and the word at +0x18, RES0: TCOST and TSKIP leave them as they are. -/
  rest : Nat
  tail : Dword

/-- Read an entry (R267). -/
def tileEntryOf (v : Nat) : TileEntry :=
  { sig := BitVec.ofNat 64 v, chk := BitVec.ofNat 32 (bitsOf v 95 64), frame := BitVec.ofNat 32 (bitsOf v 127 96),
    valid := v.testBit 160, skipped := v.testBit 161, rendered := v.testBit 162, credited := v.testBit 163,
    cost := BitVec.ofNat 32 (bitsOf v 159 128), rest := bitsOf v 191 164, tail := BitVec.ofNat 64 (bitsOf v 255 192) }

/-- The eight words of an entry (R267). -/
def TileEntry.words (e : TileEntry) : List Word :=
  [e.sig.extractLsb' 0 32, e.sig.extractLsb' 32 32, e.chk, e.frame, e.cost,
   BitVec.ofNat 32 (e.valid.toNat + 2 * e.skipped.toNat + 4 * e.rendered.toNat + 8 * e.credited.toNat + 16 * e.rest),
   e.tail.extractLsb' 0 32, e.tail.extractLsb' 32 32]

/-- A write of a tile entry by a group, a store whose page is checked as it issues and which a checked region forbids (R262), and what follows: at once in a normal context, and at the round
boundary in a deterministic one, until which the instruction blocks (R217, R430). ans: what the instruction returns then. -/
def tileWrite (s : State) (g : Group) (k : Nat) (entry : Nat) (e : TileEntry) (ans : List Word) (go : State → Res) : Res :=
  let as := (List.range 8).map fun i => (i, entry + 4 * i)
  let rs := s.locate g .virt .write as
  match faultsOf rs with
  | f :: _ => .park f.2.2 1 f.2.1 1
  | [] => match s.purityWrite g k entry true with
    | some t => .trap t
    | none =>
      let ws := (oksOf rs).flatMap fun l => writesOf l.2 4 ((e.words.getD l.1 0).toNat)
      let uid := s.sched.nextUid
      let s1 := (s.notePages g (oksOf rs)).pushOp g.uid none (.store ws ((errOf (errsOf rs)).map fun x => { x with lanes := 1 }))
        fun o => { o with deferred := s.det g }
      if s.det g then .hold .tile (s1.modGroup g.uid fun h => h.putAnswer (g.row k).pc.toNat ans)
      else go (s1.runOps g.uid fun o => o.uid == uid || (o.isWrite && o.lines.any fun n => (linesOf (oksOf rs)).contains n))

/-- The write of a tile entry that waits for the round boundary: a deferred store of no class. -/
def Op.isTileWrite (o : Op) : Bool := !o.perf && o.deferred && o.cls.isNone && (match o.body with
  | .store _ _ => true
  | _ => false)

/-- A tile instruction of a deterministic round that waits for its boundary, or that the boundary has let complete. -/
def tileAgain (s : State) (g : Group) (k : Nat) (done : List Word → Res) (first : Res) : Res :=
  match g.answerAt (g.row k).pc.toNat with
  | some ws => if g.ops.any Op.isTileWrite then .hold .tile s else done ws
  | none => first

/-- TILE_STATE, then TILE_RANGE, or what follows with the frame state (R266, R267). -/
def tileChecks (s : State) (g : Group) (t : Nat) (go : FrameState → Res) : Res :=
  match (s.launch g.launch).bind (·.frame) with
  | none => .trap (trapOf 0x70)
  | some f => if f.bytes.toNat < 32 * (t + 1) then .trap (trapNum 0x71 t) else go f

/-- The four 8-byte words of an entry's address. -/
def entryAddrs (table t : Nat) : List Nat := (List.range 4).map fun i => table + 32 * t + 8 * i

/-! ### TSIG (R268, R430) -/

/-- A previous entry lets the tile be skipped (R268). -/
def tileSkips (memo : Bool) (f : FrameState) (x : SigState) (p : TileEntry) : Bool :=
  memo && x.eligible && f.prev != 0 && p.valid && p.frame == f.frame - 1 && p.sig == x.fin.1 && p.chk == x.fin.2 && (p.rendered || p.skipped)

/-- TSIG writes its results. -/
def tsigDone (s : State) (g : Group) (k : Nat) (d : R7) (ws : List Word) : Res :=
  .retire (s.modGroup g.uid fun h => ((h.takeAnswer (g.row k).pc.toNat).writeS s k d.toNat (ws.getD 0 0)).writeS s k (d.toNat + 1) (ws.getD 1 0))

/-- The read of the previous entry, which there is only where TABLE_PREV ≠ 0. -/
def prevEntry (s : State) (g : Group) (f : FrameState) (t : Nat) (go : Option TileEntry → State → Res) : Res :=
  if f.prev = 0 then go none s
  else withLoads (s.groupLoads g 8 (entryAddrs f.prev.toNat t)) (tileFailed g) fun ws _ s1 => go (some (tileEntryOf (joinWords 64 ws))) s1

/-- TSIG once its signature is known. -/
def tsigEntry (s : State) (g : Group) (k : Nat) (d : R7) (f : FrameState) (t : Nat) (x : SigState) : Res :=
  prevEntry s g f t fun p s1 =>
    let skip := match p with
      | some e => tileSkips (s.descOf g).memo f x e
      | none => false
    let cost := match p with
      | some e => if skip then e.cost else 0
      | none => 0
    let e : TileEntry := { sig := x.fin.1, chk := x.fin.2, frame := f.frame, valid := x.eligible, skipped := skip, rendered := false,
                           credited := false, cost := cost, rest := 0, tail := 0 }
    let ans := [if skip then 1 else 0, cost]
    tileWrite s1 (s1.regroup g) k (f.cur.toNat + 32 * t) e ans fun s2 => tsigDone s2 g k d ans

/-- TSIG (R266 to R269, R430). -/
def execTsig (d a : R7) (sz : BitVec 2) (s : State) : Host.Outcome State Fault Refusal :=
  issue (.tsig d a sz) s fun g k =>
    tileAgain s g k (tsigDone s g k d)
      (let regs := g.sblock s k a.toNat 8
       let t := (regs.getD 0 0).toNat
       let bin := regPair regs 3
       let n := (regs.getD 5 0).toNat
       let desc := regPair regs 6
       tileChecks s g t fun f =>
         if 2 ^ 20 < n then .trap (trapOf 0x38)
         else if 2 ^ 49 ≤ bin || 2 ^ 49 < bin + 4 * n then .trap (trapAt 0x30 bin 1)
         else if 2 ^ 49 < desc + 128 then .trap (trapAt 0x30 desc 1)
         else if bin % 4 ≠ 0 then .trap (trapAt 0x31 bin 1)
         else if desc % 64 ≠ 0 then .trap (trapAt 0x31 desc 1)
         else if g.acqPending then .hold .unit s
         else withLoads (s.groupLoads g 8 ((List.range 16).map fun i => desc + 8 * i)) (tileFailed g) fun dw _ s1 =>
           let td := joinWords 64 dw
           if !tdOk td then .trap (trapOf 0x01)
           else
             let x0 := ((sigBegin ((1#8 ++ 0#54) ++ sz) true).word (regs.getD 1 0)).word (regs.getD 2 0)
             sigCodes g (tileFailed g) (fun s2 x1 =>
               withLoads (s2.groupLoads g 4 ((List.range n).map fun i => bin + 4 * i)) (tileFailed g) fun bw m2 s3 =>
                 sigConsts g td (tileFailed g) (fun s4 x2 =>
                   sigTexs g td (tileFailed g) (fun s5 x3 => tsigEntry s5 (s5.regroup g) k d f t x3) (List.range 6) s4 x2)
                   (List.range 4) s3 ((x1.word (BitVec.ofNat 32 n)).read m2 bw)) [tdWord td 0, tdWord td 1] s1 x0)

/-! ### TCOST and TSKIP (R270, R431) -/

/-- Read the current entry of a tile and go on. -/
def curEntry (s : State) (g : Group) (t : Nat) (go : FrameState → TileEntry → State → Res) : Res :=
  tileChecks s g t fun f =>
    if g.acqPending then .hold .unit s
    else withLoads (s.groupLoads g 8 (entryAddrs f.cur.toNat t)) (tileFailed g) fun ws _ s1 => go f (tileEntryOf (joinWords 64 ws)) s1

/-- A tile instruction without a result completes. -/
def tileDone (s : State) (g : Group) (k : Nat) : Res := .retire (s.modGroup g.uid fun h => h.takeAnswer (g.row k).pc.toNat)

/-- TCOST (R270, R431). -/
def execTcost (b a : R7) (s : State) : Host.Outcome State Fault Refusal :=
  issue (.tcost b a) s fun g k =>
    tileAgain s g k (fun _ => tileDone s g k)
      (let t := (g.readS s k a.toNat).toNat
       curEntry s g t fun f e s1 =>
         if e.frame ≠ f.frame then .retire s1
         else tileWrite s1 (s1.regroup g) k (f.cur.toNat + 32 * t) { e with cost := g.readS s k b.toNat, rendered := true } [0]
           fun s2 => .retire s2)

/-- TSKIP (R270, R431): the credit is given as it completes. -/
def execTskip (a : R7) (s : State) : Host.Outcome State Fault Refusal :=
  issue (.tskip a) s fun g k =>
    tileAgain s g k (fun ws => tileDone (s.credit g.ctx ((ws.getD 0 0).toNat)) g k)
      (let t := (g.readS s k a.toNat).toNat
       curEntry s g t fun f e s1 =>
         if e.frame ≠ f.frame || !e.skipped || e.credited then .retire s1
         else
           let n := min e.cost.toNat (2 ^ 20)
           tileWrite s1 (s1.regroup g) k (f.cur.toNat + 32 * t) { e with credited := true } [BitVec.ofNat 32 n]
             fun s2 => .retire (s2.credit g.ctx n))

end Sys2Proof.Machine
end

