-- ==== Sys2Proof/Machine/System.lean ====
section
/-! DEFINITION. TRAP, BRK and the return from a trap handler (R435 to R440). -/

namespace Sys2Proof.Machine

/-- TRAP (R439). -/
def execTrap (code : R7) (s : State) : Host.Outcome State Fault Refusal :=
  issue (.trap code) s fun _ _ => .raise (trapNum 0x02 code.toNat)
/-- BRK (R439). -/
def execBrk (code : R7) (s : State) : Host.Outcome State Fault Refusal :=
  issue (.brk code) s fun _ _ => .raise (trapNum 0x03 code.toNat)

/-! ### TRET (R438) -/

/-- The handler that row k returns from has reconverged (R438 step 1). -/
def Group.reconverged (g : Group) (h : Handler) (k : Nat) : Bool :=
  (g.liveRows.all fun j => j == k || (g.row j).stopped)
    && ((g.fams.zip h.families).all fun xy => !xy.1.used || xy.1 == xy.2) && decide (g.serials.length ≤ h.serials)

/-- A late write is outstanding to the trap frame (R438 step 2). -/
def Group.lateToFrame (g : Group) : Bool := g.ops.any fun o => !o.done && o.dests.any fun d => d.1 && decide (1024 ≤ d.2)

/-- A lane of the trap record as the handler left it (R436). -/
def Group.recLane (g : Group) (i : Nat) : Word := laneOf (g.vraw 1024) i

/-- EPC, SAVED_SWB and MASK of the record (R436). -/
def Group.recEpc (g : Group) : Pc := (g.recLane 2).extractLsb' 0 17 ++ g.recLane 1
def Group.recSwb (g : Group) : Nat := ((g.recLane 15).extractLsb' 0 10).toNat
def Group.recMask (g : Group) : Mask := setMaskWord (setMaskWord (setMaskWord 0 0 (g.recLane 7)) 1 (g.recLane 8)) 2 (g.recLane 9)

/-- The scalar registers that the record gives back: s3 to s5 and s7, and STATUS with the carried flags (R438 step 4). -/
def Group.restoreScalars (g : Group) (carried : BitVec 3) : Group :=
  ((((g.sput 3 (g.recLane 10)).sput 4 (g.recLane 11)).sput 5 (g.recLane 12)).sput 7 (g.recLane 14)).sput 6
    ((g.recLane 13 &&& statusMask) ||| carried.setWidth 32)

/-- The trap frame is freed, and with it what was bound to it. -/
def Group.dropFrame (g : Group) : Group :=
  { g with handler := none
           ops := g.ops.map fun o => { o with dests := o.dests.filter fun d => !(d.1 && decide (1024 ≤ d.2)),
                                              late := o.late.filter fun w => !(w.vec && decide (1024 ≤ w.reg)) } }

/-- Every stopped row resumes where it stopped; row k takes the trapping row's place (R438). -/
def Group.resume (g : Group) (k : Nat) : Group :=
  let stopped := fun j : Nat => (g.row j).stopped
  { g with rows := g.rows.map fun r => { r with stopped := false }
           entering := g.entering.map fun e => if stopped e.row then e else { e with row := k } }

/-- The state of a group after TRET by row k; now: the core clock, at which a group with spilled frames asks for them (R145). -/
def Group.tret (g : Group) (h : Handler) (k now : Nat) : Group :=
  let g1 := ((({ g.restoreScalars h.carried with swb := g.recSwb }).modRow k fun r =>
    { r with pc := g.recEpc, mask := g.recMask &&& r.own }).dropFrame).resume k
  { g1 with alloc := if g1.frames.any (·.spilled) then some { blocks := 0, since := now, granted := false, exhausted := false } else none }

/-- TRET (R438). -/
def execTret (s : State) : Host.Outcome State Fault Refusal :=
  issue .tret s fun g k =>
    match g.handler with
    | none => .trap (trapOf 0x04)
    | some h =>
        if !g.reconverged h k then .trap (trapOf 0x12)
        else if g.lateToFrame then .hold .late s
        else if g.recEpc.extractLsb' 0 2 ≠ 0 then .trap (trapAt 0x16 g.recEpc.toNat 0)
        else if g.recEpc.extractLsb' 32 17 ≠ g.codeHi then .trap (trapAt 0x17 g.recEpc.toNat 0)
        else if g.recSwb % 8 ≠ 0 || g.recSwb < 8 || 904 < g.recSwb then .trap (trapOf 0x26)
        else .done (s.putGroup (g.tret h k (s.core g.core).clocks))

end Sys2Proof.Machine
end

