-- ==== Sys2Proof/Machine/Contexts.lean ====
section
/-! DEFINITION. Context commands (R50 to R53), the end of a context (R52), and the host's answers to faults (R67, R173 to R175). -/

namespace Sys2Proof.Machine

/-! ### ENABLE (R50 to R52, R105, R165) -/

/-- The fields of a context descriptor, from its 256 bytes as a number (R50). -/
def descOfBytes (v : Nat) : Desc :=
  let w := fun o hi lo : Nat => bitsOf v (8 * o + hi) (8 * o + lo)
  let pc := fun o : Nat => BitVec.ofNat 49 (w o 48 0)
  let bit := fun o k : Nat => v.testBit (8 * o + k)
  { transRoot := BitVec.ofNat 48 (w 0 47 12 * 4096), trapEntry := pc 0x08, spillBase := pc 0x10, spillStride := BitVec.ofNat 32 (w 0x18 31 0),
    saveBase := pc 0x20, saveSize := pc 0x28, cmdWinBase := pc 0x30, cmdWinSize := pc 0x38, statusBase := pc 0x40,
    raceLogBase := pc 0x48, raceLogSize := BitVec.ofNat 32 (w 0x50 31 0), powerAdmin := bit 0x58 40,
    evVector := BitVec.ofNat 6 (w 0x58 37 32), powerFloorW := BitVec.ofNat 16 (w 0x58 31 16), coreShare := BitVec.ofNat 7 (w 0x58 14 8),
    priority := BitVec.ofNat 3 (w 0x58 2 0), frameNs := bit 0x60 49, frameRo := bit 0x60 48, purityCheck := bit 0x60 43,
    raceMode := BitVec.ofNat 2 (w 0x60 42 41), hazardCheck := bit 0x60 40, verifyRate := BitVec.ofNat 2 (w 0x60 34 33),
    memo := bit 0x60 32, roundQ := BitVec.ofNat 11 (w 0x60 27 17), det := bit 0x60 16, ratioSet := BitVec.ofNat 3 (w 0x60 11 9),
    ratioLock := bit 0x60 8, legacyRzCvt := bit 0x60 2, legacyFtz := bit 0x60 1, legacy := bit 0x60 0 }

/-- ROUND_Q and RACE_MODE in their ranges, and TRAP_ENTRY aligned: the ranges that SET_STATE checks too (R50, R57). -/
def Desc.stateOk (d : Desc) : Bool :=
  d.trapEntry.toNat % 4 == 0 && d.raceMode != 3 && decide (16 ≤ d.roundQ.toNat) && decide (d.roundQ.toNat ≤ 1024)

/-- Every field in its range and aligned (REFUSAL 2; R50, R165). -/
def Desc.rangesOk (d : Desc) : Bool :=
  d.stateOk && d.transRoot.toNat % 8192 == 0 && inDram d.transRoot.toNat && d.spillBase.toNat % 4096 == 0
    && d.spillStride.toNat % 4096 == 0 && d.saveBase.toNat % 4096 == 0 && d.cmdWinSize != 0 && d.statusBase.toNat % 256 == 0
    && d.raceLogBase.toNat % 32 == 0 && d.evVector != 0 && decide (d.powerFloorW.toNat ≤ 320) && decide (d.coreShare.toNat ≤ 96)

/-- Bits of a descriptor that are fields, by 64-bit word (R50). -/
def descFields : List Nat :=
  [2 ^ 48 - 2 ^ 12, 2 ^ 49 - 1, 2 ^ 49 - 1, 2 ^ 32 - 1, 2 ^ 49 - 1, 2 ^ 49 - 1, 2 ^ 49 - 1, 2 ^ 49 - 1, 2 ^ 49 - 1, 2 ^ 49 - 1, 2 ^ 32 - 1,
   0x0000013FFFFF7F07, 0x00030F070FFF0F07]

/-- Every RES0 bit of a descriptor is zero (REFUSAL 3). -/
def descRes0Ok (v : Nat) : Bool :=
  (List.range 32).all fun k => let w := bitsOf v (64 * k + 63) (64 * k); w &&& descFields.getD k 0 == w

/-- LEGACY is set where a bit that requires it is (REFUSAL 6). -/
def Desc.legacyOk (d : Desc) : Bool := d.legacy || !(d.legacyFtz || d.legacyRzCvt || d.ratioLock)

/-- Contexts whose floors and shares count: ACTIVE, HALTED or ENDING (R52, R105). -/
def CtxState.counts (c : CtxState) : Bool := c != .off

/-- The sum of POWER_FLOOR_W over the contexts that count, with one context's floor counted as w (R105). -/
def State.floorSum (s : State) (ctx : Option (BitVec 5)) (w : Nat) : Nat :=
  (s.ctxs.zipIdx.map fun (c, i) =>
    if some (BitVec.ofNat 5 i) = ctx then w else if c.st.counts then c.desc.powerFloorW.toNat else 0).sum

/-- The sum of CORE_SHARE over ACTIVE contexts. -/
def State.shareSum (s : State) : Nat := (s.ctxs.map fun c => if c.st = .active then c.desc.coreShare.toNat else 0).sum

/-- The REFUSAL of an ENABLE, in the order of its checks; 0 where all pass (R52). -/
def State.enableRefusal (s : State) (ctx : BitVec 5) (read : Option Nat) : Nat :=
  match read with
  | none => 1
  | some v =>
      let d := descOfBytes v
      if !d.rangesOk then 2
      else if !descRes0Ok v then 3
      else if 96 < s.shareSum + d.coreShare.toNat then 4
      else if s.dev.capInForce.toNat < s.floorSum (some ctx) d.powerFloorW.toNat then 5
      else if !d.legacyOk then 6 else 0

/-- A command that is not accepted: ignored and logged (R48, R52). -/
def State.ctxMisuse (s : State) (ctx : BitVec 5) : State := s.regMisuse (0x1000 + 64 * ctx.toNat)

/-- A context becomes ACTIVE with a descriptor: its record is zeroed, nothing of an earlier use is left (R52, R53, R220). -/
def State.activate (s : State) (ctx : BitVec 5) (d : Desc) : State :=
  let s1 := s.modCtx ctx fun c => { Context.reset with st := .active, refusal := c.refusal, desc := d }
  let s2 := s1.updateStatus ctx
  if d.raceLogSize.toNat < 32 then s2
  else match s2.ownWrite ctx d.raceLogBase.toNat 0 8 with
    | .ok s3 => s3
    | .error (k, va) => s2.ownLost ctx 0xFF 6 k va

/-- ENABLE (R52). -/
def execEnable (ctx : BitVec 5) (s : State) : Host.Outcome State Fault Refusal :=
  .next (if !s.served then s
    else if (s.ctx ctx).st ≠ .off || !s.dev.ready then s.ctxMisuse ctx
    else
      let pa := s.dev.ctxTable.toNat + 256 * ctx.toNat
      let read := s.physNat pa 256
      let code := s.enableRefusal ctx read
      if code = 0 then s.activate ctx (descOfBytes (read.getD 0))
      else
        let s1 := if read.isNone then s.noteBadRange pa 256 (some ctx) else s
        s1.modCtx ctx fun c => { c with refusal := BitVec.ofNat 8 code })

/-! ### HALT, RESUME, DISABLE (R52) -/

/-- HALT (R52). -/
def execHalt (ctx : BitVec 5) (s : State) : Host.Outcome State Fault Refusal :=
  .next (if !s.served then s
    else if (s.ctx ctx).st = .active then s.modCtx ctx fun c => { c with st := .halted } else s.ctxMisuse ctx)

/-- RESUME (R52). -/
def execResume (ctx : BitVec 5) (s : State) : Host.Outcome State Fault Refusal :=
  .next (if !s.served then s
    else if (s.ctx ctx).st = .halted then s.modCtx ctx fun c => { c with st := .active } else s.ctxMisuse ctx)

/-- DISABLE: the context is ENDING, its groups issue nothing more, and its credits go (R52, R109). -/
def execDisable (ctx : BitVec 5) (s : State) : Host.Outcome State Fault Refusal :=
  .next (if !s.served then s
    else if (s.ctx ctx).st = .active || (s.ctx ctx).st = .halted then
      let s1 := s.modCtx ctx fun c => { c with st := .ending, credits := 0 }
      { s1 with groups := s1.groups.map fun g => if g.ctx = ctx then { g with stopped := true } else g }
    else s.ctxMisuse ctx)

/-! ### CONTEXT_ENDED (R52) -/

/-- The groups of a context, by team and group number. -/
def State.groupsOf (s : State) (ctx : BitVec 5) : List Nat :=
  ((s.groups.filter fun g => g.ctx == ctx).mergeSort fun a b => decide (a.team < b.team || (a.team = b.team && a.gid ≤ b.gid))).map (·.uid)

/-- Every operation that a group has issued completes, but for those that wait on a fault. -/
def State.finishOps (s : State) (uid : Nat) : State := s.runOps uid fun o => o.paused.isNone

/-- An operation that must still complete before its context ends: it waits for the host. -/
def Op.unfinished (o : Op) : Bool :=
  !o.perf && o.paused.isNone && (match o.body with
    | .trace _ => false
    | _ => true)

/-- What a context leaves in the slices, the cores and the firmware goes (R52, R171, R252, R288). -/
def State.dropContext (s : State) (ctx : BitVec 5) : State :=
  let s1 := (s.groups.filter fun g => g.ctx == ctx && s.onCore g).foldl (fun t g => t.noteFree g g.blocks) (s.memoFlush ctx)
  let s2 : State := { s1 with
    slices := { s1.slices with osHomes := s1.slices.osHomes.filter (fun e => e.ctx != ctx), osMsgs := s1.slices.osMsgs.filter (fun m => m.ctx != ctx),
                               osStalled := s1.slices.osStalled.filter (fun k => k.1 != ctx) }
    cores := s1.cores.map fun c => { c with bins := c.bins.filter (fun b => b.ctx != ctx), rays := c.rays.filter fun r => r.ctx != ctx }
    fcp := { s1.fcp with faults := s1.fcp.faults.filter (fun e => e.ctx != ctx),
                         capReqs := s1.fcp.capReqs.filter fun r => r.src.all fun q => queueCtx q.1 != ctx }
    groups := s1.groups.filter fun g => g.ctx != ctx
    teams := s1.teams.filter fun t => t.ctx != ctx
    launches := s1.launches.filter fun l => l.ctx != ctx }
  (((List.range Config.cores).foldl State.islandsOff s2).followRatio).dropTlb ctx

/-- A queue is OFF. -/
def Queue.stop (q : Queue) : Queue := { q with st := .off, enable := false, running := [], sem := none }

/-- The mapped lines of every team of a context are written back, and then its lines in every L1 (R181, R186). -/
def State.flushAll (s : State) (ctx : BitVec 5) : State :=
  let s1 := ((s.teams.filter fun t => t.ctx == ctx).map (·.uid)).foldl State.writeBackTeam s
  (List.range Config.cores).foldl (fun t k => t.cleanL1 k (fun _ l => l.ctx == ctx) (fun _ l => l.ctx == ctx)) s1

/-- CONTEXT_ENDED: once the operations are complete the teams end without a save, and CTX_ENDED is posted (R52). -/
def execContextEnded (ctx : BitVec 5) (s : State) : Host.Outcome State Fault Refusal :=
  .next (if (s.ctx ctx).st ≠ .ending then s
    else
      let s1 := (s.groupsOf ctx).foldl State.finishOps s
      if s1.groups.any fun g => g.ctx == ctx && g.ops.any Op.unfinished then s1
      else
        let s2 := (s1.flushAll ctx).dropContext ctx
        let s3 := { s2 with queues := s2.queues.zipIdx.map fun p : Queue × Nat => (if p.2 / 2 = ctx.toNat then p.1.stop else p.1) }
        (s3.postCtx ctx 3 0 0xFF 0 0 0).modCtx ctx fun c => { Context.reset with refusal := c.refusal })

/-! ### Faults (R67, R148, R173 to R175, R295) -/

/-- An entry by its FAULT_ID, once the host has been told of it, or before. -/
def State.faultById (s : State) (ctx : BitVec 5) (id : Word) (posted : Bool) : Option FaultEntry :=
  s.fcp.faults.find? fun e => e.ctx == ctx && e.id == id && e.posted == posted

/-- An entry is done with. -/
def State.dropFault (s : State) (id : Word) : State := { s with fcp := { s.fcp with faults := s.fcp.faults.filter fun e => e.id != id } }

/-- An address and kind belong to an entry (R174). -/
def FaultEntry.covers (e : FaultEntry) (ctx : BitVec 5) (va kind : Nat) : Bool := e.ctx == ctx && e.page == va / 4096 && e.kind.toNat == kind

/-- A parked access waits on an entry. -/
def Group.waitsOn (g : Group) (e : FaultEntry) : Bool := g.ctx == e.ctx && g.parked.any fun p => p.entry == some e.id

/-- A paused engine operation waits on an entry. -/
def Op.waitsOn (o : Op) (g : Group) (e : FaultEntry) : Bool := o.paused.any fun p => e.covers g.ctx p.2.1 p.1

/-- A ray waits on an entry. -/
def Ray.waitsOn (r : Ray) (e : FaultEntry) : Bool :=
  match r.phase with
  | .parked va kind => e.covers r.ctx va kind
  | _ => false

/-- A Ladle access waits on an entry. -/
def State.ladleWaits (s : State) (f : LadleFault) (e : FaultEntry) : Bool :=
  (s.group f.group).any fun g => e.covers g.ctx f.va f.kind

/-- Change what a Ladle waits on. -/
def State.mapLadle (s : State) (f : LadleFault → Option LadleFault) : State :=
  { s with cores := s.cores.map fun c => { c with parts := c.parts.map fun p => { p with ladleFault := p.ladleFault.bind f } } }

/-- The accesses of a group that wait on an entry replay (R174, R175). -/
def Group.replay (e : FaultEntry) (g : Group) : Group :=
  { g with parked := if g.waitsOn e then none else g.parked,
           ops := g.ops.map fun o : Op => (if o.waitsOn g e then { o with paused := none } else o) }

/-- A ray's read that waits on an entry replays (R295). -/
def Ray.replay (e : FaultEntry) (r : Ray) : Ray := if r.waitsOn e then { r with phase := .walking } else r

/-! ### Faults that wait without an entry (R174) -/

/-- The faults of a group that wait without an entry ask for one: its parked access and its paused engine operations. -/
def State.enterGroup (s : State) (g : Group) : State :=
  let s1 := match g.parked with
    | some p =>
        if p.entry.isSome || p.convert then s
        else
          let t := s.addFault g.ctx p.va p.kind p.agent g.core p.write (s.queueOf g)
          t.modGroup g.uid fun h => { h with parked := h.parked.map fun q : Parked => { q with entry := (t.faultOf g.ctx p.va p.kind).map (·.id) } }
    | none => s
  g.ops.foldl (fun t o => match o.paused, o.body with
    | some (k, va, w), .engine e _ => t.addFault g.ctx va k e.agent g.core w (s.queueOf g)
    | _, _ => t) s1

/-- The faults of a core's rays and of its Ladles that wait without an entry ask for one. -/
def State.enterCore (s : State) (core : Nat) (c : Core) : State :=
  let s1 := c.rays.foldl (fun t r => match r.phase with
    | .parked va kind => t.addFault r.ctx va kind 8 core false (((s.group r.group).map s.queueOf).getD 0xFF)
    | _ => t) s
  (c.parts.filterMap (·.ladleFault)).foldl (fun t f => if f.convert then t else (s.group f.group).elim t fun g =>
    t.addFault g.ctx f.va f.kind 10 core (!f.refill) (s.queueOf g)) s1

/-- Entries have become free: every fault that waits without one is entered while there is room (R174). -/
def State.enterFaults (s : State) : State :=
  let s1 := s.groups.foldl State.enterGroup s
  s.cores.zipIdx.foldl (fun t ck => t.enterCore ck.2 ck.1) s1

/-- Every access that waits on an entry replays (R174, R175). -/
def State.replay (s : State) (e : FaultEntry) : State :=
  let s1 := s.dropFault e.id
  let s2 : State := { s1 with groups := s1.groups.map (Group.replay e),
                              cores := s1.cores.map fun c : Core => { c with rays := c.rays.map (Ray.replay e) } }
  (s2.mapLadle fun f => if s.ladleWaits f e then none else some f).enterFaults

/-- A parked access that waits on an entry is to take PAGE_FAULT at its next turn (R174). -/
def Group.convert (e : FaultEntry) (g : Group) : Group :=
  { g with parked := if g.waitsOn e then g.parked.map (fun p : Parked => { p with entry := none, convert := true }) else g.parked }

/-- A ray that waits on an entry ends with KIND 3 (R295). -/
def Ray.convert (w : Word) (e : FaultEntry) (r : Ray) : Ray := if r.waitsOn e then { r with phase := .done (badRecord w 3) } else r

/-- The engine operations of a group that wait on an entry are abandoned (R175). -/
def State.abandonWaiting (s : State) (e : FaultEntry) (uid : Nat) : State :=
  ((s.group uid).elim [] fun g => g.ops.filter fun o => o.waitsOn g e).foldl
    (fun v o => (v.group uid).elim v fun h => v.abandonOp h o) s

/-- Every group that waits on an entry takes PAGE_FAULT at its parked instruction, its engine operations are abandoned, its rays end with
KIND 3, and the Ladle's access fails (R148, R174, R175, R295). -/
def State.convert (s : State) (e : FaultEntry) : State :=
  let s1 := s.dropFault e.id
  let s2 : State := { s1 with groups := s1.groups.map (Group.convert e),
                              cores := s1.cores.map fun c : Core => { c with rays := c.rays.map (Ray.convert (s.freeWord .other 0) e) } }
  let s3 := s2.mapLadle fun f => some { f with convert := f.convert || s.ladleWaits f e }
  ((s3.groups.map (·.uid)).foldl (State.abandonWaiting · e) s3).enterFaults

/-- A FAULT_ID that names no parked fault: ignored and logged (R67). -/
def State.faultMisuse (s : State) (ctx : BitVec 5) : State := s.regMisuse (0x1008 + 64 * ctx.toNat)

/-- FAULT_REPLAY: FAULT_ACTION 1 (R67, R174). -/
def execFaultReplay (ctx : BitVec 5) (id : Word) (s : State) : Host.Outcome State Fault Refusal :=
  .next (if !s.served then s
    else match s.faultById ctx id true with
    | some e => s.replay e
    | none => s.faultMisuse ctx)

/-- FAULT_CONVERT_TO_TRAP: FAULT_ACTION 2 (R67, R174). -/
def execFaultConvertToTrap (ctx : BitVec 5) (id : Word) (s : State) : Host.Outcome State Fault Refusal :=
  .next (if !s.served then s
    else match s.faultById ctx id true with
    | some e => s.convert e
    | none => s.faultMisuse ctx)

/-- The permission that an entry's access needs (R169, R174). -/
def FaultEntry.access (e : FaultEntry) : AccKind := if e.agent = 3 then .fetch else if e.write then .write else .read

/-- The firmware's walk succeeds with the permission that an entry needs (R174). -/
def State.walkHelps (s : State) (e : FaultEntry) : Bool :=
  match s.walk e.ctx e.va.toNat with
  | .page _ _ p => (permFault p e.access).isNone && !(e.kind == 6 && (pteAttr p).cache == 2)
  | _ => false

/-- FAULT_ENTRY_WALK: the second walk for a new entry; the accesses replay, or FAULT_TO_HOST is posted (R174). -/
def execFaultEntryWalk (id : Word) (s : State) : Host.Outcome State Fault Refusal :=
  .next (match s.fcp.faults.find? fun e => e.id == id && !e.posted with
    | none => s
    | some e =>
        if s.walkHelps e then (s.dropTlb e.ctx).replay e
        else
          let s1 : State := { s with fcp := { s.fcp with faults := s.fcp.faults.map fun x : FaultEntry => (if x.id = id then { x with posted := true } else x) } }
          s1.postCtx e.ctx 9 e.kind.toNat e.queue e.id.toNat e.va.toNat (e.kind.toNat + e.agent.toNat <<< 8 + e.core.toNat <<< 16))

end Sys2Proof.Machine
end

