-- ==== Sys2Proof/Machine/Queues.lean ====
section
/-! DEFINITION. Command queues: the packet at QHEAD, the checks of its header, halts and completions (R54 to R62), and the host's writes that
start a queue, stop it and ring its doorbell. -/

namespace Sys2Proof.Machine

/-! ### Halts (R62) -/

/-- Why a queue halts: the kind of R62, the field index, and the bound or address. -/
structure Halt where
  kind : Nat
  field : Nat
  bound : Nat
  deriving DecidableEq, Repr

/-- A failed access of a packet: a translation fault, or an error indication where the kind is 0 (R62). -/
def Halt.access (field kind va : Nat) : Halt := ⟨if kind = 0 then 4 else 3, field, va⟩
/-- A packet error in a field (R62). -/
def Halt.packet (field : Nat) : Halt := ⟨2, field, 0⟩

/-- DATA2 of QUEUE_HALTED, and DETAIL of its error record (R62, R64, R70). -/
def Halt.data (h : Halt) : Nat := h.field % 256 ||| h.bound <<< 8

/-- The queue halts at the packet at an offset: QHEAD at its first byte, the cause, an error record, QUEUE_HALTED (R62). -/
def State.haltQueue (s : State) (q : BitVec 6) (off : BitVec 20) (tag : Nat) (h : Halt) : State :=
  let ctx := queueCtx q
  let s1 := s.modQueue q fun k => { k with st := .halted, cause := BitVec.ofNat 8 h.kind, head := off, sem := none }
  let s2 := (if h.kind = 4 then s1.noteOwnError ctx h.bound else s1).logError
    { cls := if h.kind = 1 then .capFault else .packet, unit := 5, index := 0, struct := 9, sub := q.toNat, addr := 0, detail := h.data, ctx := some ctx }
  s2.postCtx ctx 2 h.kind (q.setWidth 8) tag off.toNat h.data

/-! ### Packet headers (R54 to R57, R61) -/

/-- TYPE of a header (R56). -/
def hdrType (h : Nat) : Nat := bitsOf h 7 0
/-- LEN of a header. -/
def hdrLen (h : Nat) : Nat := bitsOf h 15 8
/-- FENCE of a header. -/
def hdrFence (h : Nat) : Bool := h.testBit 16
/-- NOTIFY of a header. -/
def hdrNotify (h : Nat) : Bool := h.testBit 17
/-- TAG of a header. -/
def hdrTag (h : Nat) : Nat := bitsOf h 63 32

/-- TYPE listed, LEN the one stated, RES0 clear (R57). -/
def hdrOk (h : Nat) : Bool :=
  bitsOf h 31 18 == 0 && (match hdrType h with
    | 0 => decide (1 ≤ hdrLen h) && decide (hdrLen h ≤ 32)
    | 1 => hdrLen h == 2
    | 2 => hdrLen h == 3
    | 3 => hdrLen h == 4
    | 4 => hdrLen h == 3
    | 5 => hdrLen h == 5
    | 6 => hdrLen h == 1
    | 7 => hdrLen h == 3
    | 8 => hdrLen h == 3
    | 9 => hdrLen h == 2
    | _ => false)

/-- Types that act as if FENCE were set (R58). -/
def hdrFenced (h : Nat) : Bool := hdrFence h || hdrType h == 2 || decide (4 ≤ hdrType h)

/-- Bytes of a ring (R54). -/
def Queue.size (k : Queue) : Nat := 2 ^ k.log2.toNat
/-- Bytes between QHEAD and QTAIL. -/
def Queue.unread (k : Queue) : Nat := (k.tail.toNat + k.size - k.head.toNat % k.size) % k.size

/-- What the firmware finds at QHEAD. -/
inductive Head where
  | empty
  | halt (tag : Nat) (h : Halt)
  | packet (hdr : Nat)
  deriving DecidableEq, Repr

/-- The queue may read its next packet: it runs, its context is ACTIVE, no SEM_WAIT waits, the kept places of the event store are unused
(R52, R54, R58, R66). -/
def State.mayRead (s : State) (q : BitVec 6) : Bool :=
  let k := s.queue q
  k.st == .running && k.enable && (s.ctx (queueCtx q)).st == .active && k.sem.isNone && !s.fcp.keptUsed && !s.boot.linkDead && k.unread != 0
    && !s.ownHeld (queueCtx q) (k.base.toNat + k.head.toNat) 8

/-- The packet at QHEAD: the capability check of its LEN, then whether all of it lies before QTAIL, then the
header's own checks (R54, R57, R61). TAG counts as 0 where the header cannot be read (DESIGN CHOICE, log 89). -/
def State.headOf (s : State) (q : BitVec 6) : Head :=
  let k := s.queue q
  if !s.mayRead q then .empty
  else match s.ownRead (queueCtx q) (k.base.toNat + k.head.toNat) 8 with
    | .lost kind va => .halt 0 (Halt.access 0 kind va)
    | .ok h =>
        if k.size < k.head.toNat + 8 * hdrLen h then .halt (hdrTag h) ⟨1, 0, k.size⟩
        else if k.unread < 8 * hdrLen h then .empty
        else if hdrOk h then .packet h else .halt (hdrTag h) (Halt.packet 0)

/-- The packet's fence is passed (R56, R58). -/
def Queue.fencePassed (k : Queue) (h : Nat) : Bool := !hdrFenced h || k.running.isEmpty

/-- A queue has a packet ready to start. -/
def State.readyHead (s : State) (q : BitVec 6) : Bool :=
  match s.headOf q with
  | .packet h => (s.queue q).fencePassed h
  | _ => false

/-- The packet may start now: its fence is passed, and the urgent queue of its context has none ready (R59). -/
def State.mayStart (s : State) (q : BitVec 6) (h : Nat) : Bool :=
  (s.queue q).fencePassed h && (q.getLsbD 0 || !s.readyHead (q + 1))

/-- The firmware reads the header at QHEAD and halts the queue where it fails a check. -/
def State.readHead (s : State) (q : BitVec 6) : State :=
  match s.headOf q with
  | .halt tag h => s.haltQueue q (s.queue q).head tag h
  | _ => s

/-! ### Starting and completing packets (R54, R56, R58) -/

/-- The offset after a packet of some words, which wraps at the end of the ring. -/
def Queue.after (k : Queue) (len : Nat) : BitVec 20 := BitVec.ofNat 20 ((k.head.toNat + 8 * len) % k.size)

/-- A queue that has been told to stop is OFF once its packets are complete (R54). -/
def Queue.settle (k : Queue) : Queue := if !k.enable && k.running.isEmpty && k.sem.isNone then { k with st := .off } else k

/-- A packet completes: QDONE counts it, the status record is brought up to date, COMPLETE is posted where NOTIFY asks (R53, R56). -/
def State.completePkt (s : State) (q : BitVec 6) (off : BitVec 20) (tag : Word) (notify : Bool) : State :=
  let s1 := s.modQueue q fun k => { k with done := k.done + 1, running := k.running.filter fun r => r.off != off }
  let s2 := if notify then s1.postCtx (queueCtx q) 1 0 (q.setWidth 8) tag.toNat off.toNat (s1.queue q).done.toNat else s1.updateStatus (queueCtx q)
  s2.modQueue q Queue.settle

/-- What a packet does once its header is read: halt the queue, wait without starting, or start, with what it waits for before it
completes (none: it is complete). -/
inductive PktRes where
  | halt (h : Halt) (s : State)
  | wait
  | start (s : State) (what : Option PktWait)

/-- QHEAD passes the packet that starts. -/
def State.passHead (s : State) (q : BitVec 6) (len : Nat) : State := s.modQueue q fun k => { k with head := k.after len }

/-- A packet event: the packet at QHEAD, where it is of the event's type and may start. A header that fails its checks halts the queue. -/
def packetEvent (type : Nat) (q : BitVec 6) (s : State) (go : Nat → PktRes) : Host.Outcome State Fault Refusal :=
  .next (match s.headOf q with
    | .empty => s
    | .halt tag h => s.haltQueue q (s.queue q).head tag h
    | .packet hdr =>
        let k := s.queue q
        let tag := BitVec.ofNat 32 (hdrTag hdr)
        if hdrType hdr ≠ type || !s.mayStart q hdr || s.ownHeld (queueCtx q) (k.base.toNat + k.head.toNat) (8 * hdrLen hdr) then s
        else match go hdr with
          | .wait => s
          | .halt h t => t.haltQueue q k.head (hdrTag hdr) h
          | .start t none => (t.passHead q (hdrLen hdr)).completePkt q k.head tag (hdrNotify hdr)
          | .start t (some w) =>
              (t.passHead q (hdrLen hdr)).modQueue q fun k' =>
                { k' with running := k'.running ++ [{ off := k.head, tag := tag, notify := hdrNotify hdr, what := w }] })

/-- The payload words w1 to wn, or the halt of a failed read: the ring is field 0 (R62). -/
def State.payload (s : State) (q : BitVec 6) (n : Nat) : Except Halt (List Nat) :=
  let k := s.queue q
  let base := k.base.toNat + k.head.toNat
  (List.range n).mapM fun i =>
    match s.ownRead (queueCtx q) (base + 8 * (i + 1)) 8 with
    | .ok v => .ok v
    | .lost kind va => .error (Halt.access 0 kind va)

/-! ### The host's writes (R54) -/

/-- The BAR 0 offset of a queue register (R54). -/
def queueReg (q : BitVec 6) (o : Nat) : Nat := 0x2000 + 32 * q.toNat + o

/-- A write of Q_ENABLE = 1 is refused: its context is not ACTIVE, or READY is 0, and it would change the field (R48, R54). -/
def State.startRefused (s : State) (q : BitVec 6) : Bool :=
  !(s.queue q).enable && ((s.ctx (queueCtx q)).st != .active || !s.dev.ready)

/-- Q_ENABLE = 1 (R54): it starts a queue that it enables, and one that has halted (R62). After a fatal link error the queue counts as RUNNING
though it reads nothing (R40; DESIGN CHOICE, log 88). -/
def State.startQueue (s : State) (q : BitVec 6) : State :=
  if s.startRefused q then s.regMisuse (queueReg q 8)
  else if ((s.queue q).enable && (s.queue q).st != .halted) || (s.ctx (queueCtx q)).st != .active || !s.dev.ready then s
  else (s.modQueue q fun k => { k with enable := true, st := .running }).readHead q

/-- Q_ENABLE = 0 (R54). -/
def State.stopQueue (s : State) (q : BitVec 6) : State := s.modQueue q fun k => { k with enable := false }.settle

/-- QTAIL: offset bits at and above Q_LOG2 and below 3 are RES0 (R54). -/
def Queue.offset (k : Queue) (v : Nat) : BitVec 20 := BitVec.ofNat 20 (v % k.size / 8 * 8)

/-- A write of QTAIL (R54). -/
def State.doorbell (s : State) (q : BitVec 6) (v : Nat) : State := (s.modQueue q fun k => { k with tail := k.offset v }).readHead q

/-- QUEUE_START (R54). -/
def execQueueStart (q : BitVec 6) (s : State) : Host.Outcome State Fault Refusal := .next (if s.served then s.startQueue q else s)
/-- QUEUE_STOP (R54). -/
def execQueueStop (q : BitVec 6) (s : State) : Host.Outcome State Fault Refusal := .next (if s.served then s.stopQueue q else s)
/-- QTAIL_DOORBELL (R54). -/
def execQtailDoorbell (q : BitVec 6) (value : BitVec 20) (s : State) : Host.Outcome State Fault Refusal :=
  .next (if s.served then s.doorbell q value.toNat else s)

end Sys2Proof.Machine
end

