-- ==== Sys2Proof/Machine/HostRegs.lean ====
section
/-! DEFINITION. The host's accesses: BAR 0 (R44, R47, R48, R51, R54), the memory aperture of BAR 2 (R25, R46, R49, R190) and the MSI-X table
of BAR 4 (R65). -/

namespace Sys2Proof.Machine

/-! ### Device registers (R47, R48) -/

/-- Every context is OFF (R48). -/
def State.allOff (s : State) : Bool := s.ctxs.all fun c => c.st == .off

/-- ACCEPT_CHANNELS (R47). -/
def State.acceptChannels (s : State) : State :=
  if s.dev.bootErr = 4 then { s with dev := { s.dev with ready := true, degraded := true, memRate := s.gov.memRate } } else s.regMisuse 0x10

/-- CAP_W: every value is taken, and is tested at the next period boundary (R48, R105). -/
def State.writeCapW (s : State) (v : BitVec 16) : State :=
  { s with dev := { s.dev with capW := v, capPending := true },
           fcp := { s.fcp with capReqs := s.fcp.capReqs ++ [{ src := none, cap := v, floor := 0xFFFF }] } }

/-- EVQ_HEAD (R47, R48, R66). -/
def State.writeEvqHead (s : State) (v : BitVec 16) : State :=
  if 2 ^ s.dev.evqLog2.toNat ≤ v.toNat then s.regMisuse 0x3C
  else ({ s with dev := { s.dev with evqHead := v } }).drainEvents

/-- EVQ_ENABLE and EVQ_LOG2, one word (R47, R48, R66). -/
def State.writeEvqCtrl (s : State) (enable : Bool) (log2 : BitVec 5) : State :=
  if log2 ≠ s.dev.evqLog2 && (!s.allOff || s.dev.evqEnable || decide (log2.toNat < 6) || decide (16 < log2.toNat)) then s.regMisuse 0x38
  else ({ s with dev := { s.dev with evqEnable := enable, evqLog2 := log2 } }).drainEvents

/-- A field that may change only while every context is OFF (R48). -/
def State.writeIfOff (s : State) (off : Nat) (same : Bool) (f : Dev → Dev) : State :=
  if same then s else if s.allOff then { s with dev := f s.dev } else s.regMisuse off

/-- A write of CTX_CMD (R51, R52). -/
def State.writeCtxCmd (s : State) (ctx : BitVec 5) (v : Nat) : Host.Outcome State Fault Refusal :=
  match v % 8 with
  | 1 => execEnable ctx s
  | 2 => execDisable ctx s
  | 3 => execHalt ctx s
  | 4 => execResume ctx s
  | _ => .next (s.ctxMisuse ctx)

/-- A write of FAULT_ID and FAULT_ACTION (R51, R67). -/
def State.writeFault (s : State) (ctx : BitVec 5) (off : Nat) (wide : Bool) (v : Nat) : Host.Outcome State Fault Refusal :=
  if !wide then .next (s.regMisuse off)
  else match v % 4 with
    | 1 => execFaultReplay ctx (BitVec.ofNat 32 (bitsOf v 63 32)) s
    | 2 => execFaultConvertToTrap ctx (BitVec.ofNat 32 (bitsOf v 63 32)) s
    | _ => .next (s.faultMisuse ctx)

/-- A ring of another size: offset bits at and above Q_LOG2 are RES0 (R54). -/
def Queue.resize (k : Queue) (log2 : BitVec 5) : Queue :=
  let k' := { k with log2 := log2 }
  { k' with head := k'.offset k.head.toNat, tail := k'.offset k.tail.toNat }

/-- A write of Q_ENABLE and Q_LOG2, one word: a word with a refused field changes neither (R48, R54). -/
def State.writeQCtrl (s : State) (q : BitVec 6) (v : Nat) : State :=
  let k := s.queue q
  let log2 := BitVec.ofNat 5 v
  if (log2 ≠ k.log2 && (k.st != .off || decide (log2.toNat < 12) || decide (20 < log2.toNat))) || (v.testBit 31 && s.startRefused q) then
    s.regMisuse (queueReg q 8)
  else
    let s1 := if log2 = k.log2 then s else s.modQueue q fun k => k.resize log2
    if v.testBit 31 then s1.startQueue q else s1.stopQueue q

/-- A write of QHEAD (R54). -/
def State.writeQHead (s : State) (q : BitVec 6) (v : Nat) : State :=
  let k := s.queue q
  if k.offset v = k.head then s
  else if k.st = .running then s.regMisuse (queueReg q 0x10)
  else s.modQueue q fun k => { k with head := k.offset v }

/-- A write of QBASE, or of a half of it at BAR 0 offset off (R54). -/
def State.writeQBase (s : State) (q : BitVec 6) (off v : Nat) : State :=
  let b : Pc := BitVec.ofNat 49 (v / 4096 * 4096)
  if b = (s.queue q).base then s
  else if (s.queue q).st ≠ .off then s.regMisuse off else s.modQueue q fun k => { k with base := b }

/-- A block of BAR 0 (R44). -/
inductive Block0 where
  | device | context (c : BitVec 5) | queue (q : BitVec 6) | errorLog | none
  deriving DecidableEq, Repr

/-- The block and the offset within its unit of a BAR 0 offset (R44). -/
def blockOf (off : Nat) : Block0 × Nat :=
  if off < 0x1000 then (.device, off)
  else if off < 0x1800 then (.context (BitVec.ofNat 5 ((off - 0x1000) / 64)), off % 64)
  else if 0x2000 ≤ off && off < 0x2800 then (.queue (BitVec.ofNat 6 ((off - 0x2000) / 32)), off % 32)
  else if 0x10000 ≤ off && off < 0x12000 then (.errorLog, off - 0x10000)
  else (.none, off)

/-- Registers of 64 bits, by the offset of their low word (R47, R51, R54). -/
def isWideReg (b : Block0) (o : Nat) : Bool :=
  match b with
  | .device => o == 0 || o == 0x18 || o == 0x20 || o == 0x30
  | .context _ => o == 8
  | .queue _ => o == 0
  | _ => false

/-- The value of a 64-bit register, for a write of one of its halves. -/
def State.wideValue (s : State) (b : Block0) (o : Nat) : Nat :=
  match b with
  | .device => if o = 0x18 then s.dev.apertureBase.toNat else if o = 0x20 then s.dev.ctxTable.toNat else s.dev.evqBase.toNat
  | .queue q => (s.queue q).base.toNat
  | _ => 0

/-- A write of a 64-bit register; a misuse is logged with the BAR 0 offset written (R70). -/
def State.writeWide (s : State) (b : Block0) (o off : Nat) (wide : Bool) (v : Nat) : Host.Outcome State Fault Refusal :=
  match b with
  | .device =>
      if o = 0x18 then .next { s with dev := { s.dev with apertureBase := BitVec.ofNat 48 v } }
      else if o = 0x20 then
        let t : BitVec 48 := BitVec.ofNat 48 (v / 8192 * 8192)
        .next (s.writeIfOff off (t == s.dev.ctxTable) fun d => { d with ctxTable := t })
      else if o = 0x30 then
        let e : Dword := BitVec.ofNat 64 (v / 4096 * 4096)
        .next (if e = s.dev.evqBase then s
          else if s.dev.evqEnable then s.regMisuse off else s.writeIfOff off false fun d => { d with evqBase := e })
      else .next s
  | .context c => s.writeFault c off wide v
  | .queue q => .next (s.writeQBase q off v)
  | _ => .next s

/-- A write of a 32-bit register: one of R47, R51 or R54; a read-only or reserved word takes no effect (R11). -/
def State.writeWord (s : State) (b : Block0) (o v : Nat) : Host.Outcome State Fault Refusal :=
  match b with
  | .device =>
      .next (if o = 0x10 then (if v.testBit 0 then s.acceptChannels else s)
        else if o = 0x28 then s.writeCapW (BitVec.ofNat 16 v)
        else if o = 0x38 then s.writeEvqCtrl (v.testBit 31) (BitVec.ofNat 5 v)
        else if o = 0x3C then s.writeEvqHead (BitVec.ofNat 16 v)
        else if o = 0x48 then { s with dev := { s.dev with errHead := BitVec.ofNat 8 v } }
        else if o = 0x60 || o = 0x64 || o = 0x68 then
          let m := setMaskWord s.dev.coreExclude ((o - 0x60) / 4) (BitVec.ofNat 32 v)
          s.writeIfOff o (m == s.dev.coreExclude) fun d => { d with coreExclude := m }
        else if 0x80 ≤ o && o < 0xC0 then
          let k := (o - 0x80) / 4
          s.writeIfOff o (s.dev.wayExclude.getD k 0 == BitVec.ofNat 16 v) fun d => { d with wayExclude := d.wayExclude.set k (BitVec.ofNat 16 v) }
        else s)
  | .context c => if o = 0 then s.writeCtxCmd c v else .next s
  | .queue q =>
      .next (if o = 8 then s.writeQCtrl q v else if o = 0x10 then s.writeQHead q v else if o = 0x14 then s.doorbell q v else s)
  | .errorLog => .next s
  | .none => .next (s.regMisuse o)

/-- One 4-byte write: a 32-bit register, or half of a 64-bit one (R44). -/
def State.writeDword (s : State) (off v : Nat) : Host.Outcome State Fault Refusal :=
  let (b, o) := blockOf off
  let lo := o / 8 * 8
  if isWideReg b lo then
    let old := s.wideValue b lo
    s.writeWide b lo off false (if o = lo then old / 2 ^ 32 * 2 ^ 32 + v else old % 2 ^ 32 + v * 2 ^ 32)
  else s.writeWord b o v

/-- How a register access completes: with Unsupported Request, or not (R44). -/
def State.accessOk (s : State) (ok : Bool) : State := { s with host := { s.host with unsupported := !ok } }

/-- REGISTER_WRITE: 4 or 8 bytes, naturally aligned; any other access is an Unsupported Request. Eight bytes over two 32-bit registers
write both, the lower first (R44, R47, R48). -/
def execRegisterWrite (off : BitVec 26) (wide : Bool) (value : Dword) (s : State) : Host.Outcome State Fault Refusal :=
  let o := off.toNat
  let lo := value.toNat % 2 ^ 32
  let hi := value.toNat / 2 ^ 32
  if !s.served then .next s
  else
  let s := s.accessOk (o % (if wide then 8 else 4) == 0)
  if o % (if wide then 8 else 4) != 0 then .next s
  else if !wide then s.writeDword o lo
  else
    let (b, k) := blockOf o
    if isWideReg b k then s.writeWide b k o true value.toNat
    else if b = .none then .next (s.regMisuse o)
    else match s.writeDword o lo with
      | .next t => t.writeDword (o + 4) hi
      | r => r

/-! ### Reads of BAR 0 (R10, R44) -/

/-- Word k of four 64-bit words, as two 32-bit halves. -/
def half (d : Dword) (hi : Bool) : Nat := if hi then d.toNat / 2 ^ 32 else d.toNat % 2 ^ 32

/-- READY, DEGRADED, BOOT_ERR, MEM_RATE and FW_BUILD, one word (R47). -/
def Dev.statusWord (d : Dev) : Nat :=
  d.ready.toNat <<< 31 + d.degraded.toNat <<< 30 + d.bootErr.toNat <<< 16 + d.memRate.toNat <<< 8 + d.fwBuild.toNat

/-- LAST_REFUSAL, CAP_PENDING and CAP_IN_FORCE, one word (R47). -/
def Dev.capWord (d : Dev) : Nat := d.lastRefusal.toNat <<< 24 + d.capPending.toNat <<< 16 + d.capInForce.toNat

/-- What a read of a 4-byte word of the device registers returns: RW and RO fields, and 0 for WO and RES0 (R10, R47). -/
def Dev.readWord (d : Dev) (o : Nat) : Nat :=
  match o with
  | 0x00 => d.part.toNat <<< 16 + d.isaMajor.toNat <<< 8 + d.isaMinor.toNat
  | 0x04 => d.stepping.toNat
  | 0x08 => d.statusWord
  | 0x0C => d.chanFail.toNat
  | 0x18 => d.apertureBase.toNat % 2 ^ 32
  | 0x1C => d.apertureBase.toNat / 2 ^ 32
  | 0x20 => d.ctxTable.toNat % 2 ^ 32
  | 0x24 => d.ctxTable.toNat / 2 ^ 32
  | 0x28 => d.capW.toNat
  | 0x2C => d.capWord
  | 0x30 => half d.evqBase false
  | 0x34 => half d.evqBase true
  | 0x38 => d.evqEnable.toNat <<< 31 + d.evqLog2.toNat
  | 0x3C => d.evqHead.toNat
  | 0x40 => d.evqTail.toNat
  | 0x44 => d.evqDropped.toNat
  | 0x48 => d.errHead.toNat
  | 0x4C => d.errTail.toNat
  | 0x50 => d.errTransient.toNat
  | 0x54 => d.errLasting.toNat
  | 0x58 => d.errDropped.toNat
  | 0x60 => (maskWord d.coreExclude 0).toNat
  | 0x64 => (maskWord d.coreExclude 1).toNat
  | 0x68 => (maskWord d.coreExclude 2).toNat
  | 0x70 => d.evqLost.toNat
  | _ => if 0x80 ≤ o && o < 0xC0 then (d.wayExclude.getD ((o - 0x80) / 4) 0).toNat else 0

/-- The code of a context's state (R51). -/
def CtxState.code : CtxState → Nat
  | .off => 0
  | .active => 1
  | .halted => 2
  | .ending => 3

/-- The code of a queue's state (R54). -/
def QState.code : QState → Nat
  | .off => 0
  | .running => 1
  | .halted => 2

/-- What a read of a 4-byte word of a queue's registers returns (R54). -/
def Queue.readWord (k : Queue) (o : Nat) : Nat :=
  match o with
  | 0x00 => k.base.toNat % 2 ^ 32
  | 0x04 => k.base.toNat / 2 ^ 32
  | 0x08 => k.enable.toNat <<< 31 + k.log2.toNat
  | 0x0C => k.cause.toNat <<< 8 + k.st.code
  | 0x10 => k.head.toNat
  | 0x14 => k.tail.toNat
  | 0x18 => k.done.toNat
  | _ => 0

/-- A 4-byte word of an error record (R70). -/
def ErrRecord.readWord (e : ErrRecord) (o : Nat) : Nat := half ([e.w0, e.w1, e.w2, e.w3].getD (o / 8) 0) (o % 8 == 4)

/-- What a read of a 4-byte word of BAR 0 returns; an offset that no block covers reads as zero (R10, R44). -/
def State.readDword (s : State) (off : Nat) : Nat :=
  match blockOf off with
  | (.device, o) => s.dev.readWord o
  | (.context c, o) => if o = 4 then (s.ctx c).refusal.toNat <<< 8 + (s.ctx c).st.code else 0
  | (.queue q, o) => (s.queue q).readWord o
  | (.errorLog, o) => (sget ErrRecord.zero s.dev.errLog (o / 32)).readWord (o % 32)
  | (.none, _) => 0

/-- A read of n bytes of BAR 0: 4 or 8 bytes, naturally aligned, or Unsupported Request (R44). The opcode table has no row for it: it is a turn
of its own (log 72). -/
def State.hostRead (s : State) (off : BitVec 26) (n : BitVec 8) : State :=
  let o := off.toNat
  let m := n.toNat
  if !s.served then s
  else
    let ok := (m = 4 || m = 8) && o % m == 0
    let v := s.readDword o + if m = 8 then s.readDword (o + 4) <<< 32 else 0
    let t := s.accessOk ok
    { t with host := { t.host with readData := if ok then (List.range m).map fun i => BitVec.ofNat 8 (v >>> (8 * i)) else [], poisoned := false } }

/-- ACCEPT_CHANNELS written with 1 (R47). -/
def execAcceptChannels (s : State) : Host.Outcome State Fault Refusal := .next (if s.served then s.acceptChannels else s)
/-- CAP_W_WRITE (R48). -/
def execCapWWrite (value : BitVec 16) (s : State) : Host.Outcome State Fault Refusal := .next (if s.served then s.writeCapW value else s)
/-- EVQ_HEAD_WRITE (R66). -/
def execEvqHeadWrite (value : BitVec 16) (s : State) : Host.Outcome State Fault Refusal :=
  .next (if s.served then s.writeEvqHead value else s)
/-- EVQ_ENABLE_WRITE, with EVQ_LOG2 as it stands (R66). -/
def execEvqEnableWrite (enable : Bool) (s : State) : Host.Outcome State Fault Refusal :=
  .next (if s.served then s.writeEvqCtrl enable s.dev.evqLog2 else s)

/-! ### The MSI-X table (R37, R65) -/

/-- An unmasked vector with its pending bit set sends its message. -/
def State.sendPending (s : State) (v : Nat) : State :=
  let m := s.dev.msix.getD v MsixEntry.reset
  if m.pending && !m.masked then
    ({ s with dev := { s.dev with msix := s.dev.msix.modify v fun x => { x with pending := false } } }).signal v
  else s

/-- One word of a vector's entry: address, upper address, data, vector control. -/
def MsixEntry.write (e : MsixEntry) (word : Nat) (v : Word) : MsixEntry :=
  match word with
  | 0 => { e with addr := e.addr.extractLsb' 32 32 ++ v }
  | 1 => { e with addr := v ++ e.addr.extractLsb' 0 32 }
  | 2 => { e with data := v }
  | _ => { e with masked := v.getLsbD 0 }

/-- MSIX_TABLE_WRITE: 64 entries of 16 bytes from offset 0 (R65; log 23). -/
def execMsixTableWrite (off : BitVec 16) (value : Word) (s : State) : Host.Outcome State Fault Refusal :=
  let o := off.toNat
  .next (if !s.served || o % 4 != 0 || decide (1024 ≤ o) then s
    else ({ s with dev := { s.dev with msix := s.dev.msix.modify (o / 16) fun e => e.write (o / 4 % 4) value } }).sendPending (o / 16))

/-! ### The memory aperture (R25, R46, R49, R182, R190, R206) -/

/-- The physical address of an offset of BAR 2 (R46). -/
def State.aperturePa (s : State) (o : Nat) : Nat := s.dev.apertureBase.toNat / 2 ^ s.dev.bar2Log2 * 2 ^ s.dev.bar2Log2 + o

/-- The physical addresses of a range. -/
def rangeOf (pa n : Nat) : List Nat := (List.range n).map (pa + ·)

/-- An access lies in BAR 2, and the part takes it. -/
def State.inAperture (s : State) (o n : Nat) : Bool := s.served && n != 0 && decide (o + n ≤ 2 ^ s.dev.bar2Log2)

/-- An aperture access that reaches no memory: outside BAR 2; before READY (R25); or one that waits for a retried read of its line (R35). -/
def State.apertureClosed (s : State) (o n : Nat) : Option State :=
  if !s.inAperture o n then some s
  else if !s.dev.ready then some (s.apertureError o)
  else if (rangeOf (s.aperturePa o) n).any fun a => inDram a && s.paHeld a then some s else none

/-- Stash-owned lines of a range are recalled before the host's access is served (R46, R187). -/
def State.recallRange (s : State) (pa n : Nat) (write : Bool) : State :=
  ((List.range n).map fun i => (pa + i) / 128).eraseDups.foldl (fun t l => if inDram (l * 128) then t.recall (l * 128) write else t) s

/-- Record what an aperture access met: bytes outside DRAM or, for a write, of the generation store; and failed lines (R46). -/
def State.logAperture (s : State) (o pa n : Nat) (write : Bool) : State :=
  let s1 := if (rangeOf pa n).any fun a => !inDram a || (write && inGen a && !s.lineBad a) then s.apertureError o else s
  match (rangeOf pa n).find? fun a => inDram a && s.lineBad a with
  | some a => if s.chanBad a then s1.lastingError (lineError a none) else (s1.lastingError (lineError a none)).noteBadAccess a none
  | none => s1

/-- The bytes of an aperture read: all 0xFF outside DRAM, and of every byte where a line is poisoned (R46). -/
def State.apertureData (s : State) (pa n : Nat) : List Byte × Bool :=
  if (rangeOf pa n).any fun a => inDram a && s.lineBad a then (List.replicate n 0xFF, true)
  else ((rangeOf pa n).map fun a => if inDram a then s.dramByte a else 0xFF, false)

/-- APERTURE_READ (R25, R46). -/
def execApertureRead (off : BitVec 37) (n : BitVec 8) (s : State) : Host.Outcome State Fault Refusal :=
  let o := off.toNat
  let m := n.toNat
  .next (match s.apertureClosed o m with
    | some t => if s.inAperture o m && !s.dev.ready then { t with host := { t.host with readData := List.replicate m 0xFF, poisoned := false } } else t
    | none =>
        let pa := s.aperturePa o
        let s1 := s.recallRange pa m false
        let (bs, bad) := s1.apertureData pa m
        ({ s1 with host := { s1.host with readData := bs, poisoned := bad } }).logAperture o pa m false)

/-- The lines that an aperture write writes: each increments its region's generation (R190). -/
def State.apertureLines (s : State) (pa n : Nat) : List Nat :=
  (((rangeOf pa n).filter fun a => inDram a && !s.lineBad a && !inGen a).map lineOf).eraseDups

/-- APERTURE_WRITE: each byte at home, or discarded (R25, R46, R49, R190). -/
def execApertureWrite (off : BitVec 37) (data : List Byte) (s : State) : Host.Outcome State Fault Refusal :=
  let o := off.toNat
  let m := data.length
  .next (match s.apertureClosed o m with
    | some t => t
    | none =>
        let pa := s.aperturePa o
        let s1 := s.recallRange pa m true
        let s2 := (data.zipIdx).foldl (fun (t : State) (p : Byte × Nat) => if inDram (pa + p.2) then t.physPut (pa + p.2) p.1 else t) s1
        let s3 := (s1.apertureLines pa m).foldl (fun t l => t.incGen (l * 128)) s2
        s3.logAperture o pa m true)

end Sys2Proof.Machine
end

