-- ==== Sys2Proof/Machine/Packets.lean ====
section
/-! DEFINITION. The packets of R57 but for LAUNCH: one meaning per packet (R58 to R62, R90, R105, R252, R266). -/

namespace Sys2Proof.Machine

/-! ### Checks that packets share (R57, R61) -/

/-- The bound that an object of n bytes passes, where it does not lie wholly in the command window (R61). -/
def Desc.windowBound (d : Desc) (va n : Nat) : Option Nat :=
  if va < d.cmdWinBase.toNat then some d.cmdWinBase.toNat
  else if d.cmdWinBase.toNat + d.cmdWinSize.toNat < va + n then some (d.cmdWinBase.toNat + d.cmdWinSize.toNat) else none

/-- Checks of a packet, in order: the first that fails halts the queue. -/
def firstHalt : List (Bool × Halt) → Option Halt
  | [] => none
  | (ok, h) :: r => if ok then firstHalt r else some h

/-- An object that a field names lies in the command window (R61). -/
def inWindow (d : Desc) (field va n : Nat) : Bool × Halt := ((d.windowBound va n).isNone, ⟨1, field, (d.windowBound va n).getD 0⟩)

/-- A payload word has no bit set outside some bits: its field is in range (R57). -/
def onlyBits (field mask w : Nat) : Bool × Halt := (w &&& mask == w, Halt.packet field)

/-- Stash-owned lines of a range of a context's memory are recalled before the part reads or writes it (R187). -/
def State.recallOwn (s : State) (ctx : BitVec 5) (va n : Nat) : State :=
  ((List.range n).map fun i => (va + i) / 8 * 8).eraseDups.foldl (fun t a =>
    match t.translate ctx a .read with
    | .ok r => if inDram r.pa then t.recall r.pa false else t
    | _ => t) s

/-- A packet of n payload words. -/
def withPayload (s : State) (q : BitVec 6) (n : Nat) (go : List Nat → PktRes) : PktRes :=
  match s.payload q n with
  | .error h => .halt h s
  | .ok ws => go ws

/-- Word n of a payload (w1 is the first). -/
def wordN (ws : List Nat) (n : Nat) : Nat := ws.getD (n - 1) 0

/-- Read an object that a field names: held while it lies on a host that cannot be reached, or the halt of a failed access (R62). -/
def readObject (s : State) (q : BitVec 6) (field va n : Nat) (go : State → Nat → PktRes) : PktRes :=
  let ctx := queueCtx q
  if s.ownHeld ctx va n then .wait
  else
    let s1 := s.recallOwn ctx va n
    match s1.ownRead ctx va n with
    | .lost kind a => .halt (Halt.access field kind a) s1
    | .ok v => go s1 v

/-- Write an object that a field names. -/
def writeObject (s : State) (q : BitVec 6) (field va v n : Nat) (go : State → PktRes) : PktRes :=
  let ctx := queueCtx q
  if s.ownHeld ctx va n then .wait
  else
    let s1 := s.recallOwn ctx va n
    match s1.ownWrite ctx va v n with
    | .error (kind, a) => .halt (Halt.access field kind a) s1
    | .ok s2 => go s2

/-! ### NOP, MEMO_FLUSH (R57, R252) -/

/-- NOP: its payload is ignored (R57). -/
def execNopPacket (q : BitVec 6) (s : State) : Host.Outcome State Fault Refusal := packetEvent 0 q s fun _ => .start s none

/-- MEMO_FLUSH (R252). -/
def execMemoFlushPacket (q : BitVec 6) (s : State) : Host.Outcome State Fault Refusal :=
  packetEvent 6 q s fun _ => .start (s.memoFlush (queueCtx q)) none

/-! ### Semaphores (R60) -/

/-- (M AND MASK) COND VALUE (R60). -/
def semTest (cond : BitVec 2) (m value mask : Dword) : Bool :=
  if cond = 0 then m &&& mask == value
  else if cond = 1 then m &&& mask != value
  else decide (value.toNat ≤ (m &&& mask).toNat)

/-- The firmware rereads the semaphore of a waiting SEM_WAIT: the condition satisfies it, a failed access halts its queue (R60, R62). -/
def State.pollSem (s : State) (q : BitVec 6) : State :=
  match (s.queue q).sem with
  | none => s
  | some w =>
      let ctx := queueCtx q
      if (s.queue q).st ≠ .running || s.ownHeld ctx w.addr.toNat 8 then s
      else
        let s1 := s.recallOwn ctx w.addr.toNat 8
        match s1.ownRead ctx w.addr.toNat 8 with
        | .lost kind a => s1.haltQueue q w.off w.tag.toNat (Halt.access 1 kind a)
        | .ok v =>
            if semTest w.cond (BitVec.ofNat 64 v) w.value w.mask then
              (s1.modQueue q fun k => { k with sem := none }).completePkt q w.off w.tag w.notify
            else s1

/-- The physical address of a virtual one, where it translates. -/
def State.paOf (s : State) (ctx : BitVec 5) (va : Nat) : Option Nat :=
  match s.translate ctx va .read with
  | .ok t => some t.pa
  | _ => none

/-- Every SEM_WAIT on the same 8 bytes is reread (R60). -/
def State.pollAll (s : State) (pa : Option Nat) : State :=
  (List.range 64).foldl (fun t i =>
    let q : BitVec 6 := BitVec.ofNat 6 i
    match (t.queue q).sem with
    | some w => if pa.isSome && t.paOf (queueCtx q) w.addr.toNat == pa then t.pollSem q else t
    | none => t) s

/-- SEM_SIGNAL (R57, R60). The packets that completed before have made their writes visible as they completed. -/
def execSemSignal (q : BitVec 6) (s : State) : Host.Outcome State Fault Refusal :=
  packetEvent 2 q s fun _ => withPayload s q 2 fun ws =>
    let ctx := queueCtx q
    let w1 := wordN ws 1
    let op := bitsOf w1 63 62
    let va := bitsOf w1 48 0
    let pa := s.paOf ctx va
    let toHost := pa.any inHost
    match firstHalt [(decide (op ≤ 1), Halt.packet 1), onlyBits 1 (3 * 2 ^ 62 + (2 ^ 49 - 1)) w1, (va % 8 == 0, Halt.packet 1),
                     inWindow (s.ctx ctx).desc 1 va 8, (op == 0 || !toHost, Halt.packet 1)] with
    | some h => .halt h s
    | none =>
        readObject s q 1 va 8 fun s1 old =>
          writeObject s1 q 1 va (if op = 0 then wordN ws 2 else (old + wordN ws 2) % 2 ^ 64) 8 fun s2 => .start (s2.pollAll pa) none

/-- SEM_WAIT: it starts, and completes at once where its condition holds (R57, R60). -/
def execSemWait (q : BitVec 6) (s : State) : Host.Outcome State Fault Refusal :=
  match packetEvent 3 q s fun hdr => withPayload s q 3 fun ws =>
    let ctx := queueCtx q
    let w1 := wordN ws 1
    let va := bitsOf w1 48 0
    match firstHalt [(bitsOf w1 63 62 != 3, Halt.packet 1), onlyBits 1 (3 * 2 ^ 62 + (2 ^ 49 - 1)) w1, (va % 8 == 0, Halt.packet 1),
                     inWindow (s.ctx ctx).desc 1 va 8] with
    | some h => .halt h s
    | none =>
        readObject s q 1 va 8 fun s1 v =>
          let w : SemWait := { off := (s.queue q).head, tag := BitVec.ofNat 32 (hdrTag hdr), notify := hdrNotify hdr,
                               cond := BitVec.ofNat 2 (bitsOf w1 63 62), addr := BitVec.ofNat 49 va, value := BitVec.ofNat 64 (wordN ws 2),
                               mask := BitVec.ofNat 64 (wordN ws 3) }
          if semTest w.cond (BitVec.ofNat 64 v) w.value w.mask then .start s1 none
          else .start (s1.modQueue q fun k => { k with sem := some w }) (some .done) with
  | .next t => .next (t.modQueue q fun k => { k with running := k.running.filter fun r => r.what != .done })
  | r => r

/-- SEM_WAIT_POLL (R60). -/
def execSemWaitPoll (q : BitVec 6) (s : State) : Host.Outcome State Fault Refusal := .next (s.pollSem q)

/-! ### SET_STATE, FRAME_MARK (R57, R266) -/

/-- A context's descriptor with one key set; none where the key is reserved (R57). -/
def Desc.setKey (d : Desc) (key v : Nat) : Option Desc :=
  match key with
  | 1 => some { d with trapEntry := BitVec.ofNat 49 v }
  | 2 => some { d with verifyRate := BitVec.ofNat 2 v }
  | 3 => some { d with roundQ := BitVec.ofNat 11 v }
  | 4 => some { d with raceMode := BitVec.ofNat 2 v }
  | 5 => some { d with hazardCheck := v.testBit 0 }
  | 6 => some { d with purityCheck := v.testBit 0 }
  | 7 => some { d with ratioLock := v.testBit 3, ratioSet := BitVec.ofNat 3 v }
  | 8 => some { d with priority := BitVec.ofNat 3 v }
  | _ => none

/-- Bits of a key's VALUE (R50, R57). -/
def keyBits (key : Nat) : Nat := [0, 49, 2, 11, 2, 1, 1, 4, 3].getD key 0

/-- SET_STATE (R57, R58): launches that start after it completes take the new value. -/
def execSetState (q : BitVec 6) (s : State) : Host.Outcome State Fault Refusal :=
  packetEvent 4 q s fun _ => withPayload s q 2 fun ws =>
    let ctx := queueCtx q
    let key := wordN ws 1
    let v := wordN ws 2
    match (s.ctx ctx).desc.setKey key v with
    | none => .halt (Halt.packet 1) s
    | some d =>
        if v / 2 ^ keyBits key != 0 || !d.stateOk || !d.legacyOk then .halt (Halt.packet 2) s
        else .start (s.modCtx ctx fun c => { c with desc := d }) none

/-- FRAME_MARK (R57, R61, R266). -/
def execFrameMark (q : BitVec 6) (s : State) : Host.Outcome State Fault Refusal :=
  packetEvent 5 q s fun _ => withPayload s q 4 fun ws =>
    let ctx := queueCtx q
    let d := (s.ctx ctx).desc
    let cur := wordN ws 2
    let prev := wordN ws 3
    let n := wordN ws 4
    match firstHalt [onlyBits 1 (2 ^ 32 - 1) (wordN ws 1), onlyBits 2 (2 ^ 49 - 1) cur, (cur != 0 && cur % 64 == 0, Halt.packet 2),
                     onlyBits 3 (2 ^ 49 - 1) prev, (prev % 64 == 0, Halt.packet 3), onlyBits 4 (2 ^ 32 - 1) n,
                     (n != 0 && n % 32 == 0, Halt.packet 4),
                     (prev == 0 || decide (cur + n ≤ prev) || decide (prev + n ≤ cur), Halt.packet 2),
                     inWindow d 2 cur n, (prev == 0 || (d.windowBound prev n).isNone, (inWindow d 3 prev n).2)] with
    | some h => .halt h s
    | none =>
        let f : FrameState := { frame := BitVec.ofNat 32 (wordN ws 1), cur := BitVec.ofNat 49 cur, prev := BitVec.ofNat 49 prev,
                                bytes := BitVec.ofNat 32 n }
        .start (s.modCtx ctx fun c => { c with frame := some f }) none

/-! ### Dispatch traces (R90) -/

/-- BUF and SIZE of TRACE_RECORD and TRACE_REPLAY (R57, R61, R90). -/
def traceBuf (s : State) (q : BitVec 6) (go : Pc → Word → PktRes) : PktRes :=
  withPayload s q 2 fun ws =>
    let buf := wordN ws 1
    let n := wordN ws 2
    match firstHalt [onlyBits 1 (2 ^ 49 - 1) buf, (buf % 64 == 0, Halt.packet 1), onlyBits 2 (2 ^ 32 - 1) n, (decide (64 ≤ n), Halt.packet 2),
                     inWindow (s.ctx (queueCtx q)).desc 1 buf n] with
    | some h => .halt h s
    | none => go (BitVec.ofNat 49 buf) (BitVec.ofNat 32 n)

/-- TRACE_RECORD: the record trace is open, its header zero (R90). -/
def execTraceRecord (q : BitVec 6) (s : State) : Host.Outcome State Fault Refusal :=
  packetEvent 7 q s fun _ => traceBuf s q fun buf n =>
    writeObject s q 1 buf.toNat 0 64 fun s1 =>
      .start (s1.modCtx (queueCtx q) fun c => { c with recTrace := some { buf := buf, size := n, entries := 0, overflow := false, launches := 0 } }) none

/-- TRACE_REPLAY: the replay trace is open, the cursor at its first entry (R90). -/
def execTraceReplay (q : BitVec 6) (s : State) : Host.Outcome State Fault Refusal :=
  packetEvent 8 q s fun _ => traceBuf s q fun buf n =>
    .start (s.modCtx (queueCtx q) fun c => { c with repTrace := some { buf := buf, size := n, cursor := 0 } }) none

/-! ### POWER (R57, R105) -/

/-- POWER: the request is tested at the next period boundary, and the packet completes then (R57, R105). -/
def execPower (q : BitVec 6) (s : State) : Host.Outcome State Fault Refusal :=
  packetEvent 9 q s fun _ => withPayload s q 1 fun ws =>
    let w := wordN ws 1
    match firstHalt [onlyBits 1 (2 ^ 32 - 1) w] with
    | some h => .halt h s
    | none =>
        let r : CapReq := { src := some (q, (s.queue q).head), cap := BitVec.ofNat 16 w, floor := BitVec.ofNat 16 (w / 65536) }
        .start { s with fcp := { s.fcp with capReqs := s.fcp.capReqs ++ [r] } } (some .power)

end Sys2Proof.Machine
end

