-- ==== Sys2Proof/Machine/Launch.lean ====
section
/-! DEFINITION. LAUNCH: the launch descriptor (R71), its checks (R72, R91, R248, R271), dispatch traces (R90, R91), and the completion of a
launch (R58, R92, R134, R181, R218, R279, R280). -/

namespace Sys2Proof.Machine

/-! ### The launch descriptor (R71) -/

/-- The fields of a launch descriptor, from its 256 bytes as a number (R71). -/
def ldescOfBytes (addr : Pc) (v : Nat) : LDesc :=
  let w := fun o hi lo : Nat => bitsOf v (8 * o + hi) (8 * o + lo)
  let pc := fun o : Nat => BitVec.ofNat 49 (w o 48 0)
  let bit := fun o k : Nat => v.testBit (8 * o + k)
  { addr := addr, entry := pc 0x00, entryCons := pc 0x08, gridX := w 0x10 23 0 + 1, gridY := w 0x10 47 24 + 1, gridZ := w 0x10 63 48 + 1,
    groups := w 0x18 52 48, teamX := w 0x18 10 0, teamY := w 0x18 26 16, teamZ := w 0x18 42 32, accBlk := w 0x20 63 57, slots := w 0x20 52 48,
    stashBlk := w 0x20 43 32, frameMax := w 0x20 28 24, prodGroups := w 0x20 20 16, roles := bit 0x20 12, baseCons := w 0x20 11 8,
    base := w 0x20 3 0, drainLog2 := w 0x28 59 56, quantumLog2 := w 0x28 55 52, sched := w 0x28 49 48, clFall := w 0x28 11 8,
    clPref := w 0x28 3 0, digest := bit 0x30 11, sorted := bit 0x30 10, treplay := bit 0x30 9, trec := bit 0x30 8,
    pclass := BitVec.ofNat 2 (w 0x30 3 2), legacy := bit 0x30 1, idemp := bit 0x30 0, digestAddr := pc 0x38, coverEn := bit 0x40 15,
    recon := w 0x40 13 12, lattice := w 0x40 10 8, cover := w 0x40 7 0, ctrlRec := pc 0x48, outSurf := pc 0x50, args := pc 0x58,
    hints := (List.range 4).map fun h => (w (0x60 + 16 * h) 48 0, w (0x68 + 16 * h) 39 0), arenaBase := pc 0xA0, arenaSize := w 0xA8 39 0,
    shaderTable := pc 0xB0, codeDesc := pc 0xB8 }

/-- Bits of a launch descriptor that are fields, by 64-bit word (R71). -/
def ldescFields : List Nat :=
  [2 ^ 49 - 1, 2 ^ 49 - 1, 2 ^ 64 - 1, 0x001F07FF07FF07FF, 0xFE1F0FFF1F1F1F0F, 0x0FF3000000000F0F, 0xF0F, 2 ^ 49 - 1, 0xB7FF, 2 ^ 49 - 1,
   2 ^ 49 - 1, 2 ^ 49 - 1, 2 ^ 49 - 1, 2 ^ 40 - 1, 2 ^ 49 - 1, 2 ^ 40 - 1, 2 ^ 49 - 1, 2 ^ 40 - 1, 2 ^ 49 - 1, 2 ^ 40 - 1,
   2 ^ 49 - 1, 2 ^ 40 - 1, 2 ^ 49 - 1, 2 ^ 49 - 1]

/-- A number lies from lo to hi. -/
def within (lo hi x : Nat) : Bool := decide (lo ≤ x) && decide (x ≤ hi)

/-- The fields of word k are in their ranges and aligned (R71). -/
def LDesc.wordOk (d : LDesc) (k : Nat) : Bool :=
  match k with
  | 0 => d.entry.toNat % 4 == 0
  | 1 => d.entryCons.toNat % 4 == 0
  | 3 => within 1 16 d.groups && within 1 1536 d.teamX && within 1 1536 d.teamY && within 1 1536 d.teamZ
  | 4 => decide (d.accBlk ≤ 96) && decide (d.slots ≤ 16) && decide (d.stashBlk ≤ 2048) && within 1 16 d.frameMax && within 1 8 d.base
      && (!d.roles || within 1 8 d.baseCons)
  | 5 => decide (d.quantumLog2 ≤ 7) && within 1 12 d.clFall && within 1 12 d.clPref
  | 7 => d.digestAddr.toNat % 8 == 0
  | 8 => !d.coverEn || decide (1 ≤ d.cover)
  | 9 => d.ctrlRec.toNat % 64 == 0
  | 10 => d.outSurf.toNat % 32 == 0
  | 20 => d.arenaBase.toNat % 128 == 0
  | 22 => d.shaderTable.toNat % 64 == 0
  | 23 => d.codeDesc.toNat % 64 == 0
  | _ => true

/-- Free blocks and groups of the four partitions once groups with some base frames have been assigned in order, or none (R76). -/
def packGroups : List (Nat × Nat) → List Nat → Option (List (Nat × Nat))
  | ps, [] => some ps
  | ps, b :: r =>
      let best := (List.range 4).foldl (fun (m : Option Nat) k =>
        let p := ps.getD k (0, 0)
        if p.1 < b || 12 ≤ p.2 then m
        else match m with
          | none => some k
          | some j => if (ps.getD j (0, 0)).1 < p.1 then some k else some j) none
      match best with
      | none => none
      | some k => packGroups (ps.modify k fun p => (p.1 - b, p.2 + 1)) r

/-- The team is admissible on an empty core (R72, R76). -/
def LDesc.admissible (d : LDesc) : Bool :=
  (packGroups (List.replicate 4 (Config.poolBlocks, 0)) ((List.range d.groups).map d.baseOf)).isSome
    && decide (d.stashBlk * 256 ≤ 524288) && decide (d.slots ≤ 16) && decide (d.accBlk * 16 ≤ 1536)

/-- The cores of a rectangle of w by h cores with its corner at (x, y) (R1, R77). -/
def rectCores (w h x y : Nat) : List Nat := (List.range (w * h)).map fun i => (y + i / w) * 12 + (x + i % w)

/-- Every rectangle of n cores that lies in the mesh (R77). -/
def rectangles (n : Nat) : List (List Nat) :=
  (List.range 12).flatMap fun i =>
    let w := i + 1
    let h := n / w
    if n % w ≠ 0 || h < 1 || 8 < h then []
    else (List.range (13 - w)).flatMap fun x => (List.range (9 - h)).map fun y => rectCores w h x y

/-- The conditions of R72, in order, each with the lowest-offset descriptor word that holds a field it names: the first one word by word, the
rectangle condition at CL_FALL and admissibility at GROUPS, as R72 says (log 90). -/
def State.launchConditions (s : State) (c : Context) (d : LDesc) (v : Nat) : List (Bool × Nat) :=
  (List.range 32).map (fun k => (bitsOf v (64 * k + 63) (64 * k) &&& ldescFields.getD k 0 == bitsOf v (64 * k + 63) (64 * k) && d.wordOk k, k))
    ++ [(decide (96 * (d.groups - 1) < d.lanes) && decide (d.lanes ≤ 96 * d.groups), 3),
        (if d.roles then decide (1 ≤ d.prodGroups) && decide (d.prodGroups + 1 ≤ d.groups) && within 1 8 d.baseCons
         else d.prodGroups == 0 && d.baseCons == 0 && d.entryCons == 0, 1),
        (decide (d.base ≤ d.frameMax) && decide (d.baseCons ≤ d.frameMax), 4),
        (d.admissible, 3),
        (decide (d.clFall ≤ d.clPref) && d.clPref % d.clFall == 0 && d.teams % d.clFall == 0 && decide (d.clPref * d.groups ≤ 64), 2),
        ((rectangles d.clFall).any fun r => r.all s.inService, 5),
        (d.sched != 3, 5),
        (!d.legacy || c.desc.legacy, 6),
        (!(d.trec && d.treplay) && ((!d.sorted && !d.digest) || c.desc.det) && (!d.digest || d.digestAddr != 0), 6),
        (if d.coverEn then d.recon != 3 && d.ctrlRec != 0 && d.outSurf != 0
         else bitsOf v (8 * 0x40 + 15) (8 * 0x40) == 0 && d.ctrlRec == 0 && d.outSurf == 0, 8),
        ((!d.trec || c.recTrace.isSome) && (!d.treplay || c.repTrace.isSome), 6)]

/-- The field index of the first condition of R72 that fails. -/
def State.launchRefusal (s : State) (c : Context) (d : LDesc) (v : Nat) : Option Nat :=
  ((s.launchConditions c d v).find? fun p => !p.1).map fun p => 0x40 + p.2

/-! ### Dispatch traces (R90, R91) -/

/-- The virtual address of entry k of a trace. -/
def traceEntry (buf : Pc) (k : Nat) : Nat := buf.toNat + 64 + 16 * k

/-- Append an entry to the context's record trace; one that does not fit, or is lost, sets OVERFLOW (R90, R485). -/
def State.traceAppend (s : State) (ctx : BitVec 5) (queue : BitVec 6) (kind value size : Nat) : State :=
  match (s.ctx ctx).recTrace with
  | none => s
  | some t =>
      let va := traceEntry t.buf t.entries.toNat
      let lost : Context → Context := fun c => { c with recTrace := some { t with overflow := true } }
      if t.buf.toNat + t.size.toNat < va + 16 then s.modCtx ctx lost
      else match s.ownWrite ctx va (kind <<< 56 ||| value % 2 ^ 56 ||| (size % 16) <<< 64) 16 with
        | .ok s1 => s1.modCtx ctx fun c => { c with recTrace := some { t with entries := t.entries + 1 } }
        | .error (k, a) => (s.modCtx ctx lost).ownLost ctx (queue.setWidth 8) 1 k a

/-- The next entry of a record trace cannot be written yet (R35, R39, R40). -/
def State.traceHeld (s : State) (ctx : BitVec 5) (records : Bool) : Bool :=
  records && (s.ctx ctx).recTrace.any fun t => s.ownHeld ctx (traceEntry t.buf t.entries.toNat) 16 || s.ownHeld ctx t.buf.toNat 16

/-- How the reading of a replay segment ends: a wait (R35, R39), an access that failed (kind, address), a segment that fails the check, or the
clusters and the cursor after them. -/
inductive SegRes where
  | wait
  | lost (kind va : Nat)
  | bad
  | ok (clusters : List (Nat × Nat)) (cursor : Nat)
  deriving DecidableEq, Repr

/-- A CLUSTER entry may stand next in a segment: teams of T in a run of CL_PREF or CL_FALL, none of them covered already, ascending in
ordered mode (R91). runs: the runs so far. -/
def LDesc.entryOk (d : LDesc) (runs : List (Nat × Nat)) (kind first size : Nat) : Bool :=
  let clash := runs.any fun p => decide (first < p.1 + p.2) && decide (p.1 < first + size)
  let order := d.sched != 1 || first == runs.foldl (fun m p => m + p.2) 0
  kind == 2 && size != 0 && (size == d.clPref || size == d.clFall) && decide (first + size ≤ d.teams) && !clash && order

/-- Read CLUSTER entries from entry k on, below a limit, until every team is covered (R91). left: teams not yet covered; runs: newest
first; fuel: one entry each. -/
def State.readClusters (s : State) (ctx : BitVec 5) (d : LDesc) (buf : Pc) (limit : Nat) : Nat → Nat → Nat → List (Nat × Nat) → SegRes
  | 0, k, left, runs => if left = 0 then .ok runs.reverse k else .bad
  | n + 1, k, left, runs =>
      if left = 0 then .ok runs.reverse k
      else if limit ≤ k then .bad
      else if s.ownHeld ctx (traceEntry buf k) 16 then .wait
      else match s.ownRead ctx (traceEntry buf k) 16 with
        | .lost kd a => .lost kd a
        | .ok v =>
            let first := bitsOf v 55 0
            let size := bitsOf v 67 64
            if d.entryOk runs (bitsOf v 63 56) first size then State.readClusters s ctx d buf limit n (k + 1) (left - size) ((first, size) :: runs)
            else .bad

/-- The segment at the replay cursor: a LAUNCH_START entry whose value is T, and the CLUSTER entries after it (R91). -/
def State.readSegment (s : State) (ctx : BitVec 5) (d : LDesc) (t : RepTrace) : SegRes :=
  if s.ownHeld ctx t.buf.toNat 4 then .wait
  else match s.ownRead ctx t.buf.toNat 4 with
    | .lost k a => .lost k a
    | .ok n =>
        if n ≤ t.cursor then .bad
        else if s.ownHeld ctx (traceEntry t.buf t.cursor) 16 then .wait
        else match s.ownRead ctx (traceEntry t.buf t.cursor) 16 with
          | .lost k a => .lost k a
          | .ok v =>
              if bitsOf v 63 56 ≠ 1 || bitsOf v 55 0 ≠ d.teams then .bad
              else s.readClusters ctx d t.buf n d.teams (t.cursor + 1) d.teams []

/-! ### Coverage records (R271, R272, R278) -/

/-- Bytes of an element of a surface (R272). -/
def sfmtBytes (f : Nat) : Nat := [4, 2, 4, 1].getD f 4

/-- The output surface descriptor, from its 32 bytes; none where a check fails (R272). -/
def surfaceOf (v : Nat) : Option Surface :=
  let f := bitsOf v 241 240
  let base := bitsOf v 48 0
  if bitsOf v 63 49 != 0 || bitsOf v 127 96 != 0 || bitsOf v 255 242 != 0 || base % sfmtBytes f != 0 then none
  else some { base := base, rowPitch := bitsOf v 95 64, slicePitch := bitsOf v 175 128, depth := bitsOf v 191 176 + 1,
              height := bitsOf v 239 216 + 1, width := bitsOf v 215 192 + 1, fmt := f }

/-- A coverage state with the fields of an error-controller record, from its 64 bytes (R278). -/
def Cover.fields (c : Cover) (v : Nat) : Cover :=
  { c with fMin := bitsOf v 15 8, fMax := bitsOf v 23 16, up := bitsOf v 31 24, down := bitsOf v 39 32, target := bitsOf v 47 40,
           count := BitVec.ofNat 32 (bitsOf v 159 128) }

/-- The error-controller record, from its 64 bytes, with the launch's F (R271, R278); none where a check fails. -/
def coverOf (d : LDesc) (surf : Surface) (v : Nat) : Option Cover :=
  let fMin := bitsOf v 15 8
  let fMax := bitsOf v 23 16
  let errT := bitsOf v 95 64
  let count := bitsOf v 159 128
  let c := bitsOf v 7 0
  if bitsOf v 63 48 != 0 || bitsOf v 127 112 != 0 || bitsOf v 191 160 != 0 || bitsOf v 511 256 != 0 || fMin = 0 || fMax < fMin
      || (bitsOf errT 30 23 == 255) || (errT.testBit 31 && errT != 2 ^ 31) || (count != 0 && !within fMin fMax c) then none
  else some { f := if count = 0 then d.cover else c, fMin := fMin, fMax := fMax, up := bitsOf v 31 24, down := bitsOf v 39 32,
              target := bitsOf v 47 40, edgeT := BitVec.ofNat 16 (bitsOf v 111 96), errT := BitVec.ofNat 32 errT, count := BitVec.ofNat 32 count,
              surf := surf, probes := 0, badProbes := 0, skipped := 0, computed := 0, clocks := 0 }

/-! ### LAUNCH -/

/-- A launch that has started from a descriptor. -/
def Launch.start (uid : Nat) (q : BitVec 6) (off : BitVec 20) (tag : Word) (notify : Bool) (d : LDesc) (c : Desc)
    (frame : Option FrameState) : Launch :=
  { uid := uid, ctx := queueCtx q, queue := q, off := off, tag := tag, notify := notify, ld := d, desc := c, frame := frame, code := none,
    segment := none, nextTeam := 0, returned := [], nextClid := 0, exited := 0, recorded := false, lines := [], cover := none, arena := [],
    deferred := [], bins := [], stallPosted := false, spawnStall := false, retired := 0, inBoundary := false, stuck := false, heldCores := 0,
    roundOld := [] }

/-- The segment of a launch with TREPLAY = 1, and the cursor after it: none where the launch replays no trace (R91). -/
def withSegment (s : State) (q : BitVec 6) (d : LDesc) (go : Option (List (Nat × Nat) × Nat) → PktRes) : PktRes :=
  let ctx := queueCtx q
  match if d.treplay then (s.ctx ctx).repTrace else none with
  | none => go none
  | some t =>
      match s.readSegment ctx d t with
      | .wait => .wait
      | .lost k a => .halt (Halt.access 0x46 k a) s
      | .bad => .halt (Halt.packet 0x46) s
      | .ok seg cur => go (some (seg, cur))

/-- The replay cursor moves past the segment as the launch starts (R91). -/
def State.moveCursor (s : State) (ctx : BitVec 5) (seg : Option (List (Nat × Nat) × Nat)) : State :=
  match seg with
  | none => s
  | some p => s.modCtx ctx fun c => { c with repTrace := c.repTrace.map fun t : RepTrace => { t with cursor := p.2 } }

/-- The code identity of a launch (R248). -/
def withCode (s : State) (q : BitVec 6) (d : LDesc) (go : State → Option (Dword × Word) → PktRes) : PktRes :=
  if d.codeDesc = 0 then go s none
  else readObject s q 0x57 d.codeDesc.toNat 64 fun s1 v => if codeDescOk v then go s1 (some (codeDescId v)) else .halt (Halt.packet 0x57) s1

/-- The coverage state of a launch (R271). -/
def withCover (s : State) (q : BitVec 6) (d : LDesc) (go : State → Option Cover → PktRes) : PktRes :=
  if !d.coverEn then go s none
  else readObject s q 0x49 d.ctrlRec.toNat 64 fun s1 v =>
    match coverOf d { base := 0, rowPitch := 0, slicePitch := 0, depth := 0, height := 0, width := 0, fmt := 0 } v with
    | none => .halt (Halt.packet 0x49) s1
    | some c => readObject s1 q 0x4A d.outSurf.toNat 32 fun s2 u =>
        match surfaceOf u with
        | none => .halt (Halt.packet 0x4A) s2
        | some f => go s2 (some { c with surf := f })

/-- LAUNCH_START goes to the record trace, whose count of launches rises (R90). -/
def State.traceLaunch (s : State) (q : BitVec 6) (d : LDesc) : State :=
  if !d.trec then s
  else (s.modCtx (queueCtx q) fun c => { c with recTrace := c.recTrace.map fun t : RecTrace => { t with launches := t.launches + 1 } }).traceAppend
    (queueCtx q) q 1 d.teams 0

/-- LAUNCH (R57, R58, R61, R71, R72, R90, R91, R248, R271). -/
def execLaunch (q : BitVec 6) (s : State) : Host.Outcome State Fault Refusal :=
  packetEvent 1 q s fun hdr => withPayload s q 1 fun ws =>
    let ctx := queueCtx q
    let va := wordN ws 1
    match firstHalt [onlyBits 1 (2 ^ 49 - 1) va, (va % 256 == 0, Halt.packet 1), inWindow (s.ctx ctx).desc 1 va 256] with
    | some h => .halt h s
    | none => readObject s q 1 va 256 fun s1 v =>
        let d := ldescOfBytes (BitVec.ofNat 49 va) v
        match s1.launchRefusal (s1.ctx ctx) d v with
        | some f => .halt (Halt.packet f) s1
        | none =>
            if s1.traceHeld ctx d.trec then .wait
            else withSegment s1 q d fun seg => withCode s1 q d fun s3 code => withCover s3 q d fun s4 cov =>
              -- a launch starts: the context's cached translations and every instruction cache are invalidated (R171, R311)
              let n := ((s4.moveCursor ctx seg).dropTlb ctx).dropIcaches.fresh
              let c := s4.ctx ctx
              let l := { Launch.start n.1 q (s.queue q).head (BitVec.ofNat 32 (hdrTag hdr)) (hdrNotify hdr) d c.desc c.frame with
                segment := seg.map (·.1), code := code, cover := cov, recorded := d.trec }
              .start (({ n.2 with launches := n.2.launches ++ [l] }).traceLaunch q d) (some (.launch n.1))

/-! ### LAUNCH_COMPLETE -/

/-- A run of the arena that has been committed and not launched. -/
def ArenaRun.waits (r : ArenaRun) : Bool :=
  match r.st with
  | .committed _ _ => true
  | _ => false

/-- Every team, bin and record of a launch is done with (R58, R134). -/
def State.launchDone (s : State) (l : Launch) : Bool :=
  l.dispatched && !l.stuck && !(s.teams.any fun t => t.launch == l.uid) && !(s.groups.any fun g => g.launch == l.uid) && l.deferred.isEmpty && l.bins.isEmpty
    && !(l.arena.any ArenaRun.waits) && !(s.cores.any fun c => c.bins.any fun b => b.launch == l.uid)

/-- LineHash over the words of a line (R218). -/
def lineHash (va : Nat) (v : Nat) : Dword :=
  (List.range 32).foldl (fun (h : Dword) i =>
    let x := (h ^^^ BitVec.ofNat 64 (bitsOf v (32 * i + 31) (32 * i))) * 0x100000001B3
    x ^^^ (x >>> 29)) (BitVec.ofNat 64 va ^^^ 0x9E3779B97F4A7C15)

/-- The digest of a launch; a line that cannot be read contributes a free value (R218). -/
def State.digest (s : State) (l : Launch) : Dword :=
  let own := fun a : Nat => l.ld.arenaBase != 0 && decide (l.ld.arenaBase.toNat ≤ 128 * a) && decide (128 * a < l.ld.arenaBase.toNat + 4096)
  (l.lines.filter fun a => !own a).foldl (fun h a =>
    h + (match s.ownRead l.ctx (128 * a) 128 with
      | .ok v => lineHash (128 * a) v
      | .lost _ _ => s.freeWord .other a ++ s.freeWord .other (a + 2 ^ 49))) 0

/-- A write of the part's own for a launch: lost and reported where it fails (R485). -/
def State.launchWrite (s : State) (l : Launch) (code va v n : Nat) : State :=
  match (s.recallOwn l.ctx va n).ownWrite l.ctx va v n with
  | .ok t => t
  | .error (k, a) => s.ownLost l.ctx (l.queue.setWidth 8) code k a

/-- The header of the record trace (R90). -/
def RecTrace.header (t : RecTrace) : Nat := t.entries.toNat ||| t.overflow.toNat <<< 32 ||| t.launches.toNat <<< 64

/-- The trace header is brought up to date; a lost write sets OVERFLOW (R90, R485). -/
def State.writeHeader (s : State) (l : Launch) : State :=
  match (s.ctx l.ctx).recTrace with
  | none => s
  | some t =>
      match (s.recallOwn l.ctx t.buf.toNat 16).ownWrite l.ctx t.buf.toNat t.header 16 with
      | .ok u => u
      | .error (k, a) =>
          (s.modCtx l.ctx fun c => { c with recTrace := some { t with overflow := true } }).ownLost l.ctx (l.queue.setWidth 8) 2 k a

/-- The next F (R279). -/
def Cover.next (c : Cover) : Nat :=
  if c.probes = 0 then c.f
  else
    let bad := 256 * c.badProbes / c.probes
    if c.target < bad then min (c.f + c.up) c.fMax
    else if 2 * bad < c.target then max (c.f - c.down) c.fMin else c.f

/-- The bytes of the error-controller record that the part writes: COVER, COUNT, PROBES and BAD, from the F that the launch used and from the record as
it then stands, or, where it cannot be read, as it was at the start (R278, R279; log 94). -/
def State.writeCover (s : State) (l : Launch) (start : Cover) : State :=
  let a := l.ld.ctrlRec.toNat
  let c := match s.ownRead l.ctx a 64 with
    | .ok v => start.fields v
    | .lost _ _ => start
  let n := BitVec.ofNat 32 (c.count.toNat + 1)
  let rest := n.toNat ||| (c.probes % 2 ^ 32) <<< 64 ||| (c.badProbes % 2 ^ 32) <<< 96
  let fail := ((s.ownWriteFault l.ctx a 1).orElse fun _ => s.ownWriteFault l.ctx (a + 0x10) 16)
  match fail with
  | some (k, va) => s.ownLost l.ctx (l.queue.setWidth 8) 4 k va
  | none => (s.launchWrite l 4 a (min (max c.next 1) 255) 1).launchWrite l 4 (a + 0x10) rest 16

/-- The credit of the points that the walker skipped (R280). -/
def Cover.credit (c : Cover) : Nat := if c.computed = 0 then 0 else c.skipped * c.clocks / c.computed

/-- An access of the part's own that the completion of a launch makes cannot be made yet (R35, R39, R40). -/
def State.endHeld (s : State) (l : Launch) : Bool :=
  (l.cover.isSome && s.ownHeld l.ctx l.ld.ctrlRec.toNat 64) || s.traceHeld l.ctx l.recorded
    || (l.ld.digest && (s.ownHeld l.ctx l.ld.digestAddr.toNat 8 || l.lines.any fun a => s.ownHeld l.ctx (128 * a) 128))

/-- LAUNCH_COMPLETE (R58, R90, R92, R134, R181, R218, R279, R280). -/
def execLaunchComplete (launch : Nat) (s : State) : Host.Outcome State Fault Refusal :=
  .next (match s.launch launch with
    | none => s
    | some l =>
        if !s.launchDone l || s.endHeld l then s
        else
          let s1 := ((List.range Config.cores).filter l.heldCores.getLsbD).foldl (fun t k => t.flushContext k l.ctx) s
          let s2 := match l.cover with
            | some c => (s1.writeCover l c).credit l.ctx c.credit
            | none => s1
          let s3 := if l.recorded then s2.writeHeader l else s2
          let s4 := if l.ld.digest then s3.launchWrite l 3 l.ld.digestAddr.toNat (s3.digest l).toNat 8 else s3
          ({ s4 with launches := s4.launches.filter fun x => x.uid != launch }).completePkt l.queue l.off l.tag l.notify)

end Sys2Proof.Machine
end

