-- ==== Sys2Proof/Machine/Governor.lean ====
section
/-! DEFINITION. Power: performance classes and withholding (R94 to R100), near-threshold mode (R101), the governor's period (R102 to R105),
throttling (R106), locked clock ratios (R107, R108), and the core clock of ALLOWANCE_UPDATE (R97). Clocks are counted in steps of 1.25 MHz
(R95), voltages in mV. -/

namespace Sys2Proof.Machine

/-! ### Classes and withholding (R94, R95, R98, R100) -/

/-- The class of a team for R98: the highest PCLASS that its groups had as the core clock began (R94, R109). -/
def State.teamClass (s : State) (tu : Nat) : Nat :=
  (s.groups.filter fun g => g.team == tu).foldl (fun m g => max m g.pclassNow.toNat) 0

/-- The class of a core for the governor: the highest among its resident groups; none where it has no resident team (R94). -/
def State.coreClass (s : State) (core : Nat) : Option Nat :=
  if s.coreHasTeam core then some ((s.groups.filter fun g => g.core == core && s.onCore g).foldl (fun m g => max m g.pclass.toNat) 0) else none

/-- The reserve H(c), in 1/16 AU (R95). -/
def reserveOf (c : Nat) : Int := ((192 - 64 * c) * 16 : Nat)

/-- The debit that R98 tests, in 1/16 AU: an MMA's leader part (R99). -/
def issueCost (fmt : Word) (i : Instr) : Int :=
  match i with
  | .mma _ _ _ m => (96 * 16 * 2 ^ (m.extractLsb' 6 2).toNat * (((m.extractLsb' 0 6).toNat + 1) / 2) : Nat)
  | _ => (16 * i.cost fmt : Nat)

/-- The issue is withheld; never that of a handler, nor TRET (R98, R100). -/
def State.withheld (s : State) (g : Group) (k : Nat) (i : Instr) : Bool :=
  g.handler.isNone && i != .tret && decide ((s.core g.core).allowance < issueCost (g.row k).fmt i + reserveOf (s.teamClass g.team))

/-- A row that may issue: live, not stopped, its group neither stopped nor exiting (R121, R85). -/
def Group.canIssue (g : Group) (k : Nat) : Bool := (g.row k).live && !(g.row k).stopped && !g.stopped && !g.exiting

/-- The instruction at a row's PC, where it can be fetched and decodes. -/
def State.instrAt (s : State) (g : Group) (k : Nat) : Option Instr :=
  match s.fetch g (g.row k).pc with
  | .words w0 w1 => (match decode w0 w1 with
      | .ok i => some i
      | .error _ => none)
  | _ => none

/-- The issue slot of an instruction by its opcode row: 0 vector, 1 memory, 2 scalar (R125). -/
def slotOf (i : Instr) : Nat :=
  let row := (i.insn.extractLsb' 27 3).toNat
  if row = 0 then 2 else if row ≤ 4 then 0 else 1

/-- A row with an instruction ready that R98 holds back. -/
def State.rowWithheld (s : State) (g : Group) (k : Nat) : Bool := (s.instrAt g k).any (s.withheld g k)

/-- Rows of a group that have an instruction ready: they may issue and are not blocked. -/
def Group.readyRows (g : Group) : List Nat := (List.range 4).filter fun k => g.canIssue k && (g.row k).wait == .none && g.parked.isNone

/-- Every group of a context on a core that has an instruction ready is withheld, and one at least is (R106). -/
def State.allWithheld (s : State) (ctx : BitVec 5) (core : Nat) : Bool :=
  let rows := (s.groups.filter fun g => g.ctx == ctx && g.core == core && s.onCore g).flatMap fun g => g.readyRows.map fun k => (g, k)
  !rows.isEmpty && rows.all fun p => s.rowWithheld p.1 p.2

/-! ### The end of a core clock (R97) -/

/-- Contexts with a resident team on a core. -/
def State.ctxsOn (s : State) (core : Nat) : List Nat :=
  (List.range 32).filter fun c => s.teams.any fun t => t.ctx.toNat == c && t.core == core && t.holds

/-- Every live row of a group is blocked in one way. -/
def Group.allBlocked (g : Group) (w : Wait → Bool) : Bool := (g.rows.any (·.live)) && g.rows.all fun r => !r.live || w r.wait

/-- What a clock of its core does to a group: its spin time counts, but for a clock blocked in SPAWN, and its time blocked in SPAWN (R82, R129,
R134); its PCLASS takes effect (R94). -/
def Group.tick (g : Group) : Group :=
  { g with spin := if g.allBlocked (· == .spawn) then g.spin else g.spin.map (· + 1),
           spawnWait := if g.allBlocked (· == .spawn) then g.spawnWait + 1 else 0, pclassNow := g.pclass }

/-- Lines of an L1 may be evicted at any time: a free choice of one, written back where it is dirty (R180, R181). -/
def State.mayEvict (s : State) (core : Nat) : State :=
  match (s.core core).l1 with
  | [] => s
  | e :: es =>
      if s.freeBit .l1 core then
        let v := (e :: es).getD (s.freeNat .l1 core es.length) e
        (s.writeBackLine v.1 v.2).dropL1 core v.1
      else s

/-- The counter at the end of a clock, in 1/16 AU (R97). -/
def Core.update (c : Core) : Core :=
  { c with allowance := min (c.allowance + c.grant - c.debits) maxAllowance, debits := 0, clocks := c.clocks + 1 }

/-- What a clock counts for a context that holds a core: the clocks for which it has been withheld there, and, at 65,536 of them, the core; the
core itself; the clocks of its cores (R104, R106). held: in this clock it had instructions ready, and R98 held back each. -/
def Context.tick (c : Context) (core : Nat) (held : Bool) : Context :=
  let n := if held && !c.issuedOn.getLsbD core then sget 0 c.withheldFor core + 1 else 0
  { c with withheldFor := sset 0 core n c.withheldFor, withheldCores := if 65536 ≤ n then c.withheldCores ||| (1#96 <<< core) else c.withheldCores,
           issuedOn := c.issuedOn &&& ~~~(1#96 <<< core), heldCores := c.heldCores ||| (1#96 <<< core), coreClocks := c.coreClocks + 1 }

/-- The vector instructions that are ready to issue in a partition: group, row and RETIRED (R101, R125). -/
def State.vecNow (s : State) (core part : Nat) : List (Nat × Nat × Nat) :=
  (s.partGroups core part).flatMap fun g => (g.readyRows.filter fun k => (s.instrAt g k).any fun i => slotOf i == 0).map fun k => (g.uid, k, g.retired)

/-- Vector instructions have been seen ready in a partition: those not seen before have become so at a clock (R101). -/
def Part.seeReady (p : Part) (now : Nat) (vs : List (Nat × Nat × Nat)) : Part :=
  let fresh := vs.filter fun v => !p.vecSeen.contains v
  let all := p.vecReady ++ List.replicate fresh.length now
  { p with vecSeen := vs, vecReady := all.drop (all.length - 8) }

/-- A core whose clock runs: it has a resident team (R94). A core without one runs while it holds records of its bins or rays, whose timers count
its clocks, or a debit that has not left its counter, as a matrix follower's (DESIGN CHOICE, log 91). -/
def State.clocked (s : State) (k : Nat) : Bool :=
  s.coreHasTeam k || !(s.core k).bins.isEmpty || !(s.core k).rays.isEmpty || (s.core k).debits != 0

/-- ALLOWANCE_UPDATE: one core clock of a core that is not clock-gated (R94, R97). -/
def execAllowanceUpdate (core : BitVec 7) (s : State) : Host.Outcome State Fault Refusal :=
  let k := core.toNat
  .next (if !(decide (k < Config.cores)) || !s.clocked k then s
    else
      let s1 := s.mayEvict k
      let mine := fun g : Group => g.core == k && s.onCore g
      let s2 := (s.ctxsOn k).foldl (fun t c => t.modCtx (BitVec.ofNat 5 c) fun x => x.tick k (s.allWithheld (BitVec.ofNat 5 c) k)) s1
      let now := (s.core k).clocks
      let s3 := (List.range 4).foldl (fun t p => t.modPart k p fun x => x.seeReady now (s.vecNow k p)) s2
      let s4 : State := { s3 with
        groups := s3.groups.map fun g : Group => (if mine g then g.tick else g)
        teams := s3.teams.map fun t : Team => { t with clocks := t.clocks + (s.groups.filter fun g => mine g && g.team == t.uid && !g.exiting).length } }
      s4.modCore k Core.update)

/-! ### Near-threshold mode (R101) -/

/-- A row is blocked in WAIT or WAITR on the LD or ST class. -/
def Wait.onMem : Wait → Bool
  | .waitOn cs => cs.contains .ld || cs.contains .st
  | _ => false

/-- The groups of a partition that are blocked in WAIT or WAITR on the LD or ST class. -/
def State.loadBlocked (s : State) (core part : Nat) : Nat :=
  ((s.partGroups core part).filter fun g => g.allBlocked Wait.onMem).length

/-- NEAR_THRESHOLD_WINDOW: at the end of a window of 4096 clocks (R101). -/
def execNearThresholdWindow (core : BitVec 7) (part : BitVec 2) (s : State) : Host.Outcome State Fault Refusal :=
  let k := core.toNat
  let now := (s.core k).clocks
  let n := (s.partGroups k part.toNat).length
  .next (if !(decide (k < Config.cores)) then s
    else s.modPart k part.toNat fun p =>
      if now < p.windowStart + 4096 then p
      else if n = 0 then { p with nearThreshold := false, windowStart := now, windowIssues := 0 }
      else
        let enters := !p.nearThreshold && decide (p.windowIssues < 512) && decide (n < 2 * s.loadBlocked k part.toNat)
        { p with nearThreshold := p.nearThreshold || enters, vecReady := if enters then [] else p.vecReady, windowStart := now, windowIssues := 0 })

/-- Eight vector instructions have become ready to issue within 64 consecutive clocks (R101). -/
def Part.busy (p : Part) : Bool := p.vecReady.length == 8 && decide (p.vecReady.getLastD 0 < p.vecReady.headD 0 + 64)

/-- NEAR_THRESHOLD_EXIT (R101). -/
def execNearThresholdExit (core : BitVec 7) (part : BitVec 2) (s : State) : Host.Outcome State Fault Refusal :=
  .next (if core.toNat < Config.cores then
      s.modPart core.toNat part.toNat fun p => if p.busy then { p with nearThreshold := false } else p
    else s)

/-! ### Withheld completely (R106) -/

/-- WITHHELD_COMPLETELY: the count stands at 65,536 clocks or more (R106). -/
def execWithheldCompletely (ctx : BitVec 5) (core : BitVec 7) (s : State) : Host.Outcome State Fault Refusal :=
  let k := core.toNat
  .next (if k < Config.cores && decide (65536 ≤ sget 0 (s.ctx ctx).withheldFor k) then
      s.modCtx ctx fun c => { c with withheldCores := c.withheldCores ||| (1#96 <<< k) }
    else s)

/-- Cores that a context holds (R79). -/
def State.heldBy (s : State) (ctx : Nat) : List Nat := (List.range Config.cores).filter fun k => (s.ctxsOn k).contains ctx

/-- THROTTLED, and WITHHELD where every core that the context held was withheld (R53, R106). -/
def State.throttle (s : State) (ctx : Nat) : State :=
  let c : BitVec 5 := BitVec.ofNat 5 ctx
  let m := (s.ctx c).withheldCores
  if m = 0 then s
  else
    let all := (List.range Config.cores).all fun k => !(s.ctx c).heldCores.getLsbD k || m.getLsbD k
    let s1 := s.modCtx c fun x => { x with withheldCores := 0, status := { x.status with withheld := x.status.withheld || all } }
    s1.postCtx c 7 0 0xFF (m.extractLsb' 0 64).toNat (m.extractLsb' 64 32).toNat 0

/-! ### Cap and floor requests (R48, R105) -/

/-- The refusal code of a request; 0 where it passes (R105). -/
def State.capRefusal (s : State) (r : CapReq) : Nat :=
  let floors := match r.src with
    | some (q, _) => if r.floor = 0xFFFF then s.floorSum none 0 else s.floorSum (some (queueCtx q)) r.floor.toNat
    | none => s.floorSum none 0
  let asked := r.src.isNone || r.cap != 0
  let admin := r.src.all fun q => (s.ctx (queueCtx q.1)).desc.powerAdmin
  if asked then
    if !admin then 4
    else if r.cap.toNat < 60 then 1
    else if r.cap.toNat < floors then 2
    else if 320 < r.cap.toNat then 3 else 0
  else if r.floor ≠ 0xFFFF && decide (s.dev.capInForce.toNat < floors) then 2 else 0

/-- A request that passes takes effect (R105). -/
def State.grantCap (s : State) (r : CapReq) : State :=
  let s1 := if r.src.isNone || r.cap != 0 then { s with dev := { s.dev with capInForce := r.cap } } else s
  match r.src with
  | some (q, _) => if r.floor = 0xFFFF then s1 else s1.modCtx (queueCtx q) fun c => { c with desc := { c.desc with powerFloorW := r.floor } }
  | none => s1

/-- A refused request: LAST_REFUSAL and CAP_REFUSED (R48, R64, R105). -/
def State.refuseCap (s : State) (r : CapReq) (code : Nat) : State :=
  let s1 := { s with dev := { s.dev with lastRefusal := BitVec.ofNat 8 code } }
  let w := if r.src.isNone || r.cap != 0 then r.cap.toNat else r.floor.toNat
  match r.src with
  | some (q, _) => s1.postCtx (queueCtx q) 8 code (q.setWidth 8) w code 0
  | none => s1.postDev 8 code w code

/-- One request is tested; a POWER packet then completes (R105). -/
def State.testCap (s : State) (r : CapReq) : State :=
  let code := s.capRefusal r
  let s1 := if code = 0 then s.grantCap r else s.refuseCap r code
  match r.src with
  | none => s1
  | some (q, off) =>
      match (s1.queue q).running.find? fun p => p.off == off with
      | some p => s1.completePkt q p.off p.tag p.notify
      | none => s1

/-- Every request is tested in the order in which they arrived; CAP_PENDING falls (R48, R105). -/
def State.testCaps (s : State) : State :=
  let s1 := s.fcp.capReqs.foldl State.testCap { s with fcp := { s.fcp with capReqs := [] } }
  { s1 with dev := { s1.dev with capPending := false } }

/-! ### Temperature (R41, R42, R103) -/

/-- The sensor that covers a core: that of its 2 by 2 block. -/
def sensorOf (core : Nat) : Nat := core / 24 * 6 + core % 12 / 2

/-- The classes' ceilings, lowest first (R95). -/
def classSteps : List Nat := [640, 880, 1120, 1320]
/-- The clock ceiling of a class (R95). -/
def classCeiling (c : Nat) : Nat := classSteps.getD c 1320
/-- The weight of a class (R95). -/
def classWeight (c : Nat) : Nat := 2 ^ c

/-- One class step down, and up (R103). -/
def stepDown (c : Nat) : Nat := ((classSteps.filter fun x => decide (x < c)).getLast?).getD 640
/-- One class step up. -/
def stepUp (c : Nat) : Nat := ((classSteps.filter fun x => decide (c < x)).head?).getD 1320

/-- A core's thermal ceiling after a period (R103). -/
def nextCeiling (temps : List Nat) (core c : Nat) : Nat :=
  let t := temps.getD (sensorOf core) 0
  if 95 ≤ t || ((temps.drop 24).take 8).any fun x => decide (95 ≤ x) then stepDown c else if t < 92 then stepUp c else c

/-- THERM_ALERT_N and its event (R42). -/
def State.thermalAlert (s : State) (temps : List Nat) : State :=
  let die := temps.take 32
  match die.findIdx? fun x => decide (100 ≤ x) with
  | some i =>
      let s1 := { s with boot := { s.boot with thermAlert := true } }
      if s.boot.thermAlert then s1 else s1.postDev 0x12 0 i (die.getD i 0)
  | none => if die.all fun x => decide (x < 97) then { s with boot := { s.boot with thermAlert := false } } else s

/-! ### Watts, clocks and grants (R95, R96, R102, R104) -/

/-- The power given to a core: its number, its weight, what it can use, what it has been given. -/
structure Share where
  core : Nat
  weight : Nat
  most : Rat
  given : Rat

/-- Watts that a clock of n steps uses at 52 AU per clock and a voltage: 52 n × 1.25 MHz × 30 pJ × (mV / 880)². -/
def wattsAt (n mv : Nat) : Rat := (52 * n * mv * mv * 3 : Nat) / (80000 * 880 * 880 : Nat)

/-- GiveWatts: by weight, none beyond what a core can use; the excess goes to the others of the call (R102). fuel: one round per core. -/
def giveWatts (sel : Nat → Bool) : Nat → Rat → List Share → List Share
  | 0, _, xs => xs
  | n + 1, w, xs =>
      let free := fun x : Share => (sel x.core && decide (x.given < x.most))
      let total : Nat := (xs.filter free).foldl (fun (a : Nat) x => a + x.weight) 0
      if total = 0 || w ≤ 0 then xs
      else
        let part := fun x : Share => w * (x.weight : Rat) / (total : Rat)
        let over_ := fun x : Share => free x && decide (x.most < x.given + part x)
        if xs.any over_ then
          let used := (xs.filter over_).foldl (fun (a : Rat) x => a + (x.most - x.given)) 0
          giveWatts sel n (w - used) (xs.map fun x => if over_ x then { x with given := x.most } else x)
        else xs.map fun x => if free x then { x with given := x.given + part x } else x

/-- VDD_CORE in mV for the highest clock in use (R96). -/
def voltageFor (n : Nat) : Nat := if n ≤ 640 then 600 else if n ≤ 880 then 680 else if n ≤ 1120 then 780 else 880

/-- The clock ceiling of a core: its class, or the thermal ceiling alone under a locked ratio (R95, R103, R107). -/
def State.ceilingOf (s : State) (k : Nat) : Nat :=
  if (s.lockedOn k).isSome then (s.core k).ceiling else min (classCeiling ((s.coreClass k).getD 0)) (s.core k).ceiling

/-- The clock that watts sustain at 52 AU per clock (R95, R102). -/
def sustained (w : Rat) (mv : Nat) : Nat := (w / wattsAt 1 mv).floor.toNat

/-- CreditAU: the cycles credited to a context in the period by its average debit per core clock over it, in 1/16 AU (R104). -/
def Context.creditAU (c : Context) : Rat := if c.coreClocks = 0 then 0 else (c.credits * c.debited : Nat) / (c.coreClocks : Rat)

/-- The watts that spend an allowance in 1/16 AU over a period of 1 ms: 30 pJ × (mV / 880)² for each AU (R102, R104). -/
def creditWatts (au : Rat) (mv : Nat) : Rat := au * (mv * mv * 30 : Nat) / (16 * 880 * 880 * 1000000000 : Nat)

/-- A core of the highest class among those that a context holds (R104). -/
def State.topCore (s : State) (c k : Nat) : Bool :=
  (s.ctxsOn k).contains c && (s.heldBy c).all fun j => decide ((s.coreClass j).getD 0 ≤ (s.coreClass k).getD 0)

/-- Power shared out among the cores that have a resident team (R102): floors, then the rest by weight, then credits (R104). Where the measured
NonCoreW is above the cap nothing is left to share: Avail is 0 (DESIGN CHOICE, log 91). -/
def State.shares (s : State) (nonCoreW : Nat) : List Share :=
  let held := (List.range Config.cores).filter s.coreHasTeam
  let cap := if (s.gov.temps.take 32).any fun t => decide (100 ≤ t.toNat) then 60 else 320
  let avail : Rat := ((min s.dev.capInForce.toNat cap - nonCoreW : Nat) : Rat)
  let ctxs := (List.range 32).filter fun c => !(s.heldBy c).isEmpty
  let floorOf := fun c : Nat => (s.ctx (BitVec.ofNat 5 c)).desc.powerFloorW.toNat
  let floors : Rat := ((ctxs.foldl (fun (a : Nat) c => a + floorOf c) 0 : Nat) : Rat)
  let scale : Rat := if avail < floors then avail / floors else 1
  let xs := held.map fun k => ({ core := k, weight := classWeight ((s.coreClass k).getD 0), most := wattsAt (s.ceilingOf k) s.gov.vddCore, given := 0 } : Share)
  let ys := ctxs.foldl (fun a c => giveWatts (fun k => (s.ctxsOn k).contains c) Config.cores (scale * (floorOf c : Rat)) a) xs
  let zs := giveWatts (fun _ => true) Config.cores (avail - min floors avail) ys
  ctxs.foldl (fun a c => giveWatts (s.topCore c) Config.cores (creditWatts (s.ctx (BitVec.ofNat 5 c)).creditAU s.gov.vddCore) a) zs

/-- Watts of a core. -/
def wattsOf (xs : List Share) (k : Nat) : Rat := ((xs.find? fun x => x.core == k).map (·.given)).getD 0

/-- The clock of a core; a core without a resident team is clock-gated (R94, R95, R107). -/
def State.clockOf (s : State) (xs : List Share) (k : Nat) : Nat :=
  if !s.coreHasTeam k then 0
  else match s.lockedOn k with
    | some l => s.lockedClock l
    | none => min (s.ceilingOf k / 20 * 20) (sustained (wattsOf xs k) s.gov.vddCore / 20 * 20)

/-- The grant in 1/16 AU per clock (R102). -/
def grantOf (w : Rat) (clock mv : Nat) : Nat :=
  if clock = 0 then 0 else min 1023 ((16 * 52 * w / wattsAt clock mv).floor.toNat)

/-- What a context counts over a period starts anew, and credit that was not spent is not carried over (R104, R106). -/
def Context.newPeriod (c : Context) : Context := { c with credits := 0, debited := 0, coreClocks := 0, heldCores := 0 }

/-- Every core's clock and grant, and VDD_CORE (R95, R96, R102, R104, R107). -/
def State.setCores (s : State) (nonCoreW : Nat) : State :=
  let xs := s.shares nonCoreW
  let s0 : State := { s with cores := s.cores.zipIdx.map fun p : Core × Nat =>
    { p.1 with sustain := if s.coreHasTeam p.2 then sustained (wattsOf xs p.2) s.gov.vddCore else 1320 } }
  let s1 := s0.followRatio
  let clocks := (List.range Config.cores).map fun k => s1.clockOf xs k
  let mv := voltageFor (clocks.foldl max 0)
  { s1 with
    cores := s1.cores.zipIdx.map fun p : Core × Nat =>
      { p.1 with clock := clocks.getD p.2 0, grant := grantOf (wattsOf xs p.2) (clocks.getD p.2 0) mv }
    gov := { s1.gov with vddCore := mv }
    ctxs := s1.ctxs.map Context.newPeriod }

/-- Each package's temperature, after the 32 sensors' readings: its two channels are hot above 85 °C (R18, R33, R41, R42). -/
def State.noteHot (s : State) (ts : List Nat) : State :=
  { s with dram := { s.dram with chans := s.dram.chans.zipIdx.map fun p : Chan × Nat => { p.1 with hot := decide (85 < ts.getD (32 + p.2 / 2) 0) } } }

/-- GOVERNOR_PERIOD: the end of a period and the start of the next: throttle reports, sensors and packages, cap requests, clocks and grants (R33,
R41, R42, R69, R96, R102 to R106). Periods count from the end of the last reset, while the firmware runs; a sensor at 120 °C or more trips
the part (R42). -/
def execGovernorPeriod (temps : List (BitVec 8)) (nonCoreW : Nat) (s : State) : Host.Outcome State Fault Refusal :=
  .next (if s.boot.phase ≠ .trained && s.boot.phase ≠ .training then s
    else
      let ts := temps.map BitVec.toNat
      if (ts.take 32).any fun x => decide (120 ≤ x) then s.thermalTrip
      else
        let s1 := (List.range 32).foldl State.throttle s
        let s2 : State := { s1 with gov := { s1.gov with period := s1.gov.period + 1, temps := temps }, fcp := { s1.fcp with transientPosted := false } }
        let s3 := s2.testCaps.thermalAlert ts
        let s4 : State := { s3 with cores := s3.cores.zipIdx.map fun p : Core × Nat => { p.1 with ceiling := nextCeiling ts p.2 p.1.ceiling } }
        (s4.noteHot ts).setCores nonCoreW)

end Sys2Proof.Machine
end

