-- ==== Sys2Proof/Machine/Coverage.lean ====
section
/-! DEFINITION. Coverage-fraction launches: ranks and probes (R273), the block walker (R274), and the Infill Unit (R275 to R277). -/

namespace Sys2Proof.Machine

/-! ### Points (R273, R274) -/

/-- A point of a team: its grid-space coordinates, whether it is computed, whether it is a probe. -/
structure CovPoint where
  x : Nat
  y : Nat
  z : Nat
  computed : Bool
  probe : Bool
  deriving DecidableEq, Repr

/-- log2 of n of a lattice (R273). -/
def latticeLog2 (lattice : Nat) : Nat := 2 + lattice % 2

/-- Bayer(x, y) (R273). -/
def bayer (b x y : Nat) : Nat :=
  (List.range b).foldl (fun r i =>
    let xi := (x >>> i) % 2
    let yi := (y >>> i) % 2
    r + (2 * (xi ^^^ yi) + yi) * 4 ^ (b - 1 - i)) 0

/-- Rev(v): the b low bits in reverse order (R273). -/
def revBits (b v : Nat) : Nat := (List.range b).foldl (fun r i => r + (v >>> i) % 2 * 2 ^ (b - 1 - i)) 0

/-- Rank of a point of the mask (R273). -/
def latticeRank (lattice x y : Nat) : Nat :=
  let b := latticeLog2 lattice
  match lattice / 2 with
  | 0 => bayer b x y
  | 1 => bayer b y x
  | 2 => 2 ^ b * revBits b y + revBits b x
  | _ => 2 ^ b * revBits b x + revBits b y

/-- The point lies inside the surface (R272). -/
def Surface.holds (f : Surface) (p : CovPoint) : Bool := decide (p.x < f.width) && decide (p.y < f.height) && decide (p.z < f.depth)

/-- The point of team index t at team lane index i (R73, R273). -/
def LDesc.point (d : LDesc) (c : Cover) (t i : Nat) : CovPoint :=
  let x := t % d.gridX * d.teamX + i % d.teamX
  let y := t / d.gridX % d.gridY * d.teamY + i / d.teamX % d.teamY
  let z := t / (d.gridX * d.gridY) * d.teamZ + i / (d.teamX * d.teamY)
  let n := 2 ^ latticeLog2 d.lattice
  let computed := decide (latticeRank d.lattice (x % n) (y % n) * 256 < c.f * n * n)
  let h := mix (c.count.setWidth 64) (BitVec.ofNat 64 x ^^^ (BitVec.ofNat 64 y <<< 21) ^^^ (BitVec.ofNat 64 z <<< 42))
  let p : CovPoint := { x := x, y := y, z := z, computed := computed, probe := false }
  { p with probe := !computed && c.surf.holds p && h.extractLsb' 0 6 == 0 }

/-- The points of a team, by team lane index. -/
def LDesc.points (d : LDesc) (c : Cover) (t : Nat) : List CovPoint := (List.range d.lanes).map (d.point c t)

/-- The points that the walker packs into lanes, in order (R274). -/
def LDesc.packed (d : LDesc) (c : Cover) (t : Nat) : List CovPoint := (d.points c t).filter fun p => p.computed || p.probe

/-- The points of group g of a team. -/
def groupPoints (ps : List CovPoint) (g : Nat) : List CovPoint := (ps.drop (96 * g)).take 96

/-- v0 to v3 of a group of a coverage team (R274). -/
def Group.givePoints (g : Group) (ps : List CovPoint) : Group :=
  let col := fun f : CovPoint → Nat => (List.range 96).map fun i => match ps[i]? with
    | some p => BitVec.ofNat 32 (f p)
    | none => 0
  (((g.vput 0 (col (·.x))).vput 1 (col (·.y))).vput 2 (col (·.z))).vput 3 (col fun p => p.probe.toNat)

/-! ### Surface elements (R272) -/

/-- The address of a point. -/
def Surface.addr (f : Surface) (p : CovPoint) : Nat := f.base + p.z * f.slicePitch + p.y * f.rowPitch + p.x * sfmtBytes f.fmt

/-- The format of a floating-point surface. -/
def Surface.float (f : Surface) : Option Fmt := if f.fmt = 0 then some fp32 else if f.fmt = 1 then some fp16 else none

/-- The channels of an element, as exact values. -/
def Surface.channels (f : Surface) (v : Nat) : List FVal :=
  match f.float with
  | some m => [m.dec v]
  | none => (List.range (sfmtBytes f.fmt)).map fun k => .fin false (v >>> (8 * k) % 256) 1

/-- An element at a point; a free value where the unit cannot read it. -/
def State.readElement (s : State) (l : Launch) (f : Surface) (p : CovPoint) : Nat :=
  let a := f.addr p
  match (s.recallOwn l.ctx a (sfmtBytes f.fmt)).ownRead l.ctx a (sfmtBytes f.fmt) with
  | .ok v => v
  | .lost _ _ => (s.freeWord .other a).toNat % 2 ^ (8 * sfmtBytes f.fmt)

/-! ### Reconstruction (R276) -/

/-- A computed point with its element. -/
structure Sample2 where
  p : CovPoint
  v : Nat

/-- The distance of two coordinates. -/
def gap (a b : Nat) : Nat := (a - b) + (b - a)

/-- The least h with h² c ≥ n²; n² at most 64, c at least 1 (R276). -/
def latticeH (n2 c : Nat) : Nat := ((List.range 9).find? fun h => decide (1 ≤ h) && decide (n2 ≤ h * h * c)).getD 8

/-- The weight of a sample for a point (R276). -/
def Sample2.weight (q : Sample2) (h : Nat) (p : CovPoint) : Nat :=
  let dx := gap q.p.x p.x
  let dy := gap q.p.y p.y
  if dx < h && dy < h then (h - dx) * (h - dy) else 0

/-- The nearest sample: least squared distance, then lowest Y, then lowest X (R276). -/
def nearestOf (p : CovPoint) (c : List Sample2) : Option Sample2 :=
  let key := fun q : Sample2 => (gap q.p.x p.x ^ 2 + gap q.p.y p.y ^ 2, q.p.y, q.p.x)
  c.foldl (fun m q => match m with
    | none => some q
    | some b =>
        let k := key q
        let j := key b
        if k.1 < j.1 || (k.1 == j.1 && (decide (k.2.1 < j.2.1) || (k.2.1 == j.2.1 && decide (k.2.2 < j.2.2)))) then some q else some b) none

/-- A channel of a floating-point mean: exact, rounded once (R276). -/
def floatMean (f : Fmt) (vs : List (FVal × Nat)) : Nat :=
  let total := vs.foldl (fun (a : Nat) x => a + x.2) 0
  (f.sum .rne (vs.map fun x => match x.1 with
    | .fin s n d => .fin s (n * x.2) (d * total)
    | v => v)).1

/-- A channel of an 8-bit mean (R276). -/
def byteMean (vs : List (Nat × Nat)) : Nat :=
  let total := vs.foldl (fun (a : Nat) x => a + x.2) 0
  (vs.foldl (fun (a : Nat) x => a + x.1 * x.2) 0 + total / 2) / total

/-- The bilinear-lattice result over samples of positive weight (R276). -/
def Surface.mean (f : Surface) (vs : List (Nat × Nat)) : Nat :=
  match f.float with
  | some m => floatMean m (vs.map fun x => (m.dec x.1, x.2))
  | none => (List.range (sfmtBytes f.fmt)).foldl (fun a k => a + byteMean (vs.map fun x => (x.1 >>> (8 * k) % 256, x.2)) <<< (8 * k)) 0

/-- A finite value as an exact real. -/
def FVal.frac : FVal → Frac
  | .fin s n d => fracOf s n d
  | _ => ⟨0, 1⟩

/-- The distance of two values exceeds a threshold, divided by 255 for 8-bit channels; equal infinities are at distance 0, and a NaN exceeds
nothing. -/
def apart (scale : Nat) (a b t : FVal) : Bool :=
  match a, b, t with
  | .nan _, _, _ => false
  | _, .nan _, _ => false
  | _, _, .nan _ => false
  | _, _, .inf n => n
  | .inf x, .inf y, .fin s n _ => x != y || (s && n != 0)
  | .inf _, .fin _ _ _, _ => true
  | .fin _ _ _, .inf _, _ => true
  | x, y, t =>
      let d := fracAdd x.frac ⟨-y.frac.num, y.frac.den⟩
      fracLt t.frac ⟨(d.num.natAbs : Int), d.den * scale⟩

/-- The scale of a surface's channels (R276, R277). -/
def Surface.scale (f : Surface) : Nat := if f.float.isSome then 1 else 255

/-- Some channel's range over some elements exceeds EDGE_T (R276). -/
def Surface.edge (f : Surface) (t : BitVec 16) (vs : List Nat) : Bool :=
  (List.range 4).any fun k =>
    let ch := vs.filterMap fun v => (f.channels v)[k]?
    ch.any fun a => ch.any fun b => apart f.scale a b (fp16.dec t.toNat)

/-- The reconstruction of a point; none where C is empty (R276). -/
def Surface.fill (f : Surface) (recon h : Nat) (t : BitVec 16) (c : List Sample2) (p : CovPoint) : Option Nat :=
  (nearestOf p c).map fun q =>
    let near := match f.float with
      | some m => (m.ofVal .rne (m.dec q.v)).1
      | none => q.v
    let vs := (c.map fun q => (q.v, q.weight h p)).filter fun x => x.2 != 0
    if recon = 0 || vs.isEmpty || (recon == 2 && f.edge t (vs.map (·.1))) then near else f.mean vs

/-- A probe is bad: a NaN, an unfilled reconstruction, or a difference above ERR_T in some channel (R277). -/
def Surface.bad (f : Surface) (errT : Word) (got : Nat) (fill : Option Nat) : Bool :=
  match fill with
  | none => true
  | some r => ((f.channels got).zip (f.channels r)).any fun x => x.1.isNan || x.2.isNan || apart f.scale x.1 x.2 (fp32.dec errT.toNat)

/-! ### INFILL (R275) -/

/-- The computed points of a team that lie in the surface and have one Z, with their elements: C (R276). -/
def State.samplesAt (s : State) (l : Launch) (c : Cover) (ps : List CovPoint) (z : Nat) : List Sample2 :=
  (ps.filter fun p => p.computed && c.surf.holds p && p.z == z).map fun p => ⟨p, s.readElement l c.surf p⟩

/-- One write of the Infill Unit: a write of the launch; one that cannot be made is left out. -/
def State.fillPoint (s : State) (l : Launch) (f : Surface) (p : CovPoint) (v : Nat) : State :=
  let a := f.addr p
  let n := sfmtBytes f.fmt
  match (s.recallOwn l.ctx a n).ownWrite l.ctx a v n with
  | .ok t => (t.noteLine l.uid a).noteLine l.uid (a + n - 1)
  | .error _ => s

/-- The Infill Unit fills and checks a team whose groups have all exited; its counts go to the launch, and the team ends (R275 to R277,
R280). -/
def State.infillTeam (s : State) (tu : Nat) : State :=
  match s.team tu with
  | none => s
  | some t =>
      match (s.launch t.launch).bind fun l => l.cover.map fun c => (l, c) with
      | none => { s with teams := s.teams.filter fun u => u.uid != tu }
      | some (l, c) =>
          let ps := l.ld.points c (t.index.getD 0)
          let n := 2 ^ latticeLog2 l.ld.lattice
          let h := latticeH (n * n) ((c.f * n * n + 255) / 256)
          let fill := fun p : CovPoint => c.surf.fill l.ld.recon h c.edgeT (s.samplesAt l c ps p.z) p
          let probes := ps.filter (·.probe)
          let bad := probes.filter fun p => c.surf.bad c.errT (s.readElement l c.surf p) (fill p)
          let skipped := ps.filter fun p => !p.computed && !p.probe
          let s1 := (skipped.filter c.surf.holds).foldl (fun u p => match fill p with
            | some v => u.fillPoint l c.surf p v
            | none => u) s
          let s2 := s1.modLaunch l.uid fun l => { l with cover := l.cover.map fun c : Cover =>
            { c with probes := c.probes + probes.length, badProbes := c.badProbes + bad.length, skipped := c.skipped + skipped.length,
                     computed := c.computed + (ps.length - skipped.length), clocks := c.clocks + t.clocks } }
          { s2 with teams := s2.teams.filter fun u => u.uid != tu }

/-- A team of a coverage launch waits for the Infill Unit. -/
def Team.infills (t : Team) : Bool := t.st == .exited

/-- Some point of a team lies where the Infill Unit's access cannot be made yet (R35, R39, R40). -/
def State.infillHeld (s : State) (t : Team) : Bool :=
  match (s.launch t.launch).bind fun l => l.cover.map fun c => (l, c) with
  | none => false
  | some (l, c) => (l.ld.points c (t.index.getD 0)).any fun p => c.surf.holds p && s.ownHeld l.ctx (c.surf.addr p) (sfmtBytes c.surf.fmt)

/-- INFILL: in deterministic mode it is part of the round boundary (R275). -/
def execInfill (team : Nat) (s : State) : Host.Outcome State Fault Refusal :=
  .next (match s.team team with
    | none => s
    | some t => if !t.infills || s.infillHeld t || (s.launch t.launch).any (fun l => l.desc.det) then s else s.infillTeam team)

end Sys2Proof.Machine
end

