-- ==== Sys2Proof/Machine/Gdist.lean ====
section
/-! DEFINITION. GDIST: admission and placement (R76 to R79), stalls (R82, R134), quanta (R83), pre-emption, saves and restores (R80, R84 to
R89, R93, R150), and the timers of bins and arenas (R130, R132). -/

namespace Sys2Proof.Machine

/-! ### Room (R76) -/

/-- Stash bytes, slots and accumulator rows that are free on a core. -/
def State.freeRoom (s : State) (core : Nat) : Nat × Nat × Nat :=
  let ts := s.teams.filter fun t => t.core == core && t.holds
  let sum := fun f : Team → Nat => ts.foldl (fun a t => a + f t) 0
  (524288 - sum (·.stashBytes), 16 - sum (·.slots.length), 24576 - sum (·.accRows))

/-- Free blocks and groups of the partitions of a core. -/
def State.partRoom (s : State) (core : Nat) : List (Nat × Nat) :=
  (List.range 4).map fun p => ((s.freeBlocks core p).length, (s.partGroups core p).length)

/-- A core can admit a team with base frames and reservations (R76). -/
def State.hasRoom (s : State) (core : Nat) (bases : List Nat) (stash slots rows : Nat) : Bool :=
  let r := s.freeRoom core
  s.inService core && decide (stash ≤ r.1) && decide (slots ≤ r.2.1) && decide (rows ≤ r.2.2) && (packGroups (s.partRoom core) bases).isSome

/-- A core can admit a team of a launch. -/
def State.canAdmit (s : State) (core : Nat) (d : LDesc) : Bool :=
  s.hasRoom core ((List.range d.groups).map d.baseOf) (256 * d.stashBlk) d.slots (256 * d.accBlk)

/-- A free rectangle of n cores for a launch exists (R77). -/
def State.freeRectangle (s : State) (d : LDesc) (n : Nat) : Bool := (rectangles n).any fun r => r.all fun k => s.canAdmit k d

/-! ### Rounds (R89, R215) -/

/-- A launch that stands at a round boundary, or needs none: no group has issued in the round and nothing is deferred (R215). -/
def State.atBoundary (s : State) (l : Launch) : Bool :=
  !l.desc.det || (!l.inBoundary && l.deferred.isEmpty && s.groups.all fun g => g.launch != l.uid || !s.onCore g || (g.roundRetired == 0 && !(g.ops.any (·.deferred))))

/-! ### The next cluster (R77, R81, R83, R85, R91) -/

/-- The cluster that a launch forms or takes back next on n cores: its first team, its size, its number, and its teams by their places in it,
with how often each has been discarded. again: it was discarded before. -/
structure NextCluster where
  first : Nat
  size : Nat
  clid : Nat
  members : List (Nat × Nat)
  again : Bool

/-- A cluster that has not been dispatched before. -/
def NextCluster.new (first size clid : Nat) : NextCluster :=
  { first := first, size := size, clid := clid, members := (List.range size).map fun k => (k, 0), again := false }

/-- The sizes of R77: CL_PREF where enough teams remain and a rectangle is free, else CL_FALL. -/
def State.clusterSize (s : State) (l : Launch) (n : Nat) : Bool :=
  let pref := decide (l.nextTeam + l.ld.clPref ≤ l.ld.teams) && s.freeRectangle l.ld l.ld.clPref
  if pref then n == l.ld.clPref else n == l.ld.clFall

/-- The cluster that a launch forms next on n cores: one that was discarded, the next of a replayed segment, or the next by the sizes of R77;
none where n is not its size. Clusters form in ascending team index in every mode, though R77 and R81 let the part form a later one
first where the launch replays no trace (DESIGN CHOICE, log 87). -/
def State.nextCluster (s : State) (l : Launch) (n : Nat) : Option NextCluster :=
  match l.returned with
  | r :: _ => if r.size = n then some { first := r.first, size := n, clid := r.clid, members := r.members, again := true } else none
  | [] =>
      match l.segment with
      | some ((first, size) :: _) => if size = n then some (NextCluster.new first n l.nextClid) else none
      | some [] => none
      | none => if l.nextTeam < l.ld.teams && s.clusterSize l n then some (NextCluster.new l.nextTeam n l.nextClid) else none

/-- The cores of a rectangle, in order, that a cluster's teams take. -/
def NextCluster.places (c : NextCluster) (cores : List Nat) : List Nat := c.members.map fun m => cores.getD m.1 Config.cores

/-- A cluster has room on the cores of a rectangle (R76, R77). -/
def State.clusterFits (s : State) (l : Launch) (c : NextCluster) (cores : List Nat) : Bool :=
  (c.places cores).all fun k => s.canAdmit k l.ld

/-! ### Placement (R78) -/

/-- The home slice already fixed for a line: by its region's entry, or by HASH where the page is not a NEAR one (R177, R178). -/
def State.homeFixed (s : State) (pa : Nat) (near : Bool) : Option Nat :=
  match s.slices.homes.find? (fun e => e.1 == regionOf pa) with
  | some e => some e.2
  | none => if near then none else some (hashSlice pa)

/-- The distance of a core from the homes already fixed for the lines of the hinted ranges, summed, so that each range counts by its size
(R78). -/
def State.hintCost (s : State) (l : Launch) (core : Nat) : Nat :=
  l.ld.hints.foldl (fun n h => (List.range ((h.2 + 127) / 128)).foldl (fun n i =>
    match s.translate l.ctx (h.1 + 128 * i) .read with
    | .ok t => if inDram t.pa then n + ((s.homeFixed t.pa t.attr.near).map fun k => meshDistance (coreStop core) (sliceStop k)).getD 0 else n
    | _ => n) n) 0

/-- What GDIST prefers to be low for a cluster on a rectangle: the distance from the hinted homes, and then, where the team before its first is
resident, the distance from that team's core (R78; log 87). -/
def State.placeCost (s : State) (l : Launch) (c : NextCluster) (cores : List Nat) : Nat × Nat :=
  let prev := s.teams.find? fun t => t.launch == l.uid && t.holds && t.index.any (· + 1 == c.first)
  ((c.places cores).foldl (fun n k => n + s.hintCost l k) 0,
   (prev.map fun t => meshDistance (coreStop t.core) (coreStop (cores.headD 0))).getD 0)

/-- One cost is below another. -/
def costLt (a b : Nat × Nat) : Bool := decide (a.1 < b.1) || (a.1 == b.1 && decide (a.2 < b.2))

/-- No other rectangle on which a cluster has room is preferred to this one (R78). -/
def State.preferred (s : State) (l : Launch) (c : NextCluster) (cores : List Nat) : Bool :=
  !((rectangles cores.length).any fun r => s.clusterFits l c r && costLt (s.placeCost l c r) (s.placeCost l c cores))

/-! ### Saved clusters (R81, R83, R88, R89) -/

/-- A saved team. -/
def Team.isSaved (t : Team) : Bool :=
  match t.st with
  | .saved _ _ => true
  | _ => false

/-- The teams of a cluster, in index order. -/
def State.clusterOf (s : State) (t : Team) : List Team :=
  match t.index with
  | none => [t]
  | some _ => (s.teams.filter fun u => u.launch == t.launch && u.index.isSome && u.first == t.first).mergeSort
      fun a b => decide (a.index.getD 0 ≤ b.index.getD 0)

/-- The groups of a team. -/
def State.teamGroups (s : State) (tu : Nat) : List Group := s.groups.filter fun g => g.team == tu

/-- The base frame of a group that is to be restored, in blocks. -/
def Group.baseBlocks (g : Group) : Nat := (g.frames.getLast?.map (·.blks)).getD 0

/-- A core has room for a saved team: its groups that have not exited, its reservations, and trap frames for those in their handlers. -/
def State.canRestore (s : State) (t : Team) (core : Nat) : Bool :=
  let gs := s.teamGroups t.uid
  s.hasRoom core (gs.map Group.baseBlocks) t.stashBytes t.slots.length t.accRows
    && decide ((gs.filter fun g => g.handler.isSome).length ≤ (List.range 4).foldl (fun n p => n + (2 - s.trapFrames core p)) 0)

/-- The core of a cluster's team on a rectangle of the same shape, where its first team goes to a core (R88). -/
def shiftCore (origin to_ core : Nat) : Option Nat :=
  let x := core % 12 + to_ % 12
  let y := core / 12 + to_ / 12
  if origin % 12 ≤ x && origin / 12 ≤ y && x - origin % 12 < 12 && y - origin / 12 < 8 then some ((y - origin / 12) * 12 + (x - origin % 12)) else none

/-- The cores of a saved cluster's teams where one of them goes to a core; none where the cluster is not saved whole or has no room (R88). -/
def State.restorePlaces (s : State) (t : Team) (core : Nat) : Option (List (Team × Nat)) :=
  (s.clusterOf t).mapM fun u => (shiftCore t.core core u.core).bind fun k => if u.isSaved && s.canRestore u k then some (u, k) else none

/-- The order in which a launch's saved clusters come back: the longest-saved first in quantum mode (R83); in the order of their dispatch in
ordered and in deterministic mode (R81, R89); else any. -/
def Launch.restoreKey (l : Launch) (t : Team) : Nat := if l.ld.sched = 2 then t.since else if l.ld.sched = 1 || l.desc.det then t.clid.toNat else 0

/-- No saved team of a launch comes back before one (R81, R83, R89). -/
def State.restoreFirst (s : State) (l : Launch) (t : Team) : Bool :=
  !(s.teams.any fun u => u.launch == l.uid && u.isSaved && decide (l.restoreKey u < l.restoreKey t))

/-- A launch may dispatch undispatched or discarded teams now: its saved teams come first in ordered and quantum modes (R81, R83). -/
def State.savedFirst (s : State) (l : Launch) : Bool :=
  l.ld.sched == 0 || !(s.teams.any fun t => t.launch == l.uid && t.isSaved)

/-! ### Order (R79) -/

/-- Cores that a launch's context holds. -/
def State.coresHeld (s : State) (l : Launch) : Nat := (s.heldBy l.ctx.toNat).length

/-- Launch a stands before launch b when room is offered (R79): contexts below their shares, then PRIORITY, then the smaller fraction of a
share, and among contexts at or above their shares the one served longest ago. -/
def State.before (s : State) (a b : Launch) : Bool :=
  let ha := s.coresHeld a
  let hb := s.coresHeld b
  let sa := a.desc.coreShare.toNat
  let sb := b.desc.coreShare.toNat
  let below := fun (h w : Nat) => decide (h < w)
  if a.ctx = b.ctx then
    if a.queue.getLsbD 0 != b.queue.getLsbD 0 then a.queue.getLsbD 0 else decide (a.uid < b.uid)
  else if below ha sa != below hb sb then below ha sa
  else if a.desc.priority ≠ b.desc.priority then decide (b.desc.priority.toNat < a.desc.priority.toNat)
  else if below ha sa then decide (ha * sb < hb * sa)
  else decide ((s.ctx a.ctx).served < (s.ctx b.ctx).served)

/-- A launch's context may start teams: running launches go on through HALT (R52). -/
def State.mayDispatch (s : State) (l : Launch) : Bool :=
  s.boot.phase == .trained && ((s.ctx l.ctx).st == .active || (s.ctx l.ctx).st == .halted)

/-- A launch has a team ready that cores of a set could take now: a saved one, a discarded one, or one not yet dispatched (R79). -/
def State.wants (s : State) (l : Launch) (cores : List Nat) : Bool :=
  s.mayDispatch l && s.atBoundary l && s.ratioRuns l &&
    ((s.teams.any fun t => t.launch == l.uid && t.isSaved && s.restoreFirst l t && (List.range Config.cores).any fun k =>
        (s.restorePlaces t k).any fun ps => ps.any fun p => cores.contains p.2)
      || (s.savedFirst l && [l.ld.clPref, l.ld.clFall].any fun n => (s.nextCluster l n).any fun c => (rectangles n).any fun r =>
        (c.places r).any (cores.contains ·) && s.clusterFits l c r))

/-- No launch that stands before a launch wants cores of a set (R79). -/
def State.offered (s : State) (l : Launch) (cores : List Nat) : Bool :=
  !(s.launches.any fun b => b.uid != l.uid && s.before b l && s.wants b cores)

/-- GDIST has given a context room (R79). -/
def State.noteServed (s : State) (ctx : BitVec 5) : State := s.modCtx ctx fun c => { c with served := s.sched.tick }

/-! ### TEAM_ADMISSION (R74, R76, R77, R90, R203) -/

/-- The groups of a team that its start releases, with their masks and points: a coverage team's by the block walker (R73, R74, R274). -/
def Launch.released (l : Launch) (index : Nat) : List (Nat × Mask × List CovPoint) :=
  match l.cover with
  | none => (List.range l.ld.groups).map fun g => (g, startMask l.ld.lanes g, [])
  | some c =>
      let ps := l.ld.packed c index
      ((List.range l.ld.groups).map fun g => (g, groupPoints ps g)).filterMap fun p =>
        if p.2.isEmpty then none else some (p.1, maskOf (fun i => decide (i < p.2.length)), p.2)

/-- Admit one team to a core, with its place in its cluster and how often it has been discarded: every group in index order, the acquire of a
released team (R74, R76, R203). -/
def State.admitTeam (s : State) (l : Launch) (c : NextCluster) (m : Nat × Nat) (core : Nat) : State :=
  let n := s.fresh
  let d := l.ld
  let t := { Team.start n.1 l core d.groups (256 * d.stashBlk) d.slots (256 * d.accBlk) with
    index := some (c.first + m.1), clid := BitVec.ofNat 32 c.clid, clsize := c.size, first := c.first, since := s.sched.tick, discards := m.2 }
  let s1 := n.2.wakeCore core
  let s2 := (l.released (c.first + m.1)).foldl (fun u p =>
    match u.placeGroup l t p.1 core (d.baseOf p.1) (d.entryOf p.1) p.2.1 with
    | none => u
    | some (v, uid) => if l.cover.isSome then v.modGroup uid fun g => g.givePoints p.2.2 else v) { s1 with teams := s1.teams ++ [t] }
  let s3 := (s2.dropCoherent core).modLaunch l.uid fun x => x.holds core
  if s3.groups.any fun g => g.team == t.uid then s3 else s3.teamOver t.uid

/-- A launch's own account of a cluster that it forms. -/
def Launch.formed (l : Launch) (c : NextCluster) : Launch :=
  if c.again then { l with returned := l.returned.drop 1, stallPosted := false }
  else { l with nextTeam := max l.nextTeam (c.first + c.size), nextClid := l.nextClid + 1, segment := l.segment.map (·.drop 1), stallPosted := false }

/-- Admit a cluster, one team per core, in index order; its entry goes to the record trace when it is formed (R77, R90). -/
def State.admitCluster (s : State) (l : Launch) (c : NextCluster) (cores : List Nat) : State :=
  let s1 := c.members.foldl (fun t m => t.admitTeam l c m (cores.getD m.1 Config.cores)) s
  let s2 := (s1.modLaunch l.uid fun x => x.formed c).noteServed l.ctx
  if l.recorded && !c.again then s2.traceAppend l.ctx l.queue 2 c.first c.size else s2

/-- A launch may place teams on some cores now: its context may start teams, it stands at a round boundary, its clock ratio runs, and no launch
before it wants the cores (R79, R89, R108). -/
def State.mayPlace (s : State) (l : Launch) (cores : List Nat) : Bool :=
  s.mayDispatch l && s.atBoundary l && s.ratioRuns l && s.offered l cores

/-- TEAM_ADMISSION: GDIST admits the next team or cluster of a launch to the cores of a rectangle that it prefers, where they have room, after
the groups of full bins (R76 to R79, R108, R130). -/
def execTeamAdmission (launch : Nat) (cores : List Nat) (s : State) : Host.Outcome State Fault Refusal :=
  .next (
    let s0 := (cores.foldl State.startBins s).followRatio
    match s0.launch launch with
    | none => s
    | some l =>
        if !(s0.mayPlace l cores && s0.savedFirst l) || s0.traceHeld l.ctx l.recorded || !((rectangles cores.length).contains cores) then s
        else match s0.nextCluster l cores.length with
          | none => s
          | some c => if s0.clusterFits l c cores && s0.preferred l c cores then s0.admitCluster l c cores else s)

/-! ### Discard and drain (R84, R85) -/

/-- A team is discardable (R84). -/
def State.discardable (s : State) (t : Team) : Bool :=
  t.index.isSome && !t.sideEffect && decide (t.discards < 2) && (s.launch t.launch).any fun l => l.ld.idemp

/-- In-flight operations of a team complete; its mapped lines and its context's PRIVATE lines are written back, and no mapped line stays filled
(R85, R181, R186). -/
def State.quiesce (s : State) (t : Team) : State :=
  let s1 := (s.teamGroups t.uid).foldl (fun u g => u.runOps g.uid fun o => o.paused.isNone && !o.deferred) s
  ((s1.writeBackTeam t.uid).flushContext t.core t.ctx).modTeam t.uid Team.dropClean

/-- A team leaves its core with all that is its own. -/
def State.removeTeam (s : State) (t : Team) : State :=
  let gs := (s.teamGroups t.uid).map (·.uid)
  let s1 := ((s.teamGroups t.uid).filter s.onCore).foldl (fun u g => u.noteFree g g.blocks) s
  let s2 : State := { s1 with groups := s1.groups.filter fun g => g.team != t.uid, teams := s1.teams.filter fun u => u.uid != t.uid,
                              cores := s1.cores.map fun c : Core => { c with rays := c.rays.filter fun r => !gs.contains r.group } }
  (s2.islandsOff t.core).followRatio

/-- The place of a discarded cluster in the undispatched set: by index (R83, R85). -/
def insertReturned (r : Returned) : List Returned → List Returned
  | [] => [r]
  | x :: xs => if r.first < x.first then r :: x :: xs else x :: insertReturned r xs

/-- A discarded cluster: the teams of it that have not exited. -/
def returnedOf (t : Team) (ts : List Team) : Returned :=
  { first := t.first, size := t.clsize, clid := t.clid.toNat, members := ts.map fun u => (u.index.getD 0 - t.first, u.discards + 1) }

/-- Discard a cluster: its reservations go, and it returns to the undispatched set (R85 step 2). -/
def State.discard (s : State) (ts : List Team) : State :=
  match ts with
  | [] => s
  | t :: _ => (ts.foldl State.removeTeam s).modLaunch t.launch fun l => { l with returned := insertReturned (returnedOf t ts) l.returned }

/-- The cluster has drained: every operation of its groups is complete, and no ray of theirs is under way (R85, R299). -/
def State.drained (s : State) (ts : List Team) : Bool :=
  ts.all fun t => (s.teamGroups t.uid).all fun g => g.ops.all (·.perf)

/-- The groups of a cluster stop or go on. -/
def State.stopGroups (s : State) (ts : List Team) (stop : Bool) : State :=
  { s with groups := s.groups.map fun g : Group => (if ts.any (fun x => x.uid == g.team) then { g with stopped := stop } else g) }

/-- How every team of a cluster stands. -/
def State.setStates (s : State) (ts : List Team) (st : TeamState) : State := ts.foldl (fun u x => u.modTeam x.uid fun y => { y with st := st }) s

/-- The groups of a cluster that is discarded have stopped; it goes once its operations in flight are complete (R85 step 2, R299). -/
def State.discardStep (s : State) (ts : List Team) : State :=
  let s1 := ts.foldl State.quiesce (s.stopGroups ts true)
  if s1.drained ts then s1.discard ts else s1.setStates ts .discarding

/-- Pre-emption of a cluster begins: it is discarded, or drains (R85). -/
def State.preempt (s : State) (t : Team) : State :=
  let ts := s.clusterOf t
  if ts.all s.discardable then s.discardStep ts
  else ts.foldl (fun u x => u.modTeam x.uid fun y => { y with st := .draining (u.core y.core).clocks }) s

/-- A team that pre-emption may take: resident, and not draining already. -/
def Team.isResident (t : Team) : Bool :=
  match t.st with
  | .resident => true
  | _ => false

/-- SaveBytes (R87). -/
def LDesc.saveBytes (d : LDesc) : Nat :=
  (4096 + d.groups * (8192 + 6144 * (d.frameMax + 1)) + 256 * d.stashBlk + 16384 * d.slots + 16384 * d.accBlk + 4095) / 4096 * 4096

/-- Save records of a context in use: address and bytes. -/
def State.saveRecords (s : State) (ctx : BitVec 5) : List (Nat × Nat) :=
  s.teams.filterMap fun t => match t.st with
    | .saved a n => if t.ctx = ctx then some (a, n) else none
    | _ => none

/-- The lowest address at which n bytes fit among records in use (R87). -/
def saveSlot (base size n : Nat) (used : List (Nat × Nat)) : Option Nat :=
  let ends := (base :: used.map fun u => u.1 + u.2).mergeSort
  ends.find? fun a => decide (base ≤ a) && decide (a + n ≤ base + size) && used.all fun u => decide (a + n ≤ u.1) || decide (u.1 + u.2 ≤ a)

/-- The bytes of one team's part of a save record (R87). -/
def State.recordBytes (s : State) (t : Team) : Nat := ((s.launch t.launch).map fun l => l.ld.saveBytes).getD 0

/-- Where the record of a cluster fits in its context's save area, if anywhere (R87). -/
def State.saveAddress (s : State) (t : Team) (n : Nat) : Option Nat :=
  let d := (s.ctx t.ctx).desc
  saveSlot d.saveBase.toNat d.saveSize.toNat (s.recordBytes t * n) (s.saveRecords t.ctx)

/-- A team that could not be saved is no candidate while it still could not be, and is not discardable (R87). -/
def State.candidate (s : State) (t : Team) : Bool :=
  let ts := s.clusterOf t
  t.isResident && (!(ts.any (·.unsaved)) || ts.all s.discardable || (s.saveAddress t ts.length).isSome)

/-! ### PREEMPTION (R80, R93) -/

/-- The highest PRIORITY among a context's launches with a team ready, if any. -/
def State.readyPriority (s : State) (ctx : Nat) : Option Nat :=
  (s.launches.filter fun l => l.ctx.toNat == ctx && s.mayDispatch l && (!l.dispatched || s.teams.any fun t => t.launch == l.uid && t.isSaved)).foldl
    (fun m l => some (max (m.getD 0) l.desc.priority.toNat)) none

/-- PRIORITY and CORE_SHARE of a team's launch. -/
def State.teamDesc (s : State) (t : Team) : Desc := ((s.launch t.launch).map (·.desc)).getD Desc.reset

/-- GDIST may pre-empt a team for a context (R80). A deterministic launch is pre-empted at its round boundaries only, its discard and the start
of its drain too (DESIGN CHOICE, log 87). -/
def State.mayPreempt (s : State) (ctx : Nat) (t : Team) : Bool :=
  match s.readyPriority ctx with
  | none => false
  | some p =>
      let b := s.teamDesc t
      let share := (s.ctx (BitVec.ofNat 5 ctx)).desc.coreShare.toNat
      s.candidate t && t.ctx.toNat != ctx && decide (b.coreShare.toNat < (s.heldBy t.ctx.toNat).length)
        && (decide ((s.heldBy ctx).length < share) || decide (b.priority.toNat < p)) && (s.launch t.launch).all s.atBoundary

/-- What the pre-emption of a team costs: its cluster's cores (R93). -/
def State.preemptCost (s : State) (t : Team) : Nat := (s.clusterOf t).length

/-- Team a is pre-empted before team b: the lower PRIORITY, then the one resident most recently, then the lower cost (R80, R93). -/
def State.preemptBefore (s : State) (a b : Team) : Bool :=
  let pa := (s.teamDesc a).priority.toNat
  let pb := (s.teamDesc b).priority.toNat
  decide (pa < pb) || (pa == pb && (decide (b.since < a.since) || (b.since == a.since && decide (s.preemptCost a < s.preemptCost b))))

/-- PREEMPTION: GDIST starts to pre-empt a resident team for a ready team of a context (R80, R85). -/
def execPreemption (team ctx : Nat) (s : State) : Host.Outcome State Fault Refusal :=
  .next (match s.team team with
    | none => s
    | some t =>
        if !s.mayPreempt ctx t || s.teams.any (fun u => s.mayPreempt ctx u && s.preemptBefore u t) then s else s.preempt t)

/-! ### Saves (R85 to R87, R93) -/

/-- The first page of a range that the part cannot reach for its own access, with the kind (0 for an error indication). -/
def State.pagesFault (s : State) (ctx : BitVec 5) (va n : Nat) (k : AccKind) : Option Nat :=
  (List.range (n / 128)).findSome? fun i =>
    match s.translate ctx (va + 128 * i) k with
    | .fault kind => some kind
    | .err => some 0
    | .ok t => if (s.homeByte t.pa).isSome then none else some 0

/-- The byte that the part writes, at a step, to a virtual address of a record or image whose layout is not architected: a free one (R86, R147;
log 2). -/
def spillByte (tick va : Nat) : Byte := (Config.freeWord tick (Site.order.idx va)).extractLsb' 0 8

/-- The part writes a range whose layout is not architected (R86, R147). -/
def State.scrambleRange (s : State) (ctx : BitVec 5) (va n : Nat) : State :=
  (List.range n).foldl (fun t i => match t.translate ctx (va + i) .write with
    | .ok r => t.ctxPut ctx r.pa (spillByte s.sched.tick (va + i))
    | _ => t) s

/-- Written lines through tracked translations count in their regions' generations (R190). -/
def State.countLines (s : State) (ctx : BitVec 5) (va n : Nat) : State :=
  (List.range (n / 128)).foldl (fun t i =>
    match t.translate ctx (va + 128 * i) .write with
    | .ok r => if r.attr.track then t.incGen r.pa else t
    | _ => t) s

/-- An access of the part to a range of lines waits (R35, R39, R40). -/
def State.rangeHeld (s : State) (ctx : BitVec 5) (va n : Nat) : Bool := (List.range (n / 128)).any fun i => s.ownHeld ctx (va + 128 * i) 1

/-! ### Spill images (R147) -/

/-- Bytes of a frame's image. -/
def Frame.imageBytes (f : Frame) : Nat := 128 + 6144 * f.blks

/-- Bytes of a group's spill area below the image of frame i: those of the spilled frames above it on the stack, which were placed before it. -/
def Group.spillUsed (g : Group) (i : Nat) : Nat := (g.frames.take i).foldl (fun n f => if f.spilled then n + f.imageBytes else n) 0

/-- The address of the image of a group's frame i: in the area of its slot. -/
def State.imageAt (s : State) (g : Group) (i : Nat) : Nat :=
  let d := s.descOf g
  d.spillBase.toNat + (48 * g.core + g.slot48) * d.spillStride.toNat + g.spillUsed i

/-- An image of frame i would pass the end of the area. -/
def State.spillOverflows (s : State) (g : Group) (i : Nat) (f : Frame) : Bool :=
  decide ((s.descOf g).spillStride.toNat < g.spillUsed i + f.imageBytes)

/-- The image of frame i of a group is written. -/
def State.writeImage (s : State) (g : Group) (i : Nat) (f : Frame) : State :=
  let a := s.imageAt g i
  (s.scrambleRange g.ctx a f.imageBytes).countLines g.ctx a f.imageBytes

/-- A save or restore access failed: the team ends as by DISABLE, and TRAP_UNHANDLED is posted (R93). -/
def State.endTeam (s : State) (t : Team) (kind : Nat) : State :=
  let cause := if kind = 0 then 0x35 else 0x33
  let gs := s.teamGroups t.uid
  let s1 := gs.foldl (fun u g => ((u.endLanes g (BitVec.allOnes 96)).osEnd g.uid).exitArrivals g.uid) s
  let s2 := match (gs.find? fun g => g.gid == 0).orElse fun _ => gs.head? with
    | some g => s1.postCtx t.ctx 0x0A cause (s.queueOf g) (s.groupIdent { g with gid := 0 }) cause 0
    | none => s1
  (s2.removeTeam t).modLaunch t.launch fun l => { l with exited := l.exited + 1, arena := l.arena.filter fun r => r.st != .running t.uid }

/-- A saved group: it leaves its slot and blocks, and no allocation request of it is kept (R86, R150). -/
def Group.saved (g : Group) : Group := { g.withdraw with stopped := true, alloc := none }

/-- Save one team at an address (R86, R181). -/
def State.saveTeam (s : State) (t : Team) (addr n : Nat) : State :=
  match s.pagesFault t.ctx addr n .write with
  | some kind => s.endTeam t kind
  | none =>
      let s1 := (s.scrambleRange t.ctx addr n).countLines t.ctx addr n
      let s2 := (s1.teamGroups t.uid).foldl (fun u g => u.noteFree g g.blocks) s1
      let s3 := s2.modTeam t.uid fun x => { x with st := .saved addr n, since := s.sched.tick }
      let s4 : State := { s3 with groups := s3.groups.map fun g : Group => (if g.team = t.uid then g.saved else g) }
      (s4.islandsOff t.core).followRatio

/-- Save a cluster whose groups have stopped: at the lowest address where its record fits; where none fits it stays resident (R87). -/
def State.saveCluster (s : State) (ts : List Team) : State :=
  match ts with
  | [] => s
  | t :: _ =>
      match s.saveAddress t ts.length with
      | none => (ts.foldl (fun u x => u.modTeam x.uid fun y => { y with st := .resident, unsaved := true }) s).stopGroups ts false
      | some a => ts.zipIdx.foldl (fun u p => u.saveTeam p.1 (a + s.recordBytes t * p.2) (s.recordBytes t)) s

/-- The drain limit of a team has expired (R85). -/
def State.drainOver (s : State) (t : Team) : Bool :=
  match t.st with
  | .draining since => (s.launch t.launch).any fun l => decide (since + 2 ^ (l.ld.drainLog2 + 10) ≤ (s.core t.core).clocks) && s.atBoundary l
  | _ => false

/-- DRAIN_LIMIT_EXPIRY: the groups of the cluster stop, their operations complete, and it is saved once all are; a cluster that is being
discarded goes once they are (R85, R86). -/
def execDrainLimitExpiry (team : Nat) (s : State) : Host.Outcome State Fault Refusal :=
  .next (match s.team team with
    | none => s
    | some t =>
        let ts := s.clusterOf t
        if ts.any fun x => x.st == .discarding then s.discardStep ts
        else if !(ts.any s.drainOver) then s
        else
          let s1 := ts.foldl State.quiesce (s.stopGroups ts true)
          if s1.drained ts then s1.saveCluster ts else s1)

/-! ### TEAM_RESTORE (R88, R93, R150, R219) -/

/-- A restored group in its new place, resident from now on: its base frame resident, every other frame a spilled image, for whose refill it is
blocked (R142 to R144, R150); CYCLES goes on from a free value (R88). -/
def Group.placeAgain (s : State) (g : Group) (core part slot : Nat) (blocks : List Nat) : Group :=
  let fs := g.frames.zipIdx.map fun p : Frame × Nat =>
    (if p.2 + 1 = g.frames.length then { p.1 with spilled := false, image := none } else { p.1 with spilled := true, image := none })
  { g with core := core, part := part, slot := slot, born := s.sched.nextUid, stopped := false, frames := fs,
           region := { g.region with t0 := (s.core core).clocks, spent := g.region.spent + ((s.core g.core).clocks - g.region.t0) + s.freeNat .order (2 ^ 62 + g.uid) (2 ^ 64) },
           alloc := if 1 < g.frames.length then some { blocks := 0, since := (s.core core).clocks, granted := false, exhausted := false } else none,
           blockMap := g.blockMap.zipIdx.map fun p : Block × Nat => (if p.2 < blocks.length then .resident (blocks.getD p.2 0)
             else if p.1 = .unmapped then .unmapped else .spilled),
           clock0 := (s.core core).clocks - (s.freeNat .order g.uid (2 ^ 64) : Int) }

/-- The partition that takes a restored group: the most free blocks, then the lowest number (R76, R88); one with a trap frame for a group in
its handler. -/
def State.restorePart (s : State) (g : Group) (core : Nat) : Option Nat :=
  if g.handler.isNone then s.pickPart core g.baseBlocks
  else (List.range 4).foldl (fun best p =>
    if decide (g.baseBlocks ≤ (s.freeBlocks core p).length) && (s.freeSlot core p).isSome && decide (s.trapFrames core p < 2) then
      match best with
      | none => some p
      | some b => if (s.freeBlocks core b).length < (s.freeBlocks core p).length then some p else best
    else best) none

/-- The image of a restored group's frame i is placed in its slot's area; one that would pass the area's end is not, and the group takes
SPILL_OVERFLOW (R147, R150; log 10). -/
def State.placeImage (s : State) (uid i : Nat) : State :=
  match s.group uid with
  | none => s
  | some g =>
      match g.frames[i]? with
      | none => s
      | some f =>
          if s.spillOverflows g i f then s.modGroup uid fun h => h.due (boundary 0x24 0 0 0)
          else (s.writeImage g i f).modGroup uid fun h =>
            { h with frames := h.frames.modify i fun x => { x with image := some (s.imageAt g i, s.sched.tick) } }

/-- Restore one group on a core: its frames above record 0 are placed in the spill area, the top one first (R88, R150). -/
def State.restoreGroup (s : State) (g : Group) (core : Nat) : State :=
  match s.restorePart g core with
  | none => s
  | some p =>
      let sl := (s.freeSlot core p).getD 0
      let h := g.placeAgain s core p sl ((s.freeBlocks core p).take g.baseBlocks)
      let s1 := (s.fresh.2.putGroup h).modCore core fun c => { c with serials := sset 0 h.slot48 (sget 0 c.serials h.slot48 + 1) c.serials }
      (List.range (h.frames.length - 1)).foldl (fun t i => t.placeImage h.uid i) s1

/-- The kind of the fault or error, if any, that a restored team's writes to its groups' spill areas meet (R93, R150). -/
def State.imagesFault (s : State) (t : Team) : Option Nat :=
  (s.teamGroups t.uid).findSome? fun g => (List.range (g.frames.length - 1)).findSome? fun i =>
    match g.frames[i]? with
    | some f => if s.spillOverflows g i f then none else s.pagesFault g.ctx (s.imageAt g i) f.imageBytes .write
    | none => none

/-- Restore one team on a core; the core drops the copies that could be older than what the team has read (R88, R181, R200). -/
def State.restoreTeam (s : State) (t : Team) (core : Nat) : State :=
  match t.st with
  | .saved a n =>
      match s.pagesFault t.ctx a n .read with
      | some kind => s.endTeam t kind
      | none =>
          let s1 := (((s.flushContext core t.ctx).dropCoherent core).wakeCore core).modLaunch t.launch fun x => x.holds core
          let gs := s1.teamGroups t.uid
          -- the groups stand on no core until each has its new place
          let s2 : State := { s1 with groups := s1.groups.map fun g : Group => (if g.team = t.uid then { g with core := Config.cores } else g) }
          let s3 := s2.modTeam t.uid fun x => { x with core := core, st := .resident, since := s.sched.tick, quanta := 0, unsaved := false }
          let s4 := gs.foldl (fun u g => u.restoreGroup g core) s3
          -- the areas are those of the new places; a write there that fails ends the team
          match ({ s4 with dram := s3.dram } : State).imagesFault t with
          | some kind => s4.endTeam t kind
          | none => s4
  | _ => s

/-- TEAM_RESTORE: a saved team, with its cluster, on cores that have room and that no launch before its own wants; the longest-saved first in
quantum mode, in the order of dispatch in ordered and deterministic mode (R79, R81, R83, R88, R89, R108). -/
def execTeamRestore (team core : Nat) (s : State) : Host.Outcome State Fault Refusal :=
  .next (match s.team team with
    | none => s
    | some t =>
        let s0 := s.followRatio
        match s0.launch t.launch, s0.restorePlaces t core with
        | some l, some ps =>
            if t.isSaved && s0.mayPlace l (ps.map (·.2)) && s0.restoreFirst l t then
              let s1 := ps.foldl (fun u p => u.restoreTeam p.1 p.2) s0
              if s1.groups.any fun g => g.core == Config.cores then s else s1.noteServed l.ctx
            else s
        | _, _ => s)

/-! ### QUANTUM_BOUNDARY (R83) -/

/-- Remove clusters, longest-resident first, until n teams have gone: each counts with all its teams (R83, R93). -/
def State.rotate (s : State) : Nat → List Team → State
  | _, [] => s
  | n, t :: ts =>
      match s.team t.uid with
      | none => State.rotate s n ts
      | some u =>
          if s.candidate u && decide (s.preemptCost u ≤ n) then State.rotate (s.preempt u) (n - s.preemptCost u) ts else State.rotate s n ts

/-- Teams of a launch that are saved or have not yet been dispatched: W (R83). -/
def State.waitingTeams (s : State) (l : Launch) : Nat :=
  (s.teams.filter fun t => t.launch == l.uid && t.isSaved).length + (l.returned.foldl (fun a r => a + r.members.length) 0)
    + (match l.segment with
       | some r => r.foldl (fun a p => a + p.2) 0
       | none => l.ld.teams - l.nextTeam)

/-- QUANTUM_BOUNDARY (R83). -/
def execQuantumBoundary (launch : Nat) (s : State) : Host.Outcome State Fault Refusal :=
  .next (match s.launch launch with
    | none => s
    | some l =>
        if l.ld.sched ≠ 2 || !s.atBoundary l then s
        else
          let old := (s.teams.filter fun t => t.launch == launch && t.isResident && decide (1 ≤ t.quanta)).mergeSort fun a b => decide (a.since ≤ b.since)
          let s1 := s.rotate (s.waitingTeams l) old
          { s1 with teams := s1.teams.map fun t : Team => (if t.launch = launch && t.isResident then { t with quanta := t.quanta + 1 } else t) })

/-! ### Stalls (R82, R134) -/

/-- STALL (R64, R82). -/
def State.postStall (s : State) (l : Launch) : State :=
  (s.modCtx l.ctx fun c => { c with status := { c.status with stall := true } }).postCtx l.ctx 4 0 (l.queue.setWidth 8) l.ld.addr.toNat 0 0

/-- The resident groups of a launch. -/
def State.residentGroups (s : State) (launch : Nat) : List Group := s.groups.filter fun g => g.launch == launch && s.onCore g

/-- LAUNCH_STALL (R82). -/
def execLaunchStall (launch : Nat) (s : State) : Host.Outcome State Fault Refusal :=
  .next (match s.launch launch with
    | none => s
    | some l =>
        let gs := s.residentGroups launch
        if l.stallPosted || l.ld.sched = 2 || l.dispatched || gs.isEmpty || !(gs.all fun g => g.spin.any fun n => decide (2 ^ 20 ≤ n)) then s
        else (s.modLaunch launch fun x => { x with stallPosted := true }).postStall l)

/-- SPAWN_STALL (R134). -/
def execSpawnStall (launch : Nat) (s : State) : Host.Outcome State Fault Refusal :=
  .next (match s.launch launch with
    | none => s
    | some l =>
        let gs := s.residentGroups launch
        if l.spawnStall || gs.isEmpty || !(gs.all fun g => decide (2 ^ 20 ≤ g.spawnWait)) then s
        else (s.modLaunch launch fun x => { x with spawnStall := true }).postStall l)

/-! ### Timers of bins and arenas (R130, R132) -/

/-- SPAWN_BIN_TIMER_EXPIRY: 2048 core clocks after the first record (R130). -/
def execSpawnBinTimerExpiry (core : BitVec 7) (bin : BitVec 4) (s : State) : Host.Outcome State Fault Refusal :=
  let k := core.toNat
  .next (match (s.core k).bins[bin.toNat]? with
    | none => s
    | some b =>
        let now := (s.core k).clocks
        if b.full || now < b.since + 2048 then s
        else (s.modCore k fun c => { c with bins := c.bins.modify bin.toNat fun b => { b with full := true, fullSince := now } }).startBin k bin.toNat k)

/-- SPAWN_BIN_HANDOFF: after 1024 core clocks GDIST starts the bin on any core that the launch may use (R130). -/
def execSpawnBinHandoff (core : BitVec 7) (bin : BitVec 4) (dest : BitVec 7) (s : State) : Host.Outcome State Fault Refusal :=
  let k := core.toNat
  .next (match (s.core k).bins[bin.toNat]? with
    | none => s
    | some b =>
        if !b.full || (s.core k).clocks < b.fullSince + 1024 then s
        else (s.modCore k fun c => { c with bins := c.bins.modify bin.toNat fun b => { b with gdist := true } }).startBin k bin.toNat dest.toNat)

/-- ARENA_TIMER_EXPIRY: the consumer group of the oldest waiting record starts on a core (R132). -/
def execArenaTimerExpiry (launch : Nat) (core : BitVec 7) (s : State) : Host.Outcome State Fault Refusal :=
  .next (match s.launch launch with
    | none => s
    | some l =>
        if l.desc.det then s
        else match l.waitingEntries with
          | [] => s
          | e :: _ => s.startConsumer launch e core.toNat)

end Sys2Proof.Machine
end

