-- ==== Sys2Proof/Machine/Ladle.lean ====
section
/-! DEFINITION. The Ladle and the allocator of a partition: requests in order of age, spills, refills and what fails in them (R142 to
R149). -/

namespace Sys2Proof.Machine

/-! ### Spill images (R147) -/

/-- The first line of a range that the Ladle cannot reach: the fault kind, or 0 for an error indication, and its address (R148). -/
def State.rangeFault (s : State) (ctx : BitVec 5) (va n : Nat) (k : AccKind) : Option (Nat × Nat) :=
  (List.range (n / 128)).findSome? fun i =>
    match s.translate ctx (va + 128 * i) k with
    | .fault kind => some (kind, va + 128 * i)
    | .err => some (0, va + 128 * i)
    | .ok t => if (s.physByte t.pa).isSome then none else some (0, va + 128 * i)

/-! ### Spill and refill (R143, R146, R148) -/

/-- A spilled group that waited for nothing is blocked on allocation from now on (R143, R146). -/
def Group.blockedNow (g : Group) (now : Nat) : Option AllocReq :=
  match g.alloc with
  | some r => some r
  | none => some { blocks := 0, since := now, granted := false, exhausted := false }

/-- The blocks of a frame. -/
def Frame.holds (f : Frame) (b : Nat) : Bool := decide (f.first ≤ b) && decide (b < f.first + f.blks)

/-- A group whose frame i has been spilled, with where and when its image was written. -/
def Group.spill (g : Group) (i : Nat) (f : Frame) (im : Option (Nat × Nat)) (now : Nat) : Group :=
  { g with frames := g.frames.modify i (fun x => { x with spilled := true, image := im }), alloc := g.blockedNow now
           blockMap := g.blockMap.zipIdx.map fun p : Block × Nat => (if f.holds p.2 then Block.spilled else p.1) }

/-- Spill frame i of a group: its image is written, its blocks go back, SPILLS counts it (R146). -/
def State.spillFrame (s : State) (g : Group) (i : Nat) (f : Frame) : State :=
  let s2 := (s.writeImage g i f).modGroup g.uid fun h => h.spill i f (some (s.imageAt g i, s.sched.tick)) (s.core g.core).clocks
  (s2.noteFree g (g.blocksIn f.first (f.first + f.blks))).modCtx g.ctx fun c => { c with status := { c.status with spills := c.status.spills + 1 } }

/-- A group whose frame i is mapped to physical blocks again, with its values; once all are, an allocation request that was suspended
stands again (R143, R149). -/
def Group.refill (g : Group) (i : Nat) (f : Frame) (ps : List Nat) : Group :=
  let fs := g.frames.modify i fun x => { x with spilled := false, image := none }
  { g with frames := fs, blockMap := ps.zipIdx.foldl (fun m pi => m.set (f.first + pi.2) (.resident pi.1)) g.blockMap
           alloc := if fs.any (·.spilled) then g.alloc else g.alloc.filter fun r => decide (r.blocks ≠ 0) }

/-- The area still holds a frame's image as it was written; software has not changed it since (R147). -/
def State.imageSame (s : State) (g : Group) (f : Frame) : Bool :=
  match f.image with
  | none => false
  | some (a, tick) => (List.range f.imageBytes).all fun i => match s.translate g.ctx (a + i) .read with
      | .ok t => s.homeByte t.pa == some (spillByte tick (a + i))
      | _ => false

/-- What register l of a refilled frame holds where software has written to its image: the value that was spilled, or any other (R147). -/
def State.soiledLanes (s : State) (g : Group) (l : Nat) : Lanes :=
  (List.range 96).map fun i => if s.freeBit .block (l * 128 + i) then laneOf (g.vraw l) i else s.freeWord .block (l * 128 + i)

/-- Refill frame i of a group. One that fails, at an address, leaves what a granted block holds, and SPILL_FAULT falls due (R139, R148); so
does one whose image software has damaged; one whose image it has changed otherwise leaves unpredictable values (R147). -/
def State.refillFrame (s : State) (g : Group) (i : Nat) (f : Frame) (bad : Option Nat) : State :=
  let ps := (s.unheldBlocks g.core g.part).take f.blks
  let soiled := bad.isNone && !s.imageSame g f
  let failed := bad.orElse fun _ => if soiled && (f.image.isNone || s.freeBit .block i) then some (s.imageAt g i) else none
  let s1 := s.modGroup g.uid fun h =>
    let h1 := h.refill i f ps
    match failed with
    | some va => (h1.mapBlocks f.first ps (s.grantedLanes g)).due (boundary 0x25 0 va 0)
    | none => if soiled then h1.mapBlocks f.first ps fun _ l => s.soiledLanes g l else h1
  s1.modCtx g.ctx fun c => { c with status := { c.status with refills := c.status.refills + 1 } }

/-! ### What the Ladle waits on (R148) -/

/-- An access of the Ladle faults: it waits for the FCP. -/
def State.ladlePark (s : State) (g : Group) (f : Frame) (refill : Bool) (kind va : Nat) : State :=
  (s.addFault g.ctx va kind 10 g.core (!refill) (s.queueOf g)).modPart g.core g.part fun p =>
    { p with ladleFault := some { group := g.uid, frame := f.born, refill := refill, kind := kind, va := va, convert := false } }

/-- The Ladle of a partition waits on nothing more. -/
def State.ladleFree (s : State) (core part : Nat) : State := s.modPart core part fun p => { p with ladleFault := none }

/-- The access that a fault of the Ladle belongs to is still to be made: its group is on the partition, and the frame is still to be spilled or
refilled. -/
def State.ladleStill (s : State) (core part : Nat) (w : LadleFault) : Bool :=
  (s.group w.group).any fun g => g.core == core && g.part == part && s.onCore g && g.frames.any fun f => f.born == w.frame && f.spilled == w.refill

/-- A fault whose group has gone, has been saved or has popped the frame is waited on no more (R141, R150). -/
def State.ladleTidy (s : State) (core part : Nat) : State :=
  if (s.partOf core part).ladleFault.any fun w => !s.ladleStill core part w then s.ladleFree core part else s

/-! ### Grants (R142, R143, R145) -/

/-- Serve a group's request: the blocks are its own from now on, or its lowest spilled frame is refilled. -/
def State.serve (s : State) (g : Group) : State :=
  match g.lowestSpilled with
  | none => s.modGroup g.uid fun h => { h with alloc := h.alloc.map fun r => { r with granted := true } }
  | some (i, f) =>
      match (s.partOf g.core g.part).ladleFault with
      | some w =>
          if w.convert && w.refill && w.group == g.uid then (s.ladleFree g.core g.part).refillFrame g i f (some w.va) else s
      | none =>
          if s.rangeHeld g.ctx (s.imageAt g i) f.imageBytes then s
          else match s.rangeFault g.ctx (s.imageAt g i) f.imageBytes .read with
            | none => s.refillFrame g i f none
            | some (0, va) => s.refillFrame g i f (some va)
            | some (kind, va) => s.ladlePark g f true kind va

/-- The oldest pending request of a partition. -/
def State.requester (s : State) (core part : Nat) : Option Group :=
  ((s.partGroups core part).filter fun g => g.request.isSome).foldl (fun b g =>
    match b with
    | none => some g
    | some x => if g.born < x.born then some g else some x) none

/-- ALLOCATION_GRANT: a request for 0 blocks is satisfied at once; free blocks go to the oldest pending request, once they cover it whole
(R142). -/
def execAllocationGrant (core : BitVec 7) (part : BitVec 2) (s : State) : Host.Outcome State Fault Refusal :=
  let s0 := s.ladleTidy core.toNat part.toNat
  .next (match ((s0.partGroups core.toNat part.toNat).find? fun g => g.request == some 0).orElse fun _ => s0.requester core.toNat part.toNat with
    | none => s0
    | some g => if g.request.getD 0 ≤ (s0.freeBlocks g.core g.part).length then s0.serve g else s0)

/-! ### The Ladle (R144, R145) -/

/-- The Ladle wakes for a partition. -/
def State.ladleWakes (s : State) (core part : Nat) : Bool :=
  let gs := s.partGroups core part
  let now := (s.core core).clocks
  let p := s.partOf core part
  !gs.isEmpty && ((gs.all fun g => g.request.isSome)
    || (decide (p.lastFree + 65536 ≤ now) && gs.any fun g => g.request.isSome && g.alloc.any fun r => decide (r.since + 65536 ≤ now)))

/-- The topmost resident frame above record 0, with its place. -/
def Group.victimFrame (g : Group) : Option (Nat × Frame) :=
  (g.frames.zipIdx.find? fun p => !p.1.spilled && decide (p.2 + 1 < g.frames.length)).map fun p => (p.2, p.1)

/-- The order in which candidates are taken: PRIORITY, PCLASS, and the frame made last (R145). -/
def State.spillsFirst (s : State) (a b : Group × Nat × Frame) : Bool :=
  let pa := (s.descOf a.1).priority.toNat
  let pb := (s.descOf b.1).priority.toNat
  decide (pa < pb) || (pa == pb && (decide (a.1.pclass.toNat < b.1.pclass.toNat)
    || (a.1.pclass == b.1.pclass && decide (b.2.2.born < a.2.2.born))))

/-- The candidate whose frame is spilled next, groups passed over left out. -/
def State.victim (s : State) (core part req : Nat) (skip : List Nat) : Option (Group × Nat × Frame) :=
  ((s.partGroups core part).filter fun g => g.uid != req && !skip.contains g.uid).foldl (fun b g =>
    match g.victimFrame, b with
    | none, _ => b
    | some (i, f), none => some (g, i, f)
    | some (i, f), some x => if s.spillsFirst (g, i, f) x then some (g, i, f) else b) none

/-- A request that cannot be covered is withdrawn: the CALL or ACQUIRE raises FRAME_EXHAUSTED, or the refill's group takes it at its next
boundary (R145). -/
def State.exhaust (s : State) (g : Group) : State :=
  s.modGroup g.uid fun h =>
    let h1 : Group := { h with alloc := (h.blockedNow 0).map fun r => { r with exhausted := true } }
    if h.frames.any (·.spilled) then h1.due (boundary 0x23 0 0 0) else h1

/-- A wake of a partition ends: the Ladle sleeps, or serves the next partition. -/
def State.endWake (s : State) (core part : Nat) : State := s.modCore core fun c => { c with wakes := c.wakes.filter fun w => w.part != part }

/-- A wake goes on later from where it stands. -/
def State.keepWake (s : State) (core : Nat) (w : Wake) : State :=
  s.modCore core fun c => { c with wakes := c.wakes.map fun x => if x.part = w.part then w else x }

/-- The frame that a wake was about to spill, while its group holds it resident on the partition; else the next choice (R145, R146). -/
def State.wakeVictim (s : State) (core : Nat) (w : Wake) : Option (Group × Nat × Frame) :=
  ((w.victim.bind fun v => (s.group v.1).bind fun h =>
    if h.core = core && h.part = w.part && s.onCore h then
      (h.frames.zipIdx.find? fun p => p.1.born == v.2 && !p.1.spilled && decide (p.2 + 1 < h.frames.length)).map fun p => (h, p.2, p.1)
    else none)).orElse fun _ => s.victim core w.part w.req w.skip

/-- A group takes a trap at its next boundary, and its wake passes it over (R147, R148). -/
def State.passOver (s : State) (h : Group) (cause va : Nat) : State := s.modGroup h.uid fun x => x.due (boundary cause 0 va 0)

/-- One wake: frames are spilled until the free blocks cover the requester, which is then served. It waits, keeping its choice, while a late write
is outstanding to the frame, and while an access of it waits or faults (R145 to R148, R162). -/
def State.ladleRun (s : State) (core : Nat) (w : Wake) : Nat → State
  | 0 => s.keepWake core w
  | n + 1 =>
      match s.group w.req with
      | none => s.endWake core w.part
      | some g =>
          match g.request with
          | none => s.endWake core w.part
          | some k =>
              if k ≤ (s.freeBlocks core w.part).length then (s.serve g).endWake core w.part
              else match s.wakeVictim core w with
                | none => (s.exhaust g).endWake core w.part
                | some (h, i, f) =>
                    let skip : Wake := { w with skip := h.uid :: w.skip, victim := none }
                    let stay := s.keepWake core { w with victim := some (h.uid, f.born) }
                    if h.lateIn f.first (f.first + f.blks) || s.rangeHeld h.ctx (s.imageAt h i) f.imageBytes then stay
                    else if s.spillOverflows h i f then State.ladleRun (s.passOver h 0x24 0) core skip n
                    else match s.rangeFault h.ctx (s.imageAt h i) f.imageBytes .write with
                      | none => State.ladleRun (s.spillFrame h i f) core { w with victim := none } n
                      | some (0, va) => State.ladleRun (s.passOver h 0x25 va) core skip n
                      | some (kind, va) => stay.ladlePark h f false kind va

/-- A spill whose fault the host converted: the frame stays, the group takes SPILL_FAULT, and the wake passes it over (R148). -/
def State.spillFailed (s : State) (core part : Nat) : State :=
  match (s.partOf core part).ladleFault with
  | some w =>
      if w.convert && !w.refill then
        ((s.ladleFree core part).modGroup w.group fun x => x.due (boundary 0x25 0 w.va 0)).modCore core fun c =>
          { c with wakes := c.wakes.map fun x => if x.part = part then { x with skip := w.group :: x.skip, victim := none } else x }
      else s
  | none => s

/-- The Ladle is woken for a partition: the wake waits its turn, its requester the oldest pending request (R144, R145). -/
def State.wakeLadle (s : State) (core part : Nat) : State :=
  if (s.core core).wakes.any (fun w => w.part == part) || !s.ladleWakes core part then s
  else match s.requester core part with
    | none => s
    | some g => s.modCore core fun c => { c with wakes := c.wakes ++ [{ part := part, req := g.uid, skip := [], victim := none }] }

/-- LADLE_WAKE: the Ladle serves its partitions one wake at a time, in the order in which they woke it (R144 to R148). -/
def execLadleWake (core : BitVec 7) (part : BitVec 2) (s : State) : Host.Outcome State Fault Refusal :=
  let c := core.toNat
  let p := part.toNat
  .next (
    let r := ((s.ladleTidy c p).spillFailed c p).wakeLadle c p
    match (r.core c).wakes with
    | [] => r
    | w :: _ => if w.part ≠ p || (r.partOf c p).ladleFault.isSome then r else r.ladleRun c w 400)

end Sys2Proof.Machine
end

