-- ==== Sys2Proof/Machine/Completions.lean ====
section
/-! DEFINITION. The events that take a group's operations further (R157, R192, R199, R204, R376, R392, R400), and the entry of a boundary
trap (R435). -/

namespace Sys2Proof.Machine

/-- One of some operations: the part chooses which comes next. -/
def State.pick (s : State) (os : List Op) : Option Op :=
  match os with
  | [] => none
  | [o] => some o
  | o :: r => (o :: r)[s.freeNat .order 0 r.length]?

/-- One of a group's operations that a test selects takes a step; groups that wait to exit then may. -/
def State.stepOne (s : State) (uid : Nat) (sel : Group → Op → Bool) : State :=
  match s.group uid with
  | none => s
  | some g =>
      match s.pick (g.ops.filter fun o => !o.perf && !o.deferred && o.paused.isNone && sel g o) with
      | none => s
      | some o => (s.runOp g o).tryExits

/-! ### Loads, stores, atomics -/

/-- LOAD_DATA_LANDED: a load's data, or a RESERVE's result, have arrived (R158, R376, R395). -/
def execLoadDataLanded (group : Nat) (s : State) : Host.Outcome State Fault Refusal :=
  .next (s.stepOne group fun _ o => match o.body with
    | .load _ => true
    | .reserve _ _ => true
    | _ => false)

/-- STORE_PERFORMED: a store, a maintenance operation or a barrier operation takes effect at home, after the earlier ones that it follows; a release
or acquire of the group that nothing keeps any more completes (R199, R201, R376, R383, R384, R385, R389). -/
def execStorePerformed (group : Nat) (s : State) : Host.Outcome State Fault Refusal :=
  .next ((s.stepOne group fun g o => g.writeReady o && s.meshReady g o && (match o.body with
    | .store _ _ | .clean _ _ _ | .unmap _ | .map _ _ _ _ | .expect _ _ | .bar _ => true
    | _ => false)).passFence group)

/-- The lanes of an atomic with those of one address first: the part chooses it (R192, R193). -/
def State.atomOrder (s : State) (lanes : List AtomLane) : List AtomLane :=
  let places := (lanes.map (·.place)).eraseDups
  match places with
  | [] => lanes
  | _ :: r =>
      match places[s.freeNat .order 1 r.length]? with
      | none => lanes
      | some p => (lanes.filter fun l => l.place == p) ++ lanes.filter fun l => l.place != p

/-- An atomic may reach its home: the writes that it follows have (R176, R200). -/
def State.atomReady (s : State) (g : Group) (o : Op) : Bool := g.writeReady o && s.meshReady g o

/-- The members of the bundle in which an atomic of a group reaches the home of its first lane: of those that it may meet, the part chooses which it
does; an exchange, a compare and swap, or an atomic of a stash place meets none (R192). -/
def State.bundle (s : State) (g : Group) (o : Op) (op : Nat) (w64 : Bool) (dest : List Nat) (lanes : List AtomLane) : List Member :=
  let self : Member := ⟨g, o, op, w64, dest, lanes⟩
  match lanes.head?.map fun l : AtomLane => l.place with
  | some (Place.phys pa) =>
      if 8 ≤ op then [self]
      else self :: (s.meets g.ctx op w64 o.ord (.phys pa) s.atomReady).filter fun m => m.g.uid != g.uid && s.freeBit .merge m.g.uid
  | _ => [self]

/-- ATOMIC_AT_HOME: the lanes of one address of an atomic are applied at its home at one instant, one after another in lane order, alone or in a
bundle with those of other groups (R192, R193, R204). -/
def execAtomicAtHome (group : Nat) (s : State) : Host.Outcome State Fault Refusal :=
  .next (match s.group group with
    | none => s
    | some g =>
        match s.pick (g.ops.filter fun o => !o.perf && !o.deferred && s.atomReady g o && (match o.body with
          | .atomic _ _ _ _ => true
          | _ => false)) with
        | none => s
        | some o =>
            match o.body with
            | .atomic op w64 dest lanes =>
                (if lanes.isEmpty then s.runOp g o
                 else
                   let ms := s.bundle g o op w64 dest (s.atomOrder lanes)
                   (ms.map (·.g.uid)).foldl State.settle (s.atomBundle ms)).tryExits
            | _ => s)

/-! ### Engines and the matrix stream -/

/-- The destination of an engine operation in memory: its address kind, address, pitch, bytes a row and rows. -/
def Engine.dest : Engine → Option (Nat × Nat × Int × Nat × Nat)
  | .copy regs twoD fill mod =>
      let c := copyOps regs twoD fill mod
      some (c.dk, c.dst, c.dpitch, c.len, c.rows)
  | .accst regs _ fmt => some (0, regPair regs 0, s32 (regs.getD 2 0), drainRowBytes (fmtD fmt) (regs.getD 5 0).toNat, (regs.getD 4 0).toNat)
  | .tload _ _ _ => none

/-- The address of the next destination line of an engine operation, where it is a virtual address. -/
def Engine.nextLine (e : Engine) (pos : Nat) : Option Nat :=
  match e.dest with
  | some (0, dst, pitch, len, rows) => (pieceAt (2 ^ 64) dst pitch len rows pos).map fun p => p.addr / 128
  | _ => none

/-- An engine operation that has moved pos bytes has still to write in a line. -/
def Engine.willWrite (e : Engine) (pos line : Nat) : Bool :=
  match e.dest with
  | some (0, dst, pitch, len, rows) => (List.range rows).any fun r => decide (pos < (r + 1) * len)
      && decide (rowAddr (2 ^ 64) dst pitch r < 128 * line + 128) && decide (128 * line < rowAddr (2 ^ 64) dst pitch r + len)
  | _ => false

/-- An address lies in a COHERENT page for a group. -/
def State.coherentAt (s : State) (g : Group) (va : Nat) : Bool :=
  match s.translateFor g va .write with
  | .ok t => t.attr.coh == 2
  | _ => false

/-- An engine operation may take its next line: two uncovered operations of a group write a COHERENT line in issue order (R392), and a drain
takes its place in the stream (R400). -/
def State.engineReady (s : State) (g : Group) (o : Op) : Bool :=
  match o.body with
  | .engine e pos =>
      (!o.inStream || g.streamReady o) && (match e.nextLine pos with
        | none => true
        | some line => !(s.coherentAt g (128 * line)) || (g.before o.uid).all fun p => p.perf || (match p.body with
            | .engine e' pos' => !(e'.willWrite pos' line)
            | _ => true))
  | _ => false

/-- ENGINE_LINE_LANDED: a line of a copy, a strip of a tile load or a line of a drain lands; the sources are read after every earlier write
of the group has been performed (R205, R392, R405, R414). -/
def execEngineLineLanded (group : Nat) (s : State) : Host.Outcome State Fault Refusal :=
  .next (match s.group group with
    | none => s
    | some g =>
        match s.pick (g.ops.filter fun o => !o.perf && !o.deferred && o.paused.isNone && s.engineReady g o) with
        | none => s
        | some o =>
            let s1 := s.performWrites g.uid (some o.uid)
            match s1.group group with
            | none => s1
            | some g1 =>
                match g1.ops.find? fun p => p.uid == o.uid with
                | none => s1
                | some o1 => if (g1.before o.uid).any Op.isWrite then s1 else (s1.runOp g1 o1).tryExits)

/-- MATRIX_OPERATION_COMPLETE: the oldest operation of a group's stream that is ready takes effect (R400, R406, R411 to R413). -/
def execMatrixOperationComplete (group : Nat) (s : State) : Host.Outcome State Fault Refusal :=
  .next (s.stepOne group fun g o => g.streamReady o && (match o.body with
    | .stream _ => true
    | _ => false))

/-! ### Boundary traps (R435) -/

/-- The boundary trap that row k takes next (R435). -/
def Group.dueAt (g : Group) (k : Nat) : Option Pending := g.pending.find? fun p => p.row == none || p.row == some k

/-- The clocks of the part run (R23, R28, R43). -/
def State.running (s : State) : Bool := s.boot.phase == .trained

/-- The first live row at a boundary that a trap is due to, with the trap. -/
def Group.trapRow? (g : Group) : Option (Nat × Pending) :=
  (List.range 4).findSome? fun k => if g.canIssue k then (g.dueAt k).map fun p => (k, p) else none

/-- BOUNDARY_TRAP_ENTRY: the first live row at an instruction boundary takes the trap that is due (R9, R435). -/
def execBoundaryTrapEntry (group : Nat) (s : State) : Host.Outcome State Fault Refusal :=
  .next (match s.group group with
    | none => s
    | some g =>
        if !s.running || !s.onCore g || g.parked.isSome then s
        else match g.trapRow? with
          | none => s
          | some (k, p) => s.raiseTrap g k p)

end Sys2Proof.Machine
end

