-- ==== Sys2Proof/Machine/Rounds.lean ====
section
/-! DEFINITION. The boundary of a deterministic round (R133, R213, R215 to R217, R275, R292, R397, R403). -/

namespace Sys2Proof.Machine

/-! ### When a round ends (R216) -/

/-- The group has an operation of some classes that is deferred to the boundary. -/
def Group.defers (g : Group) (ok : Option Cls → Bool) : Bool := g.ops.any fun o => o.deferred && !o.perf && ok o.cls

/-- A ray of the group awaits a verdict, whose callback record is delivered at boundaries only (R423). -/
def State.calledBack (s : State) (g : Group) : Bool := s.cores.any fun c => c.rays.any fun r => r.group == g.uid && r.awaits

/-- A row lets the round end: it is stopped, waits for its siblings at a JOIN, or is blocked as R216 lists. -/
def State.rowAtEdge (s : State) (g : Group) (r : Row) : Bool :=
  r.stopped || (match r.wait with
    | .join | .barWait | .barArrive | .osEnter | .claim | .mwait | .spawn | .tile => true
    | .waitOn cs => (cs.any fun c => g.defers (· == some c)) || (cs.contains .ld && s.calledBack g)
    | .counter => g.defers fun _ => true
    | .unit => g.defers fun _ => true
    | _ => false)

/-- A group lets the round end: it has exited, has retired its instructions, or is blocked (R216). -/
def State.atEdge (s : State) (g : Group) : Bool :=
  g.exiting || (g.parked.isNone && g.pending.isEmpty && !(g.handler.isNone && g.frames.any (·.spilled))
    && (decide ((s.descOf g).roundQ.toNat ≤ g.roundRetired)
      || ((g.rows.any fun r => r.live && !r.stopped) && g.rows.all fun r => !r.live || s.rowAtEdge g r)))

/-- The round of a launch ends. -/
def State.roundEnds (s : State) (l : Launch) : Bool := l.inBoundary || (s.residentGroups l.uid).all s.atEdge

/-! ### The order of a boundary (R217) -/

/-- A group's place in the order: its team's index, those that records started last, and its number. -/
def State.place (s : State) (g : Group) : Nat × Nat × Nat := (((s.team g.team).bind (·.index)).getD (2 ^ 32 + g.team), g.gid, g.uid)

/-- Places in ascending order. -/
def placeLe (a b : Nat × Nat × Nat) : Bool :=
  decide (a.1 < b.1) || (a.1 == b.1 && (decide (a.2.1 < b.2.1) || (a.2.1 == b.2.1 && decide (a.2.2 ≤ b.2.2))))

/-- The resident groups of a launch in ascending order. -/
def State.inOrder (s : State) (launch : Nat) : List Nat :=
  ((s.residentGroups launch).mergeSort fun a b => placeLe (s.place a) (s.place b)).map (·.uid)

/-- An operation that reads its sources only after every earlier write of its group (R205). -/
def Op.isEngine (o : Op) : Bool :=
  match o.body with
  | .engine _ _ => true
  | _ => false

/-- Apply a group's deferred operations, in group order; it stops at the first that cannot be completed. The writes in flight that an engine
operation follows, which only atomics of an unsorted launch can be, are performed before it (R205). -/
def State.applyOps (s : State) (uid : Nat) : List Op → State × Bool
  | [] => (s, true)
  | o :: r =>
      let s0 := if o.isEngine then s.performWrites uid (some o.uid) else s
      let s1 := s0.runFully uid o.uid o.fuel
      let done := (s1.group uid).all fun g => g.ops.all fun p => p.uid != o.uid || p.perf
      if done then State.applyOps s1 uid r else (s1, false)

/-- A group's place in the order: its deferred operations, its atomics still in flight, whose results reach it before the next round, and then,
where it has exited, its release and exit arrivals (R213, R217). -/
def State.applyGroup (s : State) (uid : Nat) : State × Bool :=
  match s.group uid with
  | none => (s, true)
  | some g =>
      let r := s.applyOps uid (g.ops.filter fun o => o.deferred && !o.perf)
      if r.2 then ((r.1.performWrites uid none).tryExit uid true, true) else r

/-- Apply the groups' operations in order, to the first that stops it. -/
def State.applyGroups (s : State) : List Nat → State × Bool
  | [] => (s, true)
  | u :: r =>
      match s.applyGroup u with
      | (s1, true) => State.applyGroups s1 r
      | p => p

/-! ### Records (R133) -/

/-- The order of delivery: team, group, lane. -/
def deferredLe (a b : Deferred) : Bool := placeLe (a.team, a.grp, a.lane) (b.team, b.grp, b.lane)

/-- Deliver one record to the launch's bins, or one COMMIT to its arena; their time is the launch's count of instructions. -/
def State.deliver (s : State) (launch : Nat) (d : Deferred) : State :=
  match d.commit with
  | some (cell, _) => s.commitRun launch cell d.entry (((s.launch launch).map (·.retired)).getD 0)
  | none => s.modLaunch launch fun l =>
      let k : BinKey := { ctx := l.ctx, launch := launch, entry := d.entry, words := d.words.length }
      { l with bins := (binPut (l.bins.length + 1) l.retired k { words := d.words, callback := d.callback } l.bins).getD l.bins }

/-- Deliver every record of the round, sorted. -/
def State.deliverAll (s : State) (launch : Nat) : State :=
  match s.launch launch with
  | none => s
  | some l =>
      let ds := l.deferred.mergeSort deferredLe
      ds.foldl (fun t d => t.deliver launch d) (s.modLaunch launch fun l => { l with deferred := [] })

/-- A core with room for a group of the launch's records; the part chooses among them (R130, R132). -/
def State.recordCore (s : State) (l : Launch) (n : Nat) : Option Nat :=
  match (List.range Config.cores).filter fun k => s.hasRoom k [l.ld.base] 0 0 0 && !s.drains l.uid k with
  | [] => none
  | c :: cs => (c :: cs)[s.freeNat .order n cs.length]?

/-- A timer of a record that came when n instructions had retired has expired (R133). -/
def Launch.timerOver (l : Launch) (n : Nat) : Bool := decide (n + 2048 * 96 ≤ l.retired)

/-- Start the launch's bin i where it is full or its timer has expired, and a core has room; else it stays. -/
def State.startLaunchBin (s : State) (launch i : Nat) : State :=
  match s.launch launch with
  | none => s
  | some l =>
      match l.bins[i]? with
      | none => s
      | some b =>
          if !b.full && !(l.timerOver b.since) then s
          else match (s.recordCore l i).bind fun c => s.startWave l c b.wave with
            | none => s
            | some (s1, _) => s1.modLaunch launch fun l => { l with bins := l.bins.eraseIdx i }

/-- Start every bin of a launch that is due, the last first, so that the places of the others stand. -/
def State.startLaunchBins (s : State) (launch : Nat) : State :=
  let n := ((s.launch launch).map (·.bins.length)).getD 0
  (List.range n).reverse.foldl (fun t i => t.startLaunchBin launch i) s

/-- Start consumer groups of a launch that are due: 96 records, or an expired timer; n at most (R132, R133). -/
def State.startConsumers (s : State) (launch : Nat) : Nat → State
  | 0 => s
  | n + 1 =>
      match s.launch launch with
      | none => s
      | some l =>
          match l.waitingEntries.find? fun e => decide (96 ≤ (l.nextCells e).length) || l.timerOver (l.oldest e) with
          | none => s
          | some e =>
              match s.recordCore l (100 + n) with
              | none => s
              | some c => State.startConsumers (s.startConsumer launch e c) launch n

/-! ### The rest of a boundary -/

/-- CLAIMs are granted, groups in order: the lowest free slot to each row that waits (R403, R417). -/
def State.grantClaims (s : State) (uid : Nat) : State :=
  match s.group uid with
  | none => s
  | some g =>
      ((List.range 4).filter fun k => (g.row k).live && (g.row k).wait == .claim).foldl (fun t k =>
        match (t.team g.team).bind fun u => u.freeSlotNo.map fun n => (u, n) with
        | none => t
        | some (u, n) => (t.modTeam u.uid fun x => x.setSlot n .claimed).modGroup uid fun h =>
            h.putAnswer (g.row k).pc.toNat [BitVec.ofNat 32 n]) s

/-- Coverage teams whose last group has exited are filled, in ascending order (R275). -/
def State.infillAll (s : State) (launch : Nat) : State :=
  let ts := (s.teams.filter fun t => t.launch == launch && t.infills).mergeSort fun a b => decide (a.index.getD 0 ≤ b.index.getD 0)
  (ts.map (·.uid)).foldl State.infillTeam s

/-- The releases at system scope of a group's round (R397). -/
def Group.sysRelease (g : Group) : Group :=
  { g with phases := (List.range g.sysRels).foldl (fun ps _ => bumpPhases 4 ps) g.phases, sysRels := 0 }

/-- The releases at system scope that the round has asked for (R397), and PHASE.dev: a release and then an acquire at device scope (R202, R216). -/
def State.phaseDev (s : State) (uid : Nat) : State := (((s.modGroup uid Group.sysRelease).release uid 3).acquire uid 3)

/-- The part of a boundary after the operations: the fills, the records, the CLAIMs, PHASE.dev of every group, the entries of sections, and
the next round's counts (R133, R216, R275, R292). -/
def State.endRound (s : State) (launch : Nat) : State :=
  let s1 := (s.infillAll launch).deliverAll launch
  let us := s1.inOrder launch
  let s2 := us.foldl State.grantClaims s1
  let s3 := us.foldl State.phaseDev s2
  let s4 := s3.osTryGroups us none
  let s5 := (s4.startLaunchBins launch).startConsumers launch 4096
  let s6 : State := { s5 with groups := s5.groups.map fun g : Group => (if g.launch = launch then { g with roundRetired := 0, roundOwn := [] } else g) }
  s6.modLaunch launch fun l => { l with inBoundary := false, roundOld := [] }

/-- ROUND_BOUNDARY: every group of the launch has retired Q, exited or is blocked, and the operations of the round take effect in order; an
engine operation that faults at its place holds the rest back (R216, R217). -/
def execRoundBoundary (launch : Nat) (s : State) : Host.Outcome State Fault Refusal :=
  .next (match s.launch launch with
    | none => s
    | some l =>
        if !l.desc.det || !s.roundEnds l then s
        else
          let r := s.applyGroups (s.inOrder launch)
          if r.2 then r.1.endRound launch else r.1.modLaunch launch fun l => { l with inBoundary := true })

end Sys2Proof.Machine
end

