-- ==== Sys2Proof/Machine/Dispatch.lean ====
section
/-! DEFINITION. One arm per instruction: each calls the meaning of its own, or is rejected by name. -/

namespace Sys2Proof.Machine

/-- The meaning of one step. -/
def exec (i : Instr) (s : State) : Host.Outcome State Fault Refusal :=
  match i with
  | .nop => Sys2Proof.Machine.execNop s
  | .add d a b => Sys2Proof.Machine.execAdd d a b s
  | .sub d a b => Sys2Proof.Machine.execSub d a b s
  | .mul d a b => Sys2Proof.Machine.execMul d a b s
  | .mulh d a b => Sys2Proof.Machine.execMulh d a b s
  | .mulhu d a b => Sys2Proof.Machine.execMulhu d a b s
  | .div d a b => Sys2Proof.Machine.execDiv d a b s
  | .divu d a b => Sys2Proof.Machine.execDivu d a b s
  | .rem d a b => Sys2Proof.Machine.execRem d a b s
  | .remu d a b => Sys2Proof.Machine.execRemu d a b s
  | .and d a b => Sys2Proof.Machine.execAnd d a b s
  | .or d a b => Sys2Proof.Machine.execOr d a b s
  | .xor d a b => Sys2Proof.Machine.execXor d a b s
  | .shl d a b => Sys2Proof.Machine.execShl d a b s
  | .shr d a b => Sys2Proof.Machine.execShr d a b s
  | .sar d a b => Sys2Proof.Machine.execSar d a b s
  | .min d a b => Sys2Proof.Machine.execMin d a b s
  | .max d a b => Sys2Proof.Machine.execMax d a b s
  | .minu d a b => Sys2Proof.Machine.execMinu d a b s
  | .maxu d a b => Sys2Proof.Machine.execMaxu d a b s
  | .seq d a b => Sys2Proof.Machine.execSeq d a b s
  | .sne d a b => Sys2Proof.Machine.execSne d a b s
  | .slt d a b => Sys2Proof.Machine.execSlt d a b s
  | .sltu d a b => Sys2Proof.Machine.execSltu d a b s
  | .sel d a b => Sys2Proof.Machine.execSel d a b s
  | .mov d b => Sys2Proof.Machine.execMov d b s
  | .popc d a => Sys2Proof.Machine.execPopc d a s
  | .clz d a => Sys2Proof.Machine.execClz d a s
  | .ctz d a => Sys2Proof.Machine.execCtz d a s
  | .jmp tofs => Sys2Proof.Machine.execJmp tofs s
  | .braS cond sb b a tofs => Sys2Proof.Machine.execBraS cond sb b a tofs s
  | .braV cond sb b a tofs jofs => Sys2Proof.Machine.execBraV cond sb b a tofs jofs s
  | .call demand args tofs => Sys2Proof.Machine.execCall demand args tofs s
  | .join => Sys2Proof.Machine.execJoin s
  | .loop sb x tofs => Sys2Proof.Machine.execLoop sb x tofs s
  | .lend => Sys2Proof.Machine.execLend s
  | .lendX => Sys2Proof.Machine.execLendX s
  | .ret => Sys2Proof.Machine.execRet s
  | .callr b demand args => Sys2Proof.Machine.execCallr b demand args s
  | .jmpr a => Sys2Proof.Machine.execJmpr a s
  | .acquire b => Sys2Proof.Machine.execAcquire b s
  | .release b => Sys2Proof.Machine.execRelease b s
  | .wbase b => Sys2Proof.Machine.execWbase b s
  | .swin b => Sys2Proof.Machine.execSwin b s
  | .unwind b => Sys2Proof.Machine.execUnwind b s
  | .pause => Sys2Proof.Machine.execPause s
  | .exit => Sys2Proof.Machine.execExit s
  | .gets sel d => Sys2Proof.Machine.execGets sel d s
  | .sets sel a => Sys2Proof.Machine.execSets sel a s
  | .fmt b => Sys2Proof.Machine.execFmt b s
  | .pclass b => Sys2Proof.Machine.execPclass b s
  | .mpop d a => Sys2Proof.Machine.execMpop d a s
  | .mfirst d a => Sys2Proof.Machine.execMfirst d a s
  | .vaddInt v => Sys2Proof.Machine.execVaddInt v s
  | .vsubInt v => Sys2Proof.Machine.execVsubInt v s
  | .vmulInt v => Sys2Proof.Machine.execVmulInt v s
  | .vmulh v => Sys2Proof.Machine.execVmulh v s
  | .vmad v => Sys2Proof.Machine.execVmad v s
  | .vadds v => Sys2Proof.Machine.execVadds v s
  | .vsubs v => Sys2Proof.Machine.execVsubs v s
  | .vand v => Sys2Proof.Machine.execVand v s
  | .vor v => Sys2Proof.Machine.execVor v s
  | .vxor v => Sys2Proof.Machine.execVxor v s
  | .vnot v => Sys2Proof.Machine.execVnot v s
  | .vshl v => Sys2Proof.Machine.execVshl v s
  | .vshr v => Sys2Proof.Machine.execVshr v s
  | .vsar v => Sys2Proof.Machine.execVsar v s
  | .vminInt v => Sys2Proof.Machine.execVminInt v s
  | .vmaxInt v => Sys2Proof.Machine.execVmaxInt v s
  | .vabsInt v => Sys2Proof.Machine.execVabsInt v s
  | .vcmpInt v => Sys2Proof.Machine.execVcmpInt v s
  | .vsel v => Sys2Proof.Machine.execVsel v s
  | .vpopc v => Sys2Proof.Machine.execVpopc v s
  | .vclz v => Sys2Proof.Machine.execVclz v s
  | .vmov v => Sys2Proof.Machine.execVmov v s
  | .vdot4 v => Sys2Proof.Machine.execVdot4 v s
  | .vbfe v => Sys2Proof.Machine.execVbfe v s
  | .vbfi v => Sys2Proof.Machine.execVbfi v s
  | .vaddFp v => Sys2Proof.Machine.execVaddFp v s
  | .vsubFp v => Sys2Proof.Machine.execVsubFp v s
  | .vmulFp v => Sys2Proof.Machine.execVmulFp v s
  | .vfma v => Sys2Proof.Machine.execVfma v s
  | .vminFp v => Sys2Proof.Machine.execVminFp v s
  | .vmaxFp v => Sys2Proof.Machine.execVmaxFp v s
  | .vcmpFp v => Sys2Proof.Machine.execVcmpFp v s
  | .vabsFp v => Sys2Proof.Machine.execVabsFp v s
  | .vneg v => Sys2Proof.Machine.execVneg v s
  | .vclass v => Sys2Proof.Machine.execVclass v s
  | .cvt v => Sys2Proof.Machine.execCvt v s
  | .sxpack v => Sys2Proof.Machine.execSxpack v s
  | .sxunpk v => Sys2Proof.Machine.execSxunpk v s
  | .vrnd v => Sys2Proof.Machine.execVrnd v s
  | .vrcp v => Sys2Proof.Machine.execVrcp v s
  | .vrsq v => Sys2Proof.Machine.execVrsq v s
  | .vsqrt v => Sys2Proof.Machine.execVsqrt v s
  | .vexp2 v => Sys2Proof.Machine.execVexp2 v s
  | .vlog2 v => Sys2Proof.Machine.execVlog2 v s
  | .vsin v => Sys2Proof.Machine.execVsin v s
  | .vcos v => Sys2Proof.Machine.execVcos v s
  | .vtanh v => Sys2Proof.Machine.execVtanh v s
  | .vdiv v => Sys2Proof.Machine.execVdiv v s
  | .rand v => Sys2Proof.Machine.execRand v s
  | .vperm v => Sys2Proof.Machine.execVperm v s
  | .vcmpct v => Sys2Proof.Machine.execVcmpct v s
  | .vexpnd v => Sys2Proof.Machine.execVexpnd v s
  | .match_ v => Sys2Proof.Machine.execMatch v s
  | .reduce v => Sys2Proof.Machine.execReduce v s
  | .scan v => Sys2Proof.Machine.execScan v s
  | .vballot v => Sys2Proof.Machine.execVballot v s
  | .vlane v => Sys2Proof.Machine.execVlane v s
  | .ld m => Sys2Proof.Machine.execLd m s
  | .st m => Sys2Proof.Machine.execSt m s
  | .lds m => Sys2Proof.Machine.execLds m s
  | .sts m => Sys2Proof.Machine.execSts m s
  | .ldsh m => Sys2Proof.Machine.execLdsh m s
  | .stsh m => Sys2Proof.Machine.execStsh m s
  | .ldcl m => Sys2Proof.Machine.execLdcl m s
  | .stcl m => Sys2Proof.Machine.execStcl m s
  | .atom m => Sys2Proof.Machine.execAtom m s
  | .atomn m => Sys2Proof.Machine.execAtomn m s
  | .cas m => Sys2Proof.Machine.execCas m s
  | .xchg m => Sys2Proof.Machine.execXchg m s
  | .stashMap b a m => Sys2Proof.Machine.execStashMap b a m s
  | .stashUnmap m => Sys2Proof.Machine.execStashUnmap m s
  | .cwb b a => Sys2Proof.Machine.execCwb b a s
  | .cinv b a => Sys2Proof.Machine.execCinv b a s
  | .rel scope => Sys2Proof.Machine.execRel scope s
  | .acq scope => Sys2Proof.Machine.execAcq scope s
  | .phase scope => Sys2Proof.Machine.execPhase scope s
  | .wait tl cp st ld => Sys2Proof.Machine.execWait tl cp st ld s
  | .waitr a k => Sys2Proof.Machine.execWaitr a k s
  | .barJoin a cl => Sys2Proof.Machine.execBarJoin a cl s
  | .barArrive drop cl a d => Sys2Proof.Machine.execBarArrive drop cl a d s
  | .barWait b a cl => Sys2Proof.Machine.execBarWait b a cl s
  | .barExpect b a cl => Sys2Proof.Machine.execBarExpect b a cl s
  | .copy a mod => Sys2Proof.Machine.execCopy a mod s
  | .copy2d a mod => Sys2Proof.Machine.execCopy2d a mod s
  | .fill a mod => Sys2Proof.Machine.execFill a mod s
  | .spawn a d mod => Sys2Proof.Machine.execSpawn a d mod s
  | .reserve sb b d => Sys2Proof.Machine.execReserve sb b d s
  | .commit a => Sys2Proof.Machine.execCommit a s
  | .claim d => Sys2Proof.Machine.execClaim d s
  | .releaseSlot a => Sys2Proof.Machine.execReleaseSlot a s
  | .tload a mod => Sys2Proof.Machine.execTload a mod s
  | .mma d a b mod => Sys2Proof.Machine.execMma d a b mod s
  | .mfence => Sys2Proof.Machine.execMfence s
  | .mwait a => Sys2Proof.Machine.execMwait a s
  | .mwaitImm b => Sys2Proof.Machine.execMwaitImm b s
  | .had a b mod => Sys2Proof.Machine.execHad a b mod s
  | .accrd d a mod => Sys2Proof.Machine.execAccrd d a mod s
  | .accst a mod => Sys2Proof.Machine.execAccst a mod s
  | .vmx sb d a b mod => Sys2Proof.Machine.execVmx sb d a b mod s
  | .accz a b => Sys2Proof.Machine.execAccz a b s
  | .rast d a => Sys2Proof.Machine.execRast d a s
  | .sample v => Sys2Proof.Machine.execSample v s
  | .trace v => Sys2Proof.Machine.execTrace v s
  | .traceM memo d a b => Sys2Proof.Machine.execTraceM memo d a b s
  | .verdict a => Sys2Proof.Machine.execVerdict a s
  | .bxunion v => Sys2Proof.Machine.execBxunion v s
  | .sahcost d a => Sys2Proof.Machine.execSahcost d a s
  | .nodepack d a => Sys2Proof.Machine.execNodepack d a s
  | .osenter d a b => Sys2Proof.Machine.execOsenter d a b s
  | .tsig d a sz => Sys2Proof.Machine.execTsig d a sz s
  | .tcost b a => Sys2Proof.Machine.execTcost b a s
  | .tskip a => Sys2Proof.Machine.execTskip a s
  | .pureBegin a => Sys2Proof.Machine.execPureBegin a s
  | .mkey v => Sys2Proof.Machine.execMkey v s
  | .pureProbe d mod => Sys2Proof.Machine.execPureProbe d mod s
  | .trap code => Sys2Proof.Machine.execTrap code s
  | .brk code => Sys2Proof.Machine.execBrk code s
  | .firmwareLoadDone bootErr build => Sys2Proof.Machine.execFirmwareLoadDone bootErr build s
  | .channelTrainingDone failed rate => Sys2Proof.Machine.execChannelTrainingDone failed rate s
  | .uncorrectableLinkError err => Sys2Proof.Machine.execUncorrectableLinkError err s
  | .thermalTrip sensor => Sys2Proof.Machine.execThermalTrip sensor s
  | .regulatorAlert statusWord => Sys2Proof.Machine.execRegulatorAlert statusWord s
  | .writeTimingRecentre chan => Sys2Proof.Machine.execWriteTimingRecentre chan s
  | .refresh chan perBank => Sys2Proof.Machine.execRefresh chan perBank s
  | .selfRefreshEntry chan => Sys2Proof.Machine.execSelfRefreshEntry chan s
  | .selfRefreshExit chan => Sys2Proof.Machine.execSelfRefreshExit chan s
  | .dramReadComplete pa correctable => Sys2Proof.Machine.execDramReadComplete pa correctable s
  | .dramReadRetry pa correct => Sys2Proof.Machine.execDramReadRetry pa correct s
  | .boundaryScan tck tdi tms trstN => Sys2Proof.Machine.execBoundaryScan tck tdi tms trstN s
  | .apertureRead off n => Sys2Proof.Machine.execApertureRead off n s
  | .apertureWrite off data => Sys2Proof.Machine.execApertureWrite off data s
  | .registerWrite off wide value => Sys2Proof.Machine.execRegisterWrite off wide value s
  | .capWWrite value => Sys2Proof.Machine.execCapWWrite value s
  | .evqHeadWrite value => Sys2Proof.Machine.execEvqHeadWrite value s
  | .evqEnableWrite enable => Sys2Proof.Machine.execEvqEnableWrite enable s
  | .msixTableWrite off value => Sys2Proof.Machine.execMsixTableWrite off value s
  | .enable ctx => Sys2Proof.Machine.execEnable ctx s
  | .disable ctx => Sys2Proof.Machine.execDisable ctx s
  | .halt ctx => Sys2Proof.Machine.execHalt ctx s
  | .resume ctx => Sys2Proof.Machine.execResume ctx s
  | .contextEnded ctx => Sys2Proof.Machine.execContextEnded ctx s
  | .faultReplay ctx id => Sys2Proof.Machine.execFaultReplay ctx id s
  | .faultConvertToTrap ctx id => Sys2Proof.Machine.execFaultConvertToTrap ctx id s
  | .queueStart q => Sys2Proof.Machine.execQueueStart q s
  | .queueStop q => Sys2Proof.Machine.execQueueStop q s
  | .qtailDoorbell q value => Sys2Proof.Machine.execQtailDoorbell q value s
  | .nopPacket q => Sys2Proof.Machine.execNopPacket q s
  | .launch q => Sys2Proof.Machine.execLaunch q s
  | .launchComplete launch => Sys2Proof.Machine.execLaunchComplete launch s
  | .semSignal q => Sys2Proof.Machine.execSemSignal q s
  | .semWait q => Sys2Proof.Machine.execSemWait q s
  | .semWaitPoll q => Sys2Proof.Machine.execSemWaitPoll q s
  | .setState q => Sys2Proof.Machine.execSetState q s
  | .frameMark q => Sys2Proof.Machine.execFrameMark q s
  | .memoFlushPacket q => Sys2Proof.Machine.execMemoFlushPacket q s
  | .traceRecord q => Sys2Proof.Machine.execTraceRecord q s
  | .traceReplay q => Sys2Proof.Machine.execTraceReplay q s
  | .power q => Sys2Proof.Machine.execPower q s
  | .governorPeriod temps nonCoreW => Sys2Proof.Machine.execGovernorPeriod temps nonCoreW s
  | .allowanceUpdate core => Sys2Proof.Machine.execAllowanceUpdate core s
  | .withheldCompletely ctx core => Sys2Proof.Machine.execWithheldCompletely ctx core s
  | .nearThresholdWindow core part => Sys2Proof.Machine.execNearThresholdWindow core part s
  | .nearThresholdExit core part => Sys2Proof.Machine.execNearThresholdExit core part s
  | .teamAdmission launch cores => Sys2Proof.Machine.execTeamAdmission launch cores s
  | .preemption team ctx => Sys2Proof.Machine.execPreemption team ctx s
  | .drainLimitExpiry team => Sys2Proof.Machine.execDrainLimitExpiry team s
  | .teamRestore team core => Sys2Proof.Machine.execTeamRestore team core s
  | .quantumBoundary launch => Sys2Proof.Machine.execQuantumBoundary launch s
  | .launchStall launch => Sys2Proof.Machine.execLaunchStall launch s
  | .spawnBinTimerExpiry core bin => Sys2Proof.Machine.execSpawnBinTimerExpiry core bin s
  | .spawnBinHandoff core bin dest => Sys2Proof.Machine.execSpawnBinHandoff core bin dest s
  | .arenaTimerExpiry launch core => Sys2Proof.Machine.execArenaTimerExpiry launch core s
  | .spawnStall launch => Sys2Proof.Machine.execSpawnStall launch s
  | .roundBoundary launch => Sys2Proof.Machine.execRoundBoundary launch s
  | .faultEntryWalk id => Sys2Proof.Machine.execFaultEntryWalk id s
  | .ladleWake core part => Sys2Proof.Machine.execLadleWake core part s
  | .allocationGrant core part => Sys2Proof.Machine.execAllocationGrant core part s
  | .boundaryTrapEntry group => Sys2Proof.Machine.execBoundaryTrapEntry group s
  | .loadDataLanded group => Sys2Proof.Machine.execLoadDataLanded group s
  | .storePerformed group => Sys2Proof.Machine.execStorePerformed group s
  | .atomicAtHome group => Sys2Proof.Machine.execAtomicAtHome group s
  | .engineLineLanded group => Sys2Proof.Machine.execEngineLineLanded group s
  | .matrixOperationComplete group => Sys2Proof.Machine.execMatrixOperationComplete group s
  | .memoLookupReturn group => Sys2Proof.Machine.execMemoLookupReturn group s
  | .osStall ctx key => Sys2Proof.Machine.execOsStall ctx key s
  | .traversalComplete core entry => Sys2Proof.Machine.execTraversalComplete core entry s
  | .infill team => Sys2Proof.Machine.execInfill team s
  | .osleave => Sys2Proof.Machine.execOsleave s
  | .osleaveDone => Sys2Proof.Machine.execOsleaveDone s
  | .osabort => Sys2Proof.Machine.execOsabort s
  | .pureEnd => Sys2Proof.Machine.execPureEnd s
  | .memoFlush => Sys2Proof.Machine.execMemoFlush s
  | .tret => Sys2Proof.Machine.execTret s
  | .perstNAssert => Sys2Proof.Machine.execPerstNAssert s
  | .perstNDeassert => Sys2Proof.Machine.execPerstNDeassert s
  | .hotReset => Sys2Proof.Machine.execHotReset s
  | .functionLevelReset => Sys2Proof.Machine.execFunctionLevelReset s
  | .powerRemoval => Sys2Proof.Machine.execPowerRemoval s
  | .powerUp => Sys2Proof.Machine.execPowerUp s
  | .linkUp => Sys2Proof.Machine.execLinkUp s
  | .correctableLinkError => Sys2Proof.Machine.execCorrectableLinkError s
  | .configurationRequest => Sys2Proof.Machine.execConfigurationRequest s
  | .d3hotEntry => Sys2Proof.Machine.execD3hotEntry s
  | .d0Return => Sys2Proof.Machine.execD0Return s
  | .acceptChannels => Sys2Proof.Machine.execAcceptChannels s
  | .osAdvanceAtHome => Sys2Proof.Machine.execOsAdvanceAtHome s

end Sys2Proof.Machine
end

