-- ==== Sys2Proof/Machine/Turn.lean ====
section
/-! DEFINITION. One turn of the machine: which split issues or which event happens (log 2), fetch and decode (R310, R311,
R322), boundary traps (R435), withholding (R98), and the state in which a given instruction is the next to issue. -/

namespace Sys2Proof.Machine

/-! ### May a split issue -/

/-- A frame of the group is spilled (R143). -/
def Group.spilled (g : Group) : Bool := g.frames.any (·.spilled)

/-- A group of a deterministic launch issues nothing: it has retired its instructions of the round, or the boundary is under way (R215,
R217). -/
def State.roundOver (s : State) (g : Group) : Bool :=
  (s.descOf g).det && (decide ((s.descOf g).roundQ.toNat ≤ g.roundRetired) || (s.launch g.launch).any (·.inBoundary))

/-- Row k has issued the instruction at its PC, and is blocked in it (R117). An instruction that waits for a unit has not issued. -/
def Group.again (g : Group) (k : Nat) : Bool := (g.row k).wait != .none && (g.row k).wait != .unit

/-- A vector instruction of a group has issued in a partition: it counts in the window, and it had become ready (R101). -/
def Part.vecIssue (p : Part) (now : Nat) (v : Nat × Nat × Nat) : Part :=
  let q := { p with windowIssues := p.windowIssues + 1 }
  if p.vecSeen.contains v then q else { q with vecReady := (p.vecReady ++ [now]).drop (p.vecReady.length + 1 - 8) }

/-- What an issue of row k counts, where it has not merely been held at issue: its cost (R98, R99), its context's issue in this clock (R106), a
vector instruction of its partition (R101), and in deterministic mode the group slot that the issue slot has served (R126). -/
def State.noteIssue (s : State) (g : Group) (k : Nat) (i : Instr) : State :=
  if (s.group g.uid).any fun h => (h.row k).wait == .unit then s
  else
    let s1 := (s.debitIssue g.ctx g.core (g.row k).fmt i).modCtx g.ctx fun c => { c with issuedOn := c.issuedOn ||| (1#96 <<< g.core) }
    let s2 := if slotOf i = 0 then s1.modPart g.core g.part fun p => p.vecIssue (s.core g.core).clocks (g.uid, k, g.retired) else s1
    if (s.descOf g).det then s2.modPart g.core g.part fun p => { p with served := p.served.set (slotOf i) g.slot } else s2

/-! ### The rotation of deterministic mode (R126, R215) -/

/-- A row that has an instruction ready for an issue slot, as the rotation offers it: not blocked, not withheld, its round not over. -/
def State.readyFor (s : State) (slot : Nat) (g : Group) (k : Nat) : Bool :=
  g.readyRows.contains k && (g.dueAt k).isNone && !(g.handler.isNone && g.spilled) && !s.roundOver g
    && (s.instrAt g k).any fun i => slotOf i == slot && !s.withheld g k i

/-- A group's place in the rotation, after the group that the slot served last. -/
def rotation (last slot : Nat) : Nat := (slot + 2 * Config.slotsPerPartition - 1 - last) % Config.slotsPerPartition

/-- In deterministic mode an issue slot takes the first group in the rotation with a row ready for it, and of that group the lowest such row
(R126, R215). -/
def State.rotates (s : State) (g : Group) (k : Nat) (i : Instr) : Bool :=
  let p := s.partOf g.core g.part
  let last := p.served.getD (slotOf i) 0
  !(s.descOf g).det || (!((List.range k).any fun j => s.readyFor (slotOf i) g j)
    && !((s.partGroups g.core g.part).any fun h => (s.descOf h).det && decide (rotation last h.slot < rotation last g.slot)
          && (List.range 4).any fun j => s.readyFor (slotOf i) h j))

/-! ### Boundary traps -/

/-- The base word at row k's PC, for a trap record (R436). -/
def State.insnAt (s : State) (g : Group) (k : Nat) : Word :=
  match s.fetchWord g (g.row k).pc.toNat with
  | .word w => w
  | _ => 0

/-- The PAGE_FAULT of a parked access that the host has converted (R174, R436, R440). -/
def State.pageFault (s : State) (g : Group) (p : Parked) (agent : Nat) : Pending :=
  { cause := 0x33, detail := BitVec.ofNat 32 (p.kind + 256 * agent), va := p.va, lanes := p.lanes, row := none,
    insn := if p.fetch then 0 else s.insnAt g p.row, elected := 0 }

/-- A parked group at its turn: PAGE_FAULT where the host has said so; an access that found no free fault entry asks again
(R174). -/
def State.parkedTurn (s : State) (g : Group) (p : Parked) : State :=
  if p.convert then (s.modGroup g.uid fun g => { g with parked := none }).raiseTrap { g with parked := none } p.row (s.pageFault g p p.agent)
  else if p.entry.isSome then s
  else s.parkGroup g p.row p.kind p.agent p.write p.va p.lanes p.fetch

/-! ### Issue -/

/-- Change the state that an outcome goes on with. -/
def mapNext (o : Host.Outcome State Fault Refusal) (f : State → State) : Host.Outcome State Fault Refusal :=
  match o with
  | .next s => .next (f s)
  | .fault e => .fault e
  | .refused e => .refused e

/-- A release or acquire of the group that has not completed keeps a memory-slot instruction from issuing (R385). -/
def State.fenced (s : State) (g : Group) (i : Instr) : Bool := slotOf i == 1 && (s.group g.uid).any (·.fence.isSome)

/-- Row k issues the instruction that its words decode to; a word that does not decode raises ILLEGAL (R322). -/
def State.issueWords (s : State) (g : Group) (k : Nat) (w0 w1 : Word) : Host.Outcome State Fault Refusal :=
  match decode w0 w1 with
  | .error _ => .next (s.trapRow g.uid k (trapOf 0x01) w0)
  | .ok i =>
      let t := { s with sched := { s.sched with cur := some (g.uid, k) } }
      if g.again k then exec i t
      else if s.fenced g i then .next (s.passFence g.uid)
      else if s.withheld g k i || !s.rotates g k i then .next s
      else mapNext (exec i t) fun r => r.noteIssue g k i

/-- Row k fetches and issues (R310, R311); a fetch that waits for the host or for a retried read issues nothing yet (R35, R39). -/
def State.fetchIssue (s : State) (g : Group) (k : Nat) : Host.Outcome State Fault Refusal :=
  if s.ownHeld g.ctx (g.row k).pc.toNat 8 then .next s
  else match s.fetch g (g.row k).pc with
  | .fault va kind => .next (s.parkGroup g k kind 3 false va 0 true)
  | .err va => .next ((s.noteOwnError g.ctx va).trapRow g.uid k (trapAt 0x35 va 0) 0)
  | .words w0 w1 => (s.noteFetched g (g.row k).pc (w0.getLsbD 30)).issueWords g k w0 w1

/-- A turn of row k of a group: nothing happens where it may not issue. -/
def State.issueTurn (s : State) (uid k : Nat) : Host.Outcome State Fault Refusal :=
  match s.group uid with
  | none => .next s
  | some g =>
      if !s.running || !s.onCore g || !g.canIssue k then .next s
      else match g.parked with
        | some p => .next (s.parkedTurn g p)
        | none =>
            match g.dueAt k with
            | some p => .next (s.raiseTrap g k p)
            | none => if (g.handler.isNone && g.spilled) || s.roundOver g then .next s else s.fetchIssue g k

/-- An error arises in an SRAM word, where it has none: the next access to it finds it. One of a structure whose contents the state does not hold is
recorded as it is found (R68; log 92). -/
def State.sramTurn (s : State) (e : SramErr) : State :=
  if !s.awake || (s.sramAt e.at_).isSome then s
  else match e.at_ with
    | .other _ _ _ _ _ => if e.again then s.lastingError (s.sramInput e.at_ none) else s.transientError (s.sramInput e.at_ none)
    | _ => { s with sram := e :: s.sram }

/-- One turn: a split's, or a step of the part or of the host. An instruction with an encoding issues by its split alone (R310, R311). -/
def State.turn (s : State) (t : Turn) : Host.Outcome State Fault Refusal :=
  match t with
  | .issue uid k => s.issueTurn uid k
  | .event i => if i.fields.isSome then .next s else exec i s
  | .hostRead off n => .next (s.hostRead off n)
  | .hostAsk r => .next (s.hostAsk r)
  | .sramError e => .next (s.sramTurn e)

/-! ### Turns that the model finds for itself where none waits -/

/-- The event that takes an unfinished operation of a group further. -/
def Op.event (g : Group) (o : Op) : Instr :=
  if o.deferred then .roundBoundary g.launch
  else match o.body with
    | .load _ | .reserve _ _ | .trace _ => .loadDataLanded g.uid
    | .store _ _ | .clean _ _ _ | .unmap _ | .map _ _ _ _ | .expect _ _ | .bar _ => .storePerformed g.uid
    | .atomic _ _ _ _ => .atomicAtHome g.uid
    | .stream _ => .matrixOperationComplete g.uid
    | .engine _ _ => .engineLineLanded g.uid

/-- The turns of one group. -/
def Group.turns (g : Group) : List Turn :=
  ((List.range 4).filter g.canIssue).map (Turn.issue g.uid)
    ++ (if g.fence.isSome then [Turn.event (.storePerformed g.uid)] else [])
    ++ (if g.pending.isEmpty then [] else [Turn.event (.boundaryTrapEntry g.uid)])
    ++ (if g.rows.any fun r => r.wait == .probe then [Turn.event (.memoLookupReturn g.uid)] else [])
    ++ ((g.ops.find? fun o => !o.perf).map fun o => Turn.event (o.event g)).toList

/-- The turns of a partition's allocator and Ladle. -/
def allocTurns (g : Group) : List Turn :=
  if g.alloc.isSome || g.spilled then
    [Turn.event (.allocationGrant (BitVec.ofNat 7 g.core) (BitVec.ofNat 2 g.part)), Turn.event (.ladleWake (BitVec.ofNat 7 g.core) (BitVec.ofNat 2 g.part))]
  else []

/-- The lowest core with room for a group of a launch's records. -/
def State.roomFor (s : State) (launch : Nat) : Option Nat :=
  match s.launch launch with
  | none => none
  | some l => (List.range Config.cores).find? fun k => s.hasRoom k [l.ld.base] 0 0 0 && !s.drains launch k

/-- The turns of one core: its clock, its partitions' windows, its rays, its bins (R97, R101, R130, R295). -/
def State.coreTurns (s : State) (k : Nat) (c : Core) : List Turn :=
  let core : BitVec 7 := BitVec.ofNat 7 k
  (if s.clocked k then Turn.event (.allowanceUpdate core) :: (List.range 4).map (fun p => Turn.event (.nearThresholdWindow core (BitVec.ofNat 2 p))) else [])
    ++ (c.rays.map fun r => Turn.event (.traversalComplete core (BitVec.ofNat 11 r.entry)))
    ++ (c.bins.zipIdx.flatMap fun b => Turn.event (.spawnBinTimerExpiry core (BitVec.ofNat 4 b.2))
          :: (((s.roomFor b.1.launch).map fun d => Turn.event (.spawnBinHandoff core (BitVec.ofNat 4 b.2) (BitVec.ofNat 7 d))).toList))

/-- The event of a packet's type (R57). -/
def packetOf (q : BitVec 6) : Nat → Instr
  | 1 => .launch q
  | 2 => .semSignal q
  | 3 => .semWait q
  | 4 => .setState q
  | 5 => .frameMark q
  | 6 => .memoFlushPacket q
  | 7 => .traceRecord q
  | 8 => .traceReplay q
  | 9 => .power q
  | _ => .nopPacket q

/-- The turns of one queue: the packet at its head, and a SEM_WAIT that waits (R58, R60). -/
def State.queueTurns (s : State) (q : BitVec 6) : List Turn :=
  (match s.headOf q with
   | .empty => []
   | .halt _ _ => [Turn.event (.nopPacket q)]
   | .packet h => [Turn.event (packetOf q (hdrType h))])
    ++ (if (s.queue q).sem.isSome then [Turn.event (.semWaitPoll q)] else [])

/-- The first rectangle on which the launch's next cluster has room. -/
def State.admissionCores (s : State) (l : Launch) : Option (List Nat) :=
  ([l.ld.clPref, l.ld.clFall] ++ (l.returned.head?.map (·.size)).toList).findSome? fun n => (s.nextCluster l n).bind fun c =>
    (rectangles n).find? fun r => s.clusterFits l c r && s.preferred l c r

/-- The turns of one launch. -/
def State.launchTurns (s : State) (l : Launch) : List Turn :=
  ((s.admissionCores l).map fun cs => Turn.event (.teamAdmission l.uid cs)).toList
    ++ (if s.launchDone l then [Turn.event (.launchComplete l.uid)] else [])
    ++ (if l.desc.det then [Turn.event (.roundBoundary l.uid)] else [])
    ++ (if l.waitingEntries.isEmpty then [] else ((s.roomFor l.uid).map fun k => Turn.event (.arenaTimerExpiry l.uid (BitVec.ofNat 7 k))).toList)
    ++ [Turn.event (.launchStall l.uid), Turn.event (.spawnStall l.uid)]

/-- The turns of one team: its fill, its drain limit, its restore, its pre-emption. -/
def State.teamTurns (s : State) (t : Team) : List Turn :=
  match t.st with
  | .exited => [Turn.event (.infill t.uid)]
  | .draining _ | .discarding => [Turn.event (.drainLimitExpiry t.uid)]
  | .saved _ _ => (((List.range Config.cores).find? fun k => (s.restorePlaces t k).isSome).map fun k => Turn.event (.teamRestore t.uid k)).toList
  | .resident => ((List.range 32).find? fun c => s.mayPreempt c t).toList.map fun c => Turn.event (.preemption t.uid c)

/-- Every turn that the model may take by itself. -/
def State.ownTurns (s : State) : List Turn :=
  (if s.boot.asks.isEmpty then [] else [Turn.event .configurationRequest])
    ++ s.groups.flatMap Group.turns ++ (s.groups.flatMap allocTurns).eraseDups
    ++ (s.cores.zipIdx.flatMap fun ck => s.coreTurns ck.2 ck.1)
    ++ (if s.slices.osMsgs.isEmpty then [] else [Turn.event .osAdvanceAtHome])
    ++ ((List.range 64).flatMap fun q => s.queueTurns (BitVec.ofNat 6 q))
    ++ s.launches.flatMap s.launchTurns ++ s.teams.flatMap s.teamTurns
    ++ ((s.fcp.faults.filter fun e => !e.posted).map fun e => Turn.event (.faultEntryWalk e.id))
    ++ (s.ctxs.zipIdx.filterMap fun ck => if ck.1.st = .ending then some (Turn.event (.contextEnded (BitVec.ofNat 5 ck.2))) else none)

/-- Count a step, so that the free values of no two steps are the same (log 2). -/
def State.ticked (s : State) : State := { s with sched := { s.sched with tick := s.sched.tick + 1 } }

/-- One step of the machine: the first turn of the agenda; where it is empty, one of the model's own turns, in rotation; where
there is none, time passes. -/
def State.advance (s : State) : Host.Outcome State Fault Refusal :=
  match s.sched.agenda with
  | t :: r => State.turn { s.ticked with sched := { s.ticked.sched with agenda := r } } t
  | [] =>
      match s.ownTurns[s.sched.tick % s.ownTurns.length]? with
      | some t => s.ticked.turn t
      | none => .next s.ticked

/-! ### A given instruction issues next -/

/-- Store n bytes of a number in DRAM (a loader's writes). -/
def Memory.load (m : Memory) (a v : Nat) : Nat → Memory
  | 0 => m
  | n + 1 => Memory.load (m.write a (BitVec.ofNat 8 v)) (a + 1) (v / 256) n

/-- The code address that the placed instruction has. -/
def placedPc : Pc := 0x10000#49

/-- A launch descriptor of one group of 96 lanes with one base block. -/
def LDesc.single : LDesc :=
  { addr := 0, entry := placedPc, entryCons := 0, gridX := 1, gridY := 1, gridZ := 1, groups := 1, teamX := 96, teamY := 1, teamZ := 1,
    accBlk := 0, slots := 0, stashBlk := 0, frameMax := 16, prodGroups := 0, roles := false, baseCons := 0, base := 8, drainLog2 := 0,
    quantumLog2 := 0, sched := 0, clFall := 1, clPref := 1, digest := false, sorted := false, treplay := false, trec := false,
    pclass := 3, legacy := false, idemp := false, digestAddr := 0, coverEn := false, recon := 0, lattice := 0, cover := 0, ctrlRec := 0,
    outSurf := 0, args := 0, hints := [], arenaBase := 0, arenaSize := 0, shaderTable := 0, codeDesc := 0 }

/-- The context of the placed instruction: tables at 0x1000, a handler at 0x20000, the other fields as small as R50 allows. -/
def placedDesc : Desc := { Desc.reset with transRoot := 0x1000, trapEntry := 0x20000, roundQ := 16 }

/-- The placed group. -/
def placedGroup : Group :=
  Group.start { uid := 2, team := 1, launch := 0, ctx := 0, gid := 0, core := 0, part := 0, slot := 0, clock := 0, entry := placedPc,
                args := 0, blocks := List.range 8, mask := BitVec.allOnes 96, pclass := 3 }

/-- A root table at 0x1000, a level-1 table at 0x2000 whose entry 0 maps the first GiB onto itself (V, LEAF, W, X, COHERENT), and
the two words of the instruction at its address. -/
def placedMemory (m : Memory) (w : Nat) : Memory :=
  ((m.load 0x1000 0x2001 8).load 0x2000 0x2F 8).load placedPc.toNat w 8

/-- The state with an instruction placed so that the next step fetches and issues it: the part trained, one context active, one
launch with one team of one group resident, its turn first. -/
def State.placed (s : State) (w : Nat) : State :=
  let l := Launch.start 0 0 0 0 false LDesc.single placedDesc none
  { s with
    boot := { s.boot with phase := .trained, linkUp := true }
    dev := { s.dev with ready := true }
    ctxs := s.ctxs.modify 0 fun c => { c with st := .active, desc := placedDesc }
    dram := { s.dram with mem := placedMemory s.dram.mem w, bad := [] }
    slices := { s.slices with tlb := [], dir := [] }
    cores := s.cores.modify 0 fun c => { c with allowance := maxAllowance, icache := [], parts := c.parts.map fun p => { p with tlb := [] } }
    launches := [{ l with nextTeam := 1 }]
    teams := [{ Team.start 1 l 0 1 0 0 0 with index := some 0, clid := 0 }]
    groups := [placedGroup]
    sched := { s.sched with agenda := [Turn.issue 2 0], cur := none, nextUid := 3 } }

end Sys2Proof.Machine
end

