-- ==== Sys2Proof/Machine/Step.lean ====
section
/-! DEFINITION. One step of the machine, and where an instruction stands that the next step is to run. -/

namespace Sys2Proof.Machine

/-- One step. -/
def step (s : State) : Host.Outcome State Fault Refusal := s.advance

/-- The state with an instruction of nbits bits, w, placed where the next step fetches and runs it: its bits above nbits are zero,
up to the two words of the longest instruction. -/
def State.withFetchWord (s : State) (nbits w : Nat) : State := s.placed (w % 2 ^ min nbits 64)

end Sys2Proof.Machine
end

