-- ==== Sys2Proof/Safety.lean ====
section
/-! DEFINITION. What a safe step is, and the words in which claims about the model are made: when an instruction issues past
its checks, how it ends, what an instruction that changes its own group leaves as it was. -/

namespace Sys2Proof.Machine

/-- A step that does not stop. -/
def Safe (s : State) : Prop := ∃ t, step s = .next t

/-- The canonical form of the memories of a state: DRAM and the host's memory. -/
def State.memOk (s : State) : Prop := s.dram.mem.wf = true ∧ swf unlistedByte s.host.mem = true

/-! ### Bytes -/

/-- One byte of the host's memory, by bus address. -/
def State.hostByte (s : State) (a : Nat) : Byte := sget unlistedByte s.host.mem a
/-- One byte of a team's stash; a team that does not exist has none. -/
def State.stashByte (s : State) (team off : Nat) : Option Byte := (s.team team).map fun t => sget 0 t.stash off

/-- Every byte of DRAM, of the host's memory and of every stash reads as before. -/
def SameMemory (s t : State) : Prop :=
  (∀ a, t.dramByte a = s.dramByte a) ∧ (∀ a, t.hostByte a = s.hostByte a) ∧ ∀ u a, t.stashByte u a = s.stashByte u a

/-! ### Issue -/

/-- Row k of group g holds the turn, and the instruction passes the checks of R322. -/
def Issues (s : State) (g : Group) (k : Nat) (i : Instr) : Prop := s.issuer = some (g, k) ∧ s.precheck g k i = none

/-- The instruction retires from a state s' that its own effect has made, and its row goes on at the next instruction. -/
def Completes (i : Instr) (s s' : State) (g : Group) (k : Nat) : Prop :=
  exec i s = .next (s'.finish g k i (some (g.nextPc k i)) true)

/-- The instruction retires from a state s', and its row goes on at an address. -/
def JumpsTo (i : Instr) (s s' : State) (g : Group) (k : Nat) (pc : Pc) : Prop :=
  exec i s = .next (s'.finish g k i (some pc) true)

/-- The instruction retires from a state s' in which it has set its rows' PCs itself. -/
def Places (i : Instr) (s s' : State) (g : Group) (k : Nat) : Prop := exec i s = .next (s'.finish g k i none true)

/-- The instruction raises a trap and has no other effect. -/
def Traps (i : Instr) (s : State) (g : Group) (k : Nat) (t : TrapInfo) : Prop :=
  exec i s = .next (s.trapRow g.uid k { t with elected := electedLane g k i } i.insn)

/-- The instruction is blocked: its row waits, and executes it again. -/
def Blocks (i : Instr) (s s' : State) (g : Group) (k : Nat) (w : Wait) : Prop :=
  exec i s = .next (s'.modGroup g.uid fun h => h.modRow k fun r => { r with wait := w })

/-- A fault of the instruction's access parks its group. -/
def Parks (i : Instr) (s : State) (g : Group) (k kind agent va : Nat) (lanes : Mask) : Prop :=
  exec i s = .next (s.parkGroup g k kind agent (i.writesAs agent) va lanes false)

/-! ### Frames -/

/-- Row r goes on as some live row of the group: at its PC, with its format and parent, with all its lanes. Rows may have fused
(R117). -/
def Group.carries (h : Group) (r : Row) : Prop :=
  ∃ j, (h.row j).live = true ∧ (h.row j).pc = r.pc ∧ (h.row j).fmt = r.fmt ∧ (h.row j).parent = r.parent
    ∧ r.own &&& (h.row j).own = r.own ∧ r.mask &&& (h.row j).mask = r.mask

/-- Nothing but one group has changed, apart from the launches' counts of what has retired. -/
def Quiet (s t : State) (uid : Nat) : Prop :=
  t.boot = s.boot ∧ t.dev = s.dev ∧ t.host = s.host ∧ t.ctxs = s.ctxs ∧ t.queues = s.queues ∧ t.fcp = s.fcp ∧ t.gov = s.gov
    ∧ t.dram = s.dram ∧ t.sram = s.sram ∧ t.slices = s.slices ∧ t.cores = s.cores ∧ t.teams = s.teams ∧ t.sched = s.sched
    ∧ (∀ u l, s.launch u = some l → ∃ n x y, t.launch u = some { l with retired := n, stallPosted := x, spawnStall := y })
    ∧ ∀ u, u ≠ uid → t.group u = s.group u

/-- Operations in flight without the marks that a write of their registers leaves. -/
def unmarked (ops : List Op) : List Op :=
  ops.map fun o => { o with late := o.late.map fun w => { w with contested := false, prev := 0 } }

/-- Nothing of the group has changed but its rows, scalar and vector registers, the marks of its late writes, and the counts that
retirement keeps: its frames, windows, families, serial records, loops, special registers, operations in flight and sections
are as they were. -/
def OnlyRegisters (g h : Group) : Prop :=
  h = { g with rows := h.rows, sregs := h.sregs, vregs := h.vregs, handler := h.handler, ops := h.ops, retired := h.retired,
               roundRetired := h.roundRetired, spin := h.spin, region := h.region }
    ∧ unmarked h.ops = unmarked g.ops
    ∧ h.handler.map (fun x => { x with frame := [] }) = g.handler.map (fun x => { x with frame := [] })

/-- The group has retired the instruction: its count, and its row, which is now r. -/
def RetiredTo (s t : State) (g h : Group) (k : Nat) (r : Row) : Prop :=
  t.group g.uid = some h ∧ h.retired = g.retired + 1 ∧ h.carries r ∧ (g.single = true → h.row k = r) ∧ Quiet s t g.uid

/-- Row k of g at the next instruction. -/
def Group.rowAfter (g : Group) (k : Nat) (i : Instr) : Row := { g.row k with pc := g.nextPc k i, wait := .none }

/-- What an instruction that writes v to operand sd alone leaves: a mask word (R115), or an absolute register with STATUS kept to its
six bits (R331); where a late write to it is outstanding, the value or that of a late write that has landed (R160). -/
def ScalarResult (s t : State) (g : Group) (k : Nat) (i : Instr) (d : Nat) (v : Word) : Prop :=
  ∃ h, RetiredTo s t g h k { g.rowAfter k i with
        mask := if d < 3 then setMaskWord (g.row k).mask d v &&& (g.row k).own else (g.row k).mask }
    ∧ OnlyRegisters g h
    ∧ (∀ l, h.vraw l = g.vraw l)
    ∧ (∀ n, d < 3 ∨ n ≠ g.sreg d → h.sraw n = g.sraw n)
    ∧ (3 ≤ d → let w := if g.sreg d = 6 then v &&& statusMask else v
        h.sraw (g.sreg d) = w ∨ ∃ x ∈ g.lateTo false (g.sreg d) 0, x.landed = true ∧ h.sraw (g.sreg d) = x.value)
    ∧ (3 ≤ d → g.isPending false (g.sreg d) = false → h.sraw (g.sreg d) = if g.sreg d = 6 then v &&& statusMask else v)

/-- What an instruction that writes f to the lanes of a mask of operand vd, and ORs flags into STATUS, leaves (R111, R160, R230). -/
def VectorResult (s t : State) (g : Group) (k : Nat) (i : Instr) (d : Nat) (mask : Mask) (f : Nat → Word) (flags : BitVec 3) : Prop :=
  ∃ h, RetiredTo s t g h k (g.rowAfter k i)
    ∧ OnlyRegisters g h
    ∧ (∀ l, l ≠ g.vreg d → h.vraw l = g.vraw l)
    ∧ (∀ n, n ≠ 6 → h.sraw n = g.sraw n)
    ∧ h.sraw 6 = g.sraw 6 ||| flags.setWidth 32
    ∧ (∀ l, l < 96 → mask.getLsbD l = false → laneOf (h.vraw (g.vreg d)) l = laneOf (g.vraw (g.vreg d)) l)
    ∧ (∀ l, l < 96 → mask.getLsbD l = true → laneOf (h.vraw (g.vreg d)) l = f l
        ∨ ∃ x ∈ g.lateTo true (g.vreg d) l, x.landed = true ∧ laneOf (h.vraw (g.vreg d)) l = x.value)
    ∧ (g.isPending true (g.vreg d) = false → ∀ l, l < 96 → mask.getLsbD l = true → laneOf (h.vraw (g.vreg d)) l = f l)

/-- What an instruction without a result leaves: its row alone, which is r. -/
def RowResult (s t : State) (g : Group) (k : Nat) (r : Row) : Prop :=
  ∃ h, RetiredTo s t g h k r ∧ OnlyRegisters g h ∧ (∀ l, h.vraw l = g.vraw l) ∧ ∀ n, h.sraw n = g.sraw n

end Sys2Proof.Machine
end

