-- ==== Sys2Proof/Certificates/Slice0/Obligations.lean ====
section
/-! DEFINITION. The statements about the model, for the provers. What they say in common stands in Sys2Proof.Claims and in Safety.lean. -/

open Sys2Proof Sys2Proof.Machine

/-- O1. Decoding the encoded words of any well-formed instruction gives it back. -/
def Obligations.DecodeInvertsEncode : Prop :=
  ∀ (i : Instr) (w : Word) (rest : List Word) (next : Word), i.wf = true → encode i = w :: rest →
    decode w (rest.headD next) = .ok i

/-- O2. Words that decode are well formed and are exactly the words the encoder writes. -/
def Obligations.EncodeInvertsDecode : Prop :=
  ∀ (w0 w1 : Word) (i : Instr), decode w0 w1 = .ok i →
    i.wf = true ∧ encode i = if w0.getLsbD 30 then [w0, w1] else [w0]

/-- O3. Words that the spec writes out decode to the instructions it names, or are refused. -/
def Obligations.WordsOfTheSpecDecode : Prop :=
  decode 0x00000000 0 = .error .reservedPoint ∧ decode 0x3FE00000 0 = .error .reservedPoint
  ∧ decode 0x00200000 0xFFFFFFFF = .ok .nop ∧ decode 0x00200001 0 = .error .nonzeroField
  ∧ decode 0x4040050A 0 = .error .badShape
  ∧ decode 0x8041050A 0 = .ok (.add 10 10 (.imm7 4)) ∧ decode 0x805FC50A 0 = .ok (.add 10 10 (.imm7 127))
  ∧ decode 0xC05FC50A 0 = .ok (.add 10 10 (.imm32 127)) ∧ decode 0xC05E050A 0x002468AC = .ok (.add 10 10 (.imm32 0x12345678))
  ∧ decode 0x8801C286 0 = .ok (.vaddInt ⟨true, 7, 5, 6, none⟩)
  ∧ decode 0xC801C286 0x00000088 = .ok (.vaddInt ⟨true, 7, 5, 6, some ⟨0, 0, 0, 0x088⟩⟩)
  ∧ decode 0xC801C286 0x00061488 = .error .badValue ∧ decode 0x4801C286 0x00061C88 = .error .badValue
  ∧ decode 0x4801C286 0x00061488 = .ok (.vaddInt ⟨false, 7, 5, 6, some ⟨0, 0, 0x185, 0x088⟩⟩)
  ∧ decode 0x4801C286 0x10061488 = .ok (.vaddInt ⟨false, 7, 5, 6, some ⟨1, 0, 0x185, 0x088⟩⟩)
  ∧ decode 0x4801C286 0x40061488 = .error .badValue
  ∧ decode 0x2A000003 0 = .ok (.rel 3) ∧ decode 0x2A400001 0 = .ok (.phase 1)
  ∧ decode 0x300FFFC0 0 = .ok (.wait 15 15 63 0) ∧ decode 0x38800000 0 = .ok .mfence
  ∧ decode 0x7862C50C 0x0BF00000 = .ok (.mma 12 10 11 0xBF)

namespace Sys2Proof.Claims

/-- The points of the map of R321, from its table: first and last point of each range. -/
def definedPoints : List (Nat × Nat) :=
  [(0x001, 0x01D), (0x020, 0x036), (0x040, 0x058), (0x080, 0x089), (0x0C0, 0x0CD), (0x100, 0x107), (0x140, 0x152), (0x180, 0x18B),
   (0x1C0, 0x1CA), (0x1D0, 0x1DA), (0x1E0, 0x1E7), (0x1F0, 0x1F2)]

end Sys2Proof.Claims

/-- O4. Exactly the points outside the map are refused as reserved, and bit 30 of a base word gives the size of its instruction. -/
def Obligations.ReservedPointsAndSizes : Prop :=
  (∀ w0 w1 : Word, decode w0 w1 = .error .reservedPoint ↔
    ¬ ∃ p ∈ Sys2Proof.Claims.definedPoints, p.1 ≤ (w0.extractLsb' 21 9).toNat ∧ (w0.extractLsb' 21 9).toNat ≤ p.2)
  ∧ ∀ (w0 w1 : Word) (i : Instr), decode w0 w1 = .ok i →
    i.size = (if w0.getLsbD 30 then 8 else 4) ∧ (w0.getLsbD 30 = false → ∀ w, decode w0 w = .ok i)

/-- O5. A step runs exec of the instruction that the issuing split's words decode to, and counts the issue; an instruction in which the split is
blocked is executed again and counts no more; one that the bank withholds, or whose turn in a deterministic rotation has not come, does not run. A
step of an event runs exec of it. -/
def Obligations.StepRunsDecodedInstruction : Prop :=
  (
  ∀ (s : State) (r : List Turn) (g : Group) (k : Nat) (w0 w1 : Word) (i : Instr),
    let s1 : State := { s.ticked with sched := { s.ticked.sched with agenda := r } }
    s.sched.agenda = .issue g.uid k :: r → s.group g.uid = some g → s1.running = true → s1.onCore g = true → g.canIssue k = true →
    g.parked = none → g.dueAt k = none → (g.handler.isNone && g.spilled) = false → s1.roundOver g = false →
    s1.ownHeld g.ctx (g.row k).pc.toNat 8 = false → s1.fetch g (g.row k).pc = .words w0 w1 → decode w0 w1 = .ok i →
    let s2 := s1.noteFetched g (g.row k).pc (w0.getLsbD 30)
    let s3 : State := { s2 with sched := { s2.sched with cur := some (g.uid, k) } }
    (g.again k = true → step s = exec i s3)
    ∧ (g.again k = false → s2.fenced g i = false →
        (s2.withheld g k i = false → s2.rotates g k i = true → ∀ t, exec i s3 = .next t → step s = .next (t.noteIssue g k i))
        ∧ (s2.withheld g k i = true ∨ s2.rotates g k i = false → step s = .next s2)))
  ∧ ∀ (s : State) (r : List Turn) (i : Instr), s.sched.agenda = .event i :: r → i.fields = none →
    step s = exec i { s.ticked with sched := { s.ticked.sched with agenda := r } }

/-- O6. No step of the machine stops: every step from every state answers a next state. -/
def Obligations.EveryStepAnswers : Prop :=
  (∀ s : State, Safe s)
  ∧ (∀ (i : Instr) (s : State), i.fields.isSome = true → s.issuer.isSome = true → ∃ t, exec i s = .next t)
  ∧ (∀ (i : Instr) (s : State), i.fields = none → ∃ t, exec i s = .next t)
  ∧ ∀ (i : Instr) (s : State), i.fields.isSome = true → s.issuer = none → exec i s = .fault .noIssuer

/-- O7. Every step, and every instruction and event, keeps both memories in their canonical form. The canonical form is the
model's choice (log 1). -/
def Obligations.EveryStepKeepsMemoryForm : Prop :=
  (∀ s t : State, s.memOk → step s = .next t → t.memOk)
  ∧ ∀ (i : Instr) (s t : State), s.memOk → exec i s = .next t → t.memOk

/-- O8. A failed check of issue raises its trap and nothing else, ILLEGAL before FRAME_RANGE before LOAD_HAZARD. -/
def Obligations.ChecksComeFirst : Prop :=
  (∀ (i : Instr) (s : State) (g : Group) (k : Nat), i.fields.isSome = true → s.issuer = some (g, k) →
    (∀ t, s.precheck g k i = some t → Traps i s g k t)
    ∧ (i.wf = false ∨ i.legalNow s g k = false → s.precheck g k i = some (trapOf 0x01))
    ∧ (i.wf = true → i.legalNow s g k = true → (∃ n ∈ i.uses.vr ++ i.uses.vw, g.vregOk (g.vreg n) = false) →
        s.precheck g k i = some (trapOf 0x20))
    ∧ (i.wf = true → i.legalNow s g k = true → (∀ n ∈ i.uses.vr ++ i.uses.vw, g.vregOk (g.vreg n) = true) →
        (s.descOf g).hazardCheck = true → (∃ n ∈ i.uses.vr ++ i.uses.vw, g.isPending true (g.vreg n) = true) →
        ∃ n ∈ i.uses.vr ++ i.uses.vw, g.isPending true (g.vreg n) = true ∧ s.precheck g k i = some (trapNum 0x27 n)))
  ∧ ∀ (s : State) (r : List Turn) (g : Group) (k : Nat) (w0 w1 : Word) (e : Reject),
    let s1 : State := { s.ticked with sched := { s.ticked.sched with agenda := r } }
    s.sched.agenda = .issue g.uid k :: r → s.group g.uid = some g → s1.running = true → s1.onCore g = true → g.canIssue k = true →
    g.parked = none → g.dueAt k = none → (g.handler.isNone && g.spilled) = false → s1.roundOver g = false →
    s1.ownHeld g.ctx (g.row k).pc.toNat 8 = false → s1.fetch g (g.row k).pc = .words w0 w1 → decode w0 w1 = .error e →
    step s = .next ((s1.noteFetched g (g.row k).pc (w0.getLsbD 30)).trapRow g.uid k (trapOf 0x01) w0)

namespace Sys2Proof.Claims

/-- Wrap32 of an exact value (R13). -/
def wrap32 (x : Int) : Word := BitVec.ofInt 32 x

/-- The two-source instructions of R334 that stand outside R335, and their results, from its table. -/
def scalarTable : List ((R7 → R7 → SOp → Instr) × (Word → Word → Word)) :=
  [(.add, fun a b => wrap32 (a.toNat + b.toNat)), (.sub, fun a b => wrap32 (a.toNat - b.toNat)),
   (.mul, fun a b => wrap32 (a.toNat * b.toNat)), (.mulh, fun a b => wrap32 (a.toInt * b.toInt / 2 ^ 32)),
   (.mulhu, fun a b => wrap32 ((a.toNat : Int) * b.toNat / 2 ^ 32)),
   (.and, fun a b => a &&& b), (.or, fun a b => a ||| b), (.xor, fun a b => a ^^^ b),
   (.shl, fun a b => wrap32 ((a.toNat : Int) * 2 ^ (b.toNat % 32))), (.shr, fun a b => wrap32 ((a.toNat : Int) / 2 ^ (b.toNat % 32))),
   (.sar, fun a b => wrap32 (a.toInt / 2 ^ (b.toNat % 32))),
   (.min, fun a b => wrap32 (min a.toInt b.toInt)), (.max, fun a b => wrap32 (max a.toInt b.toInt)),
   (.minu, fun a b => wrap32 (min (a.toNat : Int) b.toNat)), (.maxu, fun a b => wrap32 (max (a.toNat : Int) b.toNat)),
   (.seq, fun a b => if a = b then 1 else 0), (.sne, fun a b => if a = b then 0 else 1),
   (.slt, fun a b => if a.toInt < b.toInt then 1 else 0), (.sltu, fun a b => if a.toNat < b.toNat then 1 else 0)]

end Sys2Proof.Claims

/-- O9. ADD to SLTU complete, write the value of R334 to their scalar destination, and change nothing else. -/
def Obligations.ScalarArithmeticResults : Prop :=
  ∀ p ∈ Sys2Proof.Claims.scalarTable, ∀ (s : State) (g : Group) (k : Nat) (d a : R7) (b : SOp), Issues s g k (p.1 d a b) →
    ∃ t, exec (p.1 d a b) s = .next t
      ∧ ScalarResult s t g k (p.1 d a b) d.toNat (p.2 (g.readS s k a.toNat) (g.sop s k b)) ∧ SameMemory s t

namespace Sys2Proof.Claims

/-- The four divisions and their results, from the pseudocode of R335. -/
def divisionTable : List ((R7 → R7 → SOp → Instr) × (Word → Word → Word)) :=
  [(.div, fun a b => if b = 0 then 0xFFFFFFFF else if a.toInt = -2 ^ 31 ∧ b.toInt = -1 then 0x80000000
      else wrap32 (a.toInt.tdiv b.toInt)),
   (.divu, fun a b => if b = 0 then 0xFFFFFFFF else wrap32 ((a.toNat / b.toNat : Nat) : Int)),
   (.rem, fun a b => if b = 0 then a else if a.toInt = -2 ^ 31 ∧ b.toInt = -1 then 0
      else wrap32 (a.toInt - b.toInt * a.toInt.tdiv b.toInt)),
   (.remu, fun a b => if b = 0 then a else wrap32 ((a.toNat % b.toNat : Nat) : Int))]

end Sys2Proof.Claims

/-- O10. DIV, DIVU, REM and REMU complete with the results of R335, division by zero and overflow among them. -/
def Obligations.DivisionResults : Prop :=
  (Sys2Proof.Claims.divisionTable.map fun p => [p.2 7 0xFFFFFFFE, p.2 0xFFFFFFF9 2, p.2 7 0, p.2 0x80000000 0xFFFFFFFF])
    = [[0xFFFFFFFD, 0xFFFFFFFD, 0xFFFFFFFF, 0x80000000], [0, 0x7FFFFFFC, 0xFFFFFFFF, 0],
       [1, 0xFFFFFFFF, 7, 0], [7, 1, 7, 0x80000000]]
  ∧ ∀ p ∈ Sys2Proof.Claims.divisionTable, ∀ (s : State) (g : Group) (k : Nat) (d a : R7) (b : SOp), Issues s g k (p.1 d a b) →
    ∃ t, exec (p.1 d a b) s = .next t
      ∧ ScalarResult s t g k (p.1 d a b) d.toNat (p.2 (g.readS s k a.toNat) (g.sop s k b)) ∧ SameMemory s t

/-- O11. SEL, MOV, POPC, CLZ, CTZ, MPOP and MFIRST write their results and change nothing else; NOP and PAUSE change nothing. -/
def Obligations.SelectionCountAndNopResults : Prop :=
  (
  ∀ (s : State) (g : Group) (k : Nat) (d a : R7) (b : SOp),
    (Issues s g k (.sel d a b) → ∃ t, exec (.sel d a b) s = .next t ∧ SameMemory s t ∧ ScalarResult s t g k (.sel d a b) d.toNat
      (if g.readS s k d.toNat ≠ 0 then g.readS s k a.toNat else g.sop s k b))
    ∧ (Issues s g k (.mov d b) → ∃ t, exec (.mov d b) s = .next t ∧ SameMemory s t ∧ ScalarResult s t g k (.mov d b) d.toNat (g.sop s k b))
    ∧ (Issues s g k (.popc d a) → ∃ t, exec (.popc d a) s = .next t ∧ SameMemory s t ∧ ScalarResult s t g k (.popc d a) d.toNat
      (BitVec.ofNat 32 (popCount 32 (g.readS s k a.toNat).toNat)))
    ∧ (Issues s g k (.clz d a) → ∃ t, exec (.clz d a) s = .next t ∧ SameMemory s t ∧ ScalarResult s t g k (.clz d a) d.toNat
      (BitVec.ofNat 32 (leadingZeros 32 (g.readS s k a.toNat).toNat)))
    ∧ (Issues s g k (.ctz d a) → ∃ t, exec (.ctz d a) s = .next t ∧ SameMemory s t ∧ ScalarResult s t g k (.ctz d a) d.toNat
      (BitVec.ofNat 32 (lowestSet 32 (g.readS s k a.toNat).toNat)))
    ∧ (Issues s g k (.mpop d a) → ∃ t, exec (.mpop d a) s = .next t ∧ SameMemory s t ∧ ScalarResult s t g k (.mpop d a) d.toNat
      (BitVec.ofNat 32 (popCount 96 (g.readS s k (a.toNat + 2) ++ g.readS s k (a.toNat + 1) ++ g.readS s k a.toNat).toNat)))
    ∧ (Issues s g k (.mfirst d a) → ∃ t, exec (.mfirst d a) s = .next t ∧ SameMemory s t ∧ ScalarResult s t g k (.mfirst d a) d.toNat
      (let v := g.readS s k (a.toNat + 2) ++ g.readS s k (a.toNat + 1) ++ g.readS s k a.toNat
       if v = 0 then 0xFFFFFFFF else BitVec.ofNat 32 (lowestSet 96 v.toNat))))
  ∧ (∀ w x : Nat,
    popCount w x = ((List.range w).filter fun j => x.testBit j).length
    ∧ ((∀ j, j < w → x.testBit j = false) → lowestSet w x = w ∧ leadingZeros w x = w)
    ∧ (∀ j, j < w → x.testBit j = true → (∀ i, i < j → x.testBit i = false) → lowestSet w x = j)
    ∧ (∀ j, j < w → x.testBit j = true → (∀ i, j < i → i < w → x.testBit i = false) → leadingZeros w x = w - (j + 1)))
  ∧ ∀ (s : State) (g : Group) (k : Nat),
    (Issues s g k .nop → ∃ t, exec .nop s = .next t ∧ SameMemory s t ∧ RowResult s t g k (g.rowAfter k .nop)
      ∧ ∃ h, t.group g.uid = some h ∧ h.roundRetired = g.roundRetired + 1 ∧ h.spin = g.spin)
    ∧ (Issues s g k .pause → ∃ t, exec .pause s = .next t ∧ SameMemory s t ∧ RowResult s t g k (g.rowAfter k .pause)
      ∧ ∃ h, t.group g.uid = some h ∧ h.roundRetired = g.roundRetired + 1 ∧ h.spin.isSome = true)

namespace Sys2Proof.Claims

/-- A row 1 instruction on elements read by TYPE, wrapped (R352, R353): f of the operands' MOD, the signedness and the width. -/
def typed (f : VOps → Bool → Nat → Int → Int → Int → Int) (v : VOps) (a b d : Nat) : Nat :=
  let s := (intType v.mod).2
  let w := (intType v.mod).1
  (f v s w (readInt s w a) (readInt s w b) (readInt s w d) % 2 ^ w).toNat

/-- A row 1 instruction on patterns of the width of TYPE. -/
def patterns (f : Nat → Nat → Nat → Nat → Nat) (v : VOps) (a b d : Nat) : Nat :=
  f (intType v.mod).1 a b d % 2 ^ (intType v.mod).1

/-- Sat and SatU of R353. -/
def saturate (signed : Bool) (w : Nat) (x : Int) : Int :=
  if signed then max (-2 ^ (w - 1)) (min (2 ^ (w - 1) - 1) x) else max 0 (min (2 ^ w - 1) x)

/-- The element-wise instructions of R353 and their results on three elements' patterns. -/
def elementTable : List ((VOps → Instr) × (VOps → Nat → Nat → Nat → Nat)) :=
  [(.vaddInt, typed fun _ _ _ a b _ => a + b), (.vsubInt, typed fun _ _ _ a b _ => a - b),
   (.vmulInt, typed fun _ _ _ a b _ => a * b), (.vmulh, typed fun _ _ w a b _ => a * b / 2 ^ w),
   (.vmad, typed fun _ _ _ a b d => a * b + d),
   (.vadds, typed fun _ s w a b _ => saturate s w (a + b)), (.vsubs, typed fun _ s w a b _ => saturate s w (a - b)),
   (.vshl, patterns fun w a b _ => a * 2 ^ (b % w)), (.vshr, patterns fun w a b _ => a / 2 ^ (b % w)),
   (.vsar, fun v a b _ => let w := (intType v.mod).1
      (readInt true w a / 2 ^ (b % w) % 2 ^ w).toNat),
   (.vminInt, typed fun _ _ _ a b _ => min a b), (.vmaxInt, typed fun _ _ _ a b _ => max a b),
   (.vabsInt, typed fun _ _ _ a _ _ => if a < 0 then -a else a),
   (.vcmpInt, typed fun v _ _ a b _ =>
      let c := (v.mod.extractLsb' 3 3).toNat
      let holds := if c = 0 then a = b else if c = 1 then a ≠ b else if c = 2 then a < b else if c = 3 then b ≤ a
        else if c = 4 then a ≤ b else b < a
      if holds then -1 else 0),
   (.vsel, patterns fun _ a b d => if d ≠ 0 then a else b), (.vpopc, patterns fun w a _ _ => popCount w a),
   (.vclz, patterns fun w a _ _ => leadingZeros w a)]

/-- The instructions of row 1 that act on whole lanes (R353, R354). -/
def laneTable : List ((VOps → Instr) × (VOps → Word → Word → Word → Word)) :=
  [(.vand, fun _ a b _ => a &&& b), (.vor, fun _ a b _ => a ||| b), (.vxor, fun _ a b _ => a ^^^ b), (.vnot, fun _ a _ _ => ~~~a),
   (.vmov, fun _ _ b _ => b), (.vdot4, fun v a b d => dot4 (intType v.mod).2 (v.mod.getLsbD 6) a b d),
   (.vbfe, fun v a b _ => bfe (intType v.mod).2 a b), (.vbfi, fun _ a b d => bfi a b d)]

end Sys2Proof.Claims

/-- O12. Row 1 completes, writes its active lanes with the results of R353 and R354, and changes nothing else. -/
def Obligations.VectorIntegerResults : Prop :=
  (∀ p ∈ Sys2Proof.Claims.elementTable, ∀ (s : State) (g : Group) (k : Nat) (v : VOps), Issues s g k (p.1 v) →
    ∃ t, exec (p.1 v) s = .next t ∧ SameMemory s t
      ∧ VectorResult s t g k (p.1 v) v.d.toNat (g.row k).mask (fun l => mapElems (intType v.mod).1 (p.2 v) (laneOf (g.srcA s v 0) l)
          (laneOf (g.srcB s k v 0) l) (laneOf (g.readV s v.d.toNat) l)) 0)
  ∧ ∀ p ∈ Sys2Proof.Claims.laneTable, ∀ (s : State) (g : Group) (k : Nat) (v : VOps), Issues s g k (p.1 v) →
    ∃ t, exec (p.1 v) s = .next t ∧ SameMemory s t
      ∧ VectorResult s t g k (p.1 v) v.d.toNat (g.row k).mask (fun l => p.2 v (laneOf (g.srcA s v 0) l) (laneOf (g.srcB s k v 0) l)
          (laneOf (g.readV s v.d.toNat) l)) 0

/-- O13. Elements of a lane stand at their bits; VBFE reads a field, VBFI inserts it, VDOT4 adds four exact products. -/
def Obligations.ElementsAndBitFields : Prop :=
  (∀ w ∈ [8, 16, 32], ∀ (f : Nat → Nat → Nat → Nat) (a b d : Word),
    (elems w a).length = 32 / w
    ∧ (∀ j, j < 32 / w → (elems w a)[j]? = some (a.extractLsb' (w * j) w).toNat)
    ∧ ∀ j, j < 32 / w → ((mapElems w f a b d).extractLsb' (w * j) w).toNat
        = f (a.extractLsb' (w * j) w).toNat (b.extractLsb' (w * j) w).toNat (d.extractLsb' (w * j) w).toNat % 2 ^ w)
  ∧ ∀ (a b d : Word) (i : Nat), i < 32 →
    let off := b.toNat % 32
    let len := min (b.toNat / 2 ^ 8 % 64) (32 - off)
    ((bfe false a b).getLsbD i = (decide (i < len) && a.getLsbD (off + i)))
    ∧ ((bfe true a b).getLsbD i = if len = 0 then false else if i < len then a.getLsbD (off + i) else a.getLsbD (off + len - 1))
    ∧ ((bfi a b d).getLsbD i = if off ≤ i ∧ i < off + len then a.getLsbD (i - off) else d.getLsbD i)
    ∧ (dot4 false false a b d).toNat = (d.toNat + ((List.range 4).map fun j =>
        (a.toNat / 2 ^ (8 * j) % 256) * (b.toNat / 2 ^ (8 * j) % 256)).sum) % 2 ^ 32

namespace Sys2Proof.Claims

/-- An instruction of rows 2 and 3 with the legacy flush z before and after (R229). -/
def flushed (f : VOps → Fmt → Nat → Nat → Nat → FRes) (v : VOps) (z : Bool) (a b d : Nat) : FRes :=
  let t := ftype v.mod
  t.flushRes z (f v t (t.flushSrc z a) (t.flushSrc z b) (t.flushSrc z d))

/-- An instruction of row 2 whose result is not flushed. -/
def unflushed (f : VOps → Fmt → Nat → Nat → FRes) (v : VOps) (z : Bool) (a b _ : Nat) : FRes :=
  let t := ftype v.mod
  f v t (t.flushSrc z a) (t.flushSrc z b)

/-- RM of an instruction. -/
def rm (v : VOps) : Rm := rmOf (v.mod.extractLsb' 2 2)

/-- The element-wise instructions of R356, R357, R361 and R362 and their results and flags on three elements' patterns. -/
def floatTable : List ((VOps → Instr) × (VOps → Bool → Nat → Nat → Nat → FRes)) :=
  [(.vaddFp, flushed fun v t a b _ => t.sum (rm v) [t.dec a, t.dec b]),
   (.vsubFp, flushed fun v t a b _ => t.sum (rm v) [t.dec a, (t.dec b).flip]),
   (.vmulFp, flushed fun v t a b _ => t.ofVal (rm v) (mulVal (t.dec a) (t.dec b))),
   (.vfma, flushed fun v t a b d => t.fma (rm v) (v.mod.getLsbD 5) (v.mod.getLsbD 4) (t.dec a) (t.dec b) (t.dec d)),
   (.vminFp, flushed fun _ t a b _ => t.minmax false a b), (.vmaxFp, flushed fun _ t a b _ => t.minmax true a b),
   (.vabsFp, flushed fun _ t a _ _ => (if (t.dec a).isNan then t.nan else t.mag a, noFlag)),
   (.vneg, flushed fun _ t a _ _ => (if (t.dec a).isNan then t.nan else t.withSign (!t.sign a) (t.mag a), noFlag)),
   (.vcmpFp, unflushed fun v t a b => (if (t.cmp (v.mod.extractLsb' 4 3).toNat a b).1 then 2 ^ t.width - 1 else 0,
      (t.cmp (v.mod.extractLsb' 4 3).toNat a b).2)),
   (.vclass, unflushed fun _ t a _ => (t.classOf a, noFlag)),
   (.vrnd, flushed fun v t a _ _ => t.rnd (rm v) a), (.vsqrt, flushed fun v t a _ _ => t.sqrt (rm v) (t.dec a)),
   (.vdiv, flushed fun v t a b _ => t.ofVal (rm v) (divVal (t.dec a) (t.dec b))),
   (.vrcp, flushed fun _ t a _ _ => t.approx .rcp a), (.vrsq, flushed fun _ t a _ _ => t.approx .rsq a),
   (.vexp2, flushed fun _ t a _ _ => t.approx .exp2 a), (.vlog2, flushed fun _ t a _ _ => t.approx .log2 a),
   (.vsin, flushed fun _ t a _ _ => t.approx .sin a), (.vcos, flushed fun _ t a _ _ => t.approx .cos a),
   (.vtanh, flushed fun _ t a _ _ => t.approx .tanh a)]

end Sys2Proof.Claims

/-- O14. The floating-point instructions complete, write their active lanes, OR their flags into STATUS, and change nothing else. -/
def Obligations.VectorFloatResults : Prop :=
  ∀ p ∈ Sys2Proof.Claims.floatTable, ∀ (s : State) (g : Group) (k : Nat) (v : VOps), Issues s g k (p.1 v) →
    let r := fun l => mapFp (ftype v.mod).width (p.2 v (s.ftz g)) (laneOf (g.srcA s v 0) l) (laneOf (g.srcB s k v 0) l)
      (laneOf (g.readV s v.d.toNat) l)
    ∃ t, exec (p.1 v) s = .next t ∧ SameMemory s t
      ∧ VectorResult s t g k (p.1 v) v.d.toNat (g.row k).mask (fun l => (r l).1) (laneFlags (g.row k).mask fun l => (r l).2)

/-- O15. Values of a format round to themselves; others to a neighbour: towards zero, away, or nearest with ties to even. -/
def Obligations.RoundingFollowsItsMode : Prop :=
  (∀ t ∈ [fp32, fp16, bf16], ∀ (m : Rm) (x : Nat), x < 2 ^ t.width → (t.dec x).isNan = false → t.ofVal m (t.dec x) = (x, noFlag))
  ∧ ∀ t ∈ [fp32, fp16, bf16], ∀ (neg : Bool) (n d a b : Nat), 0 < n → 0 < d →
    let p := t.mag (t.roundTo .rz neg n d).1
    t.sign (t.roundTo .rz neg n d).1 = neg
    ∧ (t.dec p = .fin false a b → a * d ≤ n * b)
    ∧ (t.dec (p + 1) = .fin false a b → n * b < a * d)
    ∧ (p + 1 < t.infBits → ∀ x y, t.dec p = .fin false x y → t.dec (p + 1) = .fin false a b →
        (t.roundTo (if neg then .rd else .ru) neg n d).1 = t.withSign neg (if n * y = x * d then p else p + 1)
        ∧ (t.roundTo .rne neg n d).1 = t.withSign neg
            (if 2 * n * y * b < (x * b + a * y) * d then p else if (x * b + a * y) * d < 2 * n * y * b then p + 1
             else if p % 2 = 0 then p else p + 1))

/-- O16. CVT, SXPACK and SXUNPK complete, write their lanes and change nothing else but the flags. -/
def Obligations.ConversionResults : Prop :=
  ∀ (s : State) (g : Group) (k : Nat) (v : VOps),
    (∀ src dst, elemOf (fmtA (g.row k).fmt) = some src → elemOf (fmtD (g.row k).fmt) = some dst → Issues s g k (.cvt v) →
      let r := fun l => cvtLane (s.ftz g) (s.cvtRm g (v.mod.extractLsb' 0 2)) src dst (v.mod.extractLsb' 2 2).toNat
        (laneOf (g.srcA s v 0) l) (laneOf (g.readV s v.d.toNat) l)
      ∃ t, exec (.cvt v) s = .next t ∧ SameMemory s t
        ∧ VectorResult s t g k (.cvt v) v.d.toNat (g.row k).mask (fun l => (r l).1) (laneFlags (g.row k).mask fun l => (r l).2))
    ∧ (Issues s g k (.sxpack v) → ∀ m' : Mask,
        (∀ l, l < 96 → m'.getLsbD l = (List.range 16).any fun j => (g.row k).mask.getLsbD (16 * (l / 16) + j)) →
      let w := sxW v.mod.toNat
      let block := fun b => toSX w ((List.range 16).map fun j => fp32.dec (fp32.flushSrc (s.ftz g) (laneOf (g.srcA s v 0) (16 * b + j)).toNat))
      ∃ t, exec (.sxpack v) s = .next t ∧ SameMemory s t
        ∧ VectorResult s t g k (.sxpack v) v.d.toNat m' (fun l => BitVec.ofNat 32 ((block (l / 16)).1 / 2 ^ (32 * (l % 16))))
            (((List.range 6).filter fun b => m'.getLsbD (16 * b)).foldl (fun f b => f ||| (block b).2) 0))
    ∧ (Issues s g k (.sxunpk v) →
      let w := sxW v.mod.toNat
      let block := fun b => ((List.range (sxWords w)).foldl (fun x j => x + (laneOf (g.srcA s v 0) (16 * b + j)).toNat * 2 ^ (32 * j)) 0) % 2 ^ sxBits w
      ∃ t, exec (.sxunpk v) s = .next t ∧ SameMemory s t
        ∧ VectorResult s t g k (.sxunpk v) v.d.toNat (g.row k).mask
            (fun l => BitVec.ofNat 32 (sxToFp32 (s.ftz g) w (block (l / 16)) (l % 16)).1) 0)

namespace Sys2Proof.Claims

/-- Mix of R242, on numbers: x is the counter and key the key. -/
def mixRounds (key x : Nat) : Nat :=
  let m := 2 ^ 64
  let x := (x + key * 0x9E3779B97F4A7C15) % m
  let x := (x ^^^ (x / 2 ^ 30)) * 0xBF58476D1CE4E5B9 % m
  let x := (x ^^^ (x / 2 ^ 27)) * 0x94D049BB133111EB % m
  let x := (x ^^^ key) * 0xD6E8FEB86659FD93 % m
  x ^^^ (x / 2 ^ 32)

end Sys2Proof.Claims

/-- O17. RAND delivers Mix(K, C + i) to each active lane i, and C becomes C + 96 whatever the mask. -/
def Obligations.RandomResults : Prop :=
  ∀ (s : State) (g : Group) (k : Nat) (v : VOps), g.wb < 1024 → Issues s g k (.rand v) →
    let r := fun l : Nat => BitVec.ofNat 64 (Sys2Proof.Claims.mixRounds g.randKey.toNat ((g.randCtr.toNat + l) % 2 ^ 64))
    let d := g.vreg v.d.toNat
    let e := g.vreg (v.d.toNat + 1)
    ∃ t h, exec (.rand v) s = .next t ∧ SameMemory s t ∧ RetiredTo s t g h k (g.rowAfter k (.rand v))
      ∧ h.randCtr = BitVec.ofNat 64 (g.randCtr.toNat + 96) ∧ h.randKey = g.randKey ∧ (∀ n, h.sraw n = g.sraw n)
      ∧ (∀ l, l < 96 → (g.row k).mask.getLsbD l = false → laneOf (h.vraw d) l = laneOf (g.vraw d) l ∧ laneOf (h.vraw e) l = laneOf (g.vraw e) l)
      ∧ (g.isPending true d = false → ∀ l, l < 96 → (g.row k).mask.getLsbD l = true → laneOf (h.vraw d) l = (r l).extractLsb' 0 32)
      ∧ (v.mod = 1 → g.isPending true e = false → ∀ l, l < 96 → (g.row k).mask.getLsbD l = true → laneOf (h.vraw e) l = (r l).extractLsb' 32 32)
      ∧ ∀ l, l ≠ d → (v.mod ≠ 1 ∨ l ≠ e) → h.vraw l = g.vraw l

/-- O18. The cross-lane instructions of row 4 complete with the results of R365 to R369. -/
def Obligations.CrossLaneResults : Prop :=
  (∀ (s : State) (g : Group) (k : Nat) (v : VOps),
    (Issues s g k (.vperm v) → ∃ t, exec (.vperm v) s = .next t ∧ SameMemory s t
      ∧ VectorResult s t g k (.vperm v) v.d.toNat (g.row k).mask (fun l =>
          if (laneOf (g.srcB s k v 0) l).toNat < 96 then laneOf (g.srcA s v 0) (laneOf (g.srcB s k v 0) l).toNat else 0) 0)
    ∧ (Issues s g k (.vcmpct v) → ∀ m' : Mask, (∀ l, l < 96 → m'.getLsbD l = decide (l < (lanesOf (g.row k).mask).length)) →
      ∃ t, exec (.vcmpct v) s = .next t ∧ SameMemory s t
      ∧ VectorResult s t g k (.vcmpct v) v.d.toNat m' (fun l => laneOf (g.srcA s v 0) ((lanesOf (g.row k).mask).getD l 0)) 0)
    ∧ (Issues s g k (.vexpnd v) → ∃ t, exec (.vexpnd v) s = .next t ∧ SameMemory s t
      ∧ VectorResult s t g k (.vexpnd v) v.d.toNat (g.row k).mask
          (fun l => laneOf (g.srcA s v 0) ((lanesOf (g.row k).mask).filter (· < l)).length) 0)
    ∧ (Issues s g k (.vlane v) → ∃ t, exec (.vlane v) s = .next t ∧ SameMemory s t
      ∧ VectorResult s t g k (.vlane v) v.d.toNat (g.row k).mask
          (fun l => BitVec.ofNat 32 (if v.mod = 1 then 96 * g.gid + l else l)) 0))
  ∧ ∀ (s : State) (g : Group) (k : Nat) (v : VOps),
    let a := g.srcA s v 0
    let m := (g.row k).mask
    let same := fun i => (lanesOf m).filter fun j => j == i || (let c := (v.mod.extractLsb' 0 2).toNat
      if c = 2 then laneOf a j == laneOf a i && laneOf (g.srcA s v 1) j == laneOf (g.srcA s v 1) i
      else if c = 0 then laneOf a j == laneOf a i else (fp32.dec (laneOf a j).toNat).eqv (fp32.dec (laneOf a i).toNat))
    let opc := (v.mod.extractLsb' 0 4).toNat
    let whole := combine opc ((lanesOf m).map (laneOf a))
    let part := fun i => combine opc (((lanesOf m).filter fun j => if v.mod.getLsbD 4 then j < i else j ≤ i).map (laneOf a))
    let none := (lanesOf m).isEmpty
    let vote : Nat → Word := fun w => BitVec.ofNat 32 (((List.range 32).map fun j =>
      if m.getLsbD (32 * w + j) && laneOf a (32 * w + j) != 0 then 2 ^ j else 0).sum)
    (Issues s g k (.match_ v) → Completes (.match_ v) s (s.putGroup (
        let g1 := g.writeV s v.d.toNat m fun i => BitVec.ofNat 32 ((same i).headD i)
        if v.mod.getLsbD 2 then g1.writeV s (v.d.toNat + 1) m fun i => BitVec.ofNat 32 (same i).length else g1)) g k)
    ∧ (Issues s g k (.reduce v) → Completes (.reduce v) s (s.putGroup ((
        (if v.mod.getLsbD 7 then g.writeS s k v.d.toNat whole.1 else g.writeV s v.d.toNat m fun _ => whole.1).orFlags whole.2).setEmpty none)) g k)
    ∧ (Issues s g k (.scan v) → Completes (.scan v) s (s.putGroup ((
        (g.writeV s v.d.toNat m fun i => (part i).1).orFlags ((lanesOf m).foldl (fun f i => f ||| (part i).2) 0)).setEmpty none)) g k)
    ∧ (Issues s g k (.vballot v) → Completes (.vballot v) s (s.putGroup (
        ((g.writeS s k v.d.toNat (vote 0)).writeS s k (v.d.toNat + 1) (vote 1)).writeS s k (v.d.toNat + 2) (vote 2))) g k)

/-- O19. Each integer combination of R367 is that of all its lanes in any order, with its identity where there is none. -/
def Obligations.ReductionsCombineAllLanes : Prop :=
  (∀ opc ∈ [0, 2, 3, 4, 5, 6, 7, 8], ∀ xs ys : List Word, xs.Perm ys → combine opc xs = combine opc ys ∧ (combine opc xs).2 = 0)
  ∧ (List.range 11).map (fun opc => combine opc []) = [(0, 0), (0, 0), (0x7FFFFFFF, 0), (0x80000000, 0), (0xFFFFFFFF, 0), (0, 0),
      (0xFFFFFFFF, 0), (0, 0), (0, 0), (0x7F800000, 0), (0xFF800000, 0)]
  ∧ ∀ (a : Word) (xs : List Word),
      (combine 1 (a :: xs)).1 = BitVec.ofNat 32 (fp32.sum .rne ((a :: xs).map fun x => fp32.dec x.toNat)).1
      ∧ (combine 1 (a :: xs)).2 = (fp32.sum .rne ((a :: xs).map fun x => fp32.dec x.toNat)).2

namespace Sys2Proof.Claims

/-- The real number that a finite value stands for. -/
def value : FVal → ℚ
  | .fin s n d => if s then -((n : ℚ) / d) else (n : ℚ) / d
  | _ => 0

/-- A finite value with a denominator. -/
def finite : FVal → Bool
  | .fin _ _ d => decide (0 < d)
  | _ => false

end Sys2Proof.Claims

/-- O20. Sums and products of finite values are rounded once from the exact real result; a zero sum has the sign of R227. -/
def Obligations.SumsAndProductsAreExact : Prop :=
  (∀ (t : Fmt) (m : Rm) (xs : List FVal), (∀ x ∈ xs, Sys2Proof.Claims.finite x = true) →
    let sum := (xs.map Sys2Proof.Claims.value).sum
    (sum ≠ 0 → ∃ n d : Nat, 0 < d ∧ (n : ℚ) / d = |sum| ∧ t.sum m xs = t.roundTo m (decide (sum < 0)) n d)
    ∧ (sum = 0 → t.sum m xs = (t.withSign (if xs ≠ [] ∧ ∀ x ∈ xs, x.isZero = true ∧ x.neg = true then true
        else if ∀ x ∈ xs, x.isZero = true ∧ x.neg = false then false else decide (m = .rd)) 0, 0)))
  ∧ (∀ a b : FVal, Sys2Proof.Claims.finite a = true → Sys2Proof.Claims.finite b = true →
      Sys2Proof.Claims.finite (mulVal a b) = true ∧ Sys2Proof.Claims.value (mulVal a b) = Sys2Proof.Claims.value a * Sys2Proof.Claims.value b
      ∧ (mulVal a b).neg = (a.neg != b.neg))
  ∧ ∀ (t : Fmt) (m : Rm) (np nc : Bool) (a b c : FVal), Sys2Proof.Claims.finite a = true → Sys2Proof.Claims.finite b = true →
      Sys2Proof.Claims.finite c = true →
      let sum := (if np then -1 else 1) * (Sys2Proof.Claims.value a * Sys2Proof.Claims.value b) + (if nc then -1 else 1) * Sys2Proof.Claims.value c
      sum ≠ 0 → ∃ n d : Nat, 0 < d ∧ (n : ℚ) / d = |sum| ∧ t.fma m np nc a b c = t.roundTo m (decide (sum < 0)) n d

namespace Sys2Proof.Claims

/-- Every instruction of the shape that has PA and PB fields in its cuff (R314, R315). -/
def permuted : List (VOps → Instr) :=
  elementTable.map (·.1) ++ laneTable.map (·.1) ++ floatTable.map (·.1)
    ++ [.cvt, .sxpack, .sxunpk, .rand, .vperm, .vcmpct, .vexpnd, .match_, .reduce, .scan, .vballot, .vlane, .sample, .trace, .bxunion, .mkey]

/-- The lane that lane i reads, by the table of R318; none where the field is not one of its rows. -/
def permTable (p : BitVec 10) (i : Nat) : Option Nat :=
  let kind := p.toNat / 2 ^ 7
  let n := p.toNat % 2 ^ 7
  if kind = 0 then (if n = 0 then some i else none)
  else if kind = 1 then (if n ≤ 95 then some ((i + n) % 96) else none)
  else if kind = 2 then (if n ≤ 95 then some n else none)
  else if kind = 3 then (if n ≤ 6 then some (if 96 ≤ i ^^^ 2 ^ n then i else i ^^^ 2 ^ n) else none)
  else if kind = 4 then (if n ∈ [2, 3, 4, 6, 8, 12, 16, 24, 32, 48, 96] then some (let b := n * (i / n); b + n - 1 - (i - b)) else none)
  else none

end Sys2Proof.Claims

/-- O21. PA and PB select the lane that each lane reads, by the table of R318; every other value raises ILLEGAL. -/
def Obligations.PermutationFields : Prop :=
  (∀ p ∈ Sys2Proof.Claims.permuted, ∀ (s : State) (g : Group) (k : Nat) (v : VOps) (c : Cuff), s.issuer = some (g, k) → v.cuff = some c →
    Sys2Proof.Claims.permTable c.pa 0 = none ∨ Sys2Proof.Claims.permTable c.pb 0 = none → Traps (p v) s g k (trapOf 0x01))
  ∧ ∀ (s : State) (g : Group) (k j i : Nat) (v : VOps) (c : Cuff), v.cuff = some c → i < 96 →
      (∀ l, Sys2Proof.Claims.permTable c.pa i = some l → laneOf (g.srcA s v j) i = laneOf (g.readV s (v.a.toNat + j)) l)
      ∧ ∀ l, v.sb = false → Sys2Proof.Claims.permTable c.pb i = some l → laneOf (g.srcB s k v j) i = laneOf (g.readV s (v.b.toNat + j)) l

namespace Sys2Proof.Claims

/-- What a selector reads for row k, where the group's own fields give it (R122, R153, R155, R156). -/
def selectorReads (g : Group) (k : Nat) : List (BitVec 8 × Word) :=
  [(0x00, BitVec.ofNat 32 g.gid), (0x08, BitVec.ofNat 32 (96 * g.gid)), (0x0A, g.cycLatch), (0x0C, g.retLatch), (0x10, (g.row k).fmt),
   (0x11, g.pclass.setWidth 32), (0x12, g.lc.getD 0 0), (0x13, g.lc.getD 1 0), (0x14, g.lc.getD 2 0), (0x18, g.inflight),
   (0x19, g.randKey.extractLsb' 0 32), (0x1A, g.randKey.extractLsb' 32 32), (0x1B, g.randCtr.extractLsb' 0 32),
   (0x1C, g.randCtr.extractLsb' 32 32)]

/-- What a write of v by row k to a selector leaves (R153; R122 for SPLITST). -/
def selectorWrites (g : Group) (k : Nat) (v : Word) : List (BitVec 8 × Group) :=
  [(0x10, g.modRow k fun r => { r with fmt := v }), (0x11, { g with pclass := v.setWidth 2 }),
   (0x12, { g with lc := g.lc.set 0 v }), (0x13, { g with lc := g.lc.set 1 v }), (0x14, { g with lc := g.lc.set 2 v }),
   (0x15, { g with forceSerial := v.getLsbD 8 }),
   (0x19, { g with randKey := g.randKey.extractLsb' 32 32 ++ v }), (0x1A, { g with randKey := v ++ g.randKey.extractLsb' 0 32 }),
   (0x1B, { g with randCtr := g.randCtr.extractLsb' 32 32 ++ v }), (0x1C, { g with randCtr := v ++ g.randCtr.extractLsb' 0 32 })]

end Sys2Proof.Claims

/-- O22. GETS, SETS, FMT and PCLASS complete: reads give what the selector names, writes change that register alone. -/
def Obligations.SpecialRegisterResults : Prop :=
  (∀ (s : State) (g : Group) (k : Nat) (d : R7), ∀ p ∈ Sys2Proof.Claims.selectorReads g k, Issues s g k (.gets p.1 d) →
    ∃ t, exec (.gets p.1 d) s = .next t ∧ SameMemory s t ∧ ScalarResult s t g k (.gets p.1 d) d.toNat p.2)
  ∧ (∀ (s : State) (g : Group) (k : Nat) (d : R7), Issues s g k (.gets 0x09 d) →
      let n := if (s.descOf g).det then g.retired else ((s.core g.core).clocks - g.clock0 : Int).toNat
      Completes (.gets 0x09 d) s (s.putGroup (({ g with cycLatch := BitVec.ofNat 32 (n / 2 ^ 32) }).writeS s k d.toNat (BitVec.ofNat 32 n))) g k)
  ∧ (∀ (s : State) (g : Group) (k : Nat) (d : R7), Issues s g k (.gets 0x0B d) →
      Completes (.gets 0x0B d) s
        (s.putGroup (({ g with retLatch := BitVec.ofNat 32 (g.retired / 2 ^ 32) }).writeS s k d.toNat (BitVec.ofNat 32 g.retired))) g k)
  ∧ (∀ (s : State) (g : Group) (k : Nat) (d : R7) (sel : BitVec 8), sel = 0x15 ∨ sel = 0x16 ∨ sel = 0x17 → Issues s g k (.gets sel d) →
      ∃ v, (∃ t, exec (.gets sel d) s = .next t ∧ SameMemory s t ∧ ScalarResult s t g k (.gets sel d) d.toNat v)
        ∧ (sel = 0x15 → v.extractLsb' 30 2 = BitVec.ofNat 2 k ∧ (∀ n, n < 4 → v.getLsbD (26 + n) = (g.row n).live)
            ∧ v.extractLsb' 23 3 = BitVec.ofNat 3 (g.row k).parent ∧ (∀ f, f < 3 → v.getLsbD (20 + f) = (g.fam f).used)
            ∧ v.extractLsb' 16 4 = BitVec.ofNat 4 g.serials.length
            ∧ v.extractLsb' 12 4 = BitVec.ofNat 4 (g.serials.filter fun r => r.owner == k).length
            ∧ v.extractLsb' 9 3 = 0 ∧ v.getLsbD 8 = g.forceSerial ∧ v.extractLsb' 2 6 = 0 ∧ v.extractLsb' 0 2 = BitVec.ofNat 2 g.loops.length)
        ∧ (sel = 0x16 → v.extractLsb' 27 5 = BitVec.ofNat 5 g.depth ∧ v.extractLsb' 22 5 = BitVec.ofNat 5 g.heldBlocks
            ∧ v.extractLsb' 17 5 = BitVec.ofNat 5 g.cur.blks ∧ v.extractLsb' 12 5 = BitVec.ofNat 5 g.cur.first
            ∧ v.extractLsb' 7 5 = BitVec.ofNat 5 g.cur.args ∧ v.extractLsb' 2 5 = BitVec.ofNat 5 (g.frames.filter (·.spilled)).length
            ∧ v.getLsbD 1 = g.handler.isSome ∧ v.getLsbD 0 = false)
        ∧ (sel = 0x17 → v.extractLsb' 24 8 = 0 ∧ v.extractLsb' 16 8 = BitVec.ofNat 8 g.wb ∧ v.extractLsb' 10 6 = 0
            ∧ v.extractLsb' 0 10 = BitVec.ofNat 10 g.swb))
  ∧ (∀ (s : State) (g : Group) (k : Nat) (a : R7), ∀ p ∈ Sys2Proof.Claims.selectorWrites g k (g.readS s k a.toNat),
      Issues s g k (.sets p.1 a) → Completes (.sets p.1 a) s (s.putGroup p.2) g k)
  ∧ ∀ (s : State) (g : Group) (k : Nat) (b : SOp),
      (Issues s g k (.fmt b) → Completes (.fmt b) s (s.putGroup (g.modRow k fun r => { r with fmt := g.sop s k b })) g k)
      ∧ (Issues s g k (.pclass b) → Completes (.pclass b) s (s.putGroup { g with pclass := (g.sop s k b).setWidth 2 }) g k)

namespace Sys2Proof.Claims

/-- Cond of R338: TYPE in bits 4 and 3 (signed, unsigned, FP32), CC in bits 2 to 0 (eq, ne, lt, ge, le, gt). A NaN makes ne alone hold. -/
def condition (c : BitVec 5) (x y : Word) : Bool :=
  let cc := c.toNat % 8
  let rel := fun (lt eq : Bool) =>
    if cc = 0 then eq else if cc = 1 then !eq else if cc = 2 then lt else if cc = 3 then !lt else if cc = 4 then lt || eq else !lt && !eq
  if c.toNat / 8 = 0 then rel (decide (x.toInt < y.toInt)) (decide (x = y))
  else if c.toNat / 8 = 1 then rel (decide (x.toNat < y.toNat)) (decide (x = y))
  else
    let a := fp32.dec x.toNat
    let b := fp32.dec y.toNat
    if a.isNan || b.isNan then decide (cc = 1) else rel (a.lt b) (!a.lt b && !b.lt a)

/-- The address, exact, that an offset in words names for row k (R339). -/
def targetOf (g : Group) (k : Nat) (ofs : BitVec 16) : Int := (g.row k).pc.toNat + 4 * ofs.toInt

/-- An exact address lies in the group's code range (R312). -/
def inRange (s : State) (g : Group) (t : Int) : Prop := t / 2 ^ 32 = (g.codeRange s).toNat

/-- Row k at an address. -/
def rowAt (g : Group) (k : Nat) (pc : Pc) : Row := { g.row k with pc := pc, wait := .none }

end Sys2Proof.Claims

/-- O23. JMP, JMPR and BRA.S go to their target inside the code range, and trap without effect where it is not theirs to go. -/
def Obligations.JumpResults : Prop :=
  ∀ (s : State) (g : Group) (k : Nat),
    (∀ tofs : BitVec 16, Issues s g k (.jmp tofs) →
      let x := Sys2Proof.Claims.targetOf g k tofs
      (Sys2Proof.Claims.inRange s g x → ∃ t, exec (.jmp tofs) s = .next t ∧ SameMemory s t
        ∧ RowResult s t g k (Sys2Proof.Claims.rowAt g k (BitVec.ofInt 49 x)))
      ∧ (¬ Sys2Proof.Claims.inRange s g x → Traps (.jmp tofs) s g k (trapAt 0x17 (x % 2 ^ 64).toNat 0)))
    ∧ (∀ a : R7, Issues s g k (.jmpr a) →
      let v := g.readS s k a.toNat
      (v.toNat % 4 = 0 → ∃ t, exec (.jmpr a) s = .next t ∧ SameMemory s t
        ∧ RowResult s t g k (Sys2Proof.Claims.rowAt g k (BitVec.ofNat 49 ((g.codeRange s).toNat * 2 ^ 32 + v.toNat))))
      ∧ (v.toNat % 4 ≠ 0 → Traps (.jmpr a) s g k (trapAt 0x16 ((g.codeRange s).toNat * 2 ^ 32 + v.toNat) 0)))
    ∧ ∀ (c : BitVec 5) (sb : Bool) (b a : R7) (tofs : BitVec 16), Issues s g k (.braS c sb b a tofs) →
      let x := Sys2Proof.Claims.targetOf g k tofs
      let y := if sb then b.signExtend 32 else g.readS s k b.toNat
      (Sys2Proof.Claims.inRange s g x → ∃ t, exec (.braS c sb b a tofs) s = .next t ∧ SameMemory s t
        ∧ RowResult s t g k (Sys2Proof.Claims.rowAt g k (if Sys2Proof.Claims.condition c (g.readS s k a.toNat) y = true
            then BitVec.ofInt 49 x else g.nextPc k (.braS c sb b a tofs))))
      ∧ (¬ Sys2Proof.Claims.inRange s g x → Traps (.braS c sb b a tofs) s g k (trapAt 0x17 (x % 2 ^ 64).toNat 0))

/-- O24. BRA.V sends its lanes by R116: all one way, into two rows of a family, or one after the other. -/
def Obligations.DivergentBranchResults : Prop :=
  ∀ (s : State) (g : Group) (k : Nat) (c : BitVec 5) (sb : Bool) (b a : R7) (tofs jofs : BitVec 16) (x : Mask),
    let i : Instr := .braV c sb b a tofs jofs
    let t := Sys2Proof.Claims.targetOf g k tofs
    let j := Sys2Proof.Claims.targetOf g k jofs
    let r := g.row k
    let fall := r.pc + 8
    Issues s g k i →
    (∀ l, l < 96 → x.getLsbD l = (r.mask.getLsbD l && Sys2Proof.Claims.condition c (laneOf (g.readV s a.toNat) l)
      (if sb then g.readS s k b.toNat else laneOf (g.readV s b.toNat) l))) →
    (¬ Sys2Proof.Claims.inRange s g t → Traps i s g k (trapAt 0x17 (t % 2 ^ 64).toNat 0))
    ∧ (Sys2Proof.Claims.inRange s g t → ¬ Sys2Proof.Claims.inRange s g j → Traps i s g k (trapAt 0x17 (j % 2 ^ 64).toNat 0))
    ∧ (Sys2Proof.Claims.inRange s g t → Sys2Proof.Claims.inRange s g j →
      (x = 0 → ∃ u, exec i s = .next u ∧ SameMemory s u ∧ RowResult s u g k (Sys2Proof.Claims.rowAt g k fall))
      ∧ (x ≠ 0 → x = r.mask → ∃ u, exec i s = .next u ∧ SameMemory s u ∧ RowResult s u g k (Sys2Proof.Claims.rowAt g k (BitVec.ofInt 49 t)))
      ∧ (x ≠ 0 → x ≠ r.mask → ∀ n f, g.freeRow = some n → g.freeFam = some f → g.forceSerial = false →
          Places i s (s.putGroup { g with
            fams := g.fams.set f { used := true, jpc := BitVec.ofInt 49 j, up := r.parent, sfmt := r.fmt }
            rows := (g.rows.set k { r with mask := r.mask &&& ~~~x, own := r.own &&& ~~~x, parent := f, pc := fall }).set n
              { live := true, pc := BitVec.ofInt 49 t, mask := x, own := x, parent := f, fmt := r.fmt, wait := .none, stopped := false } }) g k)
      ∧ (x ≠ 0 → x ≠ r.mask → (g.freeRow = none ∨ g.freeFam = none ∨ g.forceSerial = true) → g.serials.length < 8 →
          Places i s (s.putGroup (({ g with serials := { owner := k, dmask := r.mask &&& ~~~x, down := r.own &&& ~~~x, dpc := fall, jpc := BitVec.ofInt 49 j, phase := false, smask := 0, sown := 0 } :: g.serials }).modRow k fun r =>
            { r with mask := x, own := x, pc := BitVec.ofInt 49 t })) g k)
      ∧ (x ≠ 0 → x ≠ r.mask → (g.freeRow = none ∨ g.freeFam = none ∨ g.forceSerial = true) → 8 ≤ g.serials.length →
          Traps i s g k (trapOf 0x10)))

/-- O25. JOIN passes on, runs the deferred lanes, waits for its family, or ends it, as R118 says. -/
def Obligations.JoinResults : Prop :=
  ∀ (s : State) (g : Group) (k : Nat), Issues s g k .join →
    let r := g.row k
    let atRecord := ∃ x rest, g.serials = x :: rest ∧ x.owner = k ∧ x.jpc = r.pc
    let atFamily := r.parent < 3 ∧ (g.fam r.parent).jpc = r.pc
    (¬ atRecord → ¬ atFamily → ∃ t, exec .join s = .next t ∧ SameMemory s t ∧ RowResult s t g k (g.rowAfter k .join))
    ∧ (∀ x rest, g.serials = x :: rest → x.owner = k → x.jpc = r.pc → x.phase = false →
        Places .join s (s.putGroup (({ g with serials := { x with phase := true, smask := r.mask, sown := r.own } :: rest }).modRow k fun r =>
          { r with mask := x.dmask, own := x.down, pc := x.dpc, wait := .none })) g k)
    ∧ (¬ atRecord → atFamily → g.ownsSerial k = true → Traps .join s g k (trapOf 0x11))
    ∧ (¬ atRecord → atFamily → g.ownsSerial k = false → g.joiners k r.pc r.parent = [] →
        (∃ j, j < 4 ∧ j ≠ k ∧ (g.row j).live = true ∧ (g.row j).parent = r.parent) →
        exec .join s = .next (s.modGroup g.uid fun _ => (g.modRow k fun r => { r with wait := .join })))
    ∧ (¬ atRecord → atFamily → g.ownsSerial k = false → (∀ j, j < 4 → j ≠ k → (g.row j).live = false) →
        ¬ ((g.fam r.parent).up < 3 ∧ ((g.fams.set r.parent Family.free).getD (g.fam r.parent).up Family.free).jpc = r.pc) →
        Places .join s (s.putGroup (({ g with fams := g.fams.set r.parent Family.free }).modRow k fun x =>
          { x with parent := (g.fam r.parent).up, fmt := (g.fam r.parent).sfmt, pc := x.pc + 4, wait := .none })) g k)

/-- O26. LOOP, LEND and LEND.X complete: LOOP opens a level or skips its body, LEND repeats it or closes it. -/
def Obligations.LoopResults : Prop :=
  ∀ (s : State) (g : Group) (k : Nat),
    (∀ (sb : Bool) (x : R7) (tofs : BitVec 16), Issues s g k (.loop sb x tofs) →
      let c : Word := if sb then x.setWidth 32 else g.readS s k x.toNat
      let e := Sys2Proof.Claims.targetOf g k tofs
      (g.single = false → Traps (.loop sb x tofs) s g k (trapOf 0x13))
      ∧ (g.single = true → ¬ Sys2Proof.Claims.inRange s g e → Traps (.loop sb x tofs) s g k (trapAt 0x17 (e % 2 ^ 64).toNat 0))
      ∧ (g.single = true → Sys2Proof.Claims.inRange s g e → 3 ≤ g.loops.length → Traps (.loop sb x tofs) s g k (trapOf 0x14))
      ∧ (g.single = true → Sys2Proof.Claims.inRange s g e → g.loops.length < 3 → c = 0 → ∃ t, exec (.loop sb x tofs) s = .next t ∧ SameMemory s t
          ∧ RowResult s t g k (Sys2Proof.Claims.rowAt g k (BitVec.ofInt 49 e + 4)))
      ∧ (g.single = true → Sys2Proof.Claims.inRange s g e → g.loops.length < 3 → c ≠ 0 →
          Completes (.loop sb x tofs) s (s.putGroup { g with lc := g.lc.set g.loops.length c, loops :=
            { start := (g.row k).pc + 8, stop := BitVec.ofInt 49 e, sdepth := g.serials.length } :: g.loops }) g k))
    ∧ (g.loops = [] → (Issues s g k .lend → Traps .lend s g k (trapOf 0x15)) ∧ (Issues s g k .lendX → Traps .lendX s g k (trapOf 0x15)))
    ∧ ∀ (l : LoopRec) (rest : List LoopRec), g.loops = l :: rest →
      let split := g.single = false ∨ g.serials.length ≠ l.sdepth
      let c := g.lc.getD rest.length 0
      (Issues s g k .lend →
        ((g.row k).pc ≠ l.stop → Traps .lend s g k (trapOf 0x15))
        ∧ ((g.row k).pc = l.stop → split → Traps .lend s g k (trapOf 0x13))
        ∧ ((g.row k).pc = l.stop → ¬ split → 1 < c.toNat →
            JumpsTo .lend s (s.putGroup { g with lc := g.lc.set rest.length (BitVec.ofNat 32 (c.toNat - 1)) }) g k l.start)
        ∧ ((g.row k).pc = l.stop → ¬ split → c.toNat ≤ 1 →
            Completes .lend s (s.putGroup { g with lc := g.lc.set rest.length 0, loops := rest }) g k))
      ∧ (Issues s g k .lendX →
        (split → Traps .lendX s g k (trapOf 0x13))
        ∧ (¬ split → Completes .lendX s (s.putGroup { g with loops := rest }) g k))

/-- O27. EXIT ends the lanes of its split; the group of the last split is gone once nothing of it is in flight. -/
def Obligations.ExitResults : Prop :=
  ∀ (s : State) (g : Group) (k : Nat), Issues s g k .exit →
    (g.held ≠ [] → Traps .exit s g k (trapNum 0x6B g.held.length))
    ∧ (g.held = [] → g.handler = none → g.ownsSerial k = false → (∃ j, j < 4 ∧ j ≠ k ∧ (g.row j).live = true) →
        ∃ t h, exec .exit s = .next t ∧ t.group g.uid = some h ∧ h.retired = g.retired + 1 ∧ h.exiting = g.exiting
          ∧ (∀ l, h.vraw l = g.vraw l) ∧ (∀ n, h.sraw n = g.sraw n)
          ∧ (∀ j, j < 4 → j ≠ k → (g.row j).live = true → h.carries (g.row j)))
    ∧ (g.held = [] → g.handler = none → g.serials = [] → g.ops = [] → (s.descOf g).det = false → (∀ j, j < 4 → j ≠ k → (g.row j).live = false) →
        ∃ t, exec .exit s = .next t ∧ t.group g.uid = none)

namespace Sys2Proof.Claims

/-- The group has retired the instruction as its only row, which is now r; memory reads as before. -/
def RetiredAlone (s t : State) (g h : Group) (k : Nat) (r : Row) : Prop :=
  t.group g.uid = some h ∧ h.retired = g.retired + 1 ∧ h.row k = r ∧ SameMemory s t

/-- The group has granted itself d blocks and its current frame is f, on top of the old ones; the registers it held are as before. -/
def Framed (g h : Group) (d : Nat) (f : Frame) (rest : List Frame) : Prop :=
  h.frames = f :: rest ∧ h.alloc = (if d = 0 then g.alloc else none) ∧ (∀ l, l < 16 * g.heldBlocks → h.vraw l = g.vraw l)
    ∧ (∀ n, n ≠ 3 → h.sraw n = g.sraw n) ∧ h.swb = g.swb ∧ h.heldBlocks = g.heldBlocks + d

/-- Every check of R346 and R141 that a call with demand d and args a makes has passed, and its blocks are free. -/
def mayCall (s : State) (g : Group) (d a : Nat) : Prop :=
  g.single = true ∧ g.handler = none ∧ g.depth ≠ 16 ∧ a ≤ 16 * g.cur.blks ∧ g.heldBlocks + d ≤ s.frameMax g
    ∧ (d = 0 ∨ (g.alloc = none ∧ s.canGrant g d = true))

/-- What a call that goes to pc leaves. -/
def Called (s t : State) (g : Group) (k : Nat) (i : Instr) (d a : Nat) (pc : Pc) : Prop :=
  ∃ h f, RetiredAlone s t g h k (rowAt g k pc) ∧ Framed g h d f g.frames
    ∧ f.first = g.heldBlocks ∧ f.blks = d ∧ f.init = d ∧ f.args = a ∧ f.swb = g.wb ∧ f.rpc = g.nextPc k i ∧ f.spilled = false
    ∧ h.wb = 16 * g.heldBlocks - a
    ∧ (g.isPending false 3 = false → h.sraw 3 = (g.nextPc k i).extractLsb' 0 32)

end Sys2Proof.Claims

/-- O28. CALL and CALLR push a frame, move the window, set LINK and go to their target; each failed check traps in its order. -/
def Obligations.CallResults : Prop :=
  ∀ (s : State) (g : Group) (k : Nat) (d a : BitVec 5) (tofs : BitVec 16) (b : R7),
    let x := Sys2Proof.Claims.targetOf g k tofs
    let v := g.readS s k b.toNat
    let wrong := fun (i : Instr) =>
      (g.depth = 16 → Traps i s g k (trapOf 0x21))
      ∧ (g.depth ≠ 16 → 16 * g.cur.blks < a.toNat → Traps i s g k (trapOf 0x20))
      ∧ (g.depth ≠ 16 → a.toNat ≤ 16 * g.cur.blks → s.frameMax g < g.heldBlocks + d.toNat → Traps i s g k (trapOf 0x22))
    (Issues s g k (.call d a tofs) →
      (g.single = false → Traps (.call d a tofs) s g k (trapOf 0x12))
      ∧ (g.single = true → g.handler ≠ none → Traps (.call d a tofs) s g k (trapOf 0x20))
      ∧ (g.single = true → g.handler = none → ¬ Sys2Proof.Claims.inRange s g x → Traps (.call d a tofs) s g k (trapAt 0x17 (x % 2 ^ 64).toNat 0))
      ∧ (g.single = true → g.handler = none → Sys2Proof.Claims.inRange s g x → wrong (.call d a tofs))
      ∧ (Sys2Proof.Claims.mayCall s g d.toNat a.toNat → Sys2Proof.Claims.inRange s g x →
          ∃ t, exec (.call d a tofs) s = .next t ∧ Sys2Proof.Claims.Called s t g k (.call d a tofs) d.toNat a.toNat (BitVec.ofInt 49 x)))
    ∧ (Issues s g k (.callr b d a) →
      (g.single = false → Traps (.callr b d a) s g k (trapOf 0x12))
      ∧ (g.single = true → g.handler ≠ none → Traps (.callr b d a) s g k (trapOf 0x20))
      ∧ (g.single = true → g.handler = none → v.toNat % 4 ≠ 0 →
          Traps (.callr b d a) s g k (trapAt 0x16 ((g.codeRange s).toNat * 2 ^ 32 + v.toNat) 0))
      ∧ (g.single = true → g.handler = none → v.toNat % 4 = 0 → wrong (.callr b d a))
      ∧ (Sys2Proof.Claims.mayCall s g d.toNat a.toNat → v.toNat % 4 = 0 →
          ∃ t, exec (.callr b d a) s = .next t ∧ Sys2Proof.Claims.Called s t g k (.callr b d a) d.toNat a.toNat
            (BitVec.ofNat 49 ((g.codeRange s).toNat * 2 ^ 32 + v.toNat))))

/-- O29. RET and UNWIND pop their frames, restore WB and free the blocks; RET goes to LINK, UNWIND sets it. -/
def Obligations.ReturnAndUnwindResults : Prop :=
  ∀ (s : State) (g : Group) (k : Nat),
    (Issues s g k .ret →
      (g.single = false → Traps .ret s g k (trapOf 0x12))
      ∧ (g.single = true → g.handler ≠ none → Traps .ret s g k (trapOf 0x20))
      ∧ (g.single = true → g.handler = none → g.depth ≤ 1 → Traps .ret s g k (trapOf 0x20))
      ∧ (g.single = true → g.handler = none → 1 < g.depth → (g.readS s k 3).toNat % 4 ≠ 0 →
          Traps .ret s g k (trapAt 0x16 ((g.codeRange s).toNat * 2 ^ 32 + (g.readS s k 3).toNat) 0))
      ∧ (g.single = true → g.handler = none → 1 < g.depth → (g.readS s k 3).toNat % 4 = 0 → g.lateIn g.cur.first g.heldBlocks = false →
          ∃ t h, exec .ret s = .next t
            ∧ Sys2Proof.Claims.RetiredAlone s t g h k
                (Sys2Proof.Claims.rowAt g k (BitVec.ofNat 49 ((g.codeRange s).toNat * 2 ^ 32 + (g.readS s k 3).toNat)))
            ∧ h.frames = g.frames.tail ∧ h.wb = g.cur.swb ∧ h.swb = g.swb ∧ (∀ n, h.sraw n = g.sraw n)
            ∧ (∀ l, l < 16 * g.cur.first → l < 1024 → h.vraw l = g.vraw l)
            ∧ ∀ b, g.cur.first ≤ b → b < g.heldBlocks → b < g.blockMap.length → h.blockMap[b]? = some .unmapped))
    ∧ ∀ b : SOp, Issues s g k (.unwind b) →
      let n := (g.sop s k b).toNat
      let f := g.frames.getD (n - 1) Frame.empty
      (g.single = false → Traps (.unwind b) s g k (trapOf 0x12))
      ∧ (g.single = true → (n = 0 ∨ 15 < n ∨ g.depth ≤ n) → Traps (.unwind b) s g k (trapOf 0x20))
      ∧ (g.single = true → 1 ≤ n → n ≤ 15 → n < g.depth → g.lateIn f.first g.heldBlocks = false →
          ∃ t h, exec (.unwind b) s = .next t
            ∧ Sys2Proof.Claims.RetiredAlone s t g h k (Sys2Proof.Claims.rowAt g k (g.nextPc k (.unwind b)))
            ∧ h.frames = g.frames.drop n ∧ h.wb = f.swb ∧ h.swb = g.swb ∧ (∀ n, n ≠ 3 → h.sraw n = g.sraw n)
            ∧ (g.isPending false 3 = false → h.sraw 3 = f.rpc.extractLsb' 0 32)
            ∧ ∀ l, l < 16 * f.first → l < 1024 → h.vraw l = g.vraw l)

/-- O30. ACQUIRE and RELEASE grow and shrink the frame; WBASE and SWIN move the windows; out of range they trap. -/
def Obligations.FrameSizeAndWindowResults : Prop :=
  ∀ (s : State) (g : Group) (k : Nat) (b : SOp),
    let n := (g.sop s k b).toNat
    (g.single = false →
      (Issues s g k (.acquire b) → Traps (.acquire b) s g k (trapOf 0x12)) ∧ (Issues s g k (.release b) → Traps (.release b) s g k (trapOf 0x12))
      ∧ (Issues s g k (.wbase b) → Traps (.wbase b) s g k (trapOf 0x12)) ∧ (Issues s g k (.swin b) → Traps (.swin b) s g k (trapOf 0x12)))
    ∧ (g.single = true → Issues s g k (.acquire b) →
      (g.handler ≠ none ∨ n = 0 ∨ 16 < n → Traps (.acquire b) s g k (trapOf 0x20))
      ∧ (g.handler = none → 1 ≤ n → n ≤ 16 → s.frameMax g < g.heldBlocks + n → Traps (.acquire b) s g k (trapOf 0x22))
      ∧ (g.handler = none → 1 ≤ n → n ≤ 16 → g.heldBlocks + n ≤ s.frameMax g → g.alloc = none → s.canGrant g n = true → g.frames ≠ [] →
          ∃ t h, exec (.acquire b) s = .next t
            ∧ Sys2Proof.Claims.RetiredAlone s t g h k (Sys2Proof.Claims.rowAt g k (g.nextPc k (.acquire b)))
            ∧ Sys2Proof.Claims.Framed g h n { g.cur with blks := g.cur.blks + n } g.frames.tail ∧ h.sraw 3 = g.sraw 3 ∧ h.wb = g.wb
            ∧ ((∀ b, (s.unheldBlocks g.core g.part).contains b = true → s.foreign g b = true) →
                ∀ l, 16 * g.heldBlocks ≤ l → l < 16 * (g.heldBlocks + n) → l < 1024 → h.vraw l = zeroLanes)))
    ∧ (g.single = true → Issues s g k (.release b) →
      (g.handler ≠ none ∨ n = 0 ∨ 16 < n ∨ g.cur.blks < g.cur.init + n → Traps (.release b) s g k (trapOf 0x20))
      ∧ (g.handler = none → 1 ≤ n → n ≤ 16 → g.cur.init + n ≤ g.cur.blks → g.lateIn (g.heldBlocks - n) g.heldBlocks = false → g.frames ≠ [] →
          ∃ t h, exec (.release b) s = .next t
            ∧ Sys2Proof.Claims.RetiredAlone s t g h k (Sys2Proof.Claims.rowAt g k (g.nextPc k (.release b)))
            ∧ h.frames = { g.cur with blks := g.cur.blks - n } :: g.frames.tail ∧ h.wb = g.wb ∧ h.swb = g.swb ∧ (∀ m, h.sraw m = g.sraw m)
            ∧ ∀ l, l < 16 * (g.heldBlocks - n) → l < 1024 → h.vraw l = g.vraw l))
    ∧ (g.single = true → Issues s g k (.wbase b) →
      let low := if g.handler = none then 16 * g.cur.first - g.cur.args else 0
      (n < low ∨ 16 * g.heldBlocks ≤ n → Traps (.wbase b) s g k (trapOf 0x20))
      ∧ (low ≤ n → n < 16 * g.heldBlocks → Completes (.wbase b) s (s.putGroup { g with wb := n }) g k))
    ∧ (g.single = true → Issues s g k (.swin b) →
      (n % 8 ≠ 0 ∨ n < 8 ∨ 904 < n → Traps (.swin b) s g k (trapOf 0x26))
      ∧ (n % 8 = 0 → 8 ≤ n → n ≤ 904 → Completes (.swin b) s (s.putGroup { g with swb := n }) g k))

/-- O31. Taking a trap writes the record, masks the row to its OWN, opens the handler's window and goes to TRAP_ENTRY. -/
def Obligations.TrapEntryRecord : Prop :=
  ∀ (s : State) (g : Group) (k : Nat) (p : Pending), s.group g.uid = some g → (g.row k).live = true → g.handler = none →
    (s.descOf g).trapEntry ≠ 0 → s.trapFrames g.core g.part < 2 →
    ∃ h x, (s.raiseTrap g k p).group g.uid = some h ∧ h.handler = some x ∧ x.carried = 0
      ∧ laneOf (h.vraw 1024) 0 = BitVec.ofNat 32 p.cause
      ∧ laneOf (h.vraw 1024) 1 = (g.row k).pc.extractLsb' 0 32 ∧ laneOf (h.vraw 1024) 2 = ((g.row k).pc.extractLsb' 32 17).setWidth 32
      ∧ laneOf (h.vraw 1024) 3 = p.detail ∧ laneOf (h.vraw 1024) 4 = BitVec.ofNat 32 p.va ∧ laneOf (h.vraw 1024) 5 = BitVec.ofNat 32 (p.va / 2 ^ 32)
      ∧ laneOf (h.vraw 1024) 6 = BitVec.ofNat 32 k
      ∧ (∀ n, n < 3 → laneOf (h.vraw 1024) (7 + n) = maskWord (g.row k).mask n)
      ∧ (∀ n, n < 5 → laneOf (h.vraw 1024) (10 + n) = g.sraw (3 + n))
      ∧ laneOf (h.vraw 1024) 15 = BitVec.ofNat 32 g.swb ∧ (∀ n, n < 3 → laneOf (h.vraw 1024) (16 + n) = maskWord p.lanes n)
      ∧ laneOf (h.vraw 1024) 19 = p.insn ∧ laneOf (h.vraw 1024) 20 = BitVec.ofNat 32 p.elected
      ∧ (∀ n, 21 ≤ n → laneOf (h.vraw 1024) n = 0) ∧ (∀ r, 1024 < r → h.vraw r = zeroLanes)
      ∧ h.swb = 904 ∧ (h.row k).mask = (g.row k).own ∧ (h.row k).pc = (s.descOf g).trapEntry ∧ (h.row k).live = true
      ∧ (∀ j, j ≠ k → (g.row j).live = true → h.row j = { g.row j with stopped := true })
      ∧ (∀ n, h.sraw n = g.sraw n) ∧ (∀ l, l < 1024 → h.vraw l = g.vraw l) ∧ h.retired = g.retired
      ∧ h.frames = g.frames ∧ h.wb = g.wb ∧ SameMemory s (s.raiseTrap g k p)

/-- O32. TRAP and BRK retire, then take their trap with EPC at the next instruction and their code in DETAIL. -/
def Obligations.TrapAndBreakTrapAfterThemselves : Prop :=
  ∀ (s : State) (g : Group) (k : Nat) (code : R7), ∀ i ∈ [Instr.trap code, Instr.brk code], Issues s g k i →
    (g.handler = none → (s.descOf g).trapEntry ≠ 0 → s.trapFrames g.core g.part < 2 →
      ∃ t h, exec i s = .next t ∧ t.group g.uid = some h ∧ h.handler.isSome = true ∧ h.retired = g.retired + 1
        ∧ laneOf (h.vraw 1024) 0 = (if i = .trap code then 2 else 3) ∧ laneOf (h.vraw 1024) 3 = code.setWidth 32
        ∧ laneOf (h.vraw 1024) 1 = ((g.row k).pc + 4).extractLsb' 0 32 ∧ laneOf (h.vraw 1024) 2 = (((g.row k).pc + 4).extractLsb' 32 17).setWidth 32
        ∧ laneOf (h.vraw 1024) 19 = i.insn ∧ (h.row k).pc = (s.descOf g).trapEntry ∧ SameMemory s t)
    ∧ (g.handler ≠ none ∨ (s.descOf g).trapEntry = 0 →
      ∃ t, exec i s = .next t ∧ ∀ h, t.group g.uid = some h → h.exiting = true ∧ ∀ j, (h.row j).live = false)

/-- O33. TRET restores what the record holds and resumes every stopped row; each failed check traps in its order. -/
def Obligations.ReturnFromTrapResults : Prop :=
  ∀ (s : State) (g : Group) (k : Nat), Issues s g k .tret →
    (g.handler = none → Traps .tret s g k (trapOf 0x04))
    ∧ ∀ x, g.handler = some x →
      let epc := g.recEpc
      let swbOk := g.recSwb % 8 = 0 ∧ 8 ≤ g.recSwb ∧ g.recSwb ≤ 904
      let inCode := epc.toNat / 2 ^ 32 = g.codeHi.toNat
      (g.reconverged x k = false → Traps .tret s g k (trapOf 0x12))
      ∧ (g.reconverged x k = true → g.lateToFrame = false →
        (epc.toNat % 4 ≠ 0 → Traps .tret s g k (trapAt 0x16 epc.toNat 0))
        ∧ (epc.toNat % 4 = 0 → ¬ inCode → Traps .tret s g k (trapAt 0x17 epc.toNat 0))
        ∧ (epc.toNat % 4 = 0 → inCode → ¬ swbOk → Traps .tret s g k (trapOf 0x26))
        ∧ (epc.toNat % 4 = 0 → inCode → swbOk →
          ∃ t h, exec .tret s = .next t ∧ t.group g.uid = some h ∧ SameMemory s t ∧ h.handler = none ∧ h.swb = g.recSwb
            ∧ h.sraw 3 = laneOf (g.vraw 1024) 10 ∧ h.sraw 4 = laneOf (g.vraw 1024) 11 ∧ h.sraw 5 = laneOf (g.vraw 1024) 12
            ∧ h.sraw 7 = laneOf (g.vraw 1024) 14 ∧ h.sraw 6 = (laneOf (g.vraw 1024) 13 &&& 0x3F) ||| x.carried.setWidth 32
            ∧ (∀ n, n < 3 ∨ 7 < n → h.sraw n = g.sraw n) ∧ (∀ l, l < 1024 → h.vraw l = g.vraw l) ∧ h.retired = g.retired + 1
            ∧ h.carries { g.row k with pc := epc, mask := g.recMask &&& (g.row k).own, wait := .none, stopped := false }
            ∧ ∀ j, (h.row j).stopped = false))

/-- O34. Writing s0, s1 or s2 sets that word of MASK to the value AND OWN, for the issuing split alone. -/
def Obligations.MaskWritesAndReads : Prop :=
  ∀ (s : State) (g : Group) (k n : Nat) (v : Word), n < 3 → k < g.rows.length →
    let h := g.writeS s k n v
    (∀ l, l < 32 → (h.row k).mask.getLsbD (32 * n + l) = (v.getLsbD l && (g.row k).own.getLsbD (32 * n + l)))
    ∧ (∀ b, b < 96 → b / 32 ≠ n → (h.row k).mask.getLsbD b = ((g.row k).mask.getLsbD b && (g.row k).own.getLsbD b))
    ∧ (∀ j, j ≠ k → h.row j = g.row j) ∧ h = { g with rows := h.rows } ∧ h.row k = { g.row k with mask := (h.row k).mask }
    ∧ ∀ l, l < 32 → (g.readS s k n).getLsbD l = (g.row k).mask.getLsbD (32 * n + l)

/-- O35. A byte written at home is read back, no other byte changes, and the memory list keeps its canonical form. -/
def Obligations.MemoryReadsWhatWasWritten : Prop :=
  (∀ (s : State) (pa q : Nat) (b : Byte),
    (inDram pa = true → s.chanBad pa = false → inGen pa = false →
        (s.physPut pa b).physByte q = if q = pa then (if s.lineBad pa then none else some b) else s.physByte q)
    ∧ (inHost pa = true → (s.physPut pa b).physByte q = if q = pa then some b else s.physByte q)
    ∧ (inDram pa = false → inHost pa = false → s.physPut pa b = s)
    ∧ (inDram pa = true → s.chanBad pa = true ∨ inGen pa = true → s.physPut pa b = s)
    ∧ (s.memOk → (s.physPut pa b).memOk))
  ∧ ∀ m n : Memory, m.wf = true → n.wf = true → (∀ a, m.read a = n.read a) → m = n

namespace Sys2Proof.Claims

/-- The group has retired the instruction, and its row goes on at the next one. -/
def Retired (t : State) (g h : Group) (k : Nat) (i : Instr) : Prop :=
  t.group g.uid = some h ∧ h.retired = g.retired + 1 ∧ h.carries (g.rowAfter k i)

/-- No register of the group has changed. -/
def SameRegisters (g h : Group) : Prop := (∀ l, h.vraw l = g.vraw l) ∧ ∀ n, h.sraw n = g.sraw n

/-- The instruction completes, and what it has done is to put one operation in flight, of a class, with a body and destinations; no
register has changed. -/
def PutsInFlight (i : Instr) (s t : State) (g : Group) (k : Nat) (c : Option Cls) (b : OpBody) (d : List (Bool × Nat)) : Prop :=
  exec i s = .next t ∧ ∃ h o, Retired t g h k i ∧ SameRegisters g h ∧ h.ops = g.ops ++ [o] ∧ o.cls = c ∧ o.body = b ∧ o.dests = d
    ∧ o.perf = false ∧ o.done = false

/-- The loads, with their kind of location and whether they are scalar (R375, R377, R378). -/
def loads : List ((MOps → Instr) × Space × Bool) :=
  [(.ld, .virt, false), (.lds, .virt, true), (.ldsh, .stash, false), (.ldcl, .cluster, false)]
/-- The stores (R375, R377, R378). -/
def stores : List ((MOps → Instr) × Space × Bool) :=
  [(.st, .virt, false), (.sts, .virt, true), (.stsh, .stash, false), (.stcl, .cluster, false)]
/-- The atomics, with their operation (8 exchange, 9 compare and swap) and whether they return the old value (R379). -/
def atomics : List ((MOps → Instr) × (MOps → Nat) × Bool) :=
  [(.atom, aopOf, true), (.atomn, aopOf, false), (.cas, fun _ => 9, true), (.xchg, fun _ => 8, true)]

/-- No walk of some lanes' addresses waits for the retried read of a table's line (R35). -/
def walksReady (s : State) (g : Group) (sp : Space) (as : List (Nat × Nat)) : Prop := sp = .virt → s.walksHeld g.ctx as = false

/-- Every access of some lanes' addresses has a location that it may use now, for accesses of n bytes. -/
def accessible (s : State) (g : Group) (sp : Space) (k : AccKind) (n : Nat) (as : List (Nat × Nat)) : Prop :=
  s.addrTrap g sp n n as = none ∧ walksReady s g sp as ∧ faultsOf (s.locate g sp k as) = [] ∧ errsOf (s.locate g sp k as) = []
    ∧ (oksOf (s.locate g sp k as)).all (fun l => !s.locWaits l.2) = true

/-- Neither purity nor races are checked (R219, R262). -/
def unchecked (s : State) (g : Group) : Prop := (s.descOf g).purityCheck = false ∧ (s.descOf g).raceMode = 0

/-- The group has no atomic in flight. -/
def noAtomics (g : Group) : Prop := ∀ o ∈ g.ops, ∀ op w d ls, o.body ≠ .atomic op w d ls

/-- Nothing that the caches hold stands between an access of a group and its home: no stash is mapped, no SRAM word is in error, the core's L1
holds no line of another context, and no location is NEAR. -/
def plainCaches (s : State) (g : Group) (ls : List (Nat × Loc)) : Prop :=
  (∀ t ∈ s.teams, ∀ m ∈ t.maps, m = none) ∧ s.sram = [] ∧ (∀ e ∈ (s.core g.core).l1, e.2.ctx = g.ctx) ∧ ∀ l ∈ ls, l.2.attr.near = false

/-- Extend of R376. -/
def extended (sz v : Nat) : Nat :=
  if sz = 1 then ((BitVec.ofNat 8 v).signExtend 32).toNat else if sz = 3 then ((BitVec.ofNat 16 v).signExtend 32).toNat else v

end Sys2Proof.Claims

/-- O36. LD, LDS, LDSH and LDCL complete at once, with their destinations pending and their data on its way. -/
def Obligations.LoadResults : Prop :=
  ∀ p ∈ Sys2Proof.Claims.loads, ∀ (s : State) (g : Group) (k : Nat) (m : MOps), Issues s g k (p.1 m) →
    let n := szBytes m.sz
    let as := accAddrs s g k m p.2.1 p.2.2
    let ls := oksOf (s.locate g p.2.1 .read as)
    let regs := m.data.map fun d => if p.2.2 then g.sreg d else g.vreg d
    Sys2Proof.Claims.accessible s g p.2.1 .read n as → g.acqPending = false → g.full .ld = false → s.anyHeld ls = false →
    Sys2Proof.Claims.unchecked s g → Sys2Proof.Claims.noAtomics g →
    ∃ t e, Sys2Proof.Claims.PutsInFlight (p.1 m) s t g k (some .ld) (.load e) (regs.map fun r => (!p.2.2, r))
      ∧ (Sys2Proof.Claims.plainCaches s g ls → (∀ l ∈ ls, (s.loadNat g l.2 (!isOff l.2.va) n).isSome = true) →
          e = none ∧ SameMemory s t
          ∧ ∃ h o, t.group g.uid = some h ∧ h.ops = g.ops ++ [o]
            ∧ (∀ l ∈ ls, ∀ v, s.loadNat g l.2 (!isOff l.2.va) n = some v → ∀ j r, regs[j]? = some r →
                ∃ w ∈ o.late, w.vec = !p.2.2 ∧ w.reg = r ∧ w.lane = l.1 ∧ w.landed = false ∧ w.contested = false
                  ∧ w.value = BitVec.ofNat 32 (Sys2Proof.Claims.extended m.sz v / 2 ^ (32 * j)))
            ∧ ∀ w ∈ o.late, w.reg ∈ regs ∧ ∃ l ∈ ls, l.1 = w.lane)

/-- O37. An access outside its space or not aligned traps before any effect; a translation fault parks the group. -/
def Obligations.AccessTraps : Prop :=
  (∀ (s : State) (g : Group) (k : Nat) (m : MOps) (i : Instr) (scalar : Bool) (kind : AccKind) (agent n : Nat),
    (i = .ld m ∧ scalar = false ∨ i = .lds m ∧ scalar = true) ∧ kind = .read ∧ agent = 0 ∧ n = szBytes m.sz
      ∨ (i = .st m ∧ scalar = false ∨ i = .sts m ∧ scalar = true) ∧ kind = .write ∧ agent = 1 ∧ n = szBytes m.sz
      ∨ (i = .atom m ∨ i = .atomn m ∨ i = .cas m ∨ i = .xchg m) ∧ scalar = false ∧ kind = .write ∧ agent = 2 ∧ n = 4 * m.atomRegs →
    Issues s g k i →
    let as := accAddrs s g k m .virt scalar
    let far := as.filter fun a => decide (2 ^ 49 ≤ a.2)
    let odd := as.filter fun a => decide (a.2 % n ≠ 0)
    let bad := faultsOf (s.locate g .virt kind as)
    (∀ b r, far = b :: r → Traps i s g k (trapAt 0x30 b.2 (lanesMask far)))
    ∧ (far = [] → ∀ b r, odd = b :: r → Traps i s g k (trapAt 0x31 b.2 (lanesMask odd)))
    ∧ (far = [] → odd = [] → s.walksHeld g.ctx as = false → ∀ b r, bad = b :: r → Parks i s g k b.2.2 (if b.2.2 = 6 then 4 else agent) b.2.1 (lanesMask bad)))
  ∧ ∀ (s : State) (g : Group) (k : Nat) (m : MOps) (i : Instr) (sp : Space),
      (i = .ldsh m ∨ i = .stsh m) ∧ sp = .stash ∨ (i = .ldcl m ∨ i = .stcl m) ∧ sp = .cluster → Issues s g k i →
      let as := accAddrs s g k m sp false
      let odd := as.filter fun a => decide (a.2 % szBytes m.sz ≠ 0)
      (∀ a, as.find? (fun a => (s.stashLoc g sp a.2 (szBytes m.sz)).isNone) = some a → Traps i s g k (trapNum 0x36 a.2))
      ∧ (as.find? (fun a => (s.stashLoc g sp a.2 (szBytes m.sz)).isNone) = none → ∀ b r, odd = b :: r →
          Traps i s g k (trapAt 0x31 b.2 (lanesMask odd)))

/-- O38. ST, STS, STSH and STCL complete at once, with the bytes of each accessed lane on their way to its own address. -/
def Obligations.StoreResults : Prop :=
  ∀ p ∈ Sys2Proof.Claims.stores, ∀ (s : State) (g : Group) (k : Nat) (m : MOps), Issues s g k (p.1 m) →
    let n := szBytes m.sz
    let as := accAddrs s g k m p.2.1 p.2.2
    let ls := oksOf (s.locate g p.2.1 .write as)
    let data := fun lane => (m.data.zipIdx.map fun dk =>
      (if p.2.2 then g.readS s k dk.1 else laneOf (g.readV s dk.1) lane).toNat * 2 ^ (32 * dk.2)).sum
    let ws := ls.flatMap fun l => (List.range n).map fun j =>
      ({ va := l.2.va + j, place := (l.2.plus j).place, attr := l.2.attr, val := BitVec.ofNat 8 (data l.1 / 2 ^ (8 * j)) } : ByteWrite)
    Sys2Proof.Claims.accessible s g p.2.1 .write n as → g.full .st = false → Sys2Proof.Claims.unchecked s g →
    (m.mod.extractLsb' 3 2 = 2 → s.det g = true ∨ g.ops = []) →
    ∃ t, Sys2Proof.Claims.PutsInFlight (p.1 m) s t g k (some .st) (.store ws none) []
      ∧ (Sys2Proof.Claims.plainCaches s g ls → SameMemory s t)

/-- O39. ATOM, ATOMN, CAS and XCHG complete at once, with an atomic of each active lane on its way to its home. -/
def Obligations.AtomicResults : Prop :=
  ∀ p ∈ Sys2Proof.Claims.atomics, ∀ (s : State) (g : Group) (k : Nat) (m : MOps), Issues s g k (p.1 m) →
    let w := if atomW64 m then 64 else 32
    let as := accAddrs s g k m .virt false
    let ls := oksOf (s.locate g .virt .write as)
    let cls : Cls := if p.2.2 then .ld else .st
    let dest := if p.2.2 then (run m.d.toNat (w / 32)).map g.vreg else []
    Sys2Proof.Claims.accessible s g .virt .write (w / 8) as →
    (∀ b r, hostLanes ls = b :: r → Traps (p.1 m) s g k (trapAt 0x32 b.2 (lanesMask (hostLanes ls))))
    ∧ (hostLanes ls = [] → g.acqPending = false → g.full cls = false → Sys2Proof.Claims.unchecked s g →
        (atomRel m = true → s.det g = true ∨ g.ops = []) →
        ∃ t, Sys2Proof.Claims.PutsInFlight (p.1 m) s t g k (some cls)
            (.atomic (p.2.1 m) (atomW64 m) dest (ls.map fun l => { lane := l.1, va := l.2.va, place := l.2.place, attr := l.2.attr, a := g.laneVal s m.d.toNat w l.1, b := if p.2.1 m = 9 then g.laneVal s (m.d.toNat + w / 32) w l.1 else 0 }))
            (dest.map fun r => (true, r))
          ∧ (Sys2Proof.Claims.plainCaches s g ls → SameMemory s t))

namespace Sys2Proof.Claims

/-- The new value of an atomic on a w-bit location (R379): 0 add, 1 and, 2 or, 3 xor, 4 signed min, 5 signed max, 6 unsigned min,
7 unsigned max, 8 exchange; 9 compare and swap, which leaves a location that does not hold the expected value a. -/
def atomicValue (op w old a b : Nat) : Option Nat :=
  let sg := fun x : Nat => if x < 2 ^ (w - 1) then (x : Int) else (x : Int) - 2 ^ w
  if op = 0 then some ((old + a) % 2 ^ w) else if op = 1 then some (Nat.land old a) else if op = 2 then some (Nat.lor old a)
  else if op = 3 then some (Nat.xor old a) else if op = 4 then some (if sg old ≤ sg a then old else a)
  else if op = 5 then some (if sg a ≤ sg old then old else a) else if op = 6 then some (if old ≤ a then old else a)
  else if op = 7 then some (if a ≤ old then old else a) else if op = 8 then some a
  else if old = a then some b else none

/-- The bytes that a store writes all lie in DRAM outside the generation store, on lines in service, each at its own address, are
written at home, and count no generation. -/
def plainWrites (s : State) (ws : List ByteWrite) : Prop :=
  (∀ w ∈ ws, ∃ pa, w.place = .phys pa ∧ inDram pa = true ∧ inGen pa = false ∧ s.lineBad pa = false)
    ∧ (ws.map (·.place)).Nodup ∧ ∀ w ∈ ws, w.attr.track = false ∧ (w.attr.coh ≠ 0 ∨ w.attr.cache ≠ 0)

/-- The group's one operation in flight, which the part may take further, and nothing else of the group is at hand. -/
def only (s : State) (g : Group) (o : Op) : Prop :=
  s.group g.uid = some g ∧ g.ops = [o] ∧ o.perf = false ∧ o.done = false ∧ o.deferred = false ∧ o.paused = none ∧ o.flags = 0
    ∧ ∀ h ∈ s.groups, h.exiting = false

/-- No other group has an operation in flight, so that no message of the mesh comes before the group's (R176), and no SRAM word is in error. -/
def alone (s : State) (g : Group) : Prop := (∀ h ∈ s.groups, h = g ∨ h.ops = []) ∧ s.sram = []

end Sys2Proof.Claims

/-- O40. A load's data lands in its lanes, a store writes its own bytes alone, and an atomic applies its lanes and returns the
old values. -/
def Obligations.InFlightOperationsComplete : Prop :=
  (∀ (s : State) (g : Group) (o : Op), Sys2Proof.Claims.only s g o → o.cls = some .ld → o.body = .load none →
    (∀ w ∈ o.late, w.contested = false ∧ if w.vec then w.lane < 96 ∧ (1024 ≤ w.reg → g.handler ≠ none) else w.lane = 0) →
    (∀ r, (g.vraw r).length = 96) → (o.late.map fun w => (w.vec, w.reg, w.lane)).Nodup →
    ∃ t h, exec (.loadDataLanded g.uid) s = .next t ∧ t.group g.uid = some h ∧ h.count .ld = 0 ∧ SameMemory s t
      ∧ (∀ w ∈ o.late, (if w.vec then laneOf (h.vraw w.reg) w.lane else h.sraw w.reg) = w.value)
      ∧ (∀ n, (∀ w ∈ o.late, w.vec = true ∨ w.reg ≠ n) → h.sraw n = g.sraw n)
      ∧ ∀ r i, (∀ w ∈ o.late, w.vec = false ∨ w.reg ≠ r ∨ w.lane ≠ i) → laneOf (h.vraw r) i = laneOf (g.vraw r) i)
  ∧ (∀ (s : State) (g : Group) (o : Op) (ws : List ByteWrite), Sys2Proof.Claims.only s g o → Sys2Proof.Claims.alone s g → o.cls = some .st →
    o.body = .store ws none → o.late = [] → Sys2Proof.Claims.plainWrites s ws → (∀ t ∈ s.teams, ∀ m ∈ t.maps, m = none) →
    ∃ t h, exec (.storePerformed g.uid) s = .next t ∧ t.group g.uid = some h ∧ h.ops = [] ∧ Sys2Proof.Claims.SameRegisters g h
      ∧ (∀ w ∈ ws, ∀ pa, w.place = .phys pa → t.dramByte pa = w.val)
      ∧ (∀ a, (∀ w ∈ ws, w.place ≠ .phys a) → t.dramByte a = s.dramByte a)
      ∧ (∀ a, t.hostByte a = s.hostByte a) ∧ ∀ u a, t.stashByte u a = s.stashByte u a)
  ∧ ∀ (s : State) (g : Group) (o : Op) (op : Nat) (w64 ret : Bool) (d : Nat) (l : AtomLane) (pa old : Nat),
    let n := if w64 then 8 else 4
    let dest := if ret then run d (n / 4) else []
    Sys2Proof.Claims.only s g o → Sys2Proof.Claims.alone s g → o.cls = some (if ret then .ld else .st) → o.body = .atomic op w64 dest [l] →
    o.late = [] → o.acq = 0 → o.err = none → s.bookOf g.ctx l.va = none → l.place = .phys pa → inDram pa = true → inGen pa = false → pa % n = 0 → s.lineBad pa = false → s.physNat pa n = some old →
    l.attr.coh ≠ 0 → l.attr.track = false → l.lane < 96 → (∀ r ∈ dest, r < 1024 ∨ g.handler ≠ none) → op ≤ 9 → l.a < 2 ^ (8 * n) → l.b < 2 ^ (8 * n) →
    (∀ r, (g.vraw r).length = 96) → (∀ t ∈ s.teams, ∀ m ∈ t.maps, m = none) →
    ∃ t h, exec (.atomicAtHome g.uid) s = .next t ∧ t.group g.uid = some h ∧ h.count .ld = 0 ∧ h.count .st = 0
      ∧ t.physNat pa n = some ((Sys2Proof.Claims.atomicValue op (8 * n) old l.a l.b).getD old)
      ∧ (∀ a, a < pa ∨ pa + n ≤ a → t.dramByte a = s.dramByte a)
      ∧ (∀ a, t.hostByte a = s.hostByte a) ∧ (∀ u a, t.stashByte u a = s.stashByte u a)
      ∧ (∀ j, j < dest.length → laneOf (h.vraw (d + j)) l.lane = BitVec.ofNat 32 (old / 2 ^ (32 * j)))
      ∧ (∀ r i, (¬ (d ≤ r ∧ r < d + dest.length) ∨ i ≠ l.lane) → laneOf (h.vraw r) i = laneOf (g.vraw r) i)
      ∧ ∀ m, h.sraw m = g.sraw m

namespace Sys2Proof.Claims

/-- The instruction completes with its registers as they were and its operations in flight as given. -/
def Passes (i : Instr) (s t : State) (g h : Group) (k : Nat) : Prop := exec i s = .next t ∧ Retired t g h k i ∧ SameRegisters g h

end Sys2Proof.Claims

/-- O41. STASH.MAP installs its mapping, and STASH.UNMAP, CWB and CINV go on their way, where their checks pass. -/
def Obligations.StashAndCacheResults : Prop :=
  ∀ (s : State) (g : Group) (k : Nat) (tm : Team), s.team g.team = some tm →
    (∀ (b a : R7) (m : BitVec 3), Issues s g k (.stashMap b a m) →
      let va := g.spair s k a.toNat
      let off := (g.readS s k b.toNat).toNat
      let len := (g.readS s k (b.toNat + 1)).toNat
      let aligned := va % 128 = 0 ∧ off % 128 = 0 ∧ len % 128 = 0 ∧ len ≠ 0
      (s.mapUsed tm m.toNat = true ∨ ¬ aligned → Traps (.stashMap b a m) s g k (trapNum 0x37 m.toNat))
      ∧ (s.mapUsed tm m.toNat = false → aligned → tm.stashBytes < off + len → Traps (.stashMap b a m) s g k (trapNum 0x36 off))
      ∧ (s.mapUsed tm m.toNat = false → aligned → off + len ≤ tm.stashBytes → va + len ≤ 2 ^ 49 →
        (s.mapClash tm false va off len = true → Traps (.stashMap b a m) s g k (trapNum 0x37 m.toNat))
        ∧ (s.mapClash tm false va off len = false → s.walksHeld g.ctx ((pagesOf va (va + len)).map fun p => (0, p)) = false →
            s.pageFaultIn g true (pagesOf va (va + len)) = none → s.pageErrIn g (pagesOf va (va + len)) = none → s.unmapping tm.uid m.toNat = false → s.mapClash tm true va off len = false →
            s.det g = false → tm.maps.length = 8 →
            ∃ t h u, Sys2Proof.Claims.Passes (.stashMap b a m) s t g h k ∧ h.ops = g.ops ∧ t.team tm.uid = some u
              ∧ u.maps[m.toNat]? = some (some { va := va, off := off, len := len, filled := [], dirty := [], spoiled := [] }))))
    ∧ (∀ m : BitVec 3, Issues s g k (.stashUnmap m) →
      ((tm.maps.getD m.toNat none = none ∨ s.unmapping tm.uid m.toNat = true) → Traps (.stashUnmap m) s g k (trapNum 0x37 m.toNat))
      ∧ (tm.maps.getD m.toNat none ≠ none → s.unmapping tm.uid m.toNat = false → g.full .st = false →
          ∃ t, Sys2Proof.Claims.PutsInFlight (.stashUnmap m) s t g k (some .st) (.unmap m.toNat) [] ∧ SameMemory s t))
    ∧ ∀ (b a : R7) (inval : Bool), let i : Instr := if inval then .cinv b a else .cwb b a
      let va := g.spair s k a.toNat
      let len := (g.readS s k b.toNat).toNat
      Issues s g k i →
      (2 ^ 24 < len → Traps i s g k (trapOf 0x38))
      ∧ (len ≤ 2 ^ 24 → (2 ^ 49 ≤ va ∨ 2 ^ 49 < va + len) → Traps i s g k (trapAt 0x30 va 0))
      ∧ (len ≤ 2 ^ 24 → va < 2 ^ 49 → va + len ≤ 2 ^ 49 → s.walksHeld g.ctx ((pagesOf va (va + len)).map fun p => (0, p)) = false →
          s.pageFaultIn g false (pagesOf va (va + len)) = none → s.pageErrIn g (pagesOf va (va + len)) = none → g.full .st = false →
          ∃ t, Sys2Proof.Claims.PutsInFlight i s t g k (some .st) (.clean va (va + len) inval) [] ∧ (s.sram = [] → SameMemory s t))

/-- O42. REL, ACQ and PHASE complete in every state, with the phases, the acquire and the fence that R201, R202 and R385 give; WAIT and WAITR
complete at their thresholds and cover, and block above them. -/
def Obligations.ReleaseAcquireAndWaitResults : Prop :=
  (∀ (s : State) (g : Group) (k : Nat) (scope : BitVec 3), ∀ i ∈ [Instr.rel scope, Instr.acq scope, Instr.phase scope], Issues s g k i →
    ∃ t h, exec i s = .next t ∧ Sys2Proof.Claims.Retired t g h k i)
  ∧ (∀ (s : State) (g : Group) (k : Nat) (scope : BitVec 3), ∀ i ∈ [Instr.rel scope, Instr.phase scope], Issues s g k i →
    s.det g = true ∨ g.ops = [] →
    ∃ t h, Sys2Proof.Claims.Passes i s t g h k ∧ h.ops = g.ops
      ∧ h.phases = (if s.det g = true ∧ scope = 4 then g.phases else g.phases.zipIdx.map fun p => if p.2 < scope.toNat then (p.1 + 1) % 2 ^ 32 else p.1)
      ∧ h.sysRels = (if s.det g = true ∧ scope = 4 then g.sysRels + 1 else g.sysRels)
      ∧ (s.det g = false → h.fence = none)
      ∧ (i = .phase scope → 2 ≤ scope.toNat → ∀ e ∈ (t.core g.core).l1, ¬ (e.2.coh = 2 ∧ e.2.dirty = 0)))
  ∧ (∀ (s : State) (g : Group) (k : Nat) (scope : BitVec 3) (o : Op) (ws : List ByteWrite), Issues s g k (.rel scope) →
    Sys2Proof.Claims.only s g o → Sys2Proof.Claims.alone s g → o.cls = some .st → o.body = .store ws none → o.late = [] →
    Sys2Proof.Claims.plainWrites s ws → (∀ t ∈ s.teams, ∀ m ∈ t.maps, m = none) → s.det g = false → scope ≠ 0 →
    ∃ t h, Sys2Proof.Claims.Passes (.rel scope) s t g h k ∧ h.ops = [] ∧ h.fence = none
      ∧ (∀ w ∈ ws, ∀ pa, w.place = .phys pa → t.dramByte pa = w.val)
      ∧ ∀ a, (∀ w ∈ ws, w.place ≠ .phys a) → t.dramByte a = s.dramByte a)
  ∧ (∀ (s : State) (g : Group) (k : Nat) (scope : BitVec 3), Issues s g k (.acq scope) →
    ∃ t h, Sys2Proof.Claims.Passes (.acq scope) s t g h k ∧ h.ops = g.ops ∧ h.phases = g.phases ∧ SameMemory s t
      ∧ (if s.det g = false ∧ g.readPending = true then h.fence = some ⟨scope.toNat, false, true⟩ ∧ ∀ j, slotOf j = 1 → t.fenced h j = true
         else (s.det g = false → h.fence = none) ∧ (2 ≤ scope.toNat → ∀ e ∈ (t.core g.core).l1, ¬ (e.2.coh = 2 ∧ e.2.dirty = 0))))
  ∧ ∀ (s : State) (g : Group) (k : Nat) (tl cp : BitVec 4) (st ld : BitVec 6) (a : R7) (c : BitVec 2) (i : Instr) (ts : List (Cls × Nat)),
      i = .wait tl cp st ld ∧ ts = [(.ld, ld.toNat), (.st, st.toNat), (.cp, cp.toNat), (.tl, tl.toNat)]
        ∨ i = .waitr a c ∧ ts = [(([.ld, .st, .cp, .tl] : List Cls).getD c.toNat .tl, (g.readS s k a.toNat).toNat)] →
      Issues s g k i →
      ((∀ x ∈ ts, g.count x.1 ≤ x.2 ∨ x.1.max ≤ x.2) →
        ∃ t h, Sys2Proof.Claims.Passes i s t g h k ∧ SameMemory s t
          ∧ (∀ o ∈ h.ops, o ∈ g.ops) ∧ (∀ o ∈ g.ops, o.done = false → o ∈ h.ops)
          ∧ ∀ x ∈ ts, ∀ o ∈ g.ops, o.cls = some x.1 → o.done = true → (g.ops.map (·.uid)).Nodup →
              (o ∈ h.ops ↔ o ∈ ((g.ops.filter fun p => p.cls == some x.1).reverse.take x.2)))
      ∧ ((∃ x ∈ ts, x.2 < g.count x.1 ∧ x.2 < x.1.max) → ∃ w, Blocks i s s g k w)

namespace Sys2Proof.Claims

/-- What an instruction that writes v to operand sd has made of the group's scalars and its row (R115, R160, R331). -/
def ScalarWritten (g h : Group) (k : Nat) (i : Instr) (d : Nat) (v : Word) : Prop :=
  h.carries { g.rowAfter k i with mask := if d < 3 then setMaskWord (g.row k).mask d v &&& (g.row k).own else (g.row k).mask }
    ∧ (∀ n, d < 3 ∨ n ≠ g.sreg d → h.sraw n = g.sraw n)
    ∧ (3 ≤ d → let w := if g.sreg d = 6 then v &&& statusMask else v
        h.sraw (g.sreg d) = w ∨ ∃ x ∈ g.lateTo false (g.sreg d) 0, x.landed = true ∧ h.sraw (g.sreg d) = x.value)
    ∧ (3 ≤ d → g.isPending false (g.sreg d) = false → h.sraw (g.sreg d) = if g.sreg d = 6 then v &&& statusMask else v)

/-- No arrival of the group at an instruction waits for its boundary (R397). -/
def noArrival (g : Group) (pc : Nat) : Prop := ∀ o ∈ g.ops, ∀ loc drop, o.deferred = true → o.body ≠ .bar (.arrive loc drop pc)

end Sys2Proof.Claims

/-- O43. BAR.JOIN, BAR.EXPECT, BAR.ARRIVE and BAR.WAIT complete, with the effects of R208 to R214 and R389 on the group and on the barrier object, or
trap, or block. -/
def Obligations.BarrierResults : Prop :=
  ∀ (s : State) (g : Group) (k : Nat) (a : R7) (cl : Bool),
    let v := g.readS s k a.toNat
    (s.barLoc g cl v = none →
      (Issues s g k (.barJoin a cl) → Traps (.barJoin a cl) s g k ⟨0x40, v, 0, 0, 0⟩)
      ∧ (∀ b, Issues s g k (.barExpect b a cl) → Traps (.barExpect b a cl) s g k ⟨0x40, v, 0, 0, 0⟩)
      ∧ (∀ drop d, Issues s g k (.barArrive drop cl a d) → Traps (.barArrive drop cl a d) s g k ⟨0x40, v, 0, 0, 0⟩)
      ∧ ∀ b, Issues s g k (.barWait b a cl) → Traps (.barWait b a cl) s g k ⟨0x40, v, 0, 0, 0⟩)
    ∧ ∀ loc tm, s.barLoc g cl v = some loc → s.team loc.1 = some tm →
      (Issues s g k (.barJoin a cl) →
        (8 ≤ g.bars.length → Traps (.barJoin a cl) s g k ⟨0x41, v, 0, 0, 0⟩)
        ∧ (g.bars.length < 8 → (g.barReg loc).isSome = true → Traps (.barJoin a cl) s g k ⟨0x42, v, 0, 0, 0⟩)
        ∧ (g.bars.length < 8 → g.barReg loc = none →
            ∃ t, Sys2Proof.Claims.PutsInFlight (.barJoin a cl) s t g k none (.bar (.join loc cl)) [] ∧ SameMemory s t
              ∧ ∀ h, t.group g.uid = some h → h.bars = g.bars ++ [{ team := loc.1, off := loc.2, last := none }]))
      ∧ (∀ b, Issues s g k (.barExpect b a cl) →
          (g.full .st = false →
            ∃ t, Sys2Proof.Claims.PutsInFlight (.barExpect b a cl) s t g k (some .st) (.expect loc (g.readS s k b.toNat)) [] ∧ SameMemory s t)
          ∧ (g.full .st = true → Blocks (.barExpect b a cl) s s g k .counter))
      ∧ (∀ drop d, Issues s g k (.barArrive drop cl a d) →
          let i := Instr.barArrive drop cl a d
          let pc := (g.row k).pc.toNat
          -- the result of a deterministic round has come
          (∀ w r, g.answerAt pc = some (w :: r) →
            ∃ t h, exec i s = .next t ∧ t.group g.uid = some h ∧ h.retired = g.retired + 1 ∧ Sys2Proof.Claims.ScalarWritten g h k i d.toNat w
              ∧ (∀ l, h.vraw l = g.vraw l) ∧ SameMemory s t)
          ∧ (g.answerAt pc = none → Sys2Proof.Claims.noArrival g pc →
            (g.barReg loc = none → Traps i s g k ⟨0x42, v, 0, 0, 0⟩)
            ∧ ∀ r, g.barReg loc = some r →
              (s.det g = true → ∃ u, Blocks i s u g k .barArrive ∧ SameMemory s u)
              ∧ (s.det g = false →
                let s1 := s.performLines g.uid [(loc.1 + 1, loc.2 / 128)]
                (r.last = some (BitVec.ofNat 16 (s1.barAt loc).phase) → Traps i s g k ⟨0x42, v, 0, 0, 0⟩)
                ∧ (r.last ≠ some (BitVec.ofNat 16 (s1.barAt loc).phase) →
                    ∃ t h, exec i s = .next t ∧ t.group g.uid = some h ∧ h.retired = g.retired + 1)
                ∧ (g.ops = [] → r.last ≠ some (BitVec.ofNat 16 (tm.bar loc.2).phase) →
                  let old := tm.bar loc.2
                  let last := decide (old.arrived + 1 = old.expected)
                  let drops := if drop then (old.drops + 1) % 256 else old.drops
                  ∃ t h u, exec i s = .next t ∧ t.group g.uid = some h ∧ h.retired = g.retired + 1 ∧ h.ops = []
                    ∧ Sys2Proof.Claims.ScalarWritten g h k i d.toNat (BitVec.ofNat 32 (old.phase + if last then 65536 else 0)) ∧ (∀ l, h.vraw l = g.vraw l)
                    ∧ (drop = true → h.barReg loc = none)
                    ∧ t.team loc.1 = some u
                    ∧ (last = true → old.balCur = 0 → (u.bar loc.2).phase = (old.phase + 1) % 65536 ∧ (u.bar loc.2).arrived = 0
                        ∧ (u.bar loc.2).expected = (old.expected - drops) % 256 ∧ (u.bar loc.2).drops = 0 ∧ (u.bar loc.2).balCur = old.balNext)
                    ∧ (last = false ∨ old.balCur ≠ 0 → (u.bar loc.2).phase = old.phase ∧ (u.bar loc.2).arrived = (old.arrived + 1) % 256
                        ∧ (u.bar loc.2).expected = old.expected ∧ (u.bar loc.2).drops = drops)))))
      ∧ ∀ b, Issues s g k (.barWait b a cl) →
          let n := (g.readS s k b.toNat).toNat % 65536
          let w := g.barWaitOf k loc n
          let passes := (tm.bar loc.2).phase ≠ n ∨ ∃ x, w = some x ∧ x.passed = true
          let scope := if (tm.bar loc.2).xteam then 2 else 1
          (¬ passes → Blocks (.barWait b a cl) s (if w.isSome then s else s.modGroup g.uid fun h => h.waitBar k loc n) g k .barWait)
          ∧ (passes →
              ∃ t h, Sys2Proof.Claims.Passes (.barWait b a cl) s t g h k ∧ h.ops = g.ops ∧ SameMemory s t ∧ (∀ x ∈ h.barWaits, x.row ≠ k)
                ∧ (if g.readPending then h.fence = some ⟨scope, false, true⟩
                   else h.fence = none ∧ (scope = 2 → ∀ e ∈ (t.core g.core).l1, ¬ (e.2.coh = 2 ∧ e.2.dirty = 0))))

namespace Sys2Proof.Claims

/-- The copy instructions, with their number of registers, whether they have rows and whether they fill (R390). -/
def copies : List ((R7 → BitVec 8 → Instr) × Nat × Bool × Bool) :=
  [(.copy, 6, false, false), (.copy2d, 9, true, false), (.fill, 6, false, true)]

end Sys2Proof.Claims

/-- O44. COPY, COPY2D and FILL go to the engine, and each line that lands writes its own bytes and no other. -/
def Obligations.CopyResults : Prop :=
  (∀ p ∈ Sys2Proof.Claims.copies, ∀ (s : State) (g : Group) (k : Nat) (a : R7) (mod : BitVec 8), Issues s g k (p.1 a mod) →
    let regs := g.sblock s k a.toNat p.2.1
    let c := copyOps regs p.2.2.1 p.2.2.2 mod
    (c.countsOk p.2.2.1 = false → Traps (p.1 a mod) s g k (trapOf 0x38))
    ∧ (c.countsOk p.2.2.1 = true → c.dst % 4 ≠ 0 → Traps (p.1 a mod) s g k (trapAt 0x31 c.dst 0))
    ∧ (c.countsOk p.2.2.1 = true → c.dst % 4 = 0 → p.2.2.2 = false → c.src % 4 ≠ 0 → Traps (p.1 a mod) s g k (trapAt 0x31 c.src 0))
    ∧ (s.copyTrap g c p.2.2.1 = none → (s.descOf g).purityCheck = false → g.full .cp = false →
        ∃ t, Sys2Proof.Claims.PutsInFlight (p.1 a mod) s t g k (some .cp) (.engine (.copy regs p.2.2.1 p.2.2.2 mod) 0) [] ∧ SameMemory s t))
  ∧ ∀ (s : State) (g : Group) (o : Op) (regs : List Word) (twoD fill : Bool) (mod : BitVec 8) (pos : Nat) (p : Piece) (tr : Trans) (f : Nat → Byte),
    let c := copyOps regs twoD fill mod
    let sa := rowAddr (2 ^ 64) c.src c.spitch p.row + p.off
    -- the state once the source has been asked for (R170, R187)
    let s1 := if fill then s else (s.prepareEngine g 0 sa).prepareEngine g 0 (sa + p.n - 1)
    Sys2Proof.Claims.only s g o → s.sram = [] → o.cls = some .cp → o.late = [] → o.buf = [] → o.body = .engine (.copy regs twoD fill mod) pos →
    c.dk = 0 → c.bd = false → (∀ t ∈ s.teams, ∀ m ∈ t.maps, m = none) → SameMemory s s1 →
    pieceAt (2 ^ 64) c.dst c.dpitch c.len c.rows pos = some p → s1.translateFor g p.addr .write = .ok tr → s1.paHeld tr.pa = false →
    inDram tr.pa = true → inGen tr.pa = false → s1.lineBad tr.pa = false → tr.pa % 128 = p.addr % 128 → tr.attr.track = false → tr.attr.near = false →
    (if fill then ∀ j, f j = (regs.getD 2 0).extractLsb' (8 * ((p.off + j) % 4)) 8
     else c.sk = 0 ∧ s.engineHeld g 0 sa p.n = false ∧ (∀ j, j < p.n → s1.engineByte g 0 (sa + j) = .ok [f j]
        ∧ inRows (2 ^ 66) c.src c.spitch c.len c.rows (p.addr + j) = false)) →
    ∃ t h, exec (.engineLineLanded g.uid) s = .next t ∧ t.group g.uid = some h ∧ Sys2Proof.Claims.SameRegisters g h
      ∧ (∀ j, j < p.n → t.dramByte (tr.pa + j) = f j) ∧ (∀ x, x < tr.pa ∨ tr.pa + p.n ≤ x → t.dramByte x = s.dramByte x)
      ∧ (∀ x, t.hostByte x = s.hostByte x) ∧ (∀ u x, t.stashByte u x = s.stashByte u x)
      ∧ (c.len * c.rows ≤ pos + p.n → h.ops = [])
      ∧ (pos + p.n < c.len * c.rows → ∃ q, h.ops = [q] ∧ q.body = .engine (.copy regs twoD fill mod) (pos + p.n) ∧ q.perf = false)

/-- O45. SPAWN sends its lanes' records to a bin or to the round's end, RESERVE takes a run, COMMIT hands it over. -/
def Obligations.SpawnReserveCommitResults : Prop :=
  (∀ (s : State) (g : Group) (k : Nat) (a d : R7) (mod : BitVec 8), Issues s g k (.spawn a d mod) →
    let e := g.spair s k a.toNat
    let n := mod.toNat % 16 + 1
    let rec_ := fun i : Nat => (run d.toNat n).map fun r => laneOf (g.readV s r) i
    let lanes := lanesOf (g.row k).mask
    (2 ^ 49 ≤ e → Traps (.spawn a d mod) s g k (trapAt 0x30 e 0))
    ∧ (e < 2 ^ 49 → e % 4 ≠ 0 → Traps (.spawn a d mod) s g k (trapAt 0x16 e 0))
    ∧ (e < 2 ^ 49 → e % 4 = 0 → s.det g = true → ∀ l, s.launch g.launch = some l →
        ∃ t h m, Sys2Proof.Claims.Passes (.spawn a d mod) s t g h k ∧ SameMemory s t ∧ t.launch g.launch = some m
          ∧ m.deferred = l.deferred ++ lanes.map fun i => { team := ((s.team g.team).bind (·.index)).getD (2 ^ 32), grp := g.gid, lane := i, entry := BitVec.ofNat 49 e, words := rec_ i, callback := false, commit := none })
    ∧ (e < 2 ^ 49 → e % 4 = 0 → s.det g = false → mod.getLsbD 4 = false → g.answerAt (g.row k).pc.toNat = none → g.core < s.cores.length →
        (s.core g.core).bins = [] → lanes ≠ [] → lanes.length < 96 →
        ∃ t h, Sys2Proof.Claims.Passes (.spawn a d mod) s t g h k ∧ SameMemory s t
          ∧ ∃ b, (t.core g.core).bins = [b] ∧ b.ctx = g.ctx ∧ b.launch = g.launch ∧ b.entry = BitVec.ofNat 49 e ∧ b.words = n
              ∧ b.recs = lanes.map (fun j => { words := rec_ j, callback := false }) ∧ b.full = false ∧ b.since = (s.core g.core).clocks))
  ∧ (∀ (s : State) (g : Group) (k : Nat) (sb : Bool) (b d : R7), Issues s g k (.reserve sb b d) →
    let n := if sb then b.toNat else (g.readS s k b.toNat).toNat
    (n = 0 ∨ 96 < n → Traps (.reserve sb b d) s g k (trapOf 0x38))
    ∧ (1 ≤ n → n ≤ 96 → g.full .ld = false →
        ∃ t, Sys2Proof.Claims.PutsInFlight (.reserve sb b d) s t g k (some .ld) (.reserve (g.sreg d.toNat) n)
            [(false, g.sreg d.toNat), (false, g.sreg d.toNat + 1)] ∧ SameMemory s t))
  ∧ (∀ (s : State) (g : Group) (o : Op) (d n : Nat) (l : Launch), Sys2Proof.Claims.only s g o → o.cls = some .ld → o.body = .reserve d n →
    o.late = [] → d ≠ 6 → d ≠ 5 → s.launch g.launch = some l →
    ∃ t h, exec (.loadDataLanded g.uid) s = .next t ∧ t.group g.uid = some h ∧ SameMemory s t ∧ h.count .ld = 0
      ∧ (l.freeRun n = none → h.sraw d = 0 ∧ h.sraw (d + 1) = 0 ∧ (h.sraw 6).getLsbD 5 = true)
      ∧ ∀ c, l.freeRun n = some c → l.ld.arenaBase ≠ 0 →
          let x := l.ld.arenaBase.toNat + 4096 + 64 * c
          (x < 2 ^ 64 → (h.sraw (d + 1)).toNat * 2 ^ 32 + (h.sraw d).toNat = x) ∧ (x < 2 ^ 64 → (h.sraw 6).getLsbD 5 = false)
          ∧ ∃ m, t.launch l.uid = some m ∧ m.arena = { cell := c, n := n, st := .reserved g.uid } :: l.arena)
  ∧ ∀ (s : State) (g : Group) (k : Nat) (a : R7) (l : Launch), s.launch g.launch = some l → Issues s g k (.commit a) →
    let x := g.spair s k a.toNat
    let e := g.spair s k (a.toNat + 2)
    (e % 4 ≠ 0 → Traps (.commit a) s g k (trapAt 0x16 e 0))
    ∧ (e % 4 = 0 → 2 ^ 49 ≤ e → Traps (.commit a) s g k (trapAt 0x30 e 0))
    ∧ (e % 4 = 0 → e < 2 ^ 49 → 2 ^ 49 ≤ x → Traps (.commit a) s g k (trapAt 0x30 x 0))
    ∧ (e % 4 = 0 → e < 2 ^ 49 → x < 2 ^ 49 → l.reservedAt x = none → Traps (.commit a) s g k (trapAt 0x39 x 0))
    ∧ ∀ r, e % 4 = 0 → e < 2 ^ 49 → x < 2 ^ 49 → l.reservedAt x = some r → l.committing r.cell = false → s.det g = false → g.ops = [] → (l.arena.map (·.n)).sum < 96 →
        ∃ t h m, Sys2Proof.Claims.Passes (.commit a) s t g h k ∧ t.launch g.launch = some m
          ∧ m.arena = (l.arena.filter fun y => y.cell != r.cell) ++ (l.arena.filter fun y => y.cell == r.cell).map fun y =>
              { y with st := .committed (BitVec.ofNat 49 e) s.sched.tick }

namespace Sys2Proof.Claims

/-- The two forms of MWAIT with the number that each takes (R410). -/
def mwaits (s : State) (g : Group) (k : Nat) : List (Instr × Nat) :=
  ((List.range 128).map fun a => (Instr.mwait (BitVec.ofNat 7 a), (g.readS s k a).toNat % 16))
    ++ (List.range 16).map fun b => (Instr.mwaitImm (BitVec.ofNat 4 b), b)

/-- Every operation of batch t and of earlier batches is complete (R409). -/
def batchDone (g : Group) (t : Nat) : Prop := ∀ o ∈ g.ops, ∀ b, o.batch = some b → t < b ∨ o.done = true

end Sys2Proof.Claims

/-- O46. CLAIM takes the lowest free slot, RELEASE.SLOT gives a slot up, MFENCE closes a batch, MWAIT waits for one. -/
def Obligations.SlotAndBatchResults : Prop :=
  ∀ (s : State) (g : Group) (k : Nat) (t : Team), s.team g.team = some t →
    (∀ d : R7, Issues s g k (.claim d) →
      (t.slots = [] → Traps (.claim d) s g k (trapOf 0x51))
      ∧ (t.slots ≠ [] → g.answerAt (g.row k).pc.toNat = none → s.det g = false →
          ((∀ n, n < t.slots.length → (t.slot n).st ≠ .unclaimed) → Blocks (.claim d) s s g k .claim)
          ∧ ∀ n, n < t.slots.length → (t.slot n).st = .unclaimed → (∀ m, m < n → (t.slot m).st ≠ .unclaimed) →
              ∃ r h u, exec (.claim d) s = .next r ∧ r.group g.uid = some h ∧ h.retired = g.retired + 1 ∧ SameMemory s r
                ∧ Sys2Proof.Claims.ScalarWritten g h k (.claim d) d.toNat (BitVec.ofNat 32 n) ∧ (∀ l, h.vraw l = g.vraw l)
                ∧ r.team g.team = some u ∧ (u.slot n).st = .claimed ∧ (u.slot n).data = (t.slot n).data
                ∧ ∀ m, m ≠ n → u.slot m = t.slot m))
    ∧ (∀ a : R7, Issues s g k (.releaseSlot a) →
        let n := (g.readS s k a.toNat).toNat
        (t.slots.length ≤ n → Traps (.releaseSlot a) s g k (trapNum 0x50 n))
        ∧ (n < t.slots.length → (t.slot n).st ≠ .claimed → Traps (.releaseSlot a) s g k (trapNum 0x51 n))
        ∧ (n < t.slots.length → (t.slot n).st = .claimed →
            ∃ r h u, Sys2Proof.Claims.Passes (.releaseSlot a) s r g h k ∧ SameMemory s r ∧ r.team g.team = some u
              ∧ ((∃ x ∈ s.groups, x.team = g.team ∧ ∃ o ∈ x.ops, n ∈ o.slots) → (u.slot n).st = .releasing)
              ∧ ((∀ x ∈ s.groups, x.team = g.team → ∀ o ∈ x.ops, n ∉ o.slots) → (u.slot n).st = .unclaimed)
              ∧ ∀ m, m ≠ n → (t.slot m).st ≠ .releasing → u.slot m = t.slot m))
    ∧ (Issues s g k .mfence →
        let unretired := ((List.range (g.nb + 1)).filter fun t => g.ops.any fun o => match o.batch with
          | some b => decide (b ≤ t) && !o.done
          | none => false).length
        (15 ≤ unretired → Blocks .mfence s s g k .unit)
        ∧ (unretired < 15 →
            ∃ r h, exec .mfence s = .next r ∧ r.group g.uid = some h ∧ h.retired = g.retired + 1 ∧ SameMemory s r ∧ h.nb = g.nb + 1
              ∧ Sys2Proof.Claims.ScalarWritten g h k .mfence 4 (BitVec.ofNat 32 ((g.nb + 1) % 16)) ∧ (∀ l, h.vraw l = g.vraw l)
              ∧ unmarked h.ops = unmarked (g.ops.map fun o =>
                  if o.inStream = true ∧ o.batch = none then { o with batch := some (g.nb + 1) } else o)))
    ∧ ∀ p ∈ Sys2Proof.Claims.mwaits s g k, Issues s g k p.1 →
        (∀ b, b ≤ g.nb → b % 16 = p.2 → (∀ c, b < c → c ≤ g.nb → c % 16 ≠ p.2) →
          (Sys2Proof.Claims.batchDone g b → ∃ r h, Sys2Proof.Claims.Passes p.1 s r g h k ∧ h.ops = g.ops ∧ SameMemory s r)
          ∧ (¬ Sys2Proof.Claims.batchDone g b → Blocks p.1 s s g k .mwait))
        ∧ ((∀ b, b ≤ g.nb → b % 16 ≠ p.2) → ∃ r h, Sys2Proof.Claims.Passes p.1 s r g h k ∧ h.ops = g.ops ∧ SameMemory s r)

namespace Sys2Proof.Claims

/-- The traps of the first slot number that a team has not, and then of the first that is not claimed (R402). -/
def SlotTraps (i : Instr) (s : State) (g : Group) (k : Nat) (t : Team) (ns : List Nat) : Prop :=
  (∀ n, (ns.find? fun n => decide (t.slots.length ≤ n)) = some n → Traps i s g k (trapNum 0x50 n))
    ∧ ((∀ n ∈ ns, n < t.slots.length) → ∀ n, (ns.find? fun n => !((t.slot n).st == .claimed)) = some n → Traps i s g k (trapNum 0x51 n))

/-- Every slot of some numbers exists and is claimed. -/
def allClaimed (t : Team) (ns : List Nat) : Prop := ∀ n ∈ ns, n < t.slots.length ∧ (t.slot n).st = .claimed

/-- Fewer than 64 stream operations of the group are incomplete (R400). -/
def streamRoom (g : Group) : Prop := (g.ops.filter fun o => o.inStream && !o.perf).length < 64

end Sys2Proof.Claims

/-- O47. TLOAD, MMA, HAD, ACCZ, ACCRD and ACCST complete with one operation of their kind in flight, or trap as R402 says. -/
def Obligations.MatrixIssueResults : Prop :=
  ∀ (s : State) (g : Group) (k : Nat) (t : Team), s.team g.team = some t →
    let fmt := (g.row k).fmt
    let rd := fun r : R7 => (g.readS s k r.toNat).toNat
    (∀ (a : R7) (mod : BitVec 8), Issues s g k (.tload a mod) →
      let i := Instr.tload a mod
      let regs := g.sblock s k a.toNat 5
      let c := if mod.getLsbD 6 then fmtB fmt else fmtA fmt
      let count := (regs.getD 4 0).toNat
      let addr := (regs.getD 1 0).toNat * 2 ^ 32 + (regs.getD 0 0).toNat
      let pitch := (regs.getD 2 0).toInt
      let fits := 1 ≤ count ∧ count ≤ (if mod.getLsbD 6 then 1008 else 128) ∧ pitch % 4 = 0
      let slots := run (regs.getD 3 0).toNat (tileSlots c count)
      (¬ fits → Traps i s g k (trapOf 0x38))
      ∧ (fits → Sys2Proof.Claims.SlotTraps i s g k t slots)
      ∧ (fits → Sys2Proof.Claims.allClaimed t slots → addr % 4 ≠ 0 → Traps i s g k (trapAt 0x31 addr 0))
      ∧ (fits → Sys2Proof.Claims.allClaimed t slots → addr % 4 = 0 →
          (∀ j, j < count → rowAddr (2 ^ 64) addr pitch j + tloadSrcBytes c (mod.extractLsb' 0 4).toNat ≤ 2 ^ 49) →
          (s.descOf g).purityCheck = false → g.full .tl = false →
          ∃ r, Sys2Proof.Claims.PutsInFlight i s r g k (some .tl) (.engine (.tload regs mod fmt) 0) [] ∧ SameMemory s r ∧ r.teams = s.teams))
    ∧ (∀ (d a b : R7) (mod : BitVec 8), Issues s g k (.mma d a b mod) →
        let i := Instr.mma d a b mod
        let m := 32 * 2 ^ (mod.extractLsb' 6 2).toNat
        let n := (mod.extractLsb' 0 6).toNat
        let slots := run (rd a) (tileSlots (fmtA fmt) m) ++ run (rd b) (tileSlots (fmtB fmt) (16 * n))
        Sys2Proof.Claims.SlotTraps i s g k t slots
        ∧ (Sys2Proof.Claims.allClaimed t slots → t.accRows < rd d + n * m → Traps i s g k (trapNum 0x52 (max (rd d) t.accRows)))
        ∧ (Sys2Proof.Claims.allClaimed t slots → rd d + n * m ≤ t.accRows → Sys2Proof.Claims.streamRoom g →
            ∃ r, Sys2Proof.Claims.PutsInFlight i s r g k none (.stream (.mma (rd d) (rd a) (rd b) mod fmt)) [] ∧ SameMemory s r
              ∧ r.teams = s.teams))
    ∧ (∀ (a b : R7) (mod : BitVec 8), Issues s g k (.had a b mod) →
        let i := Instr.had a b mod
        let kb := mod.getLsbD 2
        let fits := 1 ≤ rd b ∧ rd b ≤ if kb then 1008 else 128
        let slots := run (rd a) (tileSlots (if kb then fmtB fmt else fmtA fmt) (rd b))
        (¬ fits → Traps i s g k (trapOf 0x38))
        ∧ (fits → Sys2Proof.Claims.SlotTraps i s g k t slots)
        ∧ (fits → Sys2Proof.Claims.allClaimed t slots → Sys2Proof.Claims.streamRoom g →
            ∃ r, Sys2Proof.Claims.PutsInFlight i s r g k none (.stream (.had (rd a) (rd b) mod fmt)) [] ∧ SameMemory s r ∧ r.teams = s.teams))
    ∧ (∀ a b : R7, Issues s g k (.accz a b) →
        (rd b = 0 → Traps (.accz a b) s g k (trapOf 0x38))
        ∧ (rd b ≠ 0 → t.accRows < rd a + rd b → Traps (.accz a b) s g k (trapNum 0x52 (max (rd a) t.accRows)))
        ∧ (rd b ≠ 0 → rd a + rd b ≤ t.accRows → Sys2Proof.Claims.streamRoom g →
            ∃ r, Sys2Proof.Claims.PutsInFlight (.accz a b) s r g k none (.stream (.accz (rd a) (rd b))) [] ∧ SameMemory s r ∧ r.teams = s.teams))
    ∧ (∀ (d a : R7) (mod : BitVec 8), Issues s g k (.accrd d a mod) →
        (t.accRows < rd a + 6 → Traps (.accrd d a mod) s g k (trapNum 0x52 (max (rd a) t.accRows)))
        ∧ (rd a + 6 ≤ t.accRows → Sys2Proof.Claims.streamRoom g → g.full .tl = false →
            ∃ r, Sys2Proof.Claims.PutsInFlight (.accrd d a mod) s r g k (some .tl)
                (.stream (.accrd (g.vreg d.toNat) (rd a) (g.row k).mask mod fmt)) [(true, g.vreg d.toNat)] ∧ SameMemory s r ∧ r.teams = s.teams))
    ∧ ∀ (a : R7) (mod : BitVec 8), Issues s g k (.accst a mod) →
        let i := Instr.accst a mod
        let regs := g.sblock s k a.toNat 7
        let dst := (regs.getD 1 0).toNat * 2 ^ 32 + (regs.getD 0 0).toNat
        let pitch := (regs.getD 2 0).toInt
        let mr := (regs.getD 4 0).toNat
        let nb := (regs.getD 5 0).toNat
        let hp := (mod.extractLsb' 4 2).toNat
        let unit : Nat := drainUnit (fmtD fmt)
        let fits := 1 ≤ mr ∧ mr ≤ 128 ∧ 1 ≤ nb ∧ nb ≤ 63 ∧ pitch % unit = 0 ∧ (hp = 0 ∨ 16 * nb % 2 ^ (3 + hp) = 0)
        let rows := (regs.getD 3 0).toNat + nb * mr
        (¬ fits → Traps i s g k (trapOf 0x38))
        ∧ (fits → t.accRows < rows → Traps i s g k (trapNum 0x52 (max (regs.getD 3 0).toNat t.accRows)))
        ∧ (fits → rows ≤ t.accRows → dst % unit ≠ 0 → Traps i s g k (trapAt 0x31 dst 0))
        ∧ (fits → rows ≤ t.accRows → dst % unit = 0 →
            (∀ j, j < mr → rowAddr (2 ^ 64) dst pitch j + drainRowBytes (fmtD fmt) nb ≤ 2 ^ 49) →
            (mod.getLsbD 6 = true → (s.barLoc g true (regs.getD 6 0)).isSome = true) → (s.descOf g).purityCheck = false →
            Sys2Proof.Claims.streamRoom g → g.full .tl = false →
            ∃ r, Sys2Proof.Claims.PutsInFlight i s r g k (some .tl) (.engine (.accst regs mod fmt) 0) [] ∧ SameMemory s r ∧ r.teams = s.teams)

namespace Sys2Proof.Claims

/-- A byte as an element, signed or not. -/
def byteInt (signed : Bool) (b : Nat) : Int := if signed ∧ 128 ≤ b then (b : Int) - 256 else b

/-- A team is as another but for accumulator words and slots that were given up. -/
def SameSlots (t u : Team) : Prop := ∀ n, (t.slot n).st ≠ .releasing → u.slot n = t.slot n

end Sys2Proof.Claims

/-- O48. A stream operation that completes has exactly the effect of its rule on the accumulator, slots and registers; VMX
likewise. -/
def Obligations.MatrixOperationResults : Prop :=
  (∀ (s : State) (g : Group) (o : Op) (t : Team) (m : Stream), Sys2Proof.Claims.only s g o → s.team g.team = some t → t.uid = g.team →
    o.body = .stream m → o.late = [] → s.sram = [] → s.contested g = [] →
    ∃ r h u, exec (.matrixOperationComplete g.uid) s = .next r ∧ r.group g.uid = some h ∧ SameMemory s r ∧ r.team g.team = some u
      ∧ (∀ p ∈ h.ops, p.done = true) ∧ (∀ n, n ≠ 6 → h.sraw n = g.sraw n)
      ∧ (match m with
        | .accz row n => (∀ l, h.vraw l = g.vraw l) ∧ Sys2Proof.Claims.SameSlots t u ∧ h.sraw 6 = g.sraw 6
            ∧ ∀ x w, w < 16 → u.accWord x w = if row ≤ x ∧ x < row + n then 0 else t.accWord x w
        | .mma base a b mod fmt =>
            let rows := 32 * 2 ^ (mod.extractLsb' 6 2).toNat
            let cols := 16 * (mod.extractLsb' 0 6).toNat
            (∀ l, h.vraw l = g.vraw l) ∧ Sys2Proof.Claims.SameSlots t u
            ∧ (∀ x w, w < 16 → (∀ j c, j < rows → c < cols → ¬ (x = base + c / 16 * rows + j ∧ w = c % 16)) → u.accWord x w = t.accWord x w)
            ∧ (fmtA fmt = 3 ∨ fmtA fmt = 4 → ∀ j c, j < rows → c < cols →
                u.accWord (base + c / 16 * rows + j) (c % 16) = BitVec.ofInt 32 ((t.accWord (base + c / 16 * rows + j) (c % 16)).toInt
                  + ((List.range 64).map fun e => Sys2Proof.Claims.byteInt (fmtA fmt == 3) (t.slotByte a (64 * j + e)).toNat
                      * Sys2Proof.Claims.byteInt (fmtB fmt == 3) (t.slotByte b (64 * c + e)).toNat).sum))
            ∧ (fmtA fmt ≠ 3 → fmtA fmt ≠ 4 → ∀ j c, j < rows → c < cols →
                u.accWord (base + c / 16 * rows + j) (c % 16) = BitVec.ofNat 32 (matrixSum (t.accWord (base + c / 16 * rows + j) (c % 16)).toNat
                  ((t.stripVals (fmtA fmt) a j).zip (t.stripVals (fmtB fmt) b c)) (stripK (fmtA fmt) / 16)).1)
        | .had slot n mod fmt => (∀ l, h.vraw l = g.vraw l) ∧ u.acc = t.acc
            ∧ ∀ x, (t.slot x).st ≠ .releasing → u.slot x = ((t.had slot n mod fmt).1).slot x
        | .accrd d row mask mod _ => Sys2Proof.Claims.SameSlots t u ∧ u.acc = t.acc
            ∧ (o.cls = some .tl → o.dests = [(true, d)] → (∀ r, (g.vraw r).length = 96) → (1024 ≤ d → g.handler ≠ none) →
                (∀ l i, l ≠ d ∨ mask.getLsbD i = false → laneOf (h.vraw l) i = laneOf (g.vraw l) i)
                ∧ (mod.getLsbD 0 = false → h.sraw 6 = g.sraw 6
                    ∧ ∀ i, i < 96 → mask.getLsbD i = true → laneOf (h.vraw d) i = t.accWord (row + i / 16) (i % 16)))))
  ∧ ∀ (s : State) (g : Group) (k : Nat) (sb : Bool) (d a b : R7) (mod : BitVec 8), Issues s g k (.vmx sb d a b mod) →
    let i := Instr.vmx sb d a b mod
    let n := 16 * ((mod.extractLsb' 0 2).toNat + 1)
    let fmt := (g.row k).fmt
    let at_ := fun l : Nat => if sb then g.spair s k b.toNat else
      (laneOf (g.readV s (b.toNat + 1)) l).toNat * 2 ^ 32 + (laneOf (g.readV s b.toNat) l).toNat
    let lanes := (lanesOf (g.row k).mask).map fun l => (l, at_ l)
    let odd := lanes.filter fun x => decide (x.2 = 0 ∨ x.2 % 64 ≠ 0)
    let as := lanes.flatMap fun x => (List.range n).map fun c => (x.1, x.2 + 64 * c)
    let ls := oksOf (s.locate g .virt .read as)
    (odd ≠ [] → Traps i s g k ⟨0x53, 0, ((odd.head?).map (·.2)).getD 0, lanesMask odd, 0⟩)
    ∧ (odd = [] → (∀ x ∈ lanes, x.2 + 64 * n ≤ 2 ^ 49) → Sys2Proof.Claims.accessible s g .virt .read 64 as → g.acqPending = false →
        s.anyHeld ls = false → Sys2Proof.Claims.unchecked s g → Sys2Proof.Claims.noAtomics g → Sys2Proof.Claims.plainCaches s g ls →
        (∀ l ∈ ls, (s.loadNat g l.2 (!isOff l.2.va) 64).isSome = true) → ((run d.toNat n).map g.vreg).Nodup →
        ∃ r h, exec i s = .next r ∧ Sys2Proof.Claims.Retired r g h k i ∧ SameMemory s r
          ∧ (∀ m, m ≠ 6 → h.sraw m = g.sraw m) ∧ h.sraw 6 >>> 3 = g.sraw 6 >>> 3
          ∧ (∀ l x, (∀ c, c < n → l ≠ g.vreg (d.toNat + c)) ∨ x < 96 ∧ (g.row k).mask.getLsbD x = false → laneOf (h.vraw l) x = laneOf (g.vraw l) x)
          ∧ ∀ l ∈ ls, ∀ c, c < n → l.2.va = at_ l.1 + 64 * c → g.isPending true (g.vreg (d.toNat + c)) = false →
              ∀ w, s.loadNat g l.2 (!isOff l.2.va) 64 = some w →
                let old := if mod.getLsbD 2 then laneOf (g.readV s (d.toNat + c)) l.1 else 0
                let x := fun j : Nat => (laneOf (g.readV s (a.toNat + j)) l.1).toNat
                (fmtA fmt = 3 ∨ fmtA fmt = 4 → laneOf (h.vraw (g.vreg (d.toNat + c))) l.1 = BitVec.ofInt 32 (old.toInt
                  + ((List.range 64).map fun e => Sys2Proof.Claims.byteInt (fmtA fmt == 3) (x (e / 4) / 2 ^ (8 * (e % 4)) % 256)
                      * Sys2Proof.Claims.byteInt (fmtB fmt == 3) (w / 2 ^ (8 * e) % 256)).sum))
                ∧ (fmtA fmt ≠ 3 → fmtA fmt ≠ 4 → laneOf (h.vraw (g.vreg (d.toNat + c))) l.1 = BitVec.ofNat 32 (matrixSum old.toNat
                    ((List.range 32).map fun e => ((if fmtA fmt = 1 then fp16 else bf16).dec (x (e / 2) / 2 ^ (16 * (e % 2)) % 65536),
                      (if fmtB fmt = 1 then fp16 else bf16).dec (w / 2 ^ (16 * e) % 65536))) 2).1))

namespace Sys2Proof.Claims

/-- The value of an FP32 word. -/
def wordValue (w : Word) : ℚ := value (fp32.dec w.toNat)

/-- What an instruction that writes f to the lanes of a mask, in n registers from operand vd on, has made of the vector registers (R111);
pending ones apart (R160). -/
def RunWritten (g h : Group) (d n : Nat) (mask : Mask) (f : Nat → Nat → Word) : Prop :=
  (∀ l, l ∉ (run d n).map g.vreg → h.vraw l = g.vraw l)
    ∧ (((run d n).map g.vreg).Nodup → ∀ j l, j < n → l < 96 →
        (mask.getLsbD l = false → laneOf (h.vraw (g.vreg (d + j))) l = laneOf (g.vraw (g.vreg (d + j))) l)
        ∧ (mask.getLsbD l = true → g.isPending true (g.vreg (d + j)) = false → laneOf (h.vraw (g.vreg (d + j))) l = f j l))

/-- The ordinals that RAST emits from a start on (R285): the covered ones, ascending, 24 at most. -/
def emitted (t : Tri) (start : Nat) (es : List Nat) : Prop :=
  es.Pairwise (· < ·) ∧ es.length ≤ 24 ∧ (∀ o ∈ es, start ≤ o ∧ o < t.ordinals ∧ ∃ c, c < 4 ∧ t.hits o c = true)
    ∧ ∀ o, start ≤ o → o < t.ordinals → (∃ c, c < 4 ∧ t.hits o c = true) → o ∉ es → es.length = 24 ∧ ∀ x ∈ es, x < o

/-- Two triangles share an edge, i of one and j of the other, and lie on opposite sides of it. -/
def shareEdge (t u : Tri) (i j : Nat) : Prop :=
  let a := edgeEnds i
  let b := edgeEnds j
  (((t.x a.1, t.y a.1) = (u.x b.1, u.y b.1) ∧ (t.x a.2, t.y a.2) = (u.x b.2, u.y b.2))
    ∨ ((t.x a.1, t.y a.1) = (u.x b.2, u.y b.2) ∧ (t.x a.2, t.y a.2) = (u.x b.1, u.y b.1)))
  ∧ t.edge i (u.x j) (u.y j) * t.edge i (t.x i) (t.y i) < 0

end Sys2Proof.Claims

/-- O49. RAST emits the covered ordinals in order, fills their lanes, sets MASK and TOKEN; no shared edge is covered twice. -/
def Obligations.RasterResults : Prop :=
  (∀ (s : State) (g : Group) (k : Nat) (d a : R7), Issues s g k (.rast d a) →
    let b := g.sblock s k a.toNat 14
    let t := triOf b
    let start := (g.readS s k 5).toNat - 1
    (∀ n, (List.range 14).find? (triBad b) = some n → Traps (.rast d a) s g k (trapNum 0x60 n))
    ∧ ((∀ n, n < 14 → triBad b n = false) →
        ∃ r h es m, exec (.rast d a) s = .next r ∧ r.group g.uid = some h ∧ h.retired = g.retired + 1 ∧ SameMemory s r
          ∧ Sys2Proof.Claims.emitted t start es ∧ (∀ l, l < 96 → (m : Mask).getLsbD l = decide (l < 4 * es.length))
          ∧ h.carries { g.rowAfter k (.rast d a) with mask := m &&& (g.row k).own }
          ∧ Sys2Proof.Claims.RunWritten g h d.toNat 6 (BitVec.allOnes 96) (fun j l => match es[l / 4]? with
            | some o => t.lane o (l % 4) j
            | none => 0)
          ∧ (∀ n, n ≠ 5 → h.sraw n = g.sraw n)
          ∧ (g.isPending false 5 = false → h.sraw 5 = BitVec.ofNat 32
              (if es.length = 24 ∧ es.getLastD 0 + 1 < t.ordinals then es.getLastD 0 + 2 else 0))))
  ∧ ∀ (t u : Tri) (i j : Nat), i < 3 → j < 3 → Sys2Proof.Claims.shareEdge t u i j → ∀ x y, t.edge i x y = 0 →
      ¬ (t.covered x y = true ∧ u.covered x y = true)

/-- O50. BXUNION, SAHCOST and NODEPACK complete with the values of R425 to R427; every packed box contains its source box. -/
def Obligations.BoxResults : Prop :=
  (∀ (s : State) (g : Group) (k : Nat) (v : VOps), Issues s g k (.bxunion v) →
    let m := (g.row k).mask
    let val := fun c l : Nat => if v.mod = 1 then combine (if c < 3 then 9 else 10) ((lanesOf m).map fun x => laneOf (g.srcA s v c) x)
      else let r := fp32.minmax (decide (3 ≤ c)) (laneOf (g.srcA s v c) l).toNat (laneOf (g.srcB s k v c) l).toNat; (BitVec.ofNat 32 r.1, r.2)
    ∃ r h, exec (.bxunion v) s = .next r ∧ Sys2Proof.Claims.Retired r g h k (.bxunion v) ∧ SameMemory s r
      ∧ Sys2Proof.Claims.RunWritten g h v.d.toNat 6 m (fun c l => (val c l).1) ∧ (∀ n, n ≠ 6 → h.sraw n = g.sraw n)
      ∧ h.sraw 6 = g.sraw 6 ||| (((List.range 6).foldl (fun f c => f ||| laneFlags m fun l => (val c l).2) 0) : BitVec 3).setWidth 32)
  ∧ (∀ (s : State) (g : Group) (k : Nat) (d a : R7), Issues s g k (.sahcost d a) →
    let cost := fun l => sahCost ((run a.toNat 6).map fun n => laneOf (g.readV s n) l) (laneOf (g.readV s (a.toNat + 6)) l).toNat
    ∃ r, exec (.sahcost d a) s = .next r ∧ SameMemory s r
      ∧ VectorResult s r g k (.sahcost d a) d.toNat (g.row k).mask (fun l => (cost l).1) (laneFlags (g.row k).mask fun l => (cost l).2))
  ∧ (∀ (b : List Word) (n : Nat), b.length = 6 →
      let v := fun k => fp32.dec (b.getD k 0).toNat
      let e := fun k => Sys2Proof.Claims.wordValue (b.getD (k + 3) 0) - Sys2Proof.Claims.wordValue (b.getD k 0)
      ((∃ k, k < 6 ∧ (v k).isNan = true) → (sahCost b n).1 = 0x7FC00000)
      ∧ ((∀ k, k < 6 → (v k).isNan = false) →
          let same := ∃ k, k < 3 ∧ (v k).isInf = true ∧ (v (k + 3)).isInf = true ∧ (v k).neg = (v (k + 3)).neg
          let empty := (∃ k, k < 3 ∧ (v (k + 3)).lt (v k) = true) ∨ n = 0
          (same → sahCost b n = (0x7FC00000, flNV)) ∧ (¬ same → empty → sahCost b n = (0, 0))
          ∧ (¬ same → ¬ empty → (∃ k, k < 6 ∧ (v k).isInf = true) → sahCost b n = (0x7F800000, 0)))
      ∧ ((∀ k, k < 6 → Sys2Proof.Claims.finite (v k) = true) →
          ((∀ k, k < 3 → 0 ≤ e k) → n ≠ 0 → ∃ p q : Nat, 0 < q ∧ (p : ℚ) / q = 2 * (e 0 * e 1 + e 1 * e 2 + e 2 * e 0) * n
              ∧ sahCost b n = (BitVec.ofNat 32 (fp32.roundTo .rne false p q).1, (fp32.roundTo .rne false p q).2))))
  ∧ ∀ (s : State) (g : Group) (k : Nat) (d a : R7), Issues s g k (.nodepack d a) →
    let m := (g.row k).mask
    let w := fun n l : Nat => laneOf (g.readV s (a.toNat + n)) l
    ((∃ l n, l < 96 ∧ m.getLsbD l = true ∧ n < 6 ∧ (w n l).extractLsb' 23 8 = 0xFF) → Traps (.nodepack d a) s g k (trapOf 0x38))
    ∧ ((∀ l n, l < 96 → m.getLsbD l = true → n < 6 → (w n l).extractLsb' 23 8 ≠ 0xFF) →
        ∃ r h u node, exec (.nodepack d a) s = .next r ∧ Sys2Proof.Claims.Retired r g h k (.nodepack d a) ∧ SameMemory s r
          ∧ (∀ n, h.sraw n = g.sraw n) ∧ (∀ l, l < 96 → (u : Mask).getLsbD l = (List.range 4).any fun c => m.getLsbD (l / 4 * 4 + c))
          ∧ Sys2Proof.Claims.RunWritten g h d.toNat 4 u (fun j l => (node : Nat → List Word) (l / 4) |>.getD (4 * (l % 4) + j) 0)
          ∧ ∀ q c, q < 24 → c < 4 → u.getLsbD (4 * q) = true →
              let nd := node q
              let l := 4 * q + c
              let byte := fun n : Nat => ((nd.getD (n / 4) 0).toNat / 2 ^ (8 * (n % 4)) % 256 : Nat)
              let step := fun x : Nat => (2 : ℚ) ^ ((byte (12 + x) : Int) - 127)
              let lo := fun x : Nat => Sys2Proof.Claims.wordValue (w x l)
              let hi := fun x : Nat => Sys2Proof.Claims.wordValue (w (x + 3) l)
              nd.length = 16 ∧ nd.getD (4 + c) 0 = (if m.getLsbD l then w 6 l else 0)
              ∧ (m.getLsbD l = true → (∀ x, x < 3 → lo x ≤ hi x) → ∀ x, x < 3 →
                  let o := Sys2Proof.Claims.wordValue (nd.getD x 0)
                  let ql : ℚ := byte (32 + 6 * c + x)
                  let qh : ℚ := byte (32 + 6 * c + 3 + x)
                  o + ql * step x ≤ lo x ∧ lo x < o + (ql + 1) * step x ∧ hi x ≤ o + qh * step x ∧ o + (qh - 1) * step x < hi x)
              ∧ (m.getLsbD l = false ∨ (∃ x, x < 3 ∧ hi x < lo x) → ∀ x, x < 3 →
                  byte (32 + 6 * c + x) = 255 ∧ byte (32 + 6 * c + 3 + x) = 0))

namespace Sys2Proof.Claims

/-- Nothing of a group's operations has taken effect that it has not yet noticed. -/
def quietOps (g : Group) : Prop := ∀ o ∈ g.ops, o.perf = false ∧ o.done = false

/-- The operands of TRACE and TRACE.M: the registers of the rays, the flags word and the root (R423). -/
def traceTraps (i : Instr) (s : State) (g : Group) (k : Nat) (flags : Word) (root : Nat) : Prop :=
  ((s.team g.team).any (·.callback) = true → Traps i s g k (trapOf 0x63))
  ∧ ((s.team g.team).any (·.callback) = false →
      (flags &&& 0xFFFF00E0 ≠ 0 → Traps i s g k (trapOf 0x38))
      ∧ (flags &&& 0xFFFF00E0 = 0 → (2 ^ 49 ≤ root → Traps i s g k (trapAt 0x30 root 0))
          ∧ (root < 2 ^ 49 → root % 64 ≠ 0 → Traps i s g k (trapAt 0x31 root 0))))

/-- The checks of R423 pass. -/
def traceFits (s : State) (g : Group) (flags : Word) (root : Nat) : Prop :=
  (s.team g.team).any (·.callback) = false ∧ flags &&& 0xFFFF00E0 = 0 ∧ root < 2 ^ 49 ∧ root % 64 = 0

/-- The instruction has parked rays of some lanes in the core's table (R294): each with its words, at the root, not started, or ended
with a miss where a field is a NaN, TMIN is above TMAX or the direction is zero. -/
def Parked (s t : State) (g : Group) (o : Op) (flags : Word) (root : Nat) (lanes : List Nat) (ray : Nat → List Word) : Prop :=
  ∃ new, (t.core g.core).rays = (s.core g.core).rays ++ new ∧ new.map (·.lane) = lanes
    ∧ ∀ r ∈ new, r.op = o.uid ∧ r.ctx = g.ctx ∧ r.group = g.uid ∧ r.launch = g.launch ∧ r.ray = ray r.lane ∧ r.flags = flags
      ∧ r.work = [{ node := root, type := 1, inst := none }] ∧ r.commit = none ∧ (∀ x ∈ (s.core g.core).rays, x.entry ≠ r.entry)
      ∧ (rayMisses r.ray = true → r.phase = .done [0x7F800000, 0, 0, 0, 0, 0, 0, 0])
      ∧ (rayMisses r.ray = false → rayFlat r.ray = false → r.phase = .walking)

end Sys2Proof.Claims

/-- O51. SAMPLE, TRACE, TRACE.M and VERDICT check their operands and complete, with texels, rays or verdicts on their way. -/
def Obligations.SampleAndTraceResults : Prop :=
  (∀ (s : State) (g : Group) (k : Nat) (v : VOps), Issues s g k (.sample v) →
    let i := Instr.sample v
    let tex := g.spair s k v.b.toNat
    let smp := g.spair s k (v.b.toNat + 2)
    let dim := (v.mod.extractLsb' 3 2).toNat
    let mode := (v.mod.extractLsb' 0 2).toNat
    let a : SampleArgs := { mode := mode, nc := if dim = 0 then 2 else 3, layered := dim == 1, regs := (run v.a.toNat (sampleCoords v.mod)).map (g.readV s) }
    -- the state once the descriptors' pages have been translated (R170)
    let s' := (s.noteTlb g tex).noteTlb g smp
    (2 ^ 49 ≤ tex → Traps i s g k (trapAt 0x30 tex 0))
    ∧ (tex < 2 ^ 49 → 2 ^ 49 ≤ smp → Traps i s g k (trapAt 0x30 smp 0))
    ∧ (tex < 2 ^ 49 → smp < 2 ^ 49 → tex % 32 ≠ 0 → Traps i s g k (trapAt 0x31 tex 0))
    ∧ (tex < 2 ^ 49 → smp < 2 ^ 49 → tex % 32 = 0 → smp % 16 ≠ 0 → Traps i s g k (trapAt 0x31 smp 0))
    ∧ (tex < 2 ^ 49 → smp < 2 ^ 49 → tex % 32 = 0 → smp % 16 = 0 → g.acqPending = false → s'.ownHeld g.ctx tex 1 = false →
        s'.ownHeld g.ctx smp 1 = false → ∀ tv sv, s'.readDesc g tex 32 = .ok tv → s'.readDesc g smp 16 = .ok sv →
          (texOk tv dim = false → Traps i s g k (trapAt 0x61 tex 0))
          ∧ (texOk tv dim = true → sampOk sv (s.legacyLaunch g) = false → Traps i s g k (trapAt 0x62 smp 0))
          ∧ (texOk tv dim = true → sampOk sv (s.legacyLaunch g) = true →
              let t := texOf tv
              let lanes := lanesOf (g.row k).mask
              let taps := fun l => if a.finite l then a.taps s' t (sampOf sv) l else []
              let n := (texelBlock t.format).2.2
              let as := (lanes.flatMap fun l => (taps l).filterMap fun tp => tp.2.map fun e => (l, t.texelAddr e.1 e.2.1 e.2.2.1 e.2.2.2)).eraseDups
              let ls := oksOf (s'.locate g .virt .read as)
              Sys2Proof.Claims.accessible s' g .virt .read n as → g.full .ld = false → s'.anyHeld ls = false → Sys2Proof.Claims.unchecked s g →
              Sys2Proof.Claims.noAtomics g → Sys2Proof.Claims.plainCaches s' g ls → SameMemory s s' →
              (∀ l ∈ ls, (s'.loadNat g l.2 (!isOff l.2.va) n).isSome = true) →
              ∃ r h o, Sys2Proof.Claims.PutsInFlight i s r g k (some .ld) (.load none) ((run v.d.toNat 4).map fun x => (true, g.vreg x)) ∧ SameMemory s r
                ∧ r.group g.uid = some h ∧ h.ops = g.ops ++ [o]
                ∧ ∀ l ∈ lanes, ∀ j, j < 4 → ∃ w ∈ o.late, w.vec = true ∧ w.reg = g.vreg (v.d.toNat + j) ∧ w.lane = l
                  ∧ (a.finite l = false → w.value = 0x7FC00000)
                  ∧ (a.finite l = true → ∀ read : Nat → Nat,
                      (∀ x ∈ ls, x.1 = l → s'.loadNat g x.2 (!isOff x.2.va) n = some (read x.2.va)) →
                      w.value = BitVec.ofNat 32 (laneColour t (sampOf sv) (taps l) read / 2 ^ (32 * j)))))
  )
  ∧ (∀ (s : State) (g : Group) (k : Nat) (v : VOps), Issues s g k (.trace v) →
    let flags := g.readS s k v.b.toNat
    let root := g.spair s k (v.b.toNat + 1)
    let lanes := lanesOf (g.row k).mask
    Sys2Proof.Claims.traceTraps (.trace v) s g k flags root
    ∧ (Sys2Proof.Claims.traceFits s g flags root → g.acqPending = false → g.full .ld = false → g.core < s.cores.length →
        (2048 < (s.core g.core).rays.length + lanes.length → Blocks (.trace v) s s g k .rays)
        ∧ ((s.core g.core).rays.length + lanes.length ≤ 2048 → lanes ≠ [] → Sys2Proof.Claims.quietOps g →
            ∃ r h o, Sys2Proof.Claims.PutsInFlight (.trace v) s r g k (some .ld) (.trace (g.vreg v.d.toNat))
                ((run v.d.toNat 8).map fun x => (true, g.vreg x)) ∧ SameMemory s r ∧ r.group g.uid = some h ∧ h.ops = g.ops ++ [o]
              ∧ Sys2Proof.Claims.Parked s r g o flags root lanes fun l => (run v.a.toNat 8).map fun x => laneOf (g.readV s x) l)))
  ∧ (∀ (s : State) (g : Group) (k : Nat) (memo : BitVec 4) (d a b : R7), Issues s g k (.traceM memo d a b) →
    let i := Instr.traceM memo d a b
    let flags := g.readS s k b.toNat
    let root := g.spair s k (b.toNat + 1)
    let lanes := lanesOf (g.row k).mask
    let ray := fun l => (run a.toNat 8).map fun x => laneOf (g.readV s x) l
    Sys2Proof.Claims.traceTraps i s g k flags root
    ∧ (Sys2Proof.Claims.traceFits s g flags root → g.acqPending = false → g.full .ld = false → g.core < s.cores.length → lanes ≠ [] →
        Sys2Proof.Claims.quietOps g → (s.core g.core).rays.length + lanes.length ≤ 2048 → s.sram = [] → s.genHeld g root = false →
        ∀ gen at_ pa, s.genRead g root = .ok gen at_ pa →
        ((s.descOf g).memo = false ∨ s.codeId g = none ∨ at_.track = false ∨ at_.memo = false →
          ∃ r h o, Sys2Proof.Claims.PutsInFlight i s r g k (some .ld) (.trace (g.vreg d.toNat)) ((run d.toNat 8).map fun x => (true, g.vreg x))
            ∧ SameMemory s r ∧ r.group g.uid = some h ∧ h.ops = g.ops ++ [o] ∧ Sys2Proof.Claims.Parked s r g o flags root lanes ray)
        ∧ ∀ l w e, lanes = [l] → (s.descOf g).memo = true → (s.codeId g).isSome = true → at_.track = true → at_.memo = true →
            (s.descOf g).verifyRate = 0 → ((s.descOf g).det = true → memoTol memo = 0) → g.ops = [] → (∀ x, (g.vraw x).length = 96) →
            ((run d.toNat 8).map g.vreg).Nodup → s.slices.memoMsgs = [] → (s.ctx g.ctx).st = .active →
            let key := (raySig true true (memoTol memo) root gen at_ flags (ray l)).fin
            s.memoFind g.ctx 3 key = some w → s.memoWay (memoSet g.ctx key.1) w = some e → e.payload.length = 8 → g.ctx.toNat < s.ctxs.length →
            ∃ r h, exec i s = .next r ∧ Sys2Proof.Claims.Retired r g h k i ∧ SameMemory s r ∧ (r.core g.core).rays = (s.core g.core).rays
              ∧ (∀ j, j < 8 → laneOf (h.vraw (g.vreg (d.toNat + j))) l = e.payload.getD j 0) ∧ h.count .ld = 0
              ∧ (r.ctx g.ctx).credits = (s.ctx g.ctx).credits + e.cost.toNat))
  ∧ ∀ (s : State) (g : Group) (k l c : Nat) (a : R7) (r : Ray) (hit : Hit) (isect : Bool), Issues s g k (.verdict a) → g.ops = [] →
    (∀ t ∈ s.teams, ∀ m ∈ t.maps, m = none) → lanesOf (g.row k).mask = [l] → c < 128 →
    let w := fun n => laneOf (g.readV s (a.toNat + n)) l
    let code := ((w 1).extractLsb' 0 2).toNat
    r ∈ (s.core c).rays → (∀ x ∈ (s.core c).rays, x.entry = r.entry → x = r) → r.ctx = g.ctx → w 0 = r.handle c → r.entry < 2048 →
    r.phase = .awaiting hit isect →
    ∃ t h q, Sys2Proof.Claims.Passes (.verdict a) s t g h k ∧ SameMemory s t ∧ q ∈ (t.core c).rays
      ∧ (∀ x ∈ (s.core c).rays, x.entry < 2048 → x ≠ r → x ∈ (t.core c).rays) ∧ (∀ e, e ≠ c → (t.core e).rays = (s.core e).rays)
      ∧ (code = 0 ∨ code = 3 → q = { r with phase := .walking })
      ∧ (code = 1 → isect = false → closer hit r.commit = true → r.flags.getLsbD 1 = false → q = { r with phase := .walking, commit := some hit })
      ∧ (code = 1 → isect = false → closer hit r.commit = true → r.flags.getLsbD 1 = true →
          q = { r with phase := .done hit.record, commit := some hit })
      ∧ (code = 1 → isect = false → closer hit r.commit = false → q = { r with phase := .walking })
      ∧ (code = 2 → isect = false → q.phase = .done q.result ∧ q.commit = if closer hit r.commit then some hit else r.commit)
      ∧ (code = 1 → isect = true → r.flags.getLsbD 1 = false → closer { hit with t := w 2, hitKind := (w 1).extractLsb' 8 8 } r.commit = true →
          (fp32.dec (w 2).toNat).isNan = false → (fp32.dec (w 2).toNat).lt (fp32.dec (r.ray.getD 6 0).toNat) = false →
          (fp32.dec ((r.commit.map fun x : Hit => x.t).getD 0x7F800000).toNat).lt (fp32.dec (w 2).toNat) = false →
          q = { r with phase := .walking, commit := some { hit with t := w 2, hitKind := (w 1).extractLsb' 8 8 } })
      ∧ (isect = true → (fp32.dec (w 2).toNat).isNan = true ∨ (fp32.dec (w 2).toNat).lt (fp32.dec (r.ray.getD 6 0).toNat) = true
          ∨ (fp32.dec ((r.commit.map fun x : Hit => x.t).getD 0x7F800000).toNat).lt (fp32.dec (w 2).toNat) = true → q = { r with phase := .walking })

namespace Sys2Proof.Claims

/-- The key, sequence number and lane that each active lane of an OSENTER names (R428). -/
def asked (s : State) (g : Group) (k : Nat) (a b : R7) : List HeldLane :=
  (lanesOf (g.row k).mask).map fun l => { lane := l, key := laneOf (g.readV s (a.toNat + 1)) l ++ laneOf (g.readV s a.toNat) l,
                                          seq := laneOf (g.readV s b.toNat) l, poison := false }

/-- The home of a key is ready for a sequence number: its entry has that NEXT and no holder, or it has none and the number is 0. -/
def homeReady (s : State) (ctx : BitVec 5) (h : HeldLane) : Prop :=
  match s.osEntry ctx h.key with
  | some e => e.next = h.seq ∧ e.holder = none
  | none => h.seq = 0

/-- POISON of a key at its home. -/
def poisoned (s : State) (ctx : BitVec 5) (key : Dword) : Bool := ((s.osEntry ctx key).map fun e => e.poison).getD false

/-- The messages of some held lanes, in order (R290, R291). -/
def messages (ctx : BitVec 5) (poison free : Bool) (hs : List HeldLane) : List OsMsg :=
  hs.map fun h => { ctx := ctx, key := h.key, next := h.seq + 1, poison := poison, free := free }

end Sys2Proof.Claims

/-- O52. OSENTER enters the keys whose turn has come, or waits; OSLEAVE, OSLEAVE.DONE and OSABORT give held sets up; the homes
advance. -/
def Obligations.SectionResults : Prop :=
  (∀ (s : State) (g : Group) (k : Nat) (d a b : R7), Issues s g k (.osenter d a b) →
    let i := Instr.osenter d a b
    let ask := Sys2Proof.Claims.asked s g k a b
    (∀ e ∈ g.entering, e.pc ≠ (g.row k).pc) →
    (∀ m : Mask, m ≠ 0 → (∀ l, l < 96 → (m.getLsbD l = true ↔ ∃ h ∈ ask, h.lane = l
        ∧ (h.key ∈ g.held.flatten.map (fun x => x.key) ∨ ∃ x ∈ ask, x.lane ≠ l ∧ x.key = h.key))) →
      Traps i s g k ⟨0x68, 0, 0, m, 0⟩)
    ∧ ((∀ h ∈ ask, h.key ∉ g.held.flatten.map (fun x => x.key)) → (ask.map fun h => h.key).Nodup →
        (8 ≤ g.held.length → Traps i s g k (trapOf 0x69))
        ∧ (g.held.length < 8 → s.det g = false → (∀ m ∈ s.slices.osMsgs, m.ctx = g.ctx → ∀ h ∈ ask, m.key ≠ h.key) →
            s.slices.osHomes.length + 96 ≤ 4096 → (s.osCoreKeys g.core).length + 96 ≤ 512 → s.group g.uid = some g → s.onCore g = true →
            ((∀ h ∈ ask, Sys2Proof.Claims.homeReady s g.ctx h) →
              ∃ r u, exec i s = .next r ∧ Sys2Proof.Claims.Retired r g u k i ∧ SameMemory s r ∧ (∀ n, u.sraw n = g.sraw n)
                ∧ Sys2Proof.Claims.RunWritten g u d.toNat 1 (g.row k).mask (fun _ l => match ask.find? fun h => h.lane == l with
                  | some h => if Sys2Proof.Claims.poisoned s g.ctx h.key then 1 else 0
                  | none => 0)
                ∧ u.held = (ask.map fun h => { h with poison := Sys2Proof.Claims.poisoned s g.ctx h.key }) :: g.held
                ∧ ∀ h ∈ ask, ∃ e, r.osEntry g.ctx h.key = some e ∧ e.next = h.seq ∧ e.poison = false ∧ e.holder = some (g.uid, h.lane))
            ∧ ((∃ h ∈ ask, ¬ Sys2Proof.Claims.homeReady s g.ctx h) →
              ∃ r u, exec i s = .next r ∧ r.group g.uid = some u ∧ u.retired = g.retired ∧ (u.row k).wait = .osEnter
                ∧ (u.row k).pc = (g.row k).pc ∧ Sys2Proof.Claims.SameRegisters g u ∧ u.held = g.held ∧ SameMemory s r))))
  ∧ (∀ (s : State) (g : Group) (k : Nat) (fin : Bool), let i := if fin then Instr.osleaveDone else Instr.osleave
    Issues s g k i →
    (g.held = [] → Traps i s g k (trapOf 0x6A))
    ∧ ∀ set rest, g.held = set :: rest →
        ∃ r u, Sys2Proof.Claims.Passes i s r g u k ∧ SameMemory s r ∧ u.held = rest
          ∧ r.slices.osMsgs = s.slices.osMsgs ++ Sys2Proof.Claims.messages g.ctx false fin set ∧ r.slices.osHomes = s.slices.osHomes)
  ∧ (∀ (s : State) (g : Group) (k : Nat), Issues s g k .osabort →
    ∃ r u, Sys2Proof.Claims.Passes .osabort s r g u k ∧ SameMemory s r ∧ u.held = []
      ∧ r.slices.osMsgs = s.slices.osMsgs ++ Sys2Proof.Claims.messages g.ctx true false g.held.reverse.flatten
      ∧ (g.held = [] → r.ctxs = s.ctxs) ∧ (g.held ≠ [] → g.ctx.toNat < s.ctxs.length → (r.ctx g.ctx).status.poisoned = true))
  ∧ (∀ (s : State) (m : OsMsg) (rest : List OsMsg), s.slices.osMsgs = m :: rest → (∀ g ∈ s.groups, g.entering = []) →
    ∃ r, exec .osAdvanceAtHome s = .next r ∧ r.slices.osMsgs = rest ∧ SameMemory s r ∧ r.groups = s.groups
      ∧ (m.free = true → r.osEntry m.ctx m.key = none)
      ∧ (m.free = false → ∀ e, s.osEntry m.ctx m.key = some e → ∃ x, r.osEntry m.ctx m.key = some x ∧ x.next = m.next
          ∧ x.poison = (e.poison || m.poison) ∧ x.holder = none)
      ∧ ∀ c q, (c, q) ≠ (m.ctx, m.key) → r.osEntry c q = s.osEntry c q)
  ∧ ∀ (s : State) (c : BitVec 5) (q : Dword), s.osWaits c q = true → (c, q) ∉ s.slices.osStalled → c.toNat < s.ctxs.length →
    ∃ r, exec (.osStall c q) s = .next r ∧ (r.ctx c).status.osStall = true ∧ (c, q) ∈ r.slices.osStalled

namespace Sys2Proof.Claims

/-- SigBegin and SigWord of R245, on numbers: (h, c, n). -/
def sigStart (seed : Nat) : Nat × Nat × Nat := (0x6A09E667F3BCC908 ^^^ seed, 0x811C9DC5 ^^^ seed % 2 ^ 32 ^^^ seed / 2 ^ 32, 0)
def sigStep (x : Nat × Nat × Nat) (w : Nat) : Nat × Nat × Nat :=
  let h := (x.1 ^^^ w) * 0xC2B2AE3D27D4EB4F % 2 ^ 64
  let c := (x.2.1 ^^^ w) * 0x01000193 % 2 ^ 32
  (h ^^^ (h / 2 ^ 29), c ^^^ (c / 2 ^ 15), x.2.2 + 1)
/-- SigEnd of R245. -/
def sigEnd (x : Nat × Nat × Nat) : Nat × Nat :=
  let s := (x.1 ^^^ x.2.2 % 2 ^ 64) * 0xFF51AFD7ED558CCD % 2 ^ 64
  let k := (x.2.1 ^^^ x.2.2 % 2 ^ 32) * 0x85EBCA6B % 2 ^ 32
  let k := (k ^^^ (k / 2 ^ 13)) * 0xC2B2AE35 % 2 ^ 32
  (s ^^^ (s / 2 ^ 33), k ^^^ (k / 2 ^ 16))
/-- The signature of some words under a seed. -/
def sigOf (seed : Nat) (ws : List Nat) : Nat × Nat := sigEnd (ws.foldl sigStep (sigStart seed))

/-- The numbers that a signature state stands for. -/
def sigNums (x : SigState) : Nat × Nat × Nat := (x.h.toNat, x.c.toNat, x.n)

/-- STATE of a region as PURE_STATE reports it (R440). -/
def regionTraps (i : Instr) (s : State) (g : Group) (k : Nat) (split : Bool) (want : RegionState) : Prop :=
  (split = true → g.single = false → Traps i s g k (trapOf 0x73))
  ∧ (split = false ∨ g.single = true → g.region.st ≠ want → Traps i s g k (trapNum 0x72
      (match g.region.st with
       | .closed => 0
       | .opened => 1
       | .probed => 2)))

/-- A memo table finds an entry under a key (R251). -/
def memoHas (s : State) (ctx : BitVec 5) (kind : BitVec 2) (key : Dword × Word) (e : MemoEntry) : Prop :=
  ∃ w, s.memoFind ctx kind key = some w ∧ s.memoWay (memoSet ctx key.1) w = some e

end Sys2Proof.Claims

/-- O53. PURE.BEGIN, MKEY, PURE.PROBE, PURE.END and MEMO.FLUSH complete in their region state and trap in any other. -/
def Obligations.MemoRegionResults : Prop :=
  (∀ (seed : Dword) (e : Bool), Sys2Proof.Claims.sigNums (sigBegin seed e) = Sys2Proof.Claims.sigStart seed.toNat)
  ∧ (∀ (x : SigState) (w : Word), Sys2Proof.Claims.sigNums (x.word w) = Sys2Proof.Claims.sigStep (Sys2Proof.Claims.sigNums x) w.toNat)
  ∧ (∀ x : SigState, (x.fin.1.toNat, x.fin.2.toNat) = Sys2Proof.Claims.sigEnd (Sys2Proof.Claims.sigNums x))
  ∧ (∀ (s : State) (g : Group) (k : Nat) (a : R7), Issues s g k (.pureBegin a) →
    Sys2Proof.Claims.regionTraps (.pureBegin a) s g k true .closed
    ∧ (g.single = true → g.region.st = .closed →
        ∃ r h, Sys2Proof.Claims.Passes (.pureBegin a) s r g h k ∧ SameMemory s r ∧ h.ops = g.ops
          ∧ h.region.st = .opened ∧ h.region.rid = g.readS s k a.toNat ∧ h.region.rset = (g.row k).mask ∧ h.region.miss = 0 ∧ h.region.ver = 0
          ∧ h.region.vcount = g.region.vcount
          ∧ ∀ l, l < 96 → h.region.tol l = 0
            ∧ (h.region.sig l).eligible = ((s.descOf g).memo && (s.codeId g).isSome)
            ∧ ∀ c, s.codeId g = some c → Sys2Proof.Claims.sigNums (h.region.sig l) =
                [c.1.toNat % 2 ^ 32, c.1.toNat / 2 ^ 32, c.2.toNat].foldl Sys2Proof.Claims.sigStep
                  (Sys2Proof.Claims.sigStart (2 * 2 ^ 56 + (g.readS s k a.toNat).toNat))))
  ∧ (∀ (s : State) (g : Group) (k : Nat) (v : VOps), Issues s g k (.mkey v) →
    Sys2Proof.Claims.regionTraps (.mkey v) s g k false .opened
    ∧ (g.region.st = .opened → g.region.sigs.length = 96 → g.region.ltol.length = 96 → (v.mod.toNat < 4 ∨ (if v.sb then memoXB v.cuffD.memo else memoXA v.cuffD.memo) = true) →
        let tol := memoTol v.cuffD.memo
        let val := fun l => if v.sb then g.readS s k v.b.toNat else laneOf (g.readV s v.a.toNat) l
        let absorbs := fun l => (if v.sb then memoXB v.cuffD.memo else memoXA v.cuffD.memo) = false ∧ (g.row k).mask.getLsbD l = true
          ∧ g.region.rset.getLsbD l = true
        ∃ r h, Sys2Proof.Claims.Passes (.mkey v) s r g h k ∧ SameMemory s r ∧ h.ops = g.ops ∧ h.region.st = .opened ∧ h.region.rset = g.region.rset
          ∧ ∀ l, l < 96 →
            (¬ absorbs l → h.region.sig l = g.region.sig l ∧ h.region.tol l = g.region.tol l)
            ∧ (absorbs l → (h.region.tol l).toNat = max (g.region.tol l).toNat tol.toNat ∧ (h.region.sig l).eligible = (g.region.sig l).eligible
                ∧ Sys2Proof.Claims.sigNums (h.region.sig l) = [tol.toNat + 4 * v.mod.toNat, (keyWord v.mod.toNat tol.toNat (val l)).toNat].foldl
                    Sys2Proof.Claims.sigStep (Sys2Proof.Claims.sigNums (g.region.sig l)))))
  ∧ (∀ (s : State) (g : Group) (k : Nat) (d : R7) (mod : BitVec 8), Issues s g k (.pureProbe d mod) →
    let i := Instr.pureProbe d mod
    let pc := (g.row k).pc.toNat
    let p := (g.row k).mask &&& g.region.rset
    let pw := (mod.extractLsb' 0 5).toNat
    let able := fun l => (g.region.sig l).eligible = true ∧ ((s.descOf g).det = true → g.region.tol l = 0)
    Sys2Proof.Claims.regionTraps i s g k true .opened
    ∧ (g.single = true → g.region.st = .opened →
        (g.answerAt pc = none → (g.row k).wait ≠ .probe → ∃ r h, exec i s = .next r ∧ r.group g.uid = some h ∧ h.retired = g.retired ∧ (h.row k).wait = .probe
            ∧ Sys2Proof.Claims.SameRegisters g h ∧ h.region.t0 = (s.core g.core).clocks ∧ h.region.spent = 0
            ∧ ∃ r', exec (.memoLookupReturn g.uid) r = .next r' ∧ ∃ x, r'.group g.uid = some x ∧ (x.answerAt pc).isSome = true)
        ∧ ((g.answerAt pc).isSome = true → s.slices.memoMsgs = [] → s.sram = [] → (∀ l, p.getLsbD l = true → ¬ able l ∨ s.memoFind g.ctx 2 (g.region.sig l).fin = none) →
            ∃ r h, Sys2Proof.Claims.Retired r g h k i ∧ exec i s = .next r ∧ SameMemory s r
              ∧ Sys2Proof.Claims.RunWritten g h d.toNat pw 0 (fun _ _ => 0) ∧ (∀ n, n ≠ 6 → h.sraw n = g.sraw n)
              ∧ h.region.st = .probed ∧ h.region.miss = p ∧ h.region.ver = 0 ∧ h.region.vcount = g.region.vcount ∧ (h.sraw 6).getLsbD 4 = false)
        ∧ ((g.answerAt pc).isSome = true → s.slices.memoMsgs = [] → s.sram = [] → (s.ctx g.ctx).st = .active → ∀ l e, (∀ x, p.getLsbD x = decide (x = l)) → l < 96 → able l →
            Sys2Proof.Claims.memoHas s g.ctx 2 (g.region.sig l).fin e → e.payload.length = pw → 1 ≤ pw → (s.descOf g).verifyRate = 0 →
            g.ctx.toNat < s.ctxs.length →
            ∃ r h, exec i s = .next r ∧ r.group g.uid = some h ∧ h.retired = g.retired + 1 ∧ SameMemory s r
              ∧ h.carries { g.rowAfter k i with mask := (g.row k).mask &&& ~~~p } ∧ (∀ n, n ≠ 6 → h.sraw n = g.sraw n)
              ∧ Sys2Proof.Claims.RunWritten g h d.toNat pw p (fun j _ => e.payload.getD j 0)
              ∧ h.region.st = .probed ∧ h.region.miss = 0 ∧ (h.sraw 6).getLsbD 4 = true
              ∧ (r.ctx g.ctx).credits = (s.ctx g.ctx).credits + e.cost.toNat)))
  ∧ (∀ (s : State) (g : Group) (k : Nat), Issues s g k .pureEnd →
    let q := g.region
    Sys2Proof.Claims.regionTraps .pureEnd s g k true .probed
    ∧ (g.single = true → q.st = .probed →
        ((∃ n, n < q.pw ∧ g.vregOk (q.preg + n) = false) → Traps .pureEnd s g k (trapOf 0x20))
        ∧ ((∀ n, n < q.pw → g.vregOk (q.preg + n) = true ∧ g.isPending true (q.preg + n) = false) →
            ∃ r h, exec .pureEnd s = .next r ∧ r.group g.uid = some h ∧ h.retired = g.retired + 1 ∧ SameMemory s r
              ∧ Sys2Proof.Claims.SameRegisters g h ∧ h.carries { g.rowAfter k .pureEnd with mask := q.rset &&& (g.row k).own }
              ∧ h.region.st = .closed ∧ h.region.miss = 0 ∧ h.region.ver = 0 ∧ h.region.vcount = q.vcount
              ∧ r.slices.memo = s.slices.memo ∧ ((g.row k).mask &&& q.miss = 0 → r.slices.memoMsgs = s.slices.memoMsgs)
              ∧ ∀ l, (∀ x, ((g.row k).mask &&& q.miss).getLsbD x = decide (x = l)) → l < 96 → q.ver.getLsbD l = false → (q.sig l).eligible = true →
                  ((s.descOf g).det = true → q.tol l = 0) → swf MemoEntry.none s.slices.memo = true →
                  ∃ e, r.slices.memoMsgs = s.slices.memoMsgs ++ [{ core := g.core, drop := false, entry := e }]
                    ∧ Sys2Proof.Claims.memoHas (r.memoApply { core := g.core, drop := false, entry := e }) g.ctx 2 (q.sig l).fin e ∧ e.payload = (List.range q.pw).map (fun n => laneOf (g.vraw (q.preg + n)) l)
                    ∧ e.tol = q.tol l ∧ e.cost.toNat = min (q.spent + ((s.core g.core).clocks - q.t0)) 65535)))
  ∧ ∀ (s : State) (g : Group) (k : Nat), Issues s g k .memoFlush →
    ∃ r h, Sys2Proof.Claims.Passes .memoFlush s r g h k ∧ SameMemory s r ∧ (∀ e ∈ r.slices.memo, e.2.ctx ≠ g.ctx)
      ∧ (s.slices.memoMsgs = [] → ∀ e, e ∈ r.slices.memo ↔ e ∈ s.slices.memo ∧ e.2.ctx ≠ g.ctx)

namespace Sys2Proof.Claims

/-- A group reads v from n bytes at a virtual address, in memory, and whether the translation has MEMO. -/
def Reads (s : State) (g : Group) (va n v : Nat) (memo : Bool) : Prop :=
  ∃ pa at_, s.resolve g va .read = .ok ⟨va, .phys pa, at_⟩ ∧ at_.memo = memo ∧ at_.near = false ∧ s.paHeld pa = false
    ∧ s.loadNat g ⟨va, .phys pa, at_⟩ true n = some v

/-- The 32 bytes of a tile entry at a virtual address lie in DRAM at a physical one, outside the generation store, on lines in service,
untracked and not NEAR, and a group reads them there. -/
def entryAt (s : State) (g : Group) (va pa : Nat) : Prop :=
  ∃ at_ : Attr, at_.track = false ∧ at_.near = false ∧ (at_.coh ≠ 0 ∨ at_.cache ≠ 0)
    ∧ (∀ j, j < 32 → inDram (pa + j) = true ∧ inGen (pa + j) = false ∧ s.lineBad (pa + j) = false ∧ s.paHeld (pa + j) = false)
    ∧ (∀ i, i < 8 → s.resolve g (va + 4 * i) .write = .ok ⟨va + 4 * i, .phys (pa + 4 * i), at_⟩)
    ∧ ∀ i, i < 4 → s.resolve g (va + 8 * i) .read = .ok ⟨va + 8 * i, .phys (pa + 8 * i), at_⟩
        ∧ s.loadNat g ⟨va + 8 * i, .phys (pa + 8 * i), at_⟩ true 8 = some ((List.range 8).map fun j =>
            (s.dramByte (pa + 8 * i + j)).toNat * 256 ^ j).sum

/-- n bytes of DRAM as a number, low first. -/
def dramNat (s : State) (pa n : Nat) : Nat := ((List.range n).map fun j => (s.dramByte (pa + j)).toNat * 256 ^ j).sum

/-- Nothing stands between a group and its tile table: no operation in flight, no mapped stash, no line in its core's L1, no deterministic
round, no pure region of a checked context, no answer waiting. -/
def plainTile (s : State) (g : Group) (k : Nat) : Prop :=
  g.ops = [] ∧ s.det g = false ∧ g.answerAt (g.row k).pc.toNat = none ∧ s.group g.uid = some g ∧ alone s g ∧ s.pureChecked g = false
    ∧ (∀ t ∈ s.teams, ∀ m ∈ t.maps, m = none) ∧ (s.core g.core).l1 = [] ∧ ∀ h ∈ s.groups, h.exiting = false

/-- The translations of some addresses are steady: none that is cached differs from the tables, all addresses of one page have its entry (R168,
R170), and no walk waits for a retried read (R35). -/
def steady (s : State) (g : Group) (as : List Nat) : Prop :=
  ∀ a ∈ as, (∀ t ∈ s.cached (some (g.core, g.part)) g.ctx a, t.page = s.walk g.ctx a) ∧ (s.tableEntries g.ctx a).any s.paHeld = false
    ∧ ∀ x ∈ as, ∀ b n e, s.walk g.ctx a = .page b n e → x / 2 ^ n = a / 2 ^ n → s.walk g.ctx x = .page b n e

/-- The addresses at which a tile entry is read and written. -/
def entryWords (va : Nat) : List Nat := (List.range 8).map fun i => va + 4 * i

/-- Only the 32 bytes at pa of DRAM have changed. -/
def OnlyEntry (s t : State) (pa : Nat) : Prop :=
  (∀ x, x < pa ∨ pa + 32 ≤ x → t.dramByte x = s.dramByte x) ∧ (∀ x, t.hostByte x = s.hostByte x) ∧ ∀ u x, t.stashByte u x = s.stashByte u x

/-- The traps of TILE_STATE and TILE_RANGE (R266, R267). -/
def tileTraps (i : Instr) (s : State) (g : Group) (k t : Nat) : Prop :=
  ((s.launch g.launch).bind (·.frame) = none → Traps i s g k (trapOf 0x70))
    ∧ ∀ f, (s.launch g.launch).bind (·.frame) = some f → f.bytes.toNat < 32 * (t + 1) → Traps i s g k (trapNum 0x71 t)

end Sys2Proof.Claims

/-- O54. TSIG, TCOST and TSKIP check their tile, and read and write the table entries as R267 to R270 say. -/
def Obligations.TileResults : Prop :=
  (∀ (s : State) (g : Group) (k : Nat) (a b : R7), Issues s g k (.tcost b a) → Sys2Proof.Claims.plainTile s g k →
    let i := Instr.tcost b a
    let t := (g.readS s k a.toNat).toNat
    let cost := g.readS s k b.toNat
    Sys2Proof.Claims.tileTraps i s g k t
    ∧ ∀ f pa, (s.launch g.launch).bind (·.frame) = some f → 32 * (t + 1) ≤ f.bytes.toNat →
        Sys2Proof.Claims.entryAt s g (f.cur.toNat + 32 * t) pa → Sys2Proof.Claims.steady s g (Sys2Proof.Claims.entryWords (f.cur.toNat + 32 * t)) →
        (Sys2Proof.Claims.dramNat s (pa + 12) 4 ≠ f.frame.toNat → ∃ r h, Sys2Proof.Claims.Passes i s r g h k ∧ h.ops = [] ∧ SameMemory s r)
        ∧ (Sys2Proof.Claims.dramNat s (pa + 12) 4 = f.frame.toNat →
            ∃ r h, Sys2Proof.Claims.Passes i s r g h k ∧ h.ops = [] ∧ Sys2Proof.Claims.OnlyEntry s r pa
              ∧ Sys2Proof.Claims.dramNat r (pa + 16) 4 = cost.toNat ∧ r.dramByte (pa + 20) = s.dramByte (pa + 20) ||| 4
              ∧ ∀ j, j < 32 → j < 16 ∨ 21 ≤ j → r.dramByte (pa + j) = s.dramByte (pa + j)))
  ∧ (∀ (s : State) (g : Group) (k : Nat) (a : R7), Issues s g k (.tskip a) → Sys2Proof.Claims.plainTile s g k →
    let i := Instr.tskip a
    let t := (g.readS s k a.toNat).toNat
    Sys2Proof.Claims.tileTraps i s g k t
    ∧ ∀ f pa, (s.launch g.launch).bind (·.frame) = some f → 32 * (t + 1) ≤ f.bytes.toNat → g.ctx.toNat < s.ctxs.length →
        Sys2Proof.Claims.entryAt s g (f.cur.toNat + 32 * t) pa → Sys2Proof.Claims.steady s g (Sys2Proof.Claims.entryWords (f.cur.toNat + 32 * t)) →
        (s.ctx g.ctx).st = .active →
        let pays := Sys2Proof.Claims.dramNat s (pa + 12) 4 = f.frame.toNat ∧ (s.dramByte (pa + 20)).getLsbD 1 = true
          ∧ (s.dramByte (pa + 20)).getLsbD 3 = false
        (¬ pays → ∃ r h, Sys2Proof.Claims.Passes i s r g h k ∧ h.ops = [] ∧ SameMemory s r ∧ (r.ctx g.ctx).credits = (s.ctx g.ctx).credits)
        ∧ (pays → ∃ r h, Sys2Proof.Claims.Passes i s r g h k ∧ h.ops = [] ∧ Sys2Proof.Claims.OnlyEntry s r pa
            ∧ r.dramByte (pa + 20) = s.dramByte (pa + 20) ||| 8
            ∧ (∀ j, j < 32 → j ≠ 20 → r.dramByte (pa + j) = s.dramByte (pa + j))
            ∧ (r.ctx g.ctx).credits = (s.ctx g.ctx).credits + min (Sys2Proof.Claims.dramNat s (pa + 16) 4) (2 ^ 20)))
  ∧ ∀ (s : State) (g : Group) (k : Nat) (d a : R7) (sz : BitVec 2), Issues s g k (.tsig d a sz) → Sys2Proof.Claims.plainTile s g k →
    let i := Instr.tsig d a sz
    let regs := g.sblock s k a.toNat 8
    let t := (regs.getD 0 0).toNat
    let bin := (regs.getD 4 0).toNat * 2 ^ 32 + (regs.getD 3 0).toNat
    let n := (regs.getD 5 0).toNat
    let desc := (regs.getD 7 0).toNat * 2 ^ 32 + (regs.getD 6 0).toNat
    Sys2Proof.Claims.tileTraps i s g k t
    ∧ ∀ f, (s.launch g.launch).bind (·.frame) = some f → 32 * (t + 1) ≤ f.bytes.toNat →
        (2 ^ 20 < n → Traps i s g k (trapOf 0x38))
        ∧ ∀ pa ws, n ≤ 2 ^ 20 → bin < 2 ^ 49 → bin + 4 * n ≤ 2 ^ 49 → desc + 128 ≤ 2 ^ 49 → bin % 4 = 0 → desc % 64 = 0 →
            (∀ j, j < 16 → ∃ m, Sys2Proof.Claims.Reads s g (desc + 8 * j) 8 0 m) →
            (ws : List (Nat × Bool)).length = n →
            (∀ j w, ws[j]? = some w → w.1 < 2 ^ 32 ∧ Sys2Proof.Claims.Reads s g (bin + 4 * j) 4 w.1 w.2) →
            Sys2Proof.Claims.entryAt s g (f.cur.toNat + 32 * t) pa → ∀ prev : Option (Nat × Nat × Nat),
            (prev = none ↔ f.prev = 0) →
            (∀ p, prev = some p → (∃ m, Sys2Proof.Claims.Reads s g (f.prev.toNat + 32 * t) 8 p.1 m)
              ∧ (∃ m, Sys2Proof.Claims.Reads s g (f.prev.toNat + 32 * t + 8) 8 p.2.1 m)
              ∧ (∃ m, Sys2Proof.Claims.Reads s g (f.prev.toNat + 32 * t + 16) 8 p.2.2 m)
              ∧ ∃ m v, Sys2Proof.Claims.Reads s g (f.prev.toNat + 32 * t + 24) 8 v m) →
            Sys2Proof.Claims.steady s g ((List.range 16).map (fun j => desc + 8 * j) ++ (List.range n).map (fun j => bin + 4 * j)
              ++ Sys2Proof.Claims.entryWords (f.cur.toNat + 32 * t) ++ if f.prev = 0 then [] else Sys2Proof.Claims.entryWords (f.prev.toNat + 32 * t)) →
            let sig := Sys2Proof.Claims.sigOf (2 ^ 56 + sz.toNat) ([(regs.getD 1 0).toNat, (regs.getD 2 0).toNat, n] ++ ws.map (fun w => w.1))
            let eligible := ws.all fun w => w.2
            let skip := match prev with
              | none => false
              | some p => (s.descOf g).memo && eligible && p.2.2.testBit 32 && p.2.1 / 2 ^ 32 % 2 ^ 32 == (f.frame - 1).toNat
                  && p.1 % 2 ^ 64 == sig.1 && p.2.1 % 2 ^ 32 == sig.2 && (p.2.2.testBit 34 || p.2.2.testBit 33)
            let cost := match prev with
              | some p => if skip then p.2.2 % 2 ^ 32 else 0
              | none => 0
            ∃ r h, exec i s = .next r ∧ r.group g.uid = some h ∧ h.retired = g.retired + 1 ∧ h.ops = [] ∧ Sys2Proof.Claims.OnlyEntry s r pa
              ∧ (∀ l, h.vraw l = g.vraw l)
              ∧ Sys2Proof.Claims.dramNat r pa 8 = sig.1 ∧ Sys2Proof.Claims.dramNat r (pa + 8) 4 = sig.2
              ∧ Sys2Proof.Claims.dramNat r (pa + 12) 4 = f.frame.toNat ∧ Sys2Proof.Claims.dramNat r (pa + 16) 4 = cost
              ∧ Sys2Proof.Claims.dramNat r (pa + 20) 12 = (if eligible then 1 else 0) + (if skip then 2 else 0)
              ∧ (3 ≤ d.toNat → h.carries (g.rowAfter k i) ∧ (∀ m, m ≠ g.sreg d.toNat → m ≠ g.sreg (d.toNat + 1) → h.sraw m = g.sraw m)
                  ∧ (g.sreg d.toNat ≠ 6 → h.sraw (g.sreg d.toNat) = if skip then 1 else 0)
                  ∧ (g.sreg (d.toNat + 1) ≠ 6 → h.sraw (g.sreg (d.toNat + 1)) = BitVec.ofNat 32 cost))

namespace Sys2Proof.Claims

/-- Everything behind the PHY holds its reset state (R26). -/
def Cleared (r : State) : Prop :=
  r.dev = State.reset.dev ∧ r.ctxs = State.reset.ctxs ∧ r.queues = State.reset.queues ∧ r.fcp = State.reset.fcp ∧ r.gov = State.reset.gov
    ∧ r.slices = State.reset.slices ∧ r.cores = State.reset.cores ∧ r.launches = [] ∧ r.teams = [] ∧ r.groups = []

/-- An error record of a CLASS with a DETAIL stands at the old ERR_TAIL, with the next SEQ; where the log was full it is counted (R70). -/
def Logged (s r : State) (cls detail : Nat) : Prop :=
  (s.dev.errTail + 1 = s.dev.errHead → r.dev.errTail = s.dev.errTail ∧ r.dev.errDropped = satInc s.dev.errDropped)
    ∧ (s.dev.errTail + 1 ≠ s.dev.errHead → r.dev.errTail = s.dev.errTail + 1 ∧ r.dev.errDropped = s.dev.errDropped
        ∧ let e := sget ErrRecord.zero r.dev.errLog s.dev.errTail.toNat
          e.w0.toNat / 2 ^ 24 % 256 = cls ∧ e.w0.toNat / 2 ^ 32 = s.fcp.errSeq.toNat ∧ e.w2.toNat = detail % 2 ^ 64)

/-- The 32 bytes of an event record as a number (R63). -/
def eventNat (e : EvRecord) (seq : Word) : Nat :=
  e.ctx.toNat + 2 ^ 8 * e.queue.toNat + 2 ^ 16 * e.code.toNat + 2 ^ 24 * e.type.toNat + 2 ^ 32 * seq.toNat + 2 ^ 64 * e.d0.toNat
    + 2 ^ 128 * e.d1.toNat + 2 ^ 192 * e.d2.toNat

/-- An event is posted: written at EVQ_TAIL with the next SEQ, or held behind those held (R63, R66). -/
def Posted (s r : State) (e : EvRecord) : Prop :=
  (s.evqBlocked = false → s.fcp.evStore = [] →
      r.dev.evqTail = BitVec.ofNat 16 ((s.dev.evqTail.toNat + 1) % 2 ^ s.dev.evqLog2.toNat) ∧ r.fcp.evSeq = s.fcp.evSeq + 1
        ∧ ∀ j, j < 32 → r.hostByte (s.dev.evqBase.toNat + 32 * s.dev.evqTail.toNat + j) = BitVec.ofNat 8 (eventNat e s.fcp.evSeq / 256 ^ j))
    ∧ (s.evqBlocked = true ∨ s.fcp.evStore ≠ [] → s.fcp.evStore.length < 960 → r.fcp.evStore = s.fcp.evStore ++ [{ e with vec := s.evVector e }])

/-- Held records go to the event queue, oldest first, where there is room for all of them (R66). -/
def Drains (s r : State) : Prop :=
  (s.fcp.evStore = [] → r = { s with fcp := { s.fcp with keptUsed := false } })
    ∧ (s.fcp.evStore ≠ [] → s.dev.evqEnable = true → s.hostReachable = true → s.dev.evqLog2.toNat ≤ 16 →
        (∀ i, i < s.fcp.evStore.length → (s.dev.evqTail.toNat + i + 1) % 2 ^ s.dev.evqLog2.toNat ≠ s.dev.evqHead.toNat) →
        r.fcp.evStore = [] ∧ r.dev.evqTail.toNat = (s.dev.evqTail.toNat + s.fcp.evStore.length) % 2 ^ s.dev.evqLog2.toNat
          ∧ r.fcp.evSeq = s.fcp.evSeq + BitVec.ofNat 32 s.fcp.evStore.length ∧ r.boot = s.boot ∧ r.dram = s.dram)

/-- Events of which each clears a part that has its rails up; the state of the boot that each leaves. -/
def resets : List (Instr × BootPhase × Bool) :=
  [(.perstNAssert, .perstLow, false), (.hotReset, .rom, false), (.functionLevelReset, .rom, true)]

/-- Events that do not start a part whose THERM_TRIP_N is low (R43). -/
def restarts (n : BitVec 8) (w : Word) : List Instr :=
  [.perstNDeassert, .hotReset, .functionLevelReset, .powerRemoval, .powerUp, .firmwareLoadDone n n, .channelTrainingDone w n, .linkUp,
   .configurationRequest, .thermalTrip n]

end Sys2Proof.Claims

/-- O55. State.reset holds the reset values that the spec gives. -/
def Obligations.ResetState : Prop :=
  let r := State.reset
  r.dev.stepping = 0x01 ∧ r.dev.part = 0x9600 ∧ r.dev.isaMajor = 1 ∧ r.dev.isaMinor = 0
    ∧ r.boot.phase = .perstLow ∧ r.boot.linkUp = false ∧ r.boot.clkreqLow = true ∧ r.boot.thermAlert = false ∧ r.boot.thermTrip = false
    ∧ r.dev.ready = false ∧ r.dev.degraded = false ∧ r.dev.bootErr = 0 ∧ r.dev.memRate = 0 ∧ r.dev.fwBuild = 0 ∧ r.dev.chanFail = 0
    ∧ r.dev.apertureBase = 0 ∧ r.dev.ctxTable = 0 ∧ r.dev.capW = 320 ∧ r.dev.lastRefusal = 0 ∧ r.dev.capPending = false ∧ r.dev.capInForce = 320
    ∧ r.dev.evqBase = 0 ∧ r.dev.evqEnable = false ∧ r.dev.evqLog2 = 6 ∧ r.dev.evqHead = 0 ∧ r.dev.evqTail = 0 ∧ r.dev.evqDropped = 0
    ∧ r.dev.evqLost = 0 ∧ r.dev.errHead = 0 ∧ r.dev.errTail = 0 ∧ r.dev.errTransient = 0 ∧ r.dev.errLasting = 0 ∧ r.dev.errDropped = 0
    ∧ r.dev.coreExclude = 0 ∧ r.dev.wayExclude = List.replicate 16 0 ∧ r.dev.bar2Log2 = 28 ∧ r.dev.msix.length = 64
    ∧ (∀ c : BitVec 5, (r.ctx c).st = .off ∧ (r.ctx c).refusal = 0) ∧ r.ctxs.length = 32
    ∧ (∀ q : BitVec 6, (r.queue q).st = .off ∧ (r.queue q).enable = false ∧ (r.queue q).log2 = 12 ∧ (r.queue q).cause = 0
        ∧ (r.queue q).head = 0 ∧ (r.queue q).tail = 0 ∧ (r.queue q).done = 0 ∧ (r.queue q).base = 0) ∧ r.queues.length = 64
    ∧ r.launches = [] ∧ r.teams = [] ∧ r.groups = [] ∧ r.gov.vddCore = 750 ∧ r.gov.fabricClk = 1040
    ∧ r.cores.length = 96 ∧ (∀ k, (r.core k).ceiling = 1320) ∧ r.slices.memo = [] ∧ r.slices.osHomes = [] ∧ r.memOk

/-- O56. The resets, the boot, the link, the channels and the pins do what the module's rules say. -/
def Obligations.ResetBootAndLinkResults : Prop :=
  (∀ (s : State) (p : Instr × BootPhase × Bool), p ∈ Sys2Proof.Claims.resets → s.boot.phase ≠ .off →
      (p.1 = .perstNAssert ∨ (s.boot.phase ≠ .perstLow ∧ s.boot.phase ≠ .tripped ∧ s.boot.linkUp = true)) →
      ∃ r, exec p.1 s = .next r ∧ Sys2Proof.Claims.Cleared r ∧ (∀ a, r.hostByte a = s.hostByte a) ∧ r.boot.phase = p.2.1 ∧ r.boot.linkUp = p.2.2
        ∧ r.boot.linkDead = false ∧ r.boot.d3hot = false ∧ r.boot.thermTrip = false ∧ r.boot.thermAlert = false)
    ∧ (∀ s : State, s.boot.phase = .perstLow → ∃ r, exec .powerRemoval s = .next r ∧ Sys2Proof.Claims.Cleared r ∧ r.boot.phase = .off ∧ r.boot.clkreqLow = false)
    ∧ (∀ s : State, s.boot.phase = .off → ∃ r, exec .powerUp s = .next r ∧ Sys2Proof.Claims.Cleared r ∧ r.boot.phase = .perstLow ∧ r.boot.clkreqLow = true)
    ∧ (∀ (s : State) (n : BitVec 8), s.boot.phase ≠ .off → s.boot.phase ≠ .tripped → n.toNat < 32 →
        ∃ r, exec (.thermalTrip n) s = .next r ∧ Sys2Proof.Claims.Cleared r ∧ r.boot.phase = .tripped ∧ r.boot.thermTrip = true)
    ∧ (∀ (s : State) (n : BitVec 8) (w : Word), s.boot.phase = .tripped → ∀ i ∈ Sys2Proof.Claims.restarts n w, exec i s = .next s)
    ∧ (∀ s : State, s.boot.phase = .perstLow → exec .perstNDeassert s = .next { s with boot := { s.boot with phase := .rom } })
    ∧ (∀ (s : State) (e b : BitVec 8), s.boot.phase = .rom →
        (e = 0 → exec (.firmwareLoadDone e b) s = .next { s with boot := { s.boot with phase := .training }, dev := { s.dev with fwBuild := b } })
        ∧ (e = 1 ∨ e = 2 ∨ e = 3 →
            exec (.firmwareLoadDone e b) s = .next { s with boot := { s.boot with phase := .bootFailed }, dev := { s.dev with bootErr := e } }))
    ∧ (∀ (s : State) (e b : BitVec 8) (w : Word), s.boot.phase = .bootFailed →
        exec (.firmwareLoadDone e b) s = .next s ∧ exec (.channelTrainingDone w b) s = .next s)
    ∧ (∀ (s : State) (rate : BitVec 8), s.boot.phase = .training → rate.toNat ≤ 5 →
        (rate ≠ 0 → ∃ r, exec (.channelTrainingDone 0 rate) s = .next r ∧ r.dev = { s.dev with ready := true, memRate := rate }
          ∧ r.boot.phase = .trained ∧ (∀ a, r.dramByte a = if Config.genBase ≤ a then 0 else s.dramByte a))
        ∧ ∀ w : Word, w ≠ 0 → (rate ≠ 0 ∨ w = 0xFFFFFFFF#32) →
            ∃ r, exec (.channelTrainingDone w rate) s = .next r ∧ r.dev.ready = s.dev.ready ∧ r.dev.bootErr = 4 ∧ r.dev.chanFail = w
              ∧ r.boot.phase = .trained ∧ (∀ a, r.dramByte a = if Config.genBase ≤ a then 0 else s.dramByte a)
              ∧ (s.dev.errLasting = 0 → r.dev.errLasting.toNat = ((List.range 32).filter fun n => w.getLsbD n).length))
    ∧ (∀ s : State, s.served = true →
        (s.dev.bootErr = 4 → exec .acceptChannels s = .next { s with dev := { s.dev with ready := true, degraded := true, memRate := s.gov.memRate } })
        ∧ (s.dev.bootErr ≠ 4 → ∃ r, exec .acceptChannels s = .next r ∧ Sys2Proof.Claims.Logged s r 5 0x10 ∧ r.dev.ready = s.dev.ready
            ∧ r.dev.degraded = s.dev.degraded))
    ∧ (∀ s : State, s.boot.linkUp = true →
        (s.awake = true → ∀ q, s.turn (.hostAsk q) = .next { s with boot := { s.boot with asks := s.boot.asks ++ [q] } })
        ∧ (s.boot.phase = .rom →
            exec .configurationRequest s = .next { s with boot := { s.boot with configAnswer := .retry, asks := s.boot.asks.tail } })
        ∧ (s.boot.phase = .training ∨ s.boot.phase = .bootFailed ∨ s.boot.phase = .trained →
            (s.boot.asks.headD .other = .other →
              exec .configurationRequest s = .next { s with boot := { s.boot with configAnswer := .completed, asks := s.boot.asks.tail } })
            ∧ ∀ n : BitVec 6, s.boot.asks.head? = some (.resize n) →
                ∃ r, exec .configurationRequest s = .next r ∧ r.boot = { s.boot with configAnswer := .completed, asks := s.boot.asks.tail }
                ∧ r.dev.bar2Log2 = (if 28 ≤ n.toNat ∧ n.toNat ≤ 37 then n.toNat else s.dev.bar2Log2)
                ∧ r.dev.apertureBase = s.dev.apertureBase ∧ SameMemory s r))
    ∧ (∀ s : State, s.awake = true → ∃ m r, exec .linkUp s = .next r ∧ Sys2Proof.Claims.Drains m r ∧ m.boot = { s.boot with linkUp := true }
        ∧ ((∀ c, (s.ctx c).statusDue = false) → m = { s with boot := { s.boot with linkUp := true } }))
    ∧ (∀ s : State, s.boot.d3hot = true →
        ∃ m r, exec .d0Return s = .next r ∧ Sys2Proof.Claims.Drains m r ∧ m.boot = { s.boot with d3hot := false }
          ∧ ((∀ c, (s.ctx c).statusDue = false) → m = { s with boot := { s.boot with d3hot := false } }))
    ∧ (∀ s : State, s.configured = true → s.boot.linkUp = true → exec .d3hotEntry s = .next { s with boot := { s.boot with d3hot := true } })
    ∧ (∀ (s : State) (bus : Dword), s.awake = true → s.boot.linkUp = true →
        exec .correctableLinkError s = .next { s with boot := { s.boot with aerCorrectable := satInc s.boot.aerCorrectable } }
        ∧ (∃ r, exec (.uncorrectableLinkError ⟨false, bus⟩) s = .next r ∧ Sys2Proof.Claims.Logged s r 9 bus.toNat ∧ r.queues = s.queues ∧ r.groups = s.groups
            ∧ r.boot = { s.boot with aerNonfatal := satInc s.boot.aerNonfatal })
        ∧ ∃ r, exec (.uncorrectableLinkError ⟨true, bus⟩) s = .next r ∧ Sys2Proof.Claims.Logged s r 9 bus.toNat ∧ r.boot.linkUp = false ∧ r.hostReachable = false
            ∧ r.boot.aerFatal = satInc s.boot.aerFatal ∧ r.ctxs = s.ctxs ∧ r.teams = s.teams ∧ SameMemory s r
            ∧ (∀ q, r.queue q = { s.queue q with st := if (s.queue q).st = .running then .halted else (s.queue q).st })
            ∧ ∀ u g, s.group u = some g → ∃ o, r.group u = some { g with ops := o })
    ∧ (∀ (s : State) (w : BitVec 16), s.boot.phase = .training ∨ s.boot.phase = .trained →
        ∃ r m, exec (.regulatorAlert w) s = .next r ∧ r.boot.pmbAlert = w ∧ Sys2Proof.Claims.Logged s m 7 w.toNat ∧ r.dev.errLog = m.dev.errLog
          ∧ r.dev.errTail = m.dev.errTail ∧ (∀ a, r.dramByte a = s.dramByte a)
          ∧ Sys2Proof.Claims.Posted s r { type := 0x13, code := 0, queue := 0xFF, ctx := 0xFF, d0 := w.setWidth 64, d1 := 0, d2 := 0 })
    ∧ (∀ (s : State) (tck tdi tms trstN : Bool), s.boot.phase ≠ .off →
        ∃ x, exec (.boundaryScan tck tdi tms trstN) s = .next { s with boot := { s.boot with tap := x } }
          ∧ x.tck = tck ∧ x.tdi = tdi ∧ x.tms = tms ∧ x.trstN = trstN
          ∧ (trstN = false ∨ s.boot.phase = .perstLow → x.st = .testLogicReset)
          ∧ (s.boot.phase ≠ .perstLow → trstN = true →
              (tck = false ∨ s.boot.tap.tck = true → x.st = s.boot.tap.st)
              ∧ (tck = true → s.boot.tap.tck = false →
                  (s.boot.tap.st = .shiftDr → (x.st = if tms = true then .exit1Dr else .shiftDr) ∧ x.dr = s.boot.tap.dr.drop 1 ++ [tdi])
                  ∧ (s.boot.tap.st = .shiftIr → (x.st = if tms = true then .exit1Ir else .shiftIr) ∧ x.ir = s.boot.tap.ir.drop 1 ++ [tdi])
                  ∧ (s.boot.tap.st = .selectIr → x.st = if tms = true then .testLogicReset else .captureIr))
              ∧ (tck = false → s.boot.tap.tck = true → s.boot.tap.st = .shiftDr → x.tdo = s.boot.tap.dr.head?)))
    ∧ (∀ (s : State) (n : BitVec 5) (perBank : Bool) (c : Chan), s.boot.phase = .trained → s.dram.chans[n.toNat]? = some c →
        ∀ p ∈ [(Instr.writeTimingRecentre n, { c with recentres := c.recentres + 1 }),
               (Instr.refresh n perBank, if c.selfRefresh = true then c else { c with refreshes := c.refreshes + if c.hot then 2 else 1 }),
               (Instr.selfRefreshEntry n, if c.used = true then { c with used := false } else { c with selfRefresh := true }),
               (Instr.selfRefreshExit n, { c with selfRefresh := false, used := true })],
          exec p.1 s = .next { s with dram := { s.dram with chans := s.dram.chans.set n.toNat p.2 } })
    ∧ (∀ (s : State) (pa : BitVec 48), s.boot.phase = .trained → pa.toNat < Config.dramBytes → (∀ b ∈ s.dram.bad, b.line ≠ pa.toNat / 128) →
        exec (.dramReadComplete pa true) s = .next s
        ∧ ∃ t, exec (.dramReadComplete pa false) s = .next t ∧ (∀ a, t.dramByte a = s.dramByte a) ∧ (∀ a, t.lineBad a = s.lineBad a)
            ∧ (∃ r, exec (.dramReadRetry pa true) t = .next r ∧ r.dev.errTransient = satInc s.dev.errTransient ∧ r.dram = s.dram)
            ∧ ∃ r, exec (.dramReadRetry pa false) t = .next r ∧ r.dev.errLasting = satInc s.dev.errLasting ∧ (∀ a, r.dramByte a = s.dramByte a)
                ∧ ∀ a, a / 128 = pa.toNat / 128 → r.lineBad a = true)

namespace Sys2Proof.Claims

/-- No stash owns a line: no access of another agent recalls one (R187). -/
def NoOwners (s : State) : Prop := ∀ line, (s.dirOf line).owner = none

/-- Every fault that waits has its entry, or is to become a trap: an entry that becomes free is not taken at once (R174). -/
def FaultsEntered (s : State) : Prop :=
  (∀ g ∈ s.groups, (∀ p, g.parked = some p → p.entry ≠ none ∨ p.convert = true) ∧ ∀ o ∈ g.ops, o.paused = none)
    ∧ ∀ c ∈ s.cores, (∀ r ∈ c.rays, ∀ va kind, r.phase ≠ .parked va kind) ∧ ∀ p ∈ c.parts, p.ladleFault = none

/-- What follows from a 256-byte context descriptor that ENABLE accepts (R50, R52, R105). -/
def DescAccepted (s : State) (v : Nat) : Prop :=
  let d := descOfBytes v
  d.trapEntry.toNat % 4 = 0 ∧ d.raceMode ≠ 3 ∧ 16 ≤ d.roundQ.toNat ∧ d.roundQ.toNat ≤ 1024 ∧ d.transRoot.toNat % 8192 = 0
    ∧ d.spillBase.toNat % 4096 = 0 ∧ d.spillStride.toNat % 4096 = 0 ∧ d.saveBase.toNat % 4096 = 0 ∧ d.cmdWinSize ≠ 0
    ∧ d.statusBase.toNat % 256 = 0 ∧ d.raceLogBase.toNat % 32 = 0 ∧ d.evVector ≠ 0 ∧ d.powerFloorW.toNat ≤ 320
    ∧ (∀ b, 832 ≤ b → b < 2048 → v.testBit b = false)
    ∧ (s.ctxs.map fun c => if c.st = .active then c.desc.coreShare.toNat else 0).sum + d.coreShare.toNat ≤ 96
    ∧ d.powerFloorW.toNat ≤ s.dev.capInForce.toNat
    ∧ (d.legacy = false → d.legacyFtz = false ∧ d.legacyRzCvt = false ∧ d.ratioLock = false)

/-- One write of a register and the event that it is (R47, R51, R54). -/
def writesAs (s : State) (c : BitVec 5) (q : BitVec 6) (v : Dword) : List (Instr × Instr) :=
  let o : BitVec 26 := BitVec.ofNat 26 (0x1000 + 64 * c.toNat)
  let f : BitVec 26 := BitVec.ofNat 26 (0x1008 + 64 * c.toNat)
  List.flatten [
    [(.registerWrite 0x28 false v, .capWWrite (v.extractLsb' 0 16)), (.registerWrite 0x3C false v, .evqHeadWrite (v.extractLsb' 0 16)),
      (.registerWrite (BitVec.ofNat 26 (0x2014 + 32 * q.toNat)) false v, .qtailDoorbell q (v.extractLsb' 0 20))],
    if v.getLsbD 0 then [(.registerWrite 0x10 false v, .acceptChannels)] else [],
    if v.extractLsb' 0 5 = s.dev.evqLog2 then [(.registerWrite 0x38 false v, .evqEnableWrite (v.getLsbD 31))] else [],
    if v.extractLsb' 0 5 = (s.queue q).log2 then
      [(.registerWrite (BitVec.ofNat 26 (0x2008 + 32 * q.toNat)) false v, if v.getLsbD 31 then .queueStart q else .queueStop q)] else [],
    if v.extractLsb' 0 3 = 1 then [(.registerWrite o false v, .enable c)]
    else if v.extractLsb' 0 3 = 2 then [(.registerWrite o false v, .disable c)]
    else if v.extractLsb' 0 3 = 3 then [(.registerWrite o false v, .halt c)]
    else if v.extractLsb' 0 3 = 4 then [(.registerWrite o false v, .resume c)] else [],
    if v.extractLsb' 0 2 = 1 then [(.registerWrite f true v, .faultReplay c (v.extractLsb' 32 32))]
    else if v.extractLsb' 0 2 = 2 then [(.registerWrite f true v, .faultConvertToTrap c (v.extractLsb' 32 32))] else []]

/-- The byte of BAR 2 at an offset lies in DRAM outside the generation store, on a line in service. -/
def apertureAt (s : State) (o pa : Nat) : Prop :=
  pa = s.dev.apertureBase.toNat / 2 ^ s.dev.bar2Log2 * 2 ^ s.dev.bar2Log2 + o ∧ pa < Config.genBase ∧ s.lineBad pa = false
    ∧ s.paHeld pa = false

end Sys2Proof.Claims

/-- O57. Register writes, the aperture, the MSI-X table, context commands and fault answers act on the state as their rules say. -/
def Obligations.HostAccessResults : Prop :=
  (∀ (s : State) (c : BitVec 5) (q : BitVec 6) (v : Dword), s.served = true →
      (∀ p ∈ Sys2Proof.Claims.writesAs s c q v, exec p.1 s = exec p.2 { s with host := { s.host with unsupported := false } })
      ∧ (∀ (o : BitVec 26) (w : Bool), o.toNat % (if w then 8 else 4) ≠ 0 →
          exec (.registerWrite o w v) s = .next { s with host := { s.host with unsupported := true } })
      ∧ (∀ o : BitVec 26, 0x12000 ≤ o.toNat → o.toNat % 4 = 0 →
          ∃ r, exec (.registerWrite o false v) s = .next r ∧ Sys2Proof.Claims.Logged s r 5 o.toNat ∧ r.ctxs = s.ctxs ∧ r.queues = s.queues ∧ r.groups = s.groups)
      ∧ exec (.registerWrite 0x18 true v) s = .next { s with dev := { s.dev with apertureBase := v.extractLsb' 0 48 }, host := { s.host with unsupported := false } }
      ∧ (v.toNat % 2 ^ 48 / 8192 * 8192 ≠ s.dev.ctxTable.toNat →
          ((∀ x ∈ s.ctxs, x.st = .off) → ∃ r, exec (.registerWrite 0x20 true v) s = .next r ∧ r.dev.ctxTable.toNat = v.toNat % 2 ^ 48 / 8192 * 8192)
          ∧ ((∃ x ∈ s.ctxs, x.st ≠ .off) → ∃ r, exec (.registerWrite 0x20 true v) s = .next r ∧ Sys2Proof.Claims.Logged s r 5 0x20
              ∧ r.dev.ctxTable = s.dev.ctxTable))
      ∧ (∀ k, k < 3 → (∀ x ∈ s.ctxs, x.st = .off) →
          ∃ r, exec (.registerWrite (BitVec.ofNat 26 (0x60 + 4 * k)) false v) s = .next r
            ∧ ∀ b, b < 96 → r.dev.coreExclude.getLsbD b = if b / 32 = k then v.getLsbD (b % 32) else s.dev.coreExclude.getLsbD b))
    ∧ (∀ (s : State) (v : BitVec 16) (e : Bool), s.served = true →
        exec (.capWWrite v) s = .next { s with dev := { s.dev with capW := v, capPending := true },
                                               fcp := { s.fcp with capReqs := s.fcp.capReqs ++ [{ src := none, cap := v, floor := 0xFFFF }] } }
        ∧ (2 ^ s.dev.evqLog2.toNat ≤ v.toNat →
            ∃ r, exec (.evqHeadWrite v) s = .next r ∧ Sys2Proof.Claims.Logged s r 5 0x3C ∧ r.dev.evqHead = s.dev.evqHead)
        ∧ (v.toNat < 2 ^ s.dev.evqLog2.toNat →
            ∃ r, exec (.evqHeadWrite v) s = .next r ∧ Sys2Proof.Claims.Drains { s with dev := { s.dev with evqHead := v } } r ∧ r.dev.evqHead = v)
        ∧ ∃ r, exec (.evqEnableWrite e) s = .next r ∧ Sys2Proof.Claims.Drains { s with dev := { s.dev with evqEnable := e } } r ∧ r.dev.evqEnable = e)
    ∧ (∀ (s : State) (o : BitVec 16) (v : Word) (m : MsixEntry), s.served = true → o.toNat % 4 = 0 → o.toNat < 1024 →
        s.dev.msix[o.toNat / 16]? = some m →
        ∃ r x, exec (.msixTableWrite o v) s = .next r ∧ r.dev.msix[o.toNat / 16]? = some x ∧ (∀ j, j ≠ o.toNat / 16 → r.dev.msix[j]? = s.dev.msix[j]?)
          ∧ x.addr.extractLsb' 0 32 = (if o.toNat % 16 = 0 then v else m.addr.extractLsb' 0 32)
          ∧ x.addr.extractLsb' 32 32 = (if o.toNat % 16 = 4 then v else m.addr.extractLsb' 32 32)
          ∧ x.data = (if o.toNat % 16 = 8 then v else m.data) ∧ x.masked = (if o.toNat % 16 = 12 then v.getLsbD 0 else m.masked)
          ∧ (m.pending = true → x.masked = false → x.pending = false ∧ r.host.msixSent = s.host.msixSent ++ [(x.addr, x.data)])
          ∧ (m.pending = false ∨ x.masked = true → x.pending = m.pending ∧ r.host.msixSent = s.host.msixSent))
    ∧ (∀ (s : State) (o : BitVec 37) (n : BitVec 8) (bs : List Byte), s.served = true → n ≠ 0 → bs.length = n.toNat →
        o.toNat + n.toNat ≤ 2 ^ s.dev.bar2Log2 →
        (s.dev.ready = false →
          (∃ r, exec (.apertureRead o n) s = .next r ∧ r.host.readData = List.replicate n.toNat 0xFF ∧ Sys2Proof.Claims.Logged s r 6 (s.dev.bar2.toNat + o.toNat) ∧ SameMemory s r)
          ∧ ∃ r, exec (.apertureWrite o bs) s = .next r ∧ Sys2Proof.Claims.Logged s r 6 (s.dev.bar2.toNat + o.toNat) ∧ SameMemory s r)
        ∧ (s.dev.ready = true → Sys2Proof.Claims.NoOwners s → ∀ pa : Nat → Nat, (∀ j, j < n.toNat → Sys2Proof.Claims.apertureAt s (o.toNat + j) (pa j)) →
            (∃ r, exec (.apertureRead o n) s = .next r ∧ r.host.readData = (List.range n.toNat).map (fun j => s.dramByte (pa j)) ∧ r.host.poisoned = false
              ∧ SameMemory s r)
            ∧ ∃ r, exec (.apertureWrite o bs) s = .next r ∧ (∀ j, j < n.toNat → r.dramByte (pa j) = bs.getD j 0)
                ∧ ∀ a, a < Config.genBase → (∀ j, j < n.toNat → a ≠ pa j) → r.dramByte a = s.dramByte a))
    ∧ (∀ (s : State) (q : BitVec 6) (v : BitVec 20), s.served = true → q.toNat < s.queues.length →
        ((s.ctx (queueCtx q)).st = .active → s.dev.ready = true → (s.queue q).unread = 0 → (s.queue q).enable = false ∨ (s.queue q).st = .halted →
          ∃ r, exec (.queueStart q) s = .next r ∧ r.queue q = { s.queue q with enable := true, st := .running } ∧ ∀ p, p ≠ q → r.queue p = s.queue p)
        ∧ ((s.queue q).enable = true → (s.queue q).st ≠ .halted → exec (.queueStart q) s = .next s)
        ∧ ((s.ctx (queueCtx q)).st ≠ .active ∨ s.dev.ready = false → (s.queue q).enable = true → exec (.queueStart q) s = .next s)
        ∧ ((s.ctx (queueCtx q)).st ≠ .active ∨ s.dev.ready = false → (s.queue q).enable = false →
            ∃ r, exec (.queueStart q) s = .next r ∧ Sys2Proof.Claims.Logged s r 5 (0x2008 + 32 * q.toNat) ∧ r.queues = s.queues)
        ∧ (∃ r, exec (.queueStop q) s = .next r ∧ (r.queue q).enable = false
            ∧ (r.queue q).st = (if (s.queue q).running = [] ∧ (s.queue q).sem = none then .off else (s.queue q).st)
            ∧ ∀ p, p ≠ q → r.queue p = s.queue p)
        ∧ ∃ r, exec (.qtailDoorbell q v) s = .next r ∧ (r.queue q).tail = BitVec.ofNat 20 (v.toNat % 2 ^ (s.queue q).log2.toNat / 8 * 8)
            ∧ (r.queue q).done = (s.queue q).done ∧ ∀ p, p ≠ q → r.queue p = s.queue p)
    ∧ (∀ (s : State) (c : BitVec 5), c.toNat < s.ctxs.length →
        let pa := s.dev.ctxTable.toNat + 256 * c.toNat
        let code := s.enableRefusal c (s.physNat pa 256)
        (∀ i ∈ [Instr.enable c, .halt c, .resume c, .disable c], s.served = false → exec i s = .next s)
        ∧ (∀ i ∈ [Instr.enable c, .halt c, .resume c, .disable c], s.served = true →
          ((i = .enable c ∧ ((s.ctx c).st ≠ .off ∨ s.dev.ready = false)) ∨ (i = .halt c ∧ (s.ctx c).st ≠ .active)
            ∨ (i = .resume c ∧ (s.ctx c).st ≠ .halted) ∨ (i = .disable c ∧ (s.ctx c).st ≠ .active ∧ (s.ctx c).st ≠ .halted)) →
          ∃ r, exec i s = .next r ∧ Sys2Proof.Claims.Logged s r 5 (0x1000 + 64 * c.toNat) ∧ r.ctxs = s.ctxs ∧ r.groups = s.groups)
        ∧ (s.served = true → (s.ctx c).st = .off → s.dev.ready = true → ∃ r, exec (.enable c) s = .next r ∧ (∀ d, d ≠ c → r.ctx d = s.ctx d)
            ∧ (code ≠ 0 → (r.ctx c).st = .off ∧ (r.ctx c).refusal.toNat = code ∧ code ≤ 6)
            ∧ (s.physNat pa 256 = none → code = 1)
            ∧ (code = 0 → ∃ v, s.physNat pa 256 = some v ∧ (r.ctx c).st = .active ∧ (r.ctx c).desc = descOfBytes v
                ∧ (r.ctx c).status = Status.reset ∧ (r.ctx c).frame = none ∧ (r.ctx c).recTrace = none ∧ Sys2Proof.Claims.DescAccepted s v))
        ∧ (s.served = true → (s.ctx c).st = .active → ∃ r, exec (.halt c) s = .next r ∧ r.ctx c = { s.ctx c with st := .halted } ∧ r.groups = s.groups)
        ∧ (s.served = true → (s.ctx c).st = .halted → ∃ r, exec (.resume c) s = .next r ∧ r.ctx c = { s.ctx c with st := .active } ∧ r.queues = s.queues)
        ∧ (s.served = true → (s.ctx c).st = .active ∨ (s.ctx c).st = .halted → ∃ r, exec (.disable c) s = .next r ∧ r.ctx c = { s.ctx c with st := .ending }
            ∧ r.groups = s.groups.map fun g => if g.ctx = c then { g with stopped := true } else g)
        ∧ ((s.ctx c).st = .ending → (s.groups.map (·.uid)).Nodup → (∀ g ∈ s.groups, g.ctx = c → g.ops = []) →
            ∃ r, exec (.contextEnded c) s = .next r ∧ (r.ctx c).st = .off ∧ (∀ q, queueCtx q = c → (r.queue q).st = .off ∧ (r.queue q).running = [])
              ∧ (∀ g ∈ r.groups, g.ctx ≠ c) ∧ (∀ t ∈ r.teams, t.ctx ≠ c) ∧ (∀ l ∈ r.launches, l.ctx ≠ c) ∧ ∀ e ∈ r.slices.memo, e.2.ctx ≠ c))
    ∧ ∀ (s : State) (c : BitVec 5) (id : Word), Sys2Proof.Claims.FaultsEntered s →
        (s.served = true → (∀ e ∈ s.fcp.faults, ¬ (e.ctx = c ∧ e.id = id ∧ e.posted = true)) → ∀ i ∈ [Instr.faultReplay c id, .faultConvertToTrap c id],
          ∃ r, exec i s = .next r ∧ Sys2Proof.Claims.Logged s r 5 (0x1008 + 64 * c.toNat) ∧ r.groups = s.groups ∧ r.fcp.faults = s.fcp.faults)
        ∧ (s.served = true → (∃ e ∈ s.fcp.faults, e.ctx = c ∧ e.id = id ∧ e.posted = true) →
            (∃ r, exec (.faultReplay c id) s = .next r ∧ (∀ e ∈ r.fcp.faults, e.id ≠ id)
              ∧ ∀ u g p, s.group u = some g → g.parked = some p → g.ctx = c →
                  r.group u = some { g with parked := if p.entry = some id then none else some p })
            ∧ ∃ r, exec (.faultConvertToTrap c id) s = .next r ∧ (∀ e ∈ r.fcp.faults, e.id ≠ id)
              ∧ ∀ u g p, s.group u = some g → g.parked = some p → g.ctx = c →
                  r.group u = some { g with parked := some (if p.entry = some id then { p with entry := none, convert := true } else p) })
        ∧ ∀ e ∈ s.fcp.faults, e.id = id → e.posted = false → (∀ x ∈ s.fcp.faults, x.id = id → x = e) →
            (s.walkHelps e = true → ∃ r, exec (.faultEntryWalk id) s = .next r ∧ (∀ x ∈ r.fcp.faults, x.id ≠ id)
              ∧ ∀ u g p, s.group u = some g → g.parked = some p → g.ctx = e.ctx → p.entry = some id → r.group u = some { g with parked := none })
            ∧ (s.walkHelps e = false → ∃ r, exec (.faultEntryWalk id) s = .next r ∧ r.groups = s.groups
                ∧ { e with posted := true } ∈ r.fcp.faults
                ∧ Sys2Proof.Claims.Posted (State.updateStatus { s with fcp := { s.fcp with faults := s.fcp.faults.map fun x =>
                      if x.id = id then { x with posted := true } else x } } e.ctx) r
                    { type := 9, code := e.kind, queue := e.queue, ctx := e.ctx.setWidth 8, d0 := e.id.setWidth 64, d1 := e.va.setWidth 64,
                      d2 := BitVec.ofNat 64 (e.kind.toNat + 2 ^ 8 * e.agent.toNat + 2 ^ 16 * e.core.toNat) })

namespace Sys2Proof.Claims

/-- A packet stands at QHEAD, all of it before QTAIL, its header in order, and it may start: its fence is passed and no urgent packet of
its context is ready (R54, R57 to R59). -/
def AtHead (s : State) (q : BitVec 6) (hdr : Nat) : Prop :=
  s.headOf q = .packet hdr ∧ s.mayStart q hdr = true
    ∧ s.ownHeld (queueCtx q) ((s.queue q).base.toNat + (s.queue q).head.toNat) (8 * (hdr / 2 ^ 8 % 2 ^ 8)) = false

/-- QHEAD has passed the packet (R54). -/
def Passed (s r : State) (q : BitVec 6) (hdr : Nat) : Prop :=
  (r.queue q).head = BitVec.ofNat 20 (((s.queue q).head.toNat + 8 * (hdr / 2 ^ 8 % 2 ^ 8)) % 2 ^ (s.queue q).log2.toNat)

/-- The packet has started and completed: QHEAD has passed it, and QDONE counts it (R54, R56). -/
def PacketDone (s r : State) (q : BitVec 6) (hdr : Nat) : Prop :=
  Passed s r q hdr ∧ (r.queue q).done = (s.queue q).done + 1 ∧ (r.queue q).st = .running ∧ ∀ p, p ≠ q → r.queue p = s.queue p

/-- The queue has halted at the packet: HALT_CAUSE, QHEAD at its first byte, an error record (R62). -/
def HaltedAt (s r : State) (q : BitVec 6) (cause : Nat) : Prop :=
  (r.queue q).st = .halted ∧ (r.queue q).cause = BitVec.ofNat 8 cause ∧ (r.queue q).head = (s.queue q).head ∧ (r.queue q).done = (s.queue q).done
    ∧ (∀ p, p ≠ q → r.queue p = s.queue p) ∧ r.launches = s.launches

/-- The ten packet events of a queue. -/
def packets (q : BitVec 6) : List Instr :=
  [.nopPacket q, .launch q, .semSignal q, .semWait q, .setState q, .frameMark q, .memoFlushPacket q, .traceRecord q, .traceReplay q, .power q]

/-- The descriptor with key set to v, with how many bits its VALUE has (R57). -/
def setKeys (d : Desc) (v : Nat) : List (Nat × Nat × Desc) :=
  [(1, 49, { d with trapEntry := BitVec.ofNat 49 v }), (2, 2, { d with verifyRate := BitVec.ofNat 2 v }), (3, 11, { d with roundQ := BitVec.ofNat 11 v }),
   (4, 2, { d with raceMode := BitVec.ofNat 2 v }), (5, 1, { d with hazardCheck := v.testBit 0 }), (6, 1, { d with purityCheck := v.testBit 0 }),
   (7, 4, { d with ratioLock := v.testBit 3, ratioSet := BitVec.ofNat 3 v }), (8, 3, { d with priority := BitVec.ofNat 3 v })]

/-- The ranges that SET_STATE checks (R50, R57). -/
def stateFits (d : Desc) : Prop :=
  d.trapEntry.toNat % 4 = 0 ∧ d.raceMode ≠ 3 ∧ 16 ≤ d.roundQ.toNat ∧ d.roundQ.toNat ≤ 1024
    ∧ (d.legacy = true ∨ (d.legacyFtz = false ∧ d.legacyRzCvt = false ∧ d.ratioLock = false))

/-- n bytes at va lie in the command window of the queue's context (R61). -/
def windowed (s : State) (q : BitVec 6) (va n : Nat) : Prop :=
  (s.ctx (queueCtx q)).desc.cmdWinBase.toNat ≤ va
    ∧ va + n ≤ (s.ctx (queueCtx q)).desc.cmdWinBase.toNat + (s.ctx (queueCtx q)).desc.cmdWinSize.toNat

/-- The part reads v from n bytes at va for the queue's context, at once. -/
def reads (s : State) (q : BitVec 6) (va n v : Nat) : Prop := s.ownHeld (queueCtx q) va n = false ∧ s.ownRead (queueCtx q) va n = .ok v

/-- A launch's replayed segment, code identity and coverage state, as read at its start (R91, R248, R271). -/
def LaunchReads (s : State) (q : BitVec 6) (d : LDesc) (seg : Option (List (Nat × Nat))) (code : Option (Dword × Word)) (cov : Option Cover) : Prop :=
  ((d.treplay = false ∧ seg = none)
      ∨ ∃ t x cur, d.treplay = true ∧ (s.ctx (queueCtx q)).repTrace = some t ∧ s.readSegment (queueCtx q) d t = .ok x cur ∧ seg = some x)
    ∧ ((d.codeDesc = 0 ∧ code = none)
      ∨ ∃ u, d.codeDesc ≠ 0 ∧ reads s q d.codeDesc.toNat 64 u ∧ codeDescOk u = true ∧ code = some (codeDescId u))
    ∧ ((d.coverEn = false ∧ cov = none)
      ∨ ∃ u w c f, d.coverEn = true ∧ reads s q d.ctrlRec.toNat 64 u ∧ reads s q d.outSurf.toNat 32 w ∧ surfaceOf w = some f
          ∧ coverOf d { base := 0, rowPitch := 0, slicePitch := 0, depth := 0, height := 0, width := 0, fmt := 0 } u = some c
          ∧ cov = some { c with surf := f })

end Sys2Proof.Claims

namespace Sys2Proof.Claims

/-- How a queue reads the packet at QHEAD: checks of its LEN, of its end, of its header (R54, R57, R61, R62). -/
def HeadsOfQueues : Prop :=
  ∀ (s : State) (q : BitVec 6) (h : Nat), s.mayRead q = true →
  s.ownRead (queueCtx q) ((s.queue q).base.toNat + (s.queue q).head.toNat) 8 = .ok h →
  let len := h / 2 ^ 8 % 2 ^ 8
  let over_ := 2 ^ (s.queue q).log2.toNat < (s.queue q).head.toNat + 8 * len
  (over_ → ∀ i ∈ packets q, ∃ r, exec i s = .next r ∧ HaltedAt s r q 1)
  ∧ (¬ over_ → (s.queue q).unread < 8 * len → ∀ i ∈ packets q, ∃ r, exec i s = .next r ∧ (r.queue q).head = (s.queue q).head
      ∧ (r.queue q).done = (s.queue q).done ∧ r.launches = s.launches)
  ∧ (¬ over_ → 8 * len ≤ (s.queue q).unread → (9 < h % 2 ^ 8 ∨ h / 2 ^ 18 % 2 ^ 14 ≠ 0 ∨ (h % 2 ^ 8 = 1 ∧ len ≠ 2) ∨ (h % 2 ^ 8 = 3 ∧ len ≠ 4)) →
      ∀ i ∈ packets q, ∃ r, exec i s = .next r ∧ HaltedAt s r q 2)

/-- A fenced packet waits for those that run, and a normal queue for a packet of its urgent one (R56, R59). -/
def PacketsWait : Prop :=
  ∀ (s : State) (q : BitVec 6) (hdr : Nat), s.headOf q = .packet hdr →
    (hdr.testBit 16 = true ∧ (s.queue q).running ≠ [] ∨ (q.getLsbD 0 = false ∧ ∃ h, s.headOf (q + 1) = .packet h ∧ (s.queue (q + 1)).running = [])) →
    ∀ i ∈ packets q, ∃ r, exec i s = .next r ∧ (r.queue q).head = (s.queue q).head ∧ (r.queue q).done = (s.queue q).done
      ∧ r.launches = s.launches

/-- A waiting SEM_WAIT ends at the reread that finds its condition (R60). -/
def SemaphorePolls : Prop :=
  ∀ (s : State) (q : BitVec 6) (w : SemWait) (m : Nat), (s.queue q).sem = some w → (s.queue q).st = .running → NoOwners s →
    reads s q w.addr.toNat 8 m →
    let x := BitVec.ofNat 64 m &&& w.mask
    let holds := (w.cond = 0 ∧ x = w.value) ∨ (w.cond = 1 ∧ x ≠ w.value) ∨ (2 ≤ w.cond.toNat ∧ w.value.toNat ≤ x.toNat)
    (holds → ∃ r, exec (.semWaitPoll q) s = .next r ∧ (r.queue q).sem = none ∧ (r.queue q).done = (s.queue q).done + 1
      ∧ ∀ p, p ≠ q → r.queue p = s.queue p)
    ∧ (¬ holds → exec (.semWaitPoll q) s = .next s)

/-- A launch leaves when all that it started is done with (R58, R134). -/
def LaunchesComplete : Prop :=
  ∀ (s : State) (l : Launch), s.launch l.uid = some l → l.queue.toNat < s.queues.length →
    (s.launchDone l = true → s.endHeld l = false → ∃ r, exec (.launchComplete l.uid) s = .next r ∧ r.launch l.uid = none
      ∧ (r.queue l.queue).done = (s.queue l.queue).done + 1 ∧ ∀ u, u ≠ l.uid → r.launch u = s.launch u)
    ∧ ((l.nextTeam ≠ l.ld.teams ∧ l.segment = none ∨ l.returned ≠ [] ∨ s.endHeld l = true ∨ (∃ t ∈ s.teams, t.launch = l.uid) ∨ (∃ g ∈ s.groups, g.launch = l.uid)) →
        exec (.launchComplete l.uid) s = .next s)

/-- NOP (R57). -/
def NopDone (s : State) (q : BitVec 6) (hdr : Nat) : Prop :=
  hdr % 2 ^ 8 = 0 → ∃ r, exec (.nopPacket q) s = .next r ∧ PacketDone s r q hdr ∧ r.launches = s.launches ∧ r.groups = s.groups

/-- MEMO_FLUSH (R252). -/
def MemoFlushDone (s : State) (q : BitVec 6) (hdr : Nat) : Prop :=
  hdr % 2 ^ 8 = 6 → ∃ r, exec (.memoFlushPacket q) s = .next r ∧ PacketDone s r q hdr
      ∧ (∀ e ∈ r.slices.memo, e.2.ctx ≠ queueCtx q)
      ∧ (s.slices.memoMsgs = [] → ∀ e, e ∈ r.slices.memo ↔ e ∈ s.slices.memo ∧ e.2.ctx ≠ queueCtx q)

/-- SET_STATE: one of eight keys in range, else a packet error (R57). -/
def SetStateDone (s : State) (q : BitVec 6) (hdr : Nat) : Prop :=
  ∀ key v, hdr % 2 ^ 8 = 4 → s.payload q 2 = .ok [key, v] → (queueCtx q).toNat < s.ctxs.length →
      (∀ x ∈ setKeys (s.ctx (queueCtx q)).desc v, x.1 = key →
        (v < 2 ^ x.2.1 → stateFits x.2.2 →
          ∃ r, exec (.setState q) s = .next r ∧ PacketDone s r q hdr ∧ (r.ctx (queueCtx q)).desc = x.2.2)
        ∧ ((2 ^ x.2.1 ≤ v ∨ ¬ stateFits x.2.2) →
          ∃ r, exec (.setState q) s = .next r ∧ HaltedAt s r q 2 ∧ (r.ctx (queueCtx q)).desc = (s.ctx (queueCtx q)).desc))
      ∧ (key = 0 ∨ 8 < key → ∃ r, exec (.setState q) s = .next r ∧ HaltedAt s r q 2 ∧ (r.ctx (queueCtx q)).desc = (s.ctx (queueCtx q)).desc)

/-- FRAME_MARK (R266). -/
def FrameMarkDone (s : State) (q : BitVec 6) (hdr : Nat) : Prop :=
  ∀ f cur prev n, hdr % 2 ^ 8 = 5 → s.payload q 4 = .ok [f, cur, prev, n] → (queueCtx q).toNat < s.ctxs.length →
      f < 2 ^ 32 → cur < 2 ^ 49 → prev < 2 ^ 49 → n < 2 ^ 32 → cur ≠ 0 → cur % 64 = 0 → prev % 64 = 0 → n ≠ 0 → n % 32 = 0 →
      prev = 0 ∨ cur + n ≤ prev ∨ prev + n ≤ cur → windowed s q cur n → prev = 0 ∨ windowed s q prev n →
      ∃ r, exec (.frameMark q) s = .next r ∧ PacketDone s r q hdr
        ∧ (r.ctx (queueCtx q)).frame = some { frame := BitVec.ofNat 32 f, cur := BitVec.ofNat 49 cur, prev := BitVec.ofNat 49 prev, bytes := BitVec.ofNat 32 n }

/-- TRACE_RECORD and TRACE_REPLAY (R90). -/
def TracesOpened (s : State) (q : BitVec 6) (hdr : Nat) : Prop :=
  ∀ buf n, s.payload q 2 = .ok [buf, n] → (queueCtx q).toNat < s.ctxs.length → buf < 2 ^ 49 → buf % 64 = 0 → 64 ≤ n → n < 2 ^ 32 →
      windowed s q buf n →
      (hdr % 2 ^ 8 = 7 → NoOwners s → s.ownHeld (queueCtx q) buf 64 = false → (∃ s1, s.ownWrite (queueCtx q) buf 0 64 = .ok s1) →
        ∃ r, exec (.traceRecord q) s = .next r ∧ PacketDone s r q hdr
          ∧ (r.ctx (queueCtx q)).recTrace = some { buf := BitVec.ofNat 49 buf, size := BitVec.ofNat 32 n, entries := 0, overflow := false, launches := 0 })
      ∧ (hdr % 2 ^ 8 = 8 → ∃ r, exec (.traceReplay q) s = .next r ∧ PacketDone s r q hdr
          ∧ (r.ctx (queueCtx q)).repTrace = some { buf := BitVec.ofNat 49 buf, size := BitVec.ofNat 32 n, cursor := 0 })

/-- POWER: it completes at the period boundary (R105). -/
def PowerAsked (s : State) (q : BitVec 6) (hdr : Nat) : Prop :=
  ∀ w, hdr % 2 ^ 8 = 9 → s.payload q 1 = .ok [w] → w < 2 ^ 32 →
      ∃ r, exec (.power q) s = .next r ∧ Passed s r q hdr ∧ (r.queue q).done = (s.queue q).done
        ∧ r.fcp.capReqs = s.fcp.capReqs ++ [{ src := some (q, (s.queue q).head), cap := BitVec.ofNat 16 w, floor := BitVec.ofNat 16 (w / 2 ^ 16) }]
        ∧ ∃ x ∈ (r.queue q).running, x.off = (s.queue q).head ∧ x.what = .power

/-- SEM_SIGNAL: it writes or adds, inside the command window (R60, R61). -/
def SemaphoreSignalled (s : State) (q : BitVec 6) (hdr : Nat) : Prop :=
  ∀ w1 w2 old s2, hdr % 2 ^ 8 = 2 → s.payload q 2 = .ok [w1, w2] → w1 / 2 ^ 49 % 2 ^ 13 = 0 → w1 / 2 ^ 62 ≤ 1 → w1 % 8 = 0 →
      let va := w1 % 2 ^ 49
      NoOwners s → (w1 / 2 ^ 62 = 1 → ∀ t, s.translate (queueCtx q) va .read = .ok t → t.pa < Config.hostWindow) →
      (windowed s q va 8 → reads s q va 8 old →
        s.ownWrite (queueCtx q) va (if w1 / 2 ^ 62 = 0 then w2 else (old + w2) % 2 ^ 64) 8 = .ok s2 → (∀ x, ((s2.queue x).sem = none)) →
        ∃ r, exec (.semSignal q) s = .next r ∧ PacketDone s r q hdr ∧ r.groups = s.groups
          ∧ r = (s2.passHead q 3).completePkt q (s.queue q).head (BitVec.ofNat 32 (hdr / 2 ^ 32)) (hdr.testBit 17))
      ∧ (¬ windowed s q va 8 → ∃ r, exec (.semSignal q) s = .next r ∧ HaltedAt s r q 1)

/-- SEM_WAIT: it completes at once, or waits (R60). -/
def SemaphoreWaited (s : State) (q : BitVec 6) (hdr : Nat) : Prop :=
  ∀ w1 v mask m, hdr % 2 ^ 8 = 3 → s.payload q 3 = .ok [w1, v, mask] → w1 / 2 ^ 49 % 2 ^ 13 = 0 → w1 / 2 ^ 62 ≤ 2 → w1 % 8 = 0 →
      let va := w1 % 2 ^ 49
      let op := w1 / 2 ^ 62
      let holds := (op = 0 ∧ m &&& mask = v) ∨ (op = 1 ∧ m &&& mask ≠ v) ∨ (op = 2 ∧ v ≤ m &&& mask)
      NoOwners s → windowed s q va 8 → reads s q va 8 m →
      (holds → ∃ r, exec (.semWait q) s = .next r ∧ PacketDone s r q hdr)
      ∧ (¬ holds → ∃ r, exec (.semWait q) s = .next r ∧ Passed s r q hdr ∧ (r.queue q).done = (s.queue q).done
          ∧ (r.queue q).sem = some { off := (s.queue q).head, tag := BitVec.ofNat 32 (hdr / 2 ^ 32), notify := hdr.testBit 17,
                                     cond := BitVec.ofNat 2 op, addr := BitVec.ofNat 49 va, value := BitVec.ofNat 64 v, mask := BitVec.ofNat 64 mask })

/-- LAUNCH: a launch with what it read at its start, or a packet error (R58, R71, R72). -/
def LaunchStarted (s : State) (q : BitVec 6) (hdr : Nat) : Prop :=
  ∀ va v, hdr % 2 ^ 8 = 1 → s.payload q 1 = .ok [va] → va < 2 ^ 49 → va % 256 = 0 → windowed s q va 256 →
      NoOwners s → reads s q va 256 v →
      let d := ldescOfBytes (BitVec.ofNat 49 va) v
      ((∃ f, s.launchRefusal (s.ctx (queueCtx q)) d v = some f) → ∃ r, exec (.launch q) s = .next r ∧ HaltedAt s r q 2)
      ∧ (∀ seg code cov, s.launchRefusal (s.ctx (queueCtx q)) d v = none → s.traceHeld (queueCtx q) d.trec = false → LaunchReads s q d seg code cov →
          ∃ r l, exec (.launch q) s = .next r ∧ r.launches = s.launches ++ [l] ∧ l.uid = s.sched.nextUid ∧ l.ctx = queueCtx q ∧ l.queue = q ∧ l.ld = d
            ∧ l.desc = (s.ctx (queueCtx q)).desc ∧ l.frame = (s.ctx (queueCtx q)).frame ∧ l.segment = seg ∧ l.code = code ∧ l.cover = cov ∧ l.nextTeam = 0 ∧ l.exited = 0
            ∧ l.off = (s.queue q).head ∧ (∀ c ∈ r.cores, c.icache = [] ∧ ∀ p ∈ c.parts, ∀ x ∈ p.tlb, x.ctx ≠ queueCtx q)
            ∧ (∀ x ∈ r.slices.tlb, x.2.ctx ≠ queueCtx q) ∧ Passed s r q hdr ∧ (r.queue q).done = (s.queue q).done
            ∧ ∃ x ∈ (r.queue q).running, x.off = (s.queue q).head ∧ x.what = .launch l.uid)

end Sys2Proof.Claims

/-- O58. Packets are read, checked, started and completed in order, and each has its effect. -/
def Obligations.QueueAndPacketResults : Prop :=
  Sys2Proof.Claims.HeadsOfQueues ∧ Sys2Proof.Claims.PacketsWait ∧ Sys2Proof.Claims.SemaphorePolls ∧ Sys2Proof.Claims.LaunchesComplete
    ∧ ∀ (s : State) (q : BitVec 6) (hdr : Nat), Sys2Proof.Claims.AtHead s q hdr →
      Sys2Proof.Claims.NopDone s q hdr
        ∧ Sys2Proof.Claims.MemoFlushDone s q hdr
        ∧ Sys2Proof.Claims.SetStateDone s q hdr
        ∧ Sys2Proof.Claims.FrameMarkDone s q hdr
        ∧ Sys2Proof.Claims.TracesOpened s q hdr
        ∧ Sys2Proof.Claims.PowerAsked s q hdr
        ∧ Sys2Proof.Claims.SemaphoreSignalled s q hdr
        ∧ Sys2Proof.Claims.SemaphoreWaited s q hdr
        ∧ Sys2Proof.Claims.LaunchStarted s q hdr

namespace Sys2Proof.Claims

/-- The class steps of R95, lowest first, with the step below and the step above each. -/
def steps : List (Nat × Nat × Nat) := [(640, 640, 880), (880, 640, 1120), (1120, 880, 1320), (1320, 1120, 1320)]

/-- What a governor period leaves of clocks, ceilings and voltage (R42, R95, R96, R102, R103). -/
def PeriodSets (s r : State) (temps : List (BitVec 8)) : Prop :=
  r.gov.period = s.gov.period + 1 ∧ r.gov.temps = temps ∧ r.dev.capPending = false ∧ r.fcp.capReqs = [] ∧ (∀ c ∈ r.ctxs, c.credits = 0)
    ∧ (∀ k, k < s.cores.length → k < 96 → ∀ p ∈ steps, (s.core k).ceiling = p.1 →
        let t := (temps.getD (k / 24 * 6 + k % 12 / 2) 0).toNat
        let hot := ∃ j t', 24 ≤ j ∧ j < 32 ∧ temps[j]? = some t' ∧ 95 ≤ t'.toNat
        (95 ≤ t ∨ hot → (r.core k).ceiling = p.2.1) ∧ (t < 92 → ¬ hot → (r.core k).ceiling = p.2.2)
          ∧ (92 ≤ t → t < 95 → ¬ hot → (r.core k).ceiling = p.1))
    ∧ (∀ k, k < s.cores.length → k < 96 → (s.coreHasTeam k = false → (r.core k).clock = 0 ∧ (r.core k).grant = 0)
        ∧ (s.coreHasTeam k = true → (∀ l ∈ s.launches, l.desc.legacy = false) →
            (r.core k).clock % 20 = 0 ∧ (r.core k).clock ≤ (r.core k).ceiling ∧ (r.core k).clock ≤ classCeiling ((s.coreClass k).getD 0))
        ∧ (r.core k).grant ≤ 1023 ∧ voltageFor (r.core k).clock ≤ r.gov.vddCore)
    ∧ (r.gov.vddCore = 600 ∨ r.gov.vddCore = 680 ∨ r.gov.vddCore = 780 ∨ r.gov.vddCore = 880)
    ∧ ((∃ j t', j < 32 ∧ temps[j]? = some t' ∧ 100 ≤ t'.toNat) → r.boot.thermAlert = true)
    ∧ ((∀ j t', j < 32 → temps[j]? = some t' → t'.toNat < 97) → r.boot.thermAlert = false)
    ∧ (NoOwners s → r.teams = s.teams) ∧ r.groups = s.groups ∧ r.launches = s.launches

/-- The test of one request (R105): the cap in force, the floor of the asking context and the code of the last refusal after it. -/
def CapTested (s r : State) (q : CapReq) : Prop :=
  let floors := (s.ctxs.map fun c => if c.st = .off then 0 else c.desc.powerFloorW.toNat).sum
  let refused := fun code : Nat => r.dev.capInForce = s.dev.capInForce ∧ r.dev.lastRefusal.toNat = code
    ∧ ∀ c, (r.ctx c).desc = (s.ctx c).desc
  (q.src = none →
      (q.cap.toNat < 60 → refused 1) ∧ (60 ≤ q.cap.toNat → q.cap.toNat < floors → refused 2)
      ∧ (60 ≤ q.cap.toNat → floors ≤ q.cap.toNat → 320 < q.cap.toNat → refused 3)
      ∧ (60 ≤ q.cap.toNat → floors ≤ q.cap.toNat → q.cap.toNat ≤ 320 → r.dev.capInForce = q.cap ∧ r.dev.lastRefusal = s.dev.lastRefusal))
    ∧ ∀ x off, q.src = some (x, off) → x.toNat < s.queues.length → (queueCtx x).toNat < s.ctxs.length →
      (q.cap ≠ 0 → (s.ctx (queueCtx x)).desc.powerAdmin = false → refused 4)
      ∧ (q.cap ≠ 0 → (s.ctx (queueCtx x)).desc.powerAdmin = true → q.floor = 0xFFFF → 60 ≤ q.cap.toNat → floors ≤ q.cap.toNat → q.cap.toNat ≤ 320 →
          r.dev.capInForce = q.cap ∧ r.dev.lastRefusal = s.dev.lastRefusal)
      ∧ (q.cap = 0 → q.floor ≠ 0xFFFF → (s.ctx (queueCtx x)).st = .active → s.ctxs.length = 32 →
          let sum := floors - (s.ctx (queueCtx x)).desc.powerFloorW.toNat + q.floor.toNat
          (s.dev.capInForce.toNat < sum → refused 2)
          ∧ (sum ≤ s.dev.capInForce.toNat → r.dev.capInForce = s.dev.capInForce ∧ (r.ctx (queueCtx x)).desc.powerFloorW = q.floor))
      ∧ ((∃ p ∈ (s.queue x).running, p.off = off) → (r.queue x).done = (s.queue x).done + 1 ∧ ∀ p ∈ (r.queue x).running, p.off ≠ off)

end Sys2Proof.Claims

/-- O59. A governor period, a core clock and the near-threshold and withholding events leave what the power rules say. -/
def Obligations.PowerResults : Prop :=
  (∀ (s : State) (temps : List (BitVec 8)) (w : Nat), s.boot.phase = .trained ∨ s.boot.phase = .training →
      (∃ j t, j < 32 ∧ temps[j]? = some t ∧ 120 ≤ t.toNat) →
      ∃ r, exec (.governorPeriod temps w) s = .next r ∧ Sys2Proof.Claims.Cleared r ∧ r.boot.phase = .tripped ∧ r.boot.thermTrip = true)
    ∧ (∀ (s : State) (temps : List (BitVec 8)) (w : Nat), s.boot.phase = .trained ∨ s.boot.phase = .training →
      (∀ j t, j < 32 → temps[j]? = some t → t.toNat < 120) →
      ∃ r, exec (.governorPeriod temps w) s = .next r ∧ Sys2Proof.Claims.PeriodSets s r temps
        ∧ (s.fcp.capReqs = [] → r.dev.capInForce = s.dev.capInForce ∧ r.dev.lastRefusal = s.dev.lastRefusal)
        ∧ ∀ q, s.fcp.capReqs = [q] → Sys2Proof.Claims.CapTested s r q)
    ∧ (∀ (s : State) (k : BitVec 7), k.toNat < 96 → k.toNat < s.cores.length →
        (s.coreHasTeam k.toNat = true →
          ∃ r, exec (.allowanceUpdate k) s = .next r
            ∧ (r.core k.toNat).allowance = min ((s.core k.toNat).allowance + (s.core k.toNat).grant - (s.core k.toNat).debits) (65535 * 16)
            ∧ (r.core k.toNat).debits = 0 ∧ (r.core k.toNat).clocks = (s.core k.toNat).clocks + 1
            ∧ (∀ j, j ≠ k.toNat → r.core j = s.core j)
            ∧ ∀ u g, s.group u = some g → g.core = k.toNat → s.onCore g = true → ∃ h, r.group u = some h ∧ (¬ ((∃ x ∈ g.rows, x.live = true) ∧ ∀ x ∈ g.rows, x.live = true → x.wait = .spawn) → h.spin = g.spin.map (· + 1))
                ∧ h.pclassNow = g.pclass ∧ h.rows = g.rows ∧ h.sregs = g.sregs ∧ h.vregs = g.vregs)
        ∧ (s.coreHasTeam k.toNat = false → (s.core k.toNat).bins = [] → (s.core k.toNat).rays = [] → (s.core k.toNat).debits = 0 → exec (.allowanceUpdate k) s = .next s))
    ∧ (∀ (s : State) (k : BitVec 7) (p : BitVec 2) (x : Part), k.toNat < 96 → k.toNat < s.cores.length → (s.core k.toNat).parts[p.toNat]? = some x →
        let n := (s.partGroups k.toNat p.toNat).length
        let blocked := ((s.partGroups k.toNat p.toNat).filter fun g =>
          g.rows.any (fun r => r.live) && g.rows.all fun r => !r.live || r.wait.onMem).length
        (x.windowStart + 4096 ≤ (s.core k.toNat).clocks →
          ∃ r y, exec (.nearThresholdWindow k p) s = .next r ∧ (r.core k.toNat).parts[p.toNat]? = some y ∧ y.windowStart = (s.core k.toNat).clocks
            ∧ y.windowIssues = 0
            ∧ (n = 0 → y.nearThreshold = false)
            ∧ (n ≠ 0 → (y.nearThreshold = true ↔ x.nearThreshold = true ∨ (x.windowIssues < 512 ∧ n < 2 * blocked)))
            ∧ r.groups = s.groups ∧ SameMemory s r)
        ∧ ((s.core k.toNat).clocks < x.windowStart + 4096 → exec (.nearThresholdWindow k p) s = .next s)
        ∧ ∃ r, exec (.nearThresholdExit k p) s = .next r ∧ (r.core k.toNat).parts[p.toNat]?
              = some (if x.vecReady.length = 8 ∧ x.vecReady.getLastD 0 < x.vecReady.headD 0 + 64 then { x with nearThreshold := false } else x)
            ∧ r.groups = s.groups ∧ SameMemory s r)
    ∧ ∀ (s : State) (c : BitVec 5) (k : BitVec 7), k.toNat < 96 → c.toNat < s.ctxs.length →
        (65536 ≤ sget 0 (s.ctx c).withheldFor k.toNat →
          ∃ r, exec (.withheldCompletely c k) s = .next r ∧ r.groups = s.groups
            ∧ ∀ b, b < 96 → (r.ctx c).withheldCores.getLsbD b = ((s.ctx c).withheldCores.getLsbD b || b == k.toNat))
        ∧ (sget 0 (s.ctx c).withheldFor k.toNat < 65536 → exec (.withheldCompletely c k) s = .next s)

namespace Sys2Proof.Claims

/-- Nothing of a team stays behind when it is quiet: no operation of its groups, no mapping, no line of its context in its core's L1. -/
def quietTeam (s : State) (t : Team) : Prop :=
  (∀ g ∈ s.groups, g.team = t.uid → g.ops = []) ∧ (∀ m ∈ t.maps, m = none) ∧ s.team t.uid = some t
    ∧ ∀ e ∈ (s.core t.core).l1, e.2.ctx ≠ t.ctx

/-- No number at or above the next fresh one is in use. -/
def freshNums (s : State) : Prop :=
  (∀ t ∈ s.teams, t.uid < s.sched.nextUid) ∧ ∀ g ∈ s.groups, g.uid < s.sched.nextUid ∧ g.team < s.sched.nextUid

/-- A core has room for one group with a base frame of n blocks (R76). -/
def roomFor (s : State) (core n : Nat) : Prop :=
  core < 96 ∧ s.dev.coreExclude.getLsbD core = false
    ∧ ∃ p, p < 4 ∧ n ≤ (s.freeBlocks core p).length ∧ ∃ k, k < 12 ∧ ∀ g ∈ s.partGroups core p, g.slot ≠ k

/-- A one-group team has started for some records: a lane is active exactly when it has a record, whose words are in v0 and on, and SPREC
is as given (R74, R130 to R132). -/
def WaveStarted (s r : State) (l : Launch) (core : Nat) (entry : Pc) (sprec : Word) (recs : List (List Word)) : Prop :=
  ∃ t ∈ r.teams, ∃ g ∈ r.groups, t.uid = s.sched.nextUid ∧ t.launch = l.uid ∧ t.ctx = l.ctx ∧ t.core = core ∧ t.index = none ∧ t.slots = []
    ∧ t.stashBytes = 0 ∧ g.team = t.uid ∧ g.core = core ∧ (g.row 0).live = true ∧ (g.row 0).pc = entry
    ∧ (∀ i, i < 96 → (g.row 0).mask.getLsbD i = decide (i < recs.length))
    ∧ (∀ i w, i < 96 → i < recs.length → w < (recs.getD i []).length → laneOf (g.vraw w) i = (recs.getD i []).getD w 0)
    ∧ g.sraw 7 = sprec

/-- GDIST starts the group of a full bin on a core with room, and the bin is free; without room it stays (R130). -/
def BinStarts (s r : State) (k b dest : Nat) (x : Bin) (l : Launch) : Prop :=
  (roomFor s dest l.ld.base → s.drains l.uid dest = false → s.ratioRuns l = true → WaveStarted s r l dest x.entry 0 (x.recs.map (·.words)) ∧ (r.core k).bins = (s.core k).bins.eraseIdx b)
    ∧ (¬ dest < 96 ∨ s.dev.coreExclude.getLsbD dest = true ∨ s.drains l.uid dest = true → ∃ y, (r.core k).bins[b]? = some y ∧ y.full = true ∧ y.recs = x.recs ∧ r.groups = s.groups)

/-- Every resident group of a launch spins, or is blocked in SPAWN, for 2^20 clocks (R82, R134). -/
def stalls (s : State) (l : Launch) (spawn : Bool) : Prop :=
  (∃ g ∈ s.groups, g.launch = l.uid ∧ s.onCore g = true)
    ∧ ∀ g ∈ s.groups, g.launch = l.uid → s.onCore g = true → if spawn then 2 ^ 20 ≤ g.spawnWait else ∃ n, g.spin = some n ∧ 2 ^ 20 ≤ n

/-- A launch stall has been posted: STALL of the status record, and the event STALL (R53, R64). -/
def StallPosted (s r : State) (l : Launch) (f : Launch → Launch) : Prop :=
  r.launch l.uid = some (f l) ∧ (r.ctx l.ctx).status.stall = true ∧ r.groups = s.groups ∧ (NoOwners s → r.teams = s.teams)
    ∧ Posted (State.updateStatus ((s.modLaunch l.uid f).modCtx l.ctx fun c => { c with status := { c.status with stall := true } }) l.ctx) r
        { type := 4, code := 0, queue := l.queue.setWidth 8, ctx := l.ctx.setWidth 8, d0 := l.ld.addr.setWidth 64, d1 := 0, d2 := 0 }

/-- TEAM_ADMISSION of a cluster of one team (R74, R76, R77). -/
def TeamAdmitted : Prop :=
  ∀ (s : State) (l : Launch) (k : Nat) (c : NextCluster), s.launch l.uid = some l → k < 96 → (s.core k).bins = [] → s.lockedLaunch = none →
    l.desc.legacy = false → freshNums s → l.cover = none → 1 ≤ l.ld.groups →
    let m : State := { s with gov := { s.gov with fabricClk := 1040, memRate := s.dev.memRate } }
    m.mayDispatch l = true → m.atBoundary l = true → m.savedFirst l = true → m.canAdmit k l.ld = true →
    (∀ b ∈ s.launches, b.uid ≠ l.uid → m.before b l = false ∨ m.wants b [k] = false) → m.traceHeld l.ctx l.recorded = false →
    m.nextCluster l 1 = some c → (∃ n, c.members = [(0, n)]) → m.preferred l c [k] = true →
    ∃ r t g l', exec (.teamAdmission l.uid [k]) s = .next r ∧ t ∈ r.teams ∧ g ∈ r.groups ∧ r.launch l.uid = some l'
      ∧ t.uid = s.sched.nextUid ∧ t.launch = l.uid ∧ t.ctx = l.ctx ∧ t.core = k ∧ t.index = some c.first ∧ t.clid = BitVec.ofNat 32 c.clid
      ∧ t.clsize = c.size ∧ t.st = .resident ∧ t.stashBytes = 256 * l.ld.stashBlk ∧ t.slots.length = l.ld.slots
      ∧ g.team = t.uid ∧ g.gid = 0 ∧ g.core = k ∧ (g.row 0).live = true ∧ (g.row 0).pc = l.ld.entryOf 0
      ∧ (∀ i, i < 96 → (g.row 0).mask.getLsbD i = decide (i < l.ld.lanes)) ∧ (∀ v, g.vraw v = zeroLanes) ∧ g.retired = 0
      ∧ (c.again = false → l'.nextTeam = max l.nextTeam (c.first + c.size) ∧ l'.nextClid = l.nextClid + 1)

/-- PREEMPTION of a cluster of one team: discarded, or it drains (R80, R84, R85). -/
def TeamPreempted : Prop :=
  ∀ (s : State) (t : Team) (ctx : Nat), (s.groups.map (·.uid)).Nodup → quietTeam s t → s.clusterOf t = [t] → s.mayPreempt ctx t = true →
    (∀ u ∈ s.teams, s.mayPreempt ctx u = true → s.preemptBefore u t = false) →
    let goes := t.index.isSome = true ∧ t.sideEffect = false ∧ t.discards < 2 ∧ ∃ l, s.launch t.launch = some l ∧ l.ld.idemp = true
    (goes → ∃ r l', exec (.preemption t.uid ctx) s = .next r ∧ r.team t.uid = none ∧ (∀ g ∈ r.groups, g.team ≠ t.uid)
        ∧ r.launch t.launch = some l' ∧ { first := t.first, size := t.clsize, clid := t.clid.toNat, members := [(t.index.getD 0 - t.first, t.discards + 1)] } ∈ l'.returned)
    ∧ (¬ goes → ∃ r, exec (.preemption t.uid ctx) s = .next r ∧ r.team t.uid = some { t with st := .draining (s.core t.core).clocks }
        ∧ r.groups = s.groups)

/-- DRAIN_LIMIT_EXPIRY of a cluster of one team: it is saved, or stays where no record fits (R85 to R87). -/
def TeamSaved : Prop :=
  ∀ (s : State) (t : Team) (l : Launch) (since : Nat), (s.groups.map (·.uid)).Nodup → quietTeam s t → s.clusterOf t = [t] → s.launch t.launch = some l →
    t.st = .draining since → s.atBoundary l = true →
    let d := (s.ctx t.ctx).desc
    let n := (4096 + l.ld.groups * (8192 + 6144 * (l.ld.frameMax + 1)) + 256 * l.ld.stashBlk + 16384 * l.ld.slots + 16384 * l.ld.accBlk + 4095) / 4096 * 4096
    ((s.core t.core).clocks < since + 2 ^ (l.ld.drainLog2 + 10) → exec (.drainLimitExpiry t.uid) s = .next s)
    ∧ (since + 2 ^ (l.ld.drainLog2 + 10) ≤ (s.core t.core).clocks →
        (saveSlot d.saveBase.toNat d.saveSize.toNat n (s.saveRecords t.ctx) = none →
          ∃ r, exec (.drainLimitExpiry t.uid) s = .next r ∧ r.team t.uid = some { t with st := .resident, unsaved := true }
            ∧ ∀ u g, s.group u = some g → g.team = t.uid → r.group u = some { g with stopped := false })
        ∧ ∀ a, saveSlot d.saveBase.toNat d.saveSize.toNat n (s.saveRecords t.ctx) = some a → s.pagesFault t.ctx a n .write = none →
          ∃ r, exec (.drainLimitExpiry t.uid) s = .next r ∧ r.team t.uid = some { t with st := .saved a n, since := s.sched.tick }
            ∧ ∀ u g, s.group u = some g → g.team = t.uid → r.group u = some { g with stopped := true, alloc := none, entering := g.entering.map fun e => { e with waiting := [] } })

/-- TEAM_RESTORE of a cluster of one team with one group that is in no handler, where the launch's turn has come and the spill areas can be
written (R79, R81, R83, R88, R89, R150). -/
def TeamRestored : Prop :=
  ∀ (s : State) (t : Team) (l : Launch) (g : Group) (core a n : Nat), s.team t.uid = some t → s.clusterOf t = [t] → t.st = .saved a n →
    core < 96 → t.core < 96 → s.canRestore t core = true → s.launch t.launch = some l → s.followRatio.mayPlace l [core] = true →
    s.followRatio.restoreFirst l t = true → NoOwners s → (∀ e ∈ (s.core core).l1, e.2.ctx ≠ t.ctx) →
    (∀ k, k < 4608 * (s.descOf g).spillStride.toNat / 128 →
      s.pagesFault g.ctx ((s.descOf g).spillBase.toNat + 128 * k) 128 .write = none) → (s.descOf g).spillBase.toNat % 128 = 0 →
    (s.descOf g).spillStride.toNat % 128 = 0 →
    s.pagesFault t.ctx a n .read = none → s.teamGroups t.uid = [g] → g.handler = none → (∀ x ∈ s.groups, x.core < 96) →
    ∃ r h, exec (.teamRestore t.uid core) s = .next r
      ∧ r.team t.uid = some { t with core := core, st := .resident, since := s.sched.tick, quanta := 0, unsaved := false }
      ∧ r.group g.uid = some h ∧ h.core = core ∧ h.stopped = false ∧ h.rows = g.rows ∧ h.sregs = g.sregs ∧ h.vregs = g.vregs
      ∧ h.retired = g.retired ∧ h.loops = g.loops ∧ h.held = g.held

/-- QUANTUM_BOUNDARY: the quanta of the resident teams are counted; where no team of the launch waits, none is removed (R83). -/
def QuantumCounted : Prop :=
  ∀ (s : State) (l : Launch), s.launch l.uid = some l →
    (l.ld.sched ≠ 2 ∨ s.atBoundary l = false → exec (.quantumBoundary l.uid) s = .next s)
    ∧ (l.ld.sched = 2 → s.atBoundary l = true → l.returned = [] → l.segment = none → l.ld.teams ≤ l.nextTeam →
        (∀ t ∈ s.teams, t.launch = l.uid → t.isSaved = false) →
        exec (.quantumBoundary l.uid) s = .next { s with teams := s.teams.map fun t =>
          if t.launch = l.uid ∧ t.isResident = true then { t with quanta := t.quanta + 1 } else t })

/-- LAUNCH_STALL and SPAWN_STALL (R82, R134). -/
def StallsPosted : Prop :=
  ∀ (s : State) (l : Launch), s.launch l.uid = some l → l.ctx.toNat < s.ctxs.length →
    (stalls s l false → l.stallPosted = false → l.ld.sched ≠ 2 → l.dispatched = false →
      ∃ r, exec (.launchStall l.uid) s = .next r ∧ StallPosted s r l fun x => { x with stallPosted := true })
    ∧ (stalls s l true → l.spawnStall = false →
      ∃ r, exec (.spawnStall l.uid) s = .next r ∧ StallPosted s r l fun x => { x with spawnStall := true })
    ∧ (¬ stalls s l false ∨ l.stallPosted = true ∨ l.ld.sched = 2 ∨ l.dispatched = true → exec (.launchStall l.uid) s = .next s)
    ∧ (¬ stalls s l true ∨ l.spawnStall = true → exec (.spawnStall l.uid) s = .next s)

/-- The timers of bins and of arenas (R130, R132). -/
def TimersExpire : Prop :=
  (∀ (s : State) (k : BitVec 7) (b : BitVec 4) (x : Bin) (l : Launch), (s.core k.toNat).bins[b.toNat]? = some x → s.launch x.launch = some l →
      freshNums s → (∀ w ∈ x.recs, w.words.length ≤ 16) →
      ((s.core k.toNat).clocks < x.since + 2048 → exec (.spawnBinTimerExpiry k b) s = .next s)
      ∧ (x.since + 2048 ≤ (s.core k.toNat).clocks → x.full = false →
          ∃ r, exec (.spawnBinTimerExpiry k b) s = .next r ∧ BinStarts s r k.toNat b.toNat k.toNat x l)
      ∧ ∀ d : BitVec 7, ((s.core k.toNat).clocks < x.fullSince + 1024 → exec (.spawnBinHandoff k b d) s = .next s)
          ∧ (x.fullSince + 1024 ≤ (s.core k.toNat).clocks → x.full = true →
              ∃ r, exec (.spawnBinHandoff k b d) s = .next r ∧ BinStarts s r k.toNat b.toNat d.toNat x l))
    ∧ ∀ (s : State) (l : Launch) (k : BitVec 7) (e : Pc) (es : List Pc) (c : Nat) (cs : List Nat), s.launch l.uid = some l → l.desc.det = false →
      freshNums s → l.waitingEntries = e :: es → ((l.waiting e).flatMap fun r => run r.1 r.2).take 96 = c :: cs → roomFor s k.toNat l.ld.base →
      s.drains l.uid k.toNat = false → s.ratioRuns l = true →
      ∃ r l', exec (.arenaTimerExpiry l.uid k) s = .next r ∧ r.launch l.uid = some l'
        ∧ WaveStarted s r l k.toNat e (BitVec.ofNat 32 (64 + c)) ((c :: cs).map fun n =>
            [BitVec.ofNat 32 (l.ld.arenaBase.toNat + 4096 + 64 * n), BitVec.ofNat 32 ((l.ld.arenaBase.toNat + 4096 + 64 * n) / 2 ^ 32)])
        ∧ ((l'.waiting e).flatMap fun r => run r.1 r.2) = ((l.waiting e).flatMap fun r => run r.1 r.2).drop 96

/-- ROUND_BOUNDARY of a round in which nothing was deferred and no group has exited (R215 to R217). -/
def RoundEnds : Prop :=
  ∀ (s : State) (l : Launch), s.launch l.uid = some l →
    (l.desc.det = false ∨ s.roundEnds l = false → exec (.roundBoundary l.uid) s = .next s)
    ∧ (l.desc.det = true → s.roundEnds l = true → (∀ g ∈ s.groups, g.exiting = false ∧ ∀ o ∈ g.ops, o.deferred = true → o.perf = true) →
        ∃ r, exec (.roundBoundary l.uid) s = .next r ∧ (∀ g ∈ r.groups, g.launch = l.uid → g.roundRetired = 0)
          ∧ ∀ l', r.launch l.uid = some l' → l'.inBoundary = false)

/-- The allocator and the Ladle of a partition that waits on no fault (R142 to R146). -/
def BlocksServed : Prop :=
  ∀ (s : State) (k : BitVec 7) (p : BitVec 2) (g : Group) (n : Nat), (s.partOf k.toNat p.toNat).ladleFault = none →
    s.requester k.toNat p.toNat = some g → s.group g.uid = some g → g.core = k.toNat → g.part = p.toNat → g.request = some n →
    (∀ x ∈ s.partGroups k.toNat p.toNat, x.request = some 0 → x = g) →
    (n ≤ (s.freeBlocks k.toNat p.toNat).length →
      (∀ a, g.lowestSpilled = none → g.alloc = some a →
        ∃ r, exec (.allocationGrant k p) s = .next r ∧ r.group g.uid = some { g with alloc := some { a with granted := true } } ∧ SameMemory s r)
      ∧ ∀ i f, g.lowestSpilled = some (i, f) → s.rangeHeld g.ctx (s.imageAt g i) (128 + 6144 * f.blks) = false →
        s.rangeFault g.ctx (s.imageAt g i) (128 + 6144 * f.blks) .read = none → g.ctx.toNat < s.ctxs.length →
        ∃ r h, exec (.allocationGrant k p) s = .next r ∧ r.group g.uid = some h
          ∧ h.frames = g.frames.modify i (fun x => { x with spilled := false, image := none })
          ∧ (s.imageSame g f = true → h.vregs = g.vregs) ∧ (r.ctx g.ctx).status.refills = (s.ctx g.ctx).status.refills + 1)
    ∧ ((s.freeBlocks k.toNat p.toNat).length < n → exec (.allocationGrant k p) s = .next s)
    ∧ ∀ h i f, k.toNat < s.cores.length → (s.core k.toNat).wakes = [] → s.ladleWakes k.toNat p.toNat = true → (s.freeBlocks k.toNat p.toNat).length < n → g.lowestSpilled = none →
        s.victim k.toNat p.toNat g.uid [] = some (h, i, f) → s.group h.uid = some h → h.core = k.toNat → h.part = p.toNat →
        h.lateIn f.first (f.first + f.blks) = false → s.spillOverflows h i f = false →
        s.rangeHeld h.ctx (s.imageAt h i) (128 + 6144 * f.blks) = false →
        s.rangeFault h.ctx (s.imageAt h i) (128 + 6144 * f.blks) .write = none → h.ctx.toNat < s.ctxs.length →
        n ≤ ((s.spillFrame h i f).freeBlocks k.toNat p.toNat).length →
        ∃ r g' h', exec (.ladleWake k p) s = .next r ∧ r.group g.uid = some g' ∧ (∀ a, g.alloc = some a → g'.alloc = some { a with granted := true })
          ∧ r.group h.uid = some h' ∧ h'.frames = h.frames.modify i (fun x => { x with spilled := true, image := some (s.imageAt h i, s.sched.tick) }) ∧ h'.alloc.isSome = true
          ∧ h'.vregs = h.vregs ∧ (r.ctx h.ctx).status.spills = (s.ctx h.ctx).status.spills + 1

/-- BOUNDARY_TRAP_ENTRY: the first row that may issue and has a trap due takes it, as TrapEntryRecord says (R435). -/
def BoundaryTraps : Prop :=
  ∀ (s : State) (g : Group), s.group g.uid = some g → s.boot.phase = .trained → s.onCore g = true → g.parked = none →
    (g.pending = [] → exec (.boundaryTrapEntry g.uid) s = .next s)
    ∧ ∀ k p, k < 4 → (g.row k).live = true → (g.row k).stopped = false → g.stopped = false → g.exiting = false →
        (g.pending.find? fun x => x.row == none || x.row == some k) = some p →
        (∀ j, j < k → (g.row j).live = false ∨ (g.row j).stopped = true ∨ ∀ x ∈ g.pending, x.row ≠ none ∧ x.row ≠ some j) →
        exec (.boundaryTrapEntry g.uid) s = .next (s.raiseTrap g k p)

/-- TRAVERSAL_COMPLETE of a ray that has ended: its table entry is free, and its record is the lane's late write (R294). -/
def RayLands : Prop :=
  ∀ (s : State) (k : BitVec 7) (e : BitVec 11) (r : Ray) (g : Group) (ws : List Word), r ∈ (s.core k.toNat).rays → r.entry = e.toNat →
    (∀ x ∈ (s.core k.toNat).rays, x.entry = r.entry → x = r) → r.phase = .done ws → r.key = none → s.group r.group = some g → g.exiting = false →
    ∃ t, exec (.traversalComplete k e) s = .next t ∧ (∀ x ∈ (t.core k.toNat).rays, x.entry ≠ r.entry)
      ∧ ((∃ j x, x ∈ (s.core j).rays ∧ x.op = r.op ∧ (j ≠ k.toNat ∨ x.entry ≠ r.entry)) → ws ≠ [] → ∀ o ∈ g.ops, o.uid = r.op → o.dests.length ≤ ws.length →
          ∃ h o', t.group g.uid = some h ∧ o' ∈ h.ops ∧ o'.uid = o.uid ∧ (∀ x ∈ o.late, x ∈ o'.late)
            ∧ ∀ j d, o.dests[j]? = some d → ∃ x ∈ o'.late, x.vec = true ∧ x.reg = d.2 ∧ x.lane = r.lane ∧ x.value = ws.getD j 0)

/-- INFILL of a coverage team whose groups have all exited: its points are counted, and the team ends (R275 to R277, R280). -/
def TeamInfilled : Prop :=
  ∀ (s : State) (t : Team) (l : Launch) (c : Cover), s.team t.uid = some t → s.launch t.launch = some l → l.desc.det = false → l.cover = some c →
    (s.infillHeld t = true → exec (.infill t.uid) s = .next s) ∧ (t.st ≠ .exited → exec (.infill t.uid) s = .next s)
    ∧ (t.st = .exited → s.infillHeld t = false → ∃ r l' c', exec (.infill t.uid) s = .next r ∧ r.team t.uid = none ∧ r.launch t.launch = some l' ∧ l'.cover = some c'
        ∧ let ps := l.ld.points c (t.index.getD 0)
          c'.probes = c.probes + (ps.filter (·.probe)).length
          ∧ c'.skipped = c.skipped + (ps.filter fun p => !p.computed && !p.probe).length
          ∧ c'.computed = c.computed + (ps.filter fun p => p.computed || p.probe).length ∧ c'.clocks = c.clocks + t.clocks)

end Sys2Proof.Claims

/-- O60. Dispatch, pre-emption, saves and restores, stalls, timers, round boundaries, the Ladle, due traps and rays leave what
their rules say. -/
def Obligations.DispatchTimerAndFrameResults : Prop :=
  Sys2Proof.Claims.TeamAdmitted ∧ Sys2Proof.Claims.TeamPreempted ∧ Sys2Proof.Claims.TeamSaved ∧ Sys2Proof.Claims.TeamRestored
    ∧ Sys2Proof.Claims.QuantumCounted ∧ Sys2Proof.Claims.StallsPosted ∧ Sys2Proof.Claims.TimersExpire ∧ Sys2Proof.Claims.RoundEnds
    ∧ Sys2Proof.Claims.BlocksServed ∧ Sys2Proof.Claims.BoundaryTraps ∧ Sys2Proof.Claims.RayLands ∧ Sys2Proof.Claims.TeamInfilled
end

