-- ==== Sys2Proof/Laws/Encoding.lean ====
section
/-! SUPPORT. Encoding: the fields of a base word and of a cuff word are those it was put together from (R313, R314), and the
operands of each shape come back from its fields. -/

namespace Sys2Proof

theorem baseWord_c (f : Fields) : wordC (baseWord f) = f.c := by
  unfold wordC baseWord
  rw [BitVec.getLsbD_append, if_neg (by decide), BitVec.getLsbD_append, if_neg (by decide), BitVec.getLsbD_append,
    if_neg (by decide), BitVec.getLsbD_append, if_neg (by decide), BitVec.getLsbD_append, if_pos (by decide)]
  cases f.c <;> rfl

theorem baseWord_sb (f : Fields) : (baseWord f).getLsbD 31 = f.sb := by
  unfold baseWord
  rw [BitVec.getLsbD_append, if_neg (by decide), BitVec.getLsbD_append, if_neg (by decide), BitVec.getLsbD_append,
    if_neg (by decide), BitVec.getLsbD_append, if_neg (by decide), BitVec.getLsbD_append, if_neg (by decide)]
  cases f.sb <;> rfl

theorem baseWord_op (f : Fields) : (baseWord f).extractLsb' 21 9 = f.op := by
  unfold baseWord
  rw [BitVec.extractLsb'_append_eq_of_le (by decide), BitVec.extractLsb'_append_eq_of_le (by decide),
    BitVec.extractLsb'_append_eq_of_le (by decide), BitVec.extractLsb'_append_eq_of_add_le (by decide)]
  simp

theorem baseWord_b (f : Fields) : (baseWord f).extractLsb' 14 7 = f.b := by
  unfold baseWord
  rw [BitVec.extractLsb'_append_eq_of_le (by decide), BitVec.extractLsb'_append_eq_of_le (by decide),
    BitVec.extractLsb'_append_eq_of_add_le (by decide)]
  simp

theorem baseWord_a (f : Fields) : (baseWord f).extractLsb' 7 7 = f.a := by
  unfold baseWord
  rw [BitVec.extractLsb'_append_eq_of_le (by decide), BitVec.extractLsb'_append_eq_of_add_le (by decide)]
  simp

theorem baseWord_d (f : Fields) : (baseWord f).extractLsb' 0 7 = f.d := by
  unfold baseWord
  rw [BitVec.extractLsb'_append_eq_of_add_le (by decide)]
  simp

theorem fieldsOf_baseWord (f : Fields) (w1 : Word) (h : f.cuff = if f.c then w1 else 0) : fieldsOf (baseWord f) w1 = f := by
  obtain ⟨sb, c, op, b, a, d, cuff⟩ := f
  simp only [fieldsOf, baseWord_c, baseWord_sb, baseWord_op, baseWord_b, baseWord_a, baseWord_d]
  exact congrArg _ h.symm

theorem cuffOf_cuffWord (c : Cuff) : cuffOf (cuffWord c) = c := by
  obtain ⟨m, md, pb, pa⟩ := c
  have h1 : (cuffWord ⟨m, md, pb, pa⟩).extractLsb' 28 4 = m := by
    unfold cuffWord
    rw [BitVec.extractLsb'_append_eq_of_le (by decide), BitVec.extractLsb'_append_eq_of_le (by decide), BitVec.extractLsb'_append_eq_of_le (by decide)]
    simp
  have h2 : (cuffWord ⟨m, md, pb, pa⟩).extractLsb' 20 8 = md := by
    unfold cuffWord
    rw [BitVec.extractLsb'_append_eq_of_le (by decide), BitVec.extractLsb'_append_eq_of_le (by decide), BitVec.extractLsb'_append_eq_of_add_le (by decide)]
    simp
  have h3 : (cuffWord ⟨m, md, pb, pa⟩).extractLsb' 10 10 = pb := by
    unfold cuffWord
    rw [BitVec.extractLsb'_append_eq_of_le (by decide), BitVec.extractLsb'_append_eq_of_add_le (by decide)]
    simp
  have h4 : (cuffWord ⟨m, md, pb, pa⟩).extractLsb' 0 10 = pa := by
    unfold cuffWord
    rw [BitVec.extractLsb'_append_eq_of_add_le (by decide)]
    simp
  simp only [cuffOf, h1, h2, h3, h4]

/-! ### Fields that are put together from parts -/

@[simp] theorem hi_zero_1 (c : BitVec 1) : (0#6 ++ c : R7).extractLsb' 1 6 = 0#6 := by
  rw [BitVec.extractLsb'_append_eq_of_le (by decide)]
  simp
@[simp] theorem lo_part_1 (c : BitVec 1) : (0#6 ++ c : R7).extractLsb' 0 1 = c := by
  rw [BitVec.extractLsb'_append_eq_of_add_le (by decide)]
  simp
@[simp] theorem hi_zero_2 (c : BitVec 2) : (0#5 ++ c : R7).extractLsb' 2 5 = 0#5 := by
  rw [BitVec.extractLsb'_append_eq_of_le (by decide)]
  simp
@[simp] theorem lo_part_2 (c : BitVec 2) : (0#5 ++ c : R7).extractLsb' 0 2 = c := by
  rw [BitVec.extractLsb'_append_eq_of_add_le (by decide)]
  simp
@[simp] theorem hi_zero_3 (c : BitVec 3) : (0#4 ++ c : R7).extractLsb' 3 4 = 0#4 := by
  rw [BitVec.extractLsb'_append_eq_of_le (by decide)]
  simp
@[simp] theorem lo_part_3 (c : BitVec 3) : (0#4 ++ c : R7).extractLsb' 0 3 = c := by
  rw [BitVec.extractLsb'_append_eq_of_add_le (by decide)]
  simp
@[simp] theorem hi_zero_4 (c : BitVec 4) : (0#3 ++ c : R7).extractLsb' 4 3 = 0#3 := by
  rw [BitVec.extractLsb'_append_eq_of_le (by decide)]
  simp
@[simp] theorem lo_part_4 (c : BitVec 4) : (0#3 ++ c : R7).extractLsb' 0 4 = c := by
  rw [BitVec.extractLsb'_append_eq_of_add_le (by decide)]
  simp
@[simp] theorem hi_zero_5 (c : BitVec 5) : (0#2 ++ c : R7).extractLsb' 5 2 = 0#2 := by
  rw [BitVec.extractLsb'_append_eq_of_le (by decide)]
  simp
@[simp] theorem lo_part_5 (c : BitVec 5) : (0#2 ++ c : R7).extractLsb' 0 5 = c := by
  rw [BitVec.extractLsb'_append_eq_of_add_le (by decide)]
  simp
@[simp] theorem lo_bit (c : Bool) : (0#6 ++ BitVec.ofBool c : R7)[0] = c := by
  cases c <;> rfl
@[simp] theorem arr_hi (x y : Bool) : (0#5 ++ BitVec.ofBool x ++ BitVec.ofBool y : R7).extractLsb' 2 5 = 0#5 := by
  cases x <;> cases y <;> rfl
@[simp] theorem arr_0 (x y : Bool) : (0#5 ++ BitVec.ofBool x ++ BitVec.ofBool y : R7)[0] = y := by
  cases x <;> cases y <;> rfl
@[simp] theorem arr_1 (x y : Bool) : (0#5 ++ BitVec.ofBool x ++ BitVec.ofBool y : R7)[1] = x := by
  cases x <;> cases y <;> rfl
@[simp] theorem sel_parts (s : BitVec 8) : (s.extractLsb' 7 1 ++ s.extractLsb' 0 7 : BitVec 8) = s := by
  apply BitVec.eq_of_getLsbD_eq
  intro i hi
  rw [BitVec.getLsbD_append]
  split
  · simp [*]
  · have e : 7 + (i - 7) = i := by omega
    simp [BitVec.getLsbD_extractLsb', e]
    omega
@[simp] theorem imm32_parts (v : Word) : (v.extractLsb' 7 25 ++ v.extractLsb' 0 7 : Word) = v := by
  apply BitVec.eq_of_getLsbD_eq
  intro i hi
  rw [BitVec.getLsbD_append]
  split
  · simp [*]
  · have e : 7 + (i - 7) = i := by omega
    simp [BitVec.getLsbD_extractLsb', e]
    omega
@[simp] theorem target_tofs (t j : BitVec 16) : (j ++ t : Word).extractLsb' 0 16 = t := by
  rw [BitVec.extractLsb'_append_eq_of_add_le (by decide)]
  simp
@[simp] theorem target_jofs (t j : BitVec 16) : (j ++ t : Word).extractLsb' 16 16 = j := by
  rw [BitVec.extractLsb'_append_eq_of_le (by decide)]
  simp
@[simp] theorem modCuff_mod (m : BitVec 8) : (0#4 ++ m ++ 0#20 : Word).extractLsb' 20 8 = m := by
  rw [BitVec.extractLsb'_append_eq_of_le (by decide), BitVec.extractLsb'_append_eq_of_add_le (by decide)]
  simp
@[simp] theorem modCuff_hi (m : BitVec 8) : (0#4 ++ m ++ 0#20 : Word).extractLsb' 28 4 = 0#4 := by
  rw [BitVec.extractLsb'_append_eq_of_le (by decide), BitVec.extractLsb'_append_eq_of_le (by decide)]
  simp
@[simp] theorem modCuff_lo (m : BitVec 8) : (0#4 ++ m ++ 0#20 : Word).extractLsb' 0 20 = 0#20 := by
  rw [BitVec.extractLsb'_append_eq_of_add_le (by decide)]
  simp
@[simp] theorem memoCuff_memo (m : BitVec 4) : (m ++ 0#28 : Word).extractLsb' 28 4 = m := by
  rw [BitVec.extractLsb'_append_eq_of_le (by decide)]
  simp
@[simp] theorem memoCuff_mod (m : BitVec 4) : (m ++ 0#28 : Word).extractLsb' 20 8 = 0#8 := by
  rw [BitVec.extractLsb'_append_eq_of_add_le (by decide)]
  rfl
@[simp] theorem memoCuff_lo (m : BitVec 4) : (m ++ 0#28 : Word).extractLsb' 0 20 = 0#20 := by
  rw [BitVec.extractLsb'_append_eq_of_add_le (by decide)]
  rfl
@[simp] theorem sz_hi (c : BitVec 2) : (0#6 ++ c : BitVec 8).extractLsb' 2 6 = 0#6 := by
  rw [BitVec.extractLsb'_append_eq_of_le (by decide)]
  simp
@[simp] theorem sz_lo (c : BitVec 2) : (0#6 ++ c : BitVec 8).extractLsb' 0 2 = c := by
  rw [BitVec.extractLsb'_append_eq_of_add_le (by decide)]
  simp

/-! ### Operands of the shapes -/

/-- The B operand of shape S. -/
theorem sop_fS (op : BitVec 9) (d a : R7) (b : SOp) : (fS op d a b).sop = .ok b := by
  cases b with
  | reg r => rfl
  | imm7 r => rfl
  | imm32 v =>
    have h1 : (0#7 ++ v.extractLsb' 7 25 : Word).extractLsb' 25 7 = 0 := by
      rw [BitVec.extractLsb'_append_eq_of_le (by decide)]; simp
    have h2 : (0#7 ++ v.extractLsb' 7 25 : Word).extractLsb' 0 25 = v.extractLsb' 7 25 := by
      rw [BitVec.extractLsb'_append_eq_of_add_le (by decide)]; simp
    simp only [fS, Fields.sop, h1, h2, imm32_parts]
    rfl
@[simp] theorem fS_op (op : BitVec 9) (d a : R7) (b : SOp) : (fS op d a b).op = op := by cases b <;> rfl
@[simp] theorem fS_d (op : BitVec 9) (d a : R7) (b : SOp) : (fS op d a b).d = d := by cases b <;> rfl
@[simp] theorem fS_a (op : BitVec 9) (d a : R7) (b : SOp) : (fS op d a b).a = a := by cases b <;> rfl
theorem s3_fS (op : BitVec 9) (d a : R7) (b : SOp) (k : R7 → R7 → SOp → Instr) : (fS op d a b).s3 k = .ok (k d a b) := by
  simp [Fields.s3, sop_fS]
theorem s1_fS (op : BitVec 9) (b : SOp) (k : SOp → Instr) : (fS op 0#7 0#7 b).s1 k = .ok (k b) := by
  simp [Fields.s1, sop_fS, given]
@[simp] theorem fV_op (op : BitVec 9) (v : VOps) : (fV op v).op = op := by unfold fV; split <;> rfl
theorem vops_fV (op : BitVec 9) (v : VOps) : (fV op v).vops = v := by
  obtain ⟨sb, b, a, d, c⟩ := v
  cases c with
  | none => rfl
  | some c => simp [fV, Fields.vops, cuffOf_cuffWord]
theorem mops_fM (op : BitVec 9) (m : MOps) : (fM op m).mops = m := by
  obtain ⟨sb, b, a, d, memo, mod, af, of⟩ := m
  have h1 : (memo ++ mod ++ af ++ of : Word).extractLsb' 28 4 = memo := by
    rw [BitVec.extractLsb'_append_eq_of_le (by decide), BitVec.extractLsb'_append_eq_of_le (by decide),
      BitVec.extractLsb'_append_eq_of_le (by decide)]
    simp
  have h2 : (memo ++ mod ++ af ++ of : Word).extractLsb' 20 8 = mod := by
    rw [BitVec.extractLsb'_append_eq_of_le (by decide), BitVec.extractLsb'_append_eq_of_le (by decide),
      BitVec.extractLsb'_append_eq_of_add_le (by decide)]
    simp
  have h3 : (memo ++ mod ++ af ++ of : Word).extractLsb' 18 2 = af := by
    rw [BitVec.extractLsb'_append_eq_of_le (by decide), BitVec.extractLsb'_append_eq_of_add_le (by decide)]
    simp
  have h4 : (memo ++ mod ++ af ++ of : Word).extractLsb' 0 18 = of := by
    rw [BitVec.extractLsb'_append_eq_of_add_le (by decide)]
    simp
  simp only [fM, Fields.mops, h1, h2, h3, h4]
@[simp] theorem fM_op (op : BitVec 9) (m : MOps) : (fM op m).op = op := rfl
theorem m_fM (op : BitVec 9) (m : MOps) (k : MOps → Instr) : (fM op m).m k = .ok (k m) := by
  rw [Fields.m, mops_fM]
  rfl
theorem low21_parts (w : BitVec 21) (f : Fields) (hd : f.d = w.extractLsb' 0 7) (ha : f.a = w.extractLsb' 7 7) (hb : f.b = w.extractLsb' 14 7) :
    f.low21 = w := by
  unfold Fields.low21
  rw [hd, ha, hb]
  apply BitVec.eq_of_getLsbD_eq
  intro i hi
  rw [BitVec.getLsbD_append]
  split
  · simp [*]
  · rw [BitVec.getLsbD_append]
    split
    · have e : 7 + (i - 7) = i := by omega
      simp [*]
    · have e : 14 + (i - 7 - 7) = i := by omega
      simp [BitVec.getLsbD_extractLsb', e]
      omega

@[simp] theorem low21_fN (op : BitVec 9) (w : BitVec 21) : (fN op (w.extractLsb' 0 7) (w.extractLsb' 7 7) (w.extractLsb' 14 7)).low21 = w :=
  low21_parts w _ rfl rfl rfl
@[simp] theorem fN_op (op : BitVec 9) (d a b : R7) : (fN op d a b).op = op := rfl
@[simp] theorem fN_c (op : BitVec 9) (d a b : R7) : (fN op d a b).c = false := rfl
@[simp] theorem fN_sb (op : BitVec 9) (d a b : R7) : (fN op d a b).sb = false := rfl
@[simp] theorem wait_20 (tl cp : BitVec 4) (st ld : BitVec 6) : (0#1 ++ tl ++ cp ++ st ++ ld : BitVec 21)[20] = false := by
  rw [← BitVec.getLsbD_eq_getElem, BitVec.getLsbD_append, if_neg (by decide), BitVec.getLsbD_append, if_neg (by decide),
    BitVec.getLsbD_append, if_neg (by decide), BitVec.getLsbD_append, if_neg (by decide)]
  rfl
@[simp] theorem wait_tl (tl cp : BitVec 4) (st ld : BitVec 6) : (0#1 ++ tl ++ cp ++ st ++ ld : BitVec 21).extractLsb' 16 4 = tl := by
  rw [BitVec.extractLsb'_append_eq_of_le (by decide), BitVec.extractLsb'_append_eq_of_le (by decide),
    BitVec.extractLsb'_append_eq_of_le (by decide), BitVec.extractLsb'_append_eq_of_add_le (by decide)]
  simp
@[simp] theorem wait_cp (tl cp : BitVec 4) (st ld : BitVec 6) : (0#1 ++ tl ++ cp ++ st ++ ld : BitVec 21).extractLsb' 12 4 = cp := by
  rw [BitVec.extractLsb'_append_eq_of_le (by decide), BitVec.extractLsb'_append_eq_of_le (by decide),
    BitVec.extractLsb'_append_eq_of_add_le (by decide)]
  simp
@[simp] theorem wait_st (tl cp : BitVec 4) (st ld : BitVec 6) : (0#1 ++ tl ++ cp ++ st ++ ld : BitVec 21).extractLsb' 6 6 = st := by
  rw [BitVec.extractLsb'_append_eq_of_le (by decide), BitVec.extractLsb'_append_eq_of_add_le (by decide)]
  simp
@[simp] theorem wait_ld (tl cp : BitVec 4) (st ld : BitVec 6) : (0#1 ++ tl ++ cp ++ st ++ ld : BitVec 21).extractLsb' 0 6 = ld := by
  rw [BitVec.extractLsb'_append_eq_of_add_le (by decide)]
  simp

end Sys2Proof
end

