-- ==== Sys2Proof/Laws/Sparse.lean ====
section
/-! SUPPORT. Sparse maps: reading after writing, and the canonical form, which every write keeps. -/

namespace Sys2Proof.Machine

variable {α : Type}

theorem sget_sput_self (d : α) (k : Nat) (v : α) (m : Sparse α) : sget d (sput k v m) k = v := by
  induction m with
  | nil => simp [sput, sget]
  | cons e r ih =>
    obtain ⟨k', v'⟩ := e
    unfold sput
    split
    · simp [sget]
    · split
      · simp [sget]
      · simp [sget, *]

theorem sget_sput_ne (d : α) {k j : Nat} (h : j ≠ k) (v : α) (m : Sparse α) : sget d (sput k v m) j = sget d m j := by
  induction m with
  | nil => simp [sput, sget, Ne.symm h]
  | cons e r ih =>
    obtain ⟨k', v'⟩ := e
    unfold sput
    split
    · subst k'; simp [sget, Ne.symm h]
    · split
      · simp [sget, Ne.symm h]
      · simp [sget, ih]

theorem sget_sdel_self (d : α) (k : Nat) (m : Sparse α) : sget d (sdel k m) k = d := by
  induction m with
  | nil => rfl
  | cons e r ih =>
    obtain ⟨k', v'⟩ := e
    unfold sdel
    split <;> simp [sget, *]

theorem sget_sdel_ne (d : α) {k j : Nat} (h : j ≠ k) (m : Sparse α) : sget d (sdel k m) j = sget d m j := by
  induction m with
  | nil => rfl
  | cons e r ih =>
    obtain ⟨k', v'⟩ := e
    unfold sdel
    split
    · subst k'; simp [sget, Ne.symm h, ih]
    · simp [sget, ih]

variable [DecidableEq α]

/-- A read after a write to the same key gives the value written. -/
@[simp] theorem sget_sset_self (d : α) (k : Nat) (v : α) (m : Sparse α) : sget d (sset d k v m) k = v := by
  unfold sset
  split
  · simp [sget_sdel_self, *]
  · exact sget_sput_self ..

/-- A write leaves every other key alone. -/
theorem sget_sset_ne (d : α) {k j : Nat} (h : j ≠ k) (v : α) (m : Sparse α) : sget d (sset d k v m) j = sget d m j := by
  unfold sset
  split
  · exact sget_sdel_ne d h m
  · exact sget_sput_ne d h v m

theorem sget_sset (d : α) (k j : Nat) (v : α) (m : Sparse α) :
    sget d (sset d k v m) j = if j = k then v else sget d m j := by
  split
  · simp [*]
  · exact sget_sset_ne d ‹_› v m

theorem swfFrom_mono (d : α) {lo lo' : Nat} (h : lo ≤ lo') : ∀ {m : Sparse α}, swfFrom d lo' m = true → swfFrom d lo m = true := by
  intro m
  cases m with
  | nil => intro _; rfl
  | cons e r =>
    obtain ⟨k, v⟩ := e
    simp only [swfFrom, Bool.and_eq_true, decide_eq_true_eq]
    rintro ⟨⟨h1, h2⟩, h3⟩
    exact ⟨⟨by omega, h2⟩, h3⟩

theorem swfFrom_sput (d : α) {k : Nat} {v : α} (hv : v ≠ d) :
    ∀ {m : Sparse α} {lo : Nat}, lo ≤ k → swfFrom d lo m = true → swfFrom d lo (sput k v m) = true := by
  intro m
  induction m with
  | nil => intro lo hk _; simp [sput, swfFrom, hk, hv]
  | cons e r ih =>
    obtain ⟨k', v'⟩ := e
    intro lo hk h
    simp only [swfFrom, Bool.and_eq_true, decide_eq_true_eq] at h
    obtain ⟨⟨h1, h2⟩, h3⟩ := h
    unfold sput
    split
    · subst k'; simp [swfFrom, hk, hv, h3]
    · split
      · simp [swfFrom, hk, hv, h2, h3]; omega
      · simp only [swfFrom, Bool.and_eq_true, decide_eq_true_eq]
        exact ⟨⟨h1, h2⟩, ih (by omega) h3⟩

theorem swfFrom_sdel (d : α) {k : Nat} :
    ∀ {m : Sparse α} {lo : Nat}, swfFrom d lo m = true → swfFrom d lo (sdel k m) = true := by
  intro m
  induction m with
  | nil => intro _ _; rfl
  | cons e r ih =>
    obtain ⟨k', v'⟩ := e
    intro lo h
    simp only [swfFrom, Bool.and_eq_true, decide_eq_true_eq] at h
    obtain ⟨⟨h1, h2⟩, h3⟩ := h
    unfold sdel
    split
    · exact swfFrom_mono d (by omega) (ih h3)
    · simp only [swfFrom, Bool.and_eq_true, decide_eq_true_eq]
      exact ⟨⟨h1, h2⟩, ih h3⟩

/-- A write keeps the canonical form. -/
theorem swf_sset (d : α) (k : Nat) (v : α) {m : Sparse α} (h : swf d m = true) : swf d (sset d k v m) = true := by
  unfold sset
  split
  · exact swfFrom_sdel d h
  · exact swfFrom_sput d ‹_› (Nat.zero_le _) h

/-- The map of no entries is canonical. -/
@[simp] theorem swf_nil (d : α) : swf d [] = true := rfl

end Sys2Proof.Machine
end

