-- ==== Sys2Proof/Laws/Memory.lean ====
section
/-! SUPPORT. Physical memory: a byte read after it was written, every other byte, and the canonical form. -/

namespace Sys2Proof.Machine

@[simp] theorem Memory.read_write_self (m : Memory) (a : Nat) (b : Byte) : (m.write a b).read a = b :=
  sget_sset_self ..

theorem Memory.read_write_ne (m : Memory) {a c : Nat} (h : c ≠ a) (b : Byte) : (m.write a b).read c = m.read c :=
  sget_sset_ne _ h ..

theorem Memory.write_wf (m : Memory) (a : Nat) (b : Byte) (h : m.wf = true) : (m.write a b).wf = true :=
  swf_sset _ a b h

theorem Memory.load_wf (a v n : Nat) (m : Memory) (h : m.wf = true) : (m.load a v n).wf = true := by
  induction n generalizing m a v with
  | zero => exact h
  | succ n ih => exact ih _ _ _ (m.write_wf _ _ h)

/-- DRAM that nothing has written is canonical. -/
theorem Memory.reset_wf : State.reset.dram.mem.wf = true := rfl

theorem State.reset_memOk : State.reset.memOk := ⟨rfl, rfl⟩

end Sys2Proof.Machine
end

