-- ==== Sys2Proof/Laws/Home.lean ====
section
/-! SUPPORT. Every operation that writes DRAM or the host's memory keeps the canonical form of both, and leaves groups and teams alone. -/

namespace Sys2Proof.Machine

/-- What each of these operations leaves: the canonical form of both memories, every group, every team and every launch. -/
structure HomeOnly (s t : State) : Prop where
  memOk : s.memOk → t.memOk
  groups : t.groups = s.groups
  teams : t.teams = s.teams
  launches : t.launches = s.launches

theorem HomeOnly.rfl (s : State) : HomeOnly s s := ⟨id, Eq.refl _, Eq.refl _, Eq.refl _⟩

theorem HomeOnly.trans {s t u : State} (a : HomeOnly s t) (b : HomeOnly t u) : HomeOnly s u :=
  ⟨b.memOk ∘ a.memOk, b.groups.trans a.groups, b.teams.trans a.teams, b.launches.trans a.launches⟩

/-- An operation that writes neither memory, nor a group, a team or a launch. -/
theorem HomeOnly.of_eq {s t : State} (m : t.dram.mem = s.dram.mem) (h : t.host.mem = s.host.mem) (g : t.groups = s.groups)
    (k : t.teams = s.teams) (l : t.launches = s.launches) : HomeOnly s t :=
  ⟨fun w => ⟨m ▸ w.1, h ▸ w.2⟩, g, k, l⟩

/-- The same before another operation. -/
theorem HomeOnly.after {s t u : State} (b : HomeOnly t u) (m : t.dram.mem = s.dram.mem) (h : t.host.mem = s.host.mem) (g : t.groups = s.groups)
    (k : t.teams = s.teams) (l : t.launches = s.launches) : HomeOnly s u := (HomeOnly.of_eq m h g k l).trans b

theorem HomeOnly.foldl {α : Type} {f : State → α → State} (h : ∀ s a, HomeOnly s (f s a)) : ∀ (l : List α) (s : State), HomeOnly s (l.foldl f s)
  | [], s => .rfl s
  | a :: l, s => (h s a).trans (HomeOnly.foldl h l (f s a))

/-! ### Bytes -/

theorem hostPut_wf (v n : Nat) : ∀ (a : Nat) (m : List Host.Cell), swf unlistedByte m = true → swf unlistedByte (hostPut m a v n) = true := by
  induction n generalizing v with
  | zero => exact fun _ _ h => h
  | succ n ih => exact fun a m h => ih _ _ _ (swf_sset _ _ _ h)

theorem State.noteWritten_homeOnly (s : State) (pa : Nat) : HomeOnly s (s.noteWritten pa) := by
  unfold State.noteWritten
  split
  · exact .rfl s
  · exact .of_eq rfl rfl rfl rfl rfl

theorem State.wakeChan_homeOnly (s : State) (pa : Nat) : HomeOnly s (s.wakeChan pa) := by
  unfold State.wakeChan
  split
  · exact .of_eq rfl rfl rfl rfl rfl
  · exact .rfl s

theorem State.physPut_homeOnly (s : State) (pa : Nat) (b : Byte) : HomeOnly s (s.physPut pa b) := by
  unfold State.physPut
  split
  · split
    · exact .rfl s
    · exact .trans (t := { s with dram := { s.dram with mem := s.dram.mem.write pa b } })
        ⟨fun w => ⟨Memory.write_wf _ _ _ w.1, w.2⟩, rfl, rfl, rfl⟩ ((State.noteWritten_homeOnly _ _).trans (State.wakeChan_homeOnly _ _))
  · split
    · exact ⟨fun w => ⟨w.1, swf_sset _ _ _ w.2⟩, rfl, rfl, rfl⟩
    · exact .rfl s

theorem State.physPutNat_homeOnly (n : Nat) : ∀ (s : State) (pa v : Nat), HomeOnly s (s.physPutNat pa v n) := by
  induction n with
  | zero => exact fun s _ _ => .rfl s
  | succ n ih => exact fun s pa v => (s.physPut_homeOnly pa _).trans (ih _ _ _)

/-! ### Records and events -/

theorem State.logError_homeOnly (s : State) (e : ErrInput) : HomeOnly s (s.logError e) := by
  unfold State.logError
  split <;> exact .of_eq rfl rfl rfl rfl rfl

theorem State.signal_homeOnly (s : State) (v : Nat) : HomeOnly s (s.signal v) := by
  unfold State.signal
  dsimp only
  split <;> exact .of_eq rfl rfl rfl rfl rfl

theorem State.postNow_homeOnly (s : State) (e : EvRecord) : HomeOnly s (s.postNow e) := by
  unfold State.postNow
  dsimp only
  refine HomeOnly.trans ?_ (State.signal_homeOnly _ _)
  exact ⟨fun w => ⟨w.1, hostPut_wf _ _ _ _ w.2⟩, rfl, rfl, rfl⟩

theorem State.holdEvent_homeOnly (s : State) (e : EvRecord) : HomeOnly s (s.holdEvent e) := by
  unfold State.holdEvent
  dsimp only
  split
  · exact .of_eq rfl rfl rfl rfl rfl
  · split <;> exact .of_eq rfl rfl rfl rfl rfl

theorem State.postRaw_homeOnly (s : State) (e : EvRecord) : HomeOnly s (s.postRaw e) := by
  unfold State.postRaw
  split
  · exact s.holdEvent_homeOnly _
  · exact s.postNow_homeOnly _

theorem State.postHeld_homeOnly (n : Nat) : ∀ s : State, HomeOnly s (s.postHeld n) := by
  induction n with
  | zero => exact fun s => .rfl s
  | succ n ih =>
    intro s
    unfold State.postHeld
    split
    · exact .of_eq rfl rfl rfl rfl rfl
    · split
      · exact .rfl s
      · refine HomeOnly.trans ?_ (ih _)
        exact (State.postNow_homeOnly _ _).after rfl rfl rfl rfl rfl

theorem State.drainEvents_homeOnly (s : State) : HomeOnly s s.drainEvents := State.postHeld_homeOnly _ _

theorem State.postDev_homeOnly (s : State) (type code d0 d1 : Nat) : HomeOnly s (s.postDev type code d0 d1) := State.postRaw_homeOnly _ _

theorem State.lastingError_homeOnly (s : State) (e : ErrInput) : HomeOnly s (s.lastingError e) := by
  have a := (State.logError_homeOnly { s with dev := { s.dev with errLasting := satInc s.dev.errLasting } } { e with cls := .lasting }).after (s := s) rfl rfl rfl rfl rfl
  exact a.trans (State.postDev_homeOnly _ 0x11 2 s.dev.errTail.toNat 0)

theorem State.transientError_homeOnly (s : State) (e : ErrInput) : HomeOnly s (s.transientError e) := by
  have h : HomeOnly s ({ s with dev := { s.dev with errTransient := satInc s.dev.errTransient } }.logError { e with cls := .transient }) :=
    (State.logError_homeOnly _ _).after rfl rfl rfl rfl rfl
  unfold State.transientError
  dsimp only
  split
  · exact h
  · exact h.trans ((State.postDev_homeOnly _ _ _ _ _).after rfl rfl rfl rfl rfl)

/-! ### Generations -/

theorem State.incGen_homeOnly (s : State) (pa : Nat) : HomeOnly s (s.incGen pa) := by
  unfold State.incGen
  dsimp only
  split
  · exact s.lastingError_homeOnly _
  · exact ⟨fun w => ⟨Memory.write_wf _ _ _ (Memory.write_wf _ _ _ (Memory.write_wf _ _ _ (Memory.write_wf _ _ _ w.1))), w.2⟩, rfl, rfl, rfl⟩

/-! ### Ranges that the part writes for itself (R190) -/

theorem State.countLines_homeOnly (s : State) (ctx : BitVec 5) (va n : Nat) : HomeOnly s (s.countLines ctx va n) := by
  refine HomeOnly.foldl (fun t i => ?_) _ _
  split
  · split
    · exact State.incGen_homeOnly _ _
    · exact .rfl t
  · exact .rfl t

theorem Memory.writes_wf (f : Nat → Nat) (b : Nat → Byte) (l : List Nat) :
    ∀ m : Memory, m.wf = true → (l.foldl (fun m i => m.write (f i) (b i)) m).wf = true := by
  induction l with
  | nil => exact fun _ h => h
  | cons a l ih => exact fun m h => ih _ (m.write_wf _ _ h)

theorem State.scrambleRegion_homeOnly (s : State) (r : Nat) : HomeOnly s (s.scrambleRegion r) := by
  unfold State.scrambleRegion
  generalize List.range 65536 = l
  exact ⟨fun w => ⟨Memory.writes_wf _ _ l _ w.1, w.2⟩, rfl, rfl, rfl⟩

theorem swfFrom_filter {α : Type} [DecidableEq α] (d : α) (p : Nat × α → Bool) :
    ∀ {m : Sparse α} {lo : Nat}, swfFrom d lo m = true → swfFrom d lo (m.filter p) = true
  | [], _, _ => rfl
  | (k, v) :: r, lo, h => by
    simp only [swfFrom, Bool.and_eq_true, decide_eq_true_eq] at h
    rw [List.filter_cons]
    split
    · simp only [swfFrom, Bool.and_eq_true, decide_eq_true_eq]
      exact ⟨h.1, swfFrom_filter d p h.2⟩
    · exact swfFrom_mono d (by omega) (swfFrom_filter d p h.2)

theorem State.zeroGenerations_homeOnly (s : State) : HomeOnly s s.zeroGenerations :=
  ⟨fun w => ⟨swfFrom_filter _ _ w.1, w.2⟩, rfl, rfl, rfl⟩

/-- A line that no stash owns is recalled from none. -/
theorem State.recall_of_no_owner {s : State} {pa : Nat} (h : (s.dirOf (lineOf pa)).owner = none) (w : Bool) : s.recall pa w = s := by
  simp only [State.recall, h]

theorem State.dirOf_of_empty {s : State} (h : s.slices.dir = []) (line : Nat) : (s.dirOf line).owner = none := by
  simp only [State.dirOf, h]; rfl

theorem State.physPut_slices (s : State) (pa : Nat) (b : Byte) : (s.physPut pa b).slices = s.slices := by
  unfold State.physPut State.wakeChan State.noteWritten
  repeat' (first | rfl | split)

/-- With no owner in the directory, a write of the part for a context changes the memories alone. -/
theorem State.ctxPut_homeOnly {s : State} (h : s.slices.dir = []) (ctx : BitVec 5) (pa : Nat) (b : Byte) :
    HomeOnly s (s.ctxPut ctx pa b) ∧ (s.ctxPut ctx pa b).slices.dir = [] := by
  unfold State.ctxPut
  rw [State.recall_of_no_owner (State.dirOf_of_empty h _)]
  dsimp only
  split
  · exact ⟨(s.physPut_homeOnly pa b).trans (.of_eq rfl rfl rfl rfl rfl), by rw [← h]; exact congrArg _ (s.physPut_slices pa b)⟩
  · exact ⟨s.physPut_homeOnly pa b, by rw [State.physPut_slices, h]⟩

theorem State.scrambleRange_homeOnly {s : State} (h : s.slices.dir = []) (ctx : BitVec 5) (va n : Nat) : HomeOnly s (s.scrambleRange ctx va n) := by
  unfold State.scrambleRange
  generalize s.sched.tick = k
  generalize List.range n = l
  induction l generalizing s with
  | nil => exact .rfl s
  | cons i l ih =>
    simp only [List.foldl_cons]
    split
    · exact (State.ctxPut_homeOnly h _ _ _).1.trans (ih (State.ctxPut_homeOnly h _ _ _).2)
    · exact ih h

/-- With no owner in the directory, the spill of a frame leaves every team, and every group but the one that is spilled. -/
theorem State.spillFrame_groups {s : State} (h : s.slices.dir = []) (g : Group) (i : Nat) (f : Frame) :
    (s.spillFrame g i f).groups = (s.modGroup g.uid fun x => x.spill i f (some (s.imageAt g i, s.sched.tick)) (s.core g.core).clocks).groups
      ∧ (s.spillFrame g i f).teams = s.teams := by
  have w : HomeOnly s (s.writeImage g i f) := (State.scrambleRange_homeOnly h _ _ _).trans (State.countLines_homeOnly _ _ _ _)
  have n : ∀ (t : State) (bs : List Nat), (t.noteFree g bs).groups = t.groups ∧ (t.noteFree g bs).teams = t.teams := by
    intro t bs; unfold State.noteFree; split <;> exact ⟨rfl, rfl⟩
  unfold State.spillFrame
  dsimp only [State.modCtx]
  refine ⟨(n _ _).1.trans ?_, (n _ _).2.trans w.teams⟩
  simp only [State.modGroup, w.groups]

/-- The free blocks of a partition are a matter of its groups and of which teams are saved. -/
theorem State.freeBlocks_congr {s t : State} (h : t.groups = s.groups) (k : t.teams = s.teams) (core part : Nat) :
    t.freeBlocks core part = s.freeBlocks core part := by
  unfold State.freeBlocks State.unheldBlocks State.partGroups State.onCore State.team
  rw [h, k]

end Sys2Proof.Machine
end

