-- ==== Sys2Proof/Laws/Regs.lean ====
section
/-! SUPPORT. Registers: what a write leaves in its register and in every other, and which fields of a group it may change. -/

namespace Sys2Proof.Machine

/-! ### Absolute scalar registers -/

@[simp] theorem Group.sraw_sput_self (g : Group) (k : Nat) (v : Word) : (g.sput k v).sraw k = v := sget_sset_self ..

theorem Group.sraw_sput_ne (g : Group) {k j : Nat} (h : j ≠ k) (v : Word) : (g.sput k v).sraw j = g.sraw j :=
  sget_sset_ne _ h ..

theorem Group.sraw_sput (g : Group) (k j : Nat) (v : Word) : (g.sput k v).sraw j = if j = k then v else g.sraw j :=
  sget_sset ..

theorem Group.sput_eq (g : Group) (k : Nat) (v : Word) : ∃ r, g.sput k v = { g with sregs := r } := ⟨_, rfl⟩

/-- A write of an absolute scalar register changes the scalar registers, and the contested marks of late writes, alone. -/
theorem Group.writeAbs_eq (s : State) (g : Group) (k : Nat) (v : Word) :
    ∃ r o, g.writeAbs s k v = { g with sregs := r, ops := o } := by
  unfold Group.writeAbs
  simp only
  split
  · exact ⟨_, _, rfl⟩
  · exact ⟨_, g.ops, rfl⟩

/-- What a write leaves in its absolute register where no late write to it is pending. -/
theorem Group.sraw_writeAbs (s : State) (g : Group) (k : Nat) (v : Word) (h : g.isPending false k = false) :
    (g.writeAbs s k v).sraw k = if k = 6 then v &&& statusMask else v := by
  unfold Group.writeAbs
  simp [h]

/-- It leaves every other register as it was. -/
theorem Group.sraw_writeAbs_ne (s : State) (g : Group) {k j : Nat} (h : j ≠ k) (v : Word) :
    (g.writeAbs s k v).sraw j = g.sraw j := by
  unfold Group.writeAbs
  simp only
  split
  · exact Group.sraw_sput_ne g h _
  · exact Group.sraw_sput_ne g h _

/-- With late writes landed, it leaves the value written or one of theirs (R160). -/
theorem ownOrLate_mem (s : State) (l i : Nat) (vs : List Word) (own : Word) :
    ownOrLate s l i vs own = own ∨ ownOrLate s l i vs own ∈ vs := by
  unfold ownOrLate
  split
  · exact .inl rfl
  · rename_i w ws
    rw [List.getD_eq_getElem?_getD]
    cases h : (own :: w :: ws)[s.freeNat .own (l * 128 + i) (ws.length + 1)]? with
    | none => exact .inl rfl
    | some x => exact List.mem_cons.1 (List.mem_of_getElem? h)

/-- The values that may replace a result are those of late writes to the lane that have landed (R160). -/
theorem Group.lastLanded_mem {g : Group} {vec : Bool} {l i : Nat} {v : Word} (h : v ∈ g.lastLanded vec l i) :
    ∃ w ∈ g.lateTo vec l i, w.landed = true ∧ w.value = v := by
  unfold Group.lastLanded at h
  obtain ⟨c, -, hc⟩ := List.mem_filterMap.1 h
  obtain ⟨w, hw, rfl⟩ := Option.map_eq_some_iff.1 hc
  obtain ⟨o, ho, hwo⟩ := List.mem_flatMap.1 (List.mem_of_getLast? hw)
  simp only [List.mem_filter, Bool.and_eq_true] at hwo
  exact ⟨w, List.mem_flatMap.2 ⟨o, ho, List.mem_filter.2 ⟨hwo.1, by simp [hwo.2]⟩⟩, hwo.2.2, rfl⟩

/-- With a late write to it pending, it leaves the value written or that of a late write that has landed (R160). -/
theorem ownOrLate_cases (s : State) (g : Group) (vec : Bool) (l i j : Nat) (own : Word) :
    ownOrLate s l j (g.lastLanded vec l i) own = own
      ∨ ∃ w ∈ g.lateTo vec l i, w.landed = true ∧ ownOrLate s l j (g.lastLanded vec l i) own = w.value := by
  rcases ownOrLate_mem s l j (g.lastLanded vec l i) own with h | h
  · exact .inl h
  · obtain ⟨w, hw, hl, e⟩ := Group.lastLanded_mem h
    exact .inr ⟨w, hw, hl, e.symm⟩

/-- A write of an operand changes the rows (a mask word), the scalar registers and the contested marks alone. -/
theorem Group.writeS_eq (s : State) (g : Group) (k n : Nat) (v : Word) :
    ∃ w r o, g.writeS s k n v = { g with rows := w, sregs := r, ops := o } := by
  unfold Group.writeS
  split
  · exact ⟨_, g.sregs, g.ops, rfl⟩
  · obtain ⟨r, o, h⟩ := Group.writeAbs_eq s g (g.sreg n) v
    exact ⟨g.rows, r, o, h⟩

/-- A mask operand is a mask word of the row (R115). -/
theorem Group.writeS_mask (s : State) (g : Group) (k : Nat) {n : Nat} (h : n < 3) (v : Word) :
    g.writeS s k n v = g.modRow k fun r => { r with mask := setMaskWord r.mask n v &&& r.own } := by
  simp [Group.writeS, h]

theorem Group.writeS_abs (s : State) (g : Group) (k : Nat) {n : Nat} (h : 3 ≤ n) (v : Word) :
    g.writeS s k n v = g.writeAbs s (g.sreg n) v := by
  simp [Group.writeS, Nat.not_lt.2 h]

/-! ### Vector registers -/

/-- A vector write changes the vector registers, or the trap frame, alone. -/
theorem Group.vput_eq (g : Group) (l : Nat) (v : Lanes) : ∃ r h, g.vput l v = { g with vregs := r, handler := h } := by
  unfold Group.vput
  split
  · cases g.handler with
    | none => exact ⟨g.vregs, g.handler, rfl⟩
    | some h => exact ⟨g.vregs, _, rfl⟩
  · exact ⟨_, g.handler, rfl⟩

theorem Group.vraw_vput_self (g : Group) {l : Nat} (h : g.vregOk l = true) (v : Lanes) : (g.vput l v).vraw l = v := by
  unfold Group.vregOk at h
  by_cases hl : 1024 ≤ l
  · simp only [hl, if_true] at h
    obtain ⟨x, hx⟩ := Option.isSome_iff_exists.1 h
    simp [Group.vput, Group.vraw, hl, hx]
  · simp [Group.vput, Group.vraw, hl]

theorem Group.vraw_vput_ne (g : Group) {l j : Nat} (h : j ≠ l) (v : Lanes) : (g.vput l v).vraw j = g.vraw j := by
  unfold Group.vput
  by_cases hl : 1024 ≤ l
  · cases hx : g.handler with
    | none => simp [hl]
    | some x =>
      by_cases hj : 1024 ≤ j
      · simp only [hl, if_true, Group.vraw, hj, hx]
        exact sget_sset_ne _ (by omega) ..
      · simp [hl, Group.vraw, hj]
  · by_cases hj : 1024 ≤ j
    · simp [hl, Group.vraw, hj]
    · simp only [hl, if_false, Group.vraw, hj]
      exact sget_sset_ne _ h ..

theorem laneOf_mergeLanes (mask : Mask) (old : Lanes) (f : Nat → Word) {i : Nat} (h : i < 96) :
    laneOf (mergeLanes mask old f) i = if mask.getLsbD i then f i else laneOf old i := by
  simp [laneOf, mergeLanes, h]

theorem Group.writeReg_eq (s : State) (g : Group) (l : Nat) (mask : Mask) (f : Nat → Word) :
    ∃ r h o, g.writeReg s l mask f = { g with vregs := r, handler := h, ops := o } := by
  unfold Group.writeReg
  split
  · obtain ⟨r, h, e⟩ := Group.vput_eq g l (mergeLanes mask (g.vraw l) fun i => ownOrLate s l i (g.lastLanded true l i) (f i))
    simp only [e]
    exact ⟨r, h, _, rfl⟩
  · obtain ⟨r, h, e⟩ := Group.vput_eq g l (mergeLanes mask (g.vraw l) f)
    exact ⟨r, h, g.ops, e⟩

/-- The active lanes receive their values, the others keep theirs, where no late write to the register is pending (R111). -/
theorem Group.vraw_writeReg (s : State) (g : Group) {l : Nat} (hl : g.vregOk l = true) (mask : Mask) (f : Nat → Word)
    (h : g.isPending true l = false) : (g.writeReg s l mask f).vraw l = mergeLanes mask (g.vraw l) f := by
  simp [Group.writeReg, h, Group.vraw_vput_self g hl]

/-- Every other vector register is as it was. -/
theorem Group.vraw_writeReg_ne (s : State) (g : Group) {l j : Nat} (h : j ≠ l) (mask : Mask) (f : Nat → Word) :
    (g.writeReg s l mask f).vraw j = g.vraw j := by
  unfold Group.writeReg
  split
  · exact Group.vraw_vput_ne g h _
  · exact Group.vraw_vput_ne g h _

theorem Group.writeV_eq (s : State) (g : Group) (n : Nat) (mask : Mask) (f : Nat → Word) :
    ∃ r h o, g.writeV s n mask f = { g with vregs := r, handler := h, ops := o } := Group.writeReg_eq ..

end Sys2Proof.Machine
end

