-- ==== Sys2Proof/Laws/State.lean ====
section
/-! SUPPORT. What each update of the state, and of a group, leaves as it was: one lemma per field, true by rfl. -/

namespace Sys2Proof.Machine

/-! ### State.modGroup -/

@[simp] theorem State.modGroup_boot (s : State) (u : Nat) (f : Group → Group) : (s.modGroup u f).boot = s.boot := rfl
@[simp] theorem State.modGroup_dev (s : State) (u : Nat) (f : Group → Group) : (s.modGroup u f).dev = s.dev := rfl
@[simp] theorem State.modGroup_host (s : State) (u : Nat) (f : Group → Group) : (s.modGroup u f).host = s.host := rfl
@[simp] theorem State.modGroup_ctxs (s : State) (u : Nat) (f : Group → Group) : (s.modGroup u f).ctxs = s.ctxs := rfl
@[simp] theorem State.modGroup_queues (s : State) (u : Nat) (f : Group → Group) : (s.modGroup u f).queues = s.queues := rfl
@[simp] theorem State.modGroup_fcp (s : State) (u : Nat) (f : Group → Group) : (s.modGroup u f).fcp = s.fcp := rfl
@[simp] theorem State.modGroup_gov (s : State) (u : Nat) (f : Group → Group) : (s.modGroup u f).gov = s.gov := rfl
@[simp] theorem State.modGroup_dram (s : State) (u : Nat) (f : Group → Group) : (s.modGroup u f).dram = s.dram := rfl
@[simp] theorem State.modGroup_slices (s : State) (u : Nat) (f : Group → Group) : (s.modGroup u f).slices = s.slices := rfl
@[simp] theorem State.modGroup_sram (s : State) (u : Nat) (f : Group → Group) : (s.modGroup u f).sram = s.sram := rfl
@[simp] theorem State.modGroup_cores (s : State) (u : Nat) (f : Group → Group) : (s.modGroup u f).cores = s.cores := rfl
@[simp] theorem State.modGroup_launches (s : State) (u : Nat) (f : Group → Group) : (s.modGroup u f).launches = s.launches := rfl
@[simp] theorem State.modGroup_teams (s : State) (u : Nat) (f : Group → Group) : (s.modGroup u f).teams = s.teams := rfl
@[simp] theorem State.modGroup_sched (s : State) (u : Nat) (f : Group → Group) : (s.modGroup u f).sched = s.sched := rfl

/-! ### State.modTeam -/

@[simp] theorem State.modTeam_boot (s : State) (u : Nat) (f : Team → Team) : (s.modTeam u f).boot = s.boot := rfl
@[simp] theorem State.modTeam_dev (s : State) (u : Nat) (f : Team → Team) : (s.modTeam u f).dev = s.dev := rfl
@[simp] theorem State.modTeam_host (s : State) (u : Nat) (f : Team → Team) : (s.modTeam u f).host = s.host := rfl
@[simp] theorem State.modTeam_ctxs (s : State) (u : Nat) (f : Team → Team) : (s.modTeam u f).ctxs = s.ctxs := rfl
@[simp] theorem State.modTeam_queues (s : State) (u : Nat) (f : Team → Team) : (s.modTeam u f).queues = s.queues := rfl
@[simp] theorem State.modTeam_fcp (s : State) (u : Nat) (f : Team → Team) : (s.modTeam u f).fcp = s.fcp := rfl
@[simp] theorem State.modTeam_gov (s : State) (u : Nat) (f : Team → Team) : (s.modTeam u f).gov = s.gov := rfl
@[simp] theorem State.modTeam_dram (s : State) (u : Nat) (f : Team → Team) : (s.modTeam u f).dram = s.dram := rfl
@[simp] theorem State.modTeam_slices (s : State) (u : Nat) (f : Team → Team) : (s.modTeam u f).slices = s.slices := rfl
@[simp] theorem State.modTeam_sram (s : State) (u : Nat) (f : Team → Team) : (s.modTeam u f).sram = s.sram := rfl
@[simp] theorem State.modTeam_cores (s : State) (u : Nat) (f : Team → Team) : (s.modTeam u f).cores = s.cores := rfl
@[simp] theorem State.modTeam_launches (s : State) (u : Nat) (f : Team → Team) : (s.modTeam u f).launches = s.launches := rfl
@[simp] theorem State.modTeam_groups (s : State) (u : Nat) (f : Team → Team) : (s.modTeam u f).groups = s.groups := rfl
@[simp] theorem State.modTeam_sched (s : State) (u : Nat) (f : Team → Team) : (s.modTeam u f).sched = s.sched := rfl

/-! ### State.modLaunch -/

@[simp] theorem State.modLaunch_boot (s : State) (u : Nat) (f : Launch → Launch) : (s.modLaunch u f).boot = s.boot := rfl
@[simp] theorem State.modLaunch_dev (s : State) (u : Nat) (f : Launch → Launch) : (s.modLaunch u f).dev = s.dev := rfl
@[simp] theorem State.modLaunch_host (s : State) (u : Nat) (f : Launch → Launch) : (s.modLaunch u f).host = s.host := rfl
@[simp] theorem State.modLaunch_ctxs (s : State) (u : Nat) (f : Launch → Launch) : (s.modLaunch u f).ctxs = s.ctxs := rfl
@[simp] theorem State.modLaunch_queues (s : State) (u : Nat) (f : Launch → Launch) : (s.modLaunch u f).queues = s.queues := rfl
@[simp] theorem State.modLaunch_fcp (s : State) (u : Nat) (f : Launch → Launch) : (s.modLaunch u f).fcp = s.fcp := rfl
@[simp] theorem State.modLaunch_gov (s : State) (u : Nat) (f : Launch → Launch) : (s.modLaunch u f).gov = s.gov := rfl
@[simp] theorem State.modLaunch_dram (s : State) (u : Nat) (f : Launch → Launch) : (s.modLaunch u f).dram = s.dram := rfl
@[simp] theorem State.modLaunch_slices (s : State) (u : Nat) (f : Launch → Launch) : (s.modLaunch u f).slices = s.slices := rfl
@[simp] theorem State.modLaunch_sram (s : State) (u : Nat) (f : Launch → Launch) : (s.modLaunch u f).sram = s.sram := rfl
@[simp] theorem State.modLaunch_cores (s : State) (u : Nat) (f : Launch → Launch) : (s.modLaunch u f).cores = s.cores := rfl
@[simp] theorem State.modLaunch_teams (s : State) (u : Nat) (f : Launch → Launch) : (s.modLaunch u f).teams = s.teams := rfl
@[simp] theorem State.modLaunch_groups (s : State) (u : Nat) (f : Launch → Launch) : (s.modLaunch u f).groups = s.groups := rfl
@[simp] theorem State.modLaunch_sched (s : State) (u : Nat) (f : Launch → Launch) : (s.modLaunch u f).sched = s.sched := rfl

/-! ### State.modCore -/

@[simp] theorem State.modCore_boot (s : State) (k : Nat) (f : Core → Core) : (s.modCore k f).boot = s.boot := rfl
@[simp] theorem State.modCore_dev (s : State) (k : Nat) (f : Core → Core) : (s.modCore k f).dev = s.dev := rfl
@[simp] theorem State.modCore_host (s : State) (k : Nat) (f : Core → Core) : (s.modCore k f).host = s.host := rfl
@[simp] theorem State.modCore_ctxs (s : State) (k : Nat) (f : Core → Core) : (s.modCore k f).ctxs = s.ctxs := rfl
@[simp] theorem State.modCore_queues (s : State) (k : Nat) (f : Core → Core) : (s.modCore k f).queues = s.queues := rfl
@[simp] theorem State.modCore_fcp (s : State) (k : Nat) (f : Core → Core) : (s.modCore k f).fcp = s.fcp := rfl
@[simp] theorem State.modCore_gov (s : State) (k : Nat) (f : Core → Core) : (s.modCore k f).gov = s.gov := rfl
@[simp] theorem State.modCore_dram (s : State) (k : Nat) (f : Core → Core) : (s.modCore k f).dram = s.dram := rfl
@[simp] theorem State.modCore_slices (s : State) (k : Nat) (f : Core → Core) : (s.modCore k f).slices = s.slices := rfl
@[simp] theorem State.modCore_sram (s : State) (k : Nat) (f : Core → Core) : (s.modCore k f).sram = s.sram := rfl
@[simp] theorem State.modCore_launches (s : State) (k : Nat) (f : Core → Core) : (s.modCore k f).launches = s.launches := rfl
@[simp] theorem State.modCore_teams (s : State) (k : Nat) (f : Core → Core) : (s.modCore k f).teams = s.teams := rfl
@[simp] theorem State.modCore_groups (s : State) (k : Nat) (f : Core → Core) : (s.modCore k f).groups = s.groups := rfl
@[simp] theorem State.modCore_sched (s : State) (k : Nat) (f : Core → Core) : (s.modCore k f).sched = s.sched := rfl

/-! ### State.modPart -/

@[simp] theorem State.modPart_boot (s : State) (k p : Nat) (f : Part → Part) : (s.modPart k p f).boot = s.boot := rfl
@[simp] theorem State.modPart_dev (s : State) (k p : Nat) (f : Part → Part) : (s.modPart k p f).dev = s.dev := rfl
@[simp] theorem State.modPart_host (s : State) (k p : Nat) (f : Part → Part) : (s.modPart k p f).host = s.host := rfl
@[simp] theorem State.modPart_ctxs (s : State) (k p : Nat) (f : Part → Part) : (s.modPart k p f).ctxs = s.ctxs := rfl
@[simp] theorem State.modPart_queues (s : State) (k p : Nat) (f : Part → Part) : (s.modPart k p f).queues = s.queues := rfl
@[simp] theorem State.modPart_fcp (s : State) (k p : Nat) (f : Part → Part) : (s.modPart k p f).fcp = s.fcp := rfl
@[simp] theorem State.modPart_gov (s : State) (k p : Nat) (f : Part → Part) : (s.modPart k p f).gov = s.gov := rfl
@[simp] theorem State.modPart_dram (s : State) (k p : Nat) (f : Part → Part) : (s.modPart k p f).dram = s.dram := rfl
@[simp] theorem State.modPart_slices (s : State) (k p : Nat) (f : Part → Part) : (s.modPart k p f).slices = s.slices := rfl
@[simp] theorem State.modPart_sram (s : State) (k p : Nat) (f : Part → Part) : (s.modPart k p f).sram = s.sram := rfl
@[simp] theorem State.modPart_launches (s : State) (k p : Nat) (f : Part → Part) : (s.modPart k p f).launches = s.launches := rfl
@[simp] theorem State.modPart_teams (s : State) (k p : Nat) (f : Part → Part) : (s.modPart k p f).teams = s.teams := rfl
@[simp] theorem State.modPart_groups (s : State) (k p : Nat) (f : Part → Part) : (s.modPart k p f).groups = s.groups := rfl
@[simp] theorem State.modPart_sched (s : State) (k p : Nat) (f : Part → Part) : (s.modPart k p f).sched = s.sched := rfl

/-! ### State.modCtx -/

@[simp] theorem State.modCtx_boot (s : State) (c : BitVec 5) (f : Context → Context) : (s.modCtx c f).boot = s.boot := rfl
@[simp] theorem State.modCtx_dev (s : State) (c : BitVec 5) (f : Context → Context) : (s.modCtx c f).dev = s.dev := rfl
@[simp] theorem State.modCtx_host (s : State) (c : BitVec 5) (f : Context → Context) : (s.modCtx c f).host = s.host := rfl
@[simp] theorem State.modCtx_queues (s : State) (c : BitVec 5) (f : Context → Context) : (s.modCtx c f).queues = s.queues := rfl
@[simp] theorem State.modCtx_fcp (s : State) (c : BitVec 5) (f : Context → Context) : (s.modCtx c f).fcp = s.fcp := rfl
@[simp] theorem State.modCtx_gov (s : State) (c : BitVec 5) (f : Context → Context) : (s.modCtx c f).gov = s.gov := rfl
@[simp] theorem State.modCtx_dram (s : State) (c : BitVec 5) (f : Context → Context) : (s.modCtx c f).dram = s.dram := rfl
@[simp] theorem State.modCtx_slices (s : State) (c : BitVec 5) (f : Context → Context) : (s.modCtx c f).slices = s.slices := rfl
@[simp] theorem State.modCtx_sram (s : State) (c : BitVec 5) (f : Context → Context) : (s.modCtx c f).sram = s.sram := rfl
@[simp] theorem State.modCtx_cores (s : State) (c : BitVec 5) (f : Context → Context) : (s.modCtx c f).cores = s.cores := rfl
@[simp] theorem State.modCtx_launches (s : State) (c : BitVec 5) (f : Context → Context) : (s.modCtx c f).launches = s.launches := rfl
@[simp] theorem State.modCtx_teams (s : State) (c : BitVec 5) (f : Context → Context) : (s.modCtx c f).teams = s.teams := rfl
@[simp] theorem State.modCtx_groups (s : State) (c : BitVec 5) (f : Context → Context) : (s.modCtx c f).groups = s.groups := rfl
@[simp] theorem State.modCtx_sched (s : State) (c : BitVec 5) (f : Context → Context) : (s.modCtx c f).sched = s.sched := rfl

/-! ### State.modQueue -/

@[simp] theorem State.modQueue_boot (s : State) (q : BitVec 6) (f : Queue → Queue) : (s.modQueue q f).boot = s.boot := rfl
@[simp] theorem State.modQueue_dev (s : State) (q : BitVec 6) (f : Queue → Queue) : (s.modQueue q f).dev = s.dev := rfl
@[simp] theorem State.modQueue_host (s : State) (q : BitVec 6) (f : Queue → Queue) : (s.modQueue q f).host = s.host := rfl
@[simp] theorem State.modQueue_ctxs (s : State) (q : BitVec 6) (f : Queue → Queue) : (s.modQueue q f).ctxs = s.ctxs := rfl
@[simp] theorem State.modQueue_fcp (s : State) (q : BitVec 6) (f : Queue → Queue) : (s.modQueue q f).fcp = s.fcp := rfl
@[simp] theorem State.modQueue_gov (s : State) (q : BitVec 6) (f : Queue → Queue) : (s.modQueue q f).gov = s.gov := rfl
@[simp] theorem State.modQueue_dram (s : State) (q : BitVec 6) (f : Queue → Queue) : (s.modQueue q f).dram = s.dram := rfl
@[simp] theorem State.modQueue_slices (s : State) (q : BitVec 6) (f : Queue → Queue) : (s.modQueue q f).slices = s.slices := rfl
@[simp] theorem State.modQueue_sram (s : State) (q : BitVec 6) (f : Queue → Queue) : (s.modQueue q f).sram = s.sram := rfl
@[simp] theorem State.modQueue_cores (s : State) (q : BitVec 6) (f : Queue → Queue) : (s.modQueue q f).cores = s.cores := rfl
@[simp] theorem State.modQueue_launches (s : State) (q : BitVec 6) (f : Queue → Queue) : (s.modQueue q f).launches = s.launches := rfl
@[simp] theorem State.modQueue_teams (s : State) (q : BitVec 6) (f : Queue → Queue) : (s.modQueue q f).teams = s.teams := rfl
@[simp] theorem State.modQueue_groups (s : State) (q : BitVec 6) (f : Queue → Queue) : (s.modQueue q f).groups = s.groups := rfl
@[simp] theorem State.modQueue_sched (s : State) (q : BitVec 6) (f : Queue → Queue) : (s.modQueue q f).sched = s.sched := rfl

/-! ### State.putGroup -/

@[simp] theorem State.putGroup_boot (s : State) (g : Group) : (s.putGroup g).boot = s.boot := rfl
@[simp] theorem State.putGroup_dev (s : State) (g : Group) : (s.putGroup g).dev = s.dev := rfl
@[simp] theorem State.putGroup_host (s : State) (g : Group) : (s.putGroup g).host = s.host := rfl
@[simp] theorem State.putGroup_ctxs (s : State) (g : Group) : (s.putGroup g).ctxs = s.ctxs := rfl
@[simp] theorem State.putGroup_queues (s : State) (g : Group) : (s.putGroup g).queues = s.queues := rfl
@[simp] theorem State.putGroup_fcp (s : State) (g : Group) : (s.putGroup g).fcp = s.fcp := rfl
@[simp] theorem State.putGroup_gov (s : State) (g : Group) : (s.putGroup g).gov = s.gov := rfl
@[simp] theorem State.putGroup_dram (s : State) (g : Group) : (s.putGroup g).dram = s.dram := rfl
@[simp] theorem State.putGroup_slices (s : State) (g : Group) : (s.putGroup g).slices = s.slices := rfl
@[simp] theorem State.putGroup_sram (s : State) (g : Group) : (s.putGroup g).sram = s.sram := rfl
@[simp] theorem State.putGroup_cores (s : State) (g : Group) : (s.putGroup g).cores = s.cores := rfl
@[simp] theorem State.putGroup_launches (s : State) (g : Group) : (s.putGroup g).launches = s.launches := rfl
@[simp] theorem State.putGroup_teams (s : State) (g : Group) : (s.putGroup g).teams = s.teams := rfl
@[simp] theorem State.putGroup_sched (s : State) (g : Group) : (s.putGroup g).sched = s.sched := rfl

/-! ### State.debit -/

@[simp] theorem State.debit_boot (s : State) (core units : Nat) : (s.debit core units).boot = s.boot := rfl
@[simp] theorem State.debit_dev (s : State) (core units : Nat) : (s.debit core units).dev = s.dev := rfl
@[simp] theorem State.debit_host (s : State) (core units : Nat) : (s.debit core units).host = s.host := rfl
@[simp] theorem State.debit_ctxs (s : State) (core units : Nat) : (s.debit core units).ctxs = s.ctxs := rfl
@[simp] theorem State.debit_queues (s : State) (core units : Nat) : (s.debit core units).queues = s.queues := rfl
@[simp] theorem State.debit_fcp (s : State) (core units : Nat) : (s.debit core units).fcp = s.fcp := rfl
@[simp] theorem State.debit_gov (s : State) (core units : Nat) : (s.debit core units).gov = s.gov := rfl
@[simp] theorem State.debit_dram (s : State) (core units : Nat) : (s.debit core units).dram = s.dram := rfl
@[simp] theorem State.debit_slices (s : State) (core units : Nat) : (s.debit core units).slices = s.slices := rfl
@[simp] theorem State.debit_sram (s : State) (core units : Nat) : (s.debit core units).sram = s.sram := rfl
@[simp] theorem State.debit_launches (s : State) (core units : Nat) : (s.debit core units).launches = s.launches := rfl
@[simp] theorem State.debit_teams (s : State) (core units : Nat) : (s.debit core units).teams = s.teams := rfl
@[simp] theorem State.debit_groups (s : State) (core units : Nat) : (s.debit core units).groups = s.groups := rfl
@[simp] theorem State.debit_sched (s : State) (core units : Nat) : (s.debit core units).sched = s.sched := rfl

/-! ### State.enqueue -/

@[simp] theorem State.enqueue_boot (s : State) (t : Turn) : (s.enqueue t).boot = s.boot := rfl
@[simp] theorem State.enqueue_dev (s : State) (t : Turn) : (s.enqueue t).dev = s.dev := rfl
@[simp] theorem State.enqueue_host (s : State) (t : Turn) : (s.enqueue t).host = s.host := rfl
@[simp] theorem State.enqueue_ctxs (s : State) (t : Turn) : (s.enqueue t).ctxs = s.ctxs := rfl
@[simp] theorem State.enqueue_queues (s : State) (t : Turn) : (s.enqueue t).queues = s.queues := rfl
@[simp] theorem State.enqueue_fcp (s : State) (t : Turn) : (s.enqueue t).fcp = s.fcp := rfl
@[simp] theorem State.enqueue_gov (s : State) (t : Turn) : (s.enqueue t).gov = s.gov := rfl
@[simp] theorem State.enqueue_dram (s : State) (t : Turn) : (s.enqueue t).dram = s.dram := rfl
@[simp] theorem State.enqueue_slices (s : State) (t : Turn) : (s.enqueue t).slices = s.slices := rfl
@[simp] theorem State.enqueue_sram (s : State) (t : Turn) : (s.enqueue t).sram = s.sram := rfl
@[simp] theorem State.enqueue_cores (s : State) (t : Turn) : (s.enqueue t).cores = s.cores := rfl
@[simp] theorem State.enqueue_launches (s : State) (t : Turn) : (s.enqueue t).launches = s.launches := rfl
@[simp] theorem State.enqueue_teams (s : State) (t : Turn) : (s.enqueue t).teams = s.teams := rfl
@[simp] theorem State.enqueue_groups (s : State) (t : Turn) : (s.enqueue t).groups = s.groups := rfl

/-! ### State.ticked -/

@[simp] theorem State.ticked_boot (s : State) : (s.ticked).boot = s.boot := rfl
@[simp] theorem State.ticked_dev (s : State) : (s.ticked).dev = s.dev := rfl
@[simp] theorem State.ticked_host (s : State) : (s.ticked).host = s.host := rfl
@[simp] theorem State.ticked_ctxs (s : State) : (s.ticked).ctxs = s.ctxs := rfl
@[simp] theorem State.ticked_queues (s : State) : (s.ticked).queues = s.queues := rfl
@[simp] theorem State.ticked_fcp (s : State) : (s.ticked).fcp = s.fcp := rfl
@[simp] theorem State.ticked_gov (s : State) : (s.ticked).gov = s.gov := rfl
@[simp] theorem State.ticked_dram (s : State) : (s.ticked).dram = s.dram := rfl
@[simp] theorem State.ticked_slices (s : State) : (s.ticked).slices = s.slices := rfl
@[simp] theorem State.ticked_sram (s : State) : (s.ticked).sram = s.sram := rfl
@[simp] theorem State.ticked_cores (s : State) : (s.ticked).cores = s.cores := rfl
@[simp] theorem State.ticked_launches (s : State) : (s.ticked).launches = s.launches := rfl
@[simp] theorem State.ticked_teams (s : State) : (s.ticked).teams = s.teams := rfl
@[simp] theorem State.ticked_groups (s : State) : (s.ticked).groups = s.groups := rfl

/-! ### State.pushOp -/

@[simp] theorem State.pushOp_boot (s : State) (u : Nat) (c : Option Cls) (b : OpBody) (f : Op → Op) : (s.pushOp u c b f).boot = s.boot := rfl
@[simp] theorem State.pushOp_dev (s : State) (u : Nat) (c : Option Cls) (b : OpBody) (f : Op → Op) : (s.pushOp u c b f).dev = s.dev := rfl
@[simp] theorem State.pushOp_host (s : State) (u : Nat) (c : Option Cls) (b : OpBody) (f : Op → Op) : (s.pushOp u c b f).host = s.host := rfl
@[simp] theorem State.pushOp_ctxs (s : State) (u : Nat) (c : Option Cls) (b : OpBody) (f : Op → Op) : (s.pushOp u c b f).ctxs = s.ctxs := rfl
@[simp] theorem State.pushOp_queues (s : State) (u : Nat) (c : Option Cls) (b : OpBody) (f : Op → Op) : (s.pushOp u c b f).queues = s.queues := rfl
@[simp] theorem State.pushOp_fcp (s : State) (u : Nat) (c : Option Cls) (b : OpBody) (f : Op → Op) : (s.pushOp u c b f).fcp = s.fcp := rfl
@[simp] theorem State.pushOp_gov (s : State) (u : Nat) (c : Option Cls) (b : OpBody) (f : Op → Op) : (s.pushOp u c b f).gov = s.gov := rfl
@[simp] theorem State.pushOp_dram (s : State) (u : Nat) (c : Option Cls) (b : OpBody) (f : Op → Op) : (s.pushOp u c b f).dram = s.dram := rfl
@[simp] theorem State.pushOp_slices (s : State) (u : Nat) (c : Option Cls) (b : OpBody) (f : Op → Op) : (s.pushOp u c b f).slices = s.slices := rfl
@[simp] theorem State.pushOp_sram (s : State) (u : Nat) (c : Option Cls) (b : OpBody) (f : Op → Op) : (s.pushOp u c b f).sram = s.sram := rfl
@[simp] theorem State.pushOp_cores (s : State) (u : Nat) (c : Option Cls) (b : OpBody) (f : Op → Op) : (s.pushOp u c b f).cores = s.cores := rfl
@[simp] theorem State.pushOp_launches (s : State) (u : Nat) (c : Option Cls) (b : OpBody) (f : Op → Op) : (s.pushOp u c b f).launches = s.launches := rfl
@[simp] theorem State.pushOp_teams (s : State) (u : Nat) (c : Option Cls) (b : OpBody) (f : Op → Op) : (s.pushOp u c b f).teams = s.teams := rfl

/-! ### State.fresh -/

@[simp] theorem State.fresh_boot (s : State) : s.fresh.2.boot = s.boot := rfl
@[simp] theorem State.fresh_dev (s : State) : s.fresh.2.dev = s.dev := rfl
@[simp] theorem State.fresh_host (s : State) : s.fresh.2.host = s.host := rfl
@[simp] theorem State.fresh_ctxs (s : State) : s.fresh.2.ctxs = s.ctxs := rfl
@[simp] theorem State.fresh_queues (s : State) : s.fresh.2.queues = s.queues := rfl
@[simp] theorem State.fresh_fcp (s : State) : s.fresh.2.fcp = s.fcp := rfl
@[simp] theorem State.fresh_gov (s : State) : s.fresh.2.gov = s.gov := rfl
@[simp] theorem State.fresh_dram (s : State) : s.fresh.2.dram = s.dram := rfl
@[simp] theorem State.fresh_slices (s : State) : s.fresh.2.slices = s.slices := rfl
@[simp] theorem State.fresh_sram (s : State) : s.fresh.2.sram = s.sram := rfl
@[simp] theorem State.fresh_cores (s : State) : s.fresh.2.cores = s.cores := rfl
@[simp] theorem State.fresh_launches (s : State) : s.fresh.2.launches = s.launches := rfl
@[simp] theorem State.fresh_teams (s : State) : s.fresh.2.teams = s.teams := rfl
@[simp] theorem State.fresh_groups (s : State) : s.fresh.2.groups = s.groups := rfl

/-! ### Group.modRow -/

@[simp] theorem Group.modRow_uid (g : Group) (k : Nat) (f : Row → Row) : (g.modRow k f).uid = g.uid := rfl
@[simp] theorem Group.modRow_team (g : Group) (k : Nat) (f : Row → Row) : (g.modRow k f).team = g.team := rfl
@[simp] theorem Group.modRow_launch (g : Group) (k : Nat) (f : Row → Row) : (g.modRow k f).launch = g.launch := rfl
@[simp] theorem Group.modRow_ctx (g : Group) (k : Nat) (f : Row → Row) : (g.modRow k f).ctx = g.ctx := rfl
@[simp] theorem Group.modRow_gid (g : Group) (k : Nat) (f : Row → Row) : (g.modRow k f).gid = g.gid := rfl
@[simp] theorem Group.modRow_core (g : Group) (k : Nat) (f : Row → Row) : (g.modRow k f).core = g.core := rfl
@[simp] theorem Group.modRow_part (g : Group) (k : Nat) (f : Row → Row) : (g.modRow k f).part = g.part := rfl
@[simp] theorem Group.modRow_slot (g : Group) (k : Nat) (f : Row → Row) : (g.modRow k f).slot = g.slot := rfl
@[simp] theorem Group.modRow_born (g : Group) (k : Nat) (f : Row → Row) : (g.modRow k f).born = g.born := rfl
@[simp] theorem Group.modRow_codeHi (g : Group) (k : Nat) (f : Row → Row) : (g.modRow k f).codeHi = g.codeHi := rfl
@[simp] theorem Group.modRow_fams (g : Group) (k : Nat) (f : Row → Row) : (g.modRow k f).fams = g.fams := rfl
@[simp] theorem Group.modRow_serials (g : Group) (k : Nat) (f : Row → Row) : (g.modRow k f).serials = g.serials := rfl
@[simp] theorem Group.modRow_forceSerial (g : Group) (k : Nat) (f : Row → Row) : (g.modRow k f).forceSerial = g.forceSerial := rfl
@[simp] theorem Group.modRow_lc (g : Group) (k : Nat) (f : Row → Row) : (g.modRow k f).lc = g.lc := rfl
@[simp] theorem Group.modRow_loops (g : Group) (k : Nat) (f : Row → Row) : (g.modRow k f).loops = g.loops := rfl
@[simp] theorem Group.modRow_frames (g : Group) (k : Nat) (f : Row → Row) : (g.modRow k f).frames = g.frames := rfl
@[simp] theorem Group.modRow_wb (g : Group) (k : Nat) (f : Row → Row) : (g.modRow k f).wb = g.wb := rfl
@[simp] theorem Group.modRow_blockMap (g : Group) (k : Nat) (f : Row → Row) : (g.modRow k f).blockMap = g.blockMap := rfl
@[simp] theorem Group.modRow_vregs (g : Group) (k : Nat) (f : Row → Row) : (g.modRow k f).vregs = g.vregs := rfl
@[simp] theorem Group.modRow_sregs (g : Group) (k : Nat) (f : Row → Row) : (g.modRow k f).sregs = g.sregs := rfl
@[simp] theorem Group.modRow_swb (g : Group) (k : Nat) (f : Row → Row) : (g.modRow k f).swb = g.swb := rfl
@[simp] theorem Group.modRow_handler (g : Group) (k : Nat) (f : Row → Row) : (g.modRow k f).handler = g.handler := rfl
@[simp] theorem Group.modRow_pclass (g : Group) (k : Nat) (f : Row → Row) : (g.modRow k f).pclass = g.pclass := rfl
@[simp] theorem Group.modRow_pclassNow (g : Group) (k : Nat) (f : Row → Row) : (g.modRow k f).pclassNow = g.pclassNow := rfl
@[simp] theorem Group.modRow_clock0 (g : Group) (k : Nat) (f : Row → Row) : (g.modRow k f).clock0 = g.clock0 := rfl
@[simp] theorem Group.modRow_retired (g : Group) (k : Nat) (f : Row → Row) : (g.modRow k f).retired = g.retired := rfl
@[simp] theorem Group.modRow_cycLatch (g : Group) (k : Nat) (f : Row → Row) : (g.modRow k f).cycLatch = g.cycLatch := rfl
@[simp] theorem Group.modRow_retLatch (g : Group) (k : Nat) (f : Row → Row) : (g.modRow k f).retLatch = g.retLatch := rfl
@[simp] theorem Group.modRow_randKey (g : Group) (k : Nat) (f : Row → Row) : (g.modRow k f).randKey = g.randKey := rfl
@[simp] theorem Group.modRow_randCtr (g : Group) (k : Nat) (f : Row → Row) : (g.modRow k f).randCtr = g.randCtr := rfl
@[simp] theorem Group.modRow_ops (g : Group) (k : Nat) (f : Row → Row) : (g.modRow k f).ops = g.ops := rfl
@[simp] theorem Group.modRow_nb (g : Group) (k : Nat) (f : Row → Row) : (g.modRow k f).nb = g.nb := rfl
@[simp] theorem Group.modRow_bars (g : Group) (k : Nat) (f : Row → Row) : (g.modRow k f).bars = g.bars := rfl
@[simp] theorem Group.modRow_phases (g : Group) (k : Nat) (f : Row → Row) : (g.modRow k f).phases = g.phases := rfl
@[simp] theorem Group.modRow_region (g : Group) (k : Nat) (f : Row → Row) : (g.modRow k f).region = g.region := rfl
@[simp] theorem Group.modRow_held (g : Group) (k : Nat) (f : Row → Row) : (g.modRow k f).held = g.held := rfl
@[simp] theorem Group.modRow_entering (g : Group) (k : Nat) (f : Row → Row) : (g.modRow k f).entering = g.entering := rfl
@[simp] theorem Group.modRow_spin (g : Group) (k : Nat) (f : Row → Row) : (g.modRow k f).spin = g.spin := rfl
@[simp] theorem Group.modRow_parked (g : Group) (k : Nat) (f : Row → Row) : (g.modRow k f).parked = g.parked := rfl
@[simp] theorem Group.modRow_pending (g : Group) (k : Nat) (f : Row → Row) : (g.modRow k f).pending = g.pending := rfl
@[simp] theorem Group.modRow_alloc (g : Group) (k : Nat) (f : Row → Row) : (g.modRow k f).alloc = g.alloc := rfl
@[simp] theorem Group.modRow_roundRetired (g : Group) (k : Nat) (f : Row → Row) : (g.modRow k f).roundRetired = g.roundRetired := rfl
@[simp] theorem Group.modRow_spawnWait (g : Group) (k : Nat) (f : Row → Row) : (g.modRow k f).spawnWait = g.spawnWait := rfl
@[simp] theorem Group.modRow_exiting (g : Group) (k : Nat) (f : Row → Row) : (g.modRow k f).exiting = g.exiting := rfl
@[simp] theorem Group.modRow_stopped (g : Group) (k : Nat) (f : Row → Row) : (g.modRow k f).stopped = g.stopped := rfl
@[simp] theorem Group.modRow_answers (g : Group) (k : Nat) (f : Row → Row) : (g.modRow k f).answers = g.answers := rfl
@[simp] theorem Group.modRow_barWaits (g : Group) (k : Nat) (f : Row → Row) : (g.modRow k f).barWaits = g.barWaits := rfl
@[simp] theorem Group.modRow_roundOwn (g : Group) (k : Nat) (f : Row → Row) : (g.modRow k f).roundOwn = g.roundOwn := rfl
@[simp] theorem Group.modRow_fence (g : Group) (k : Nat) (f : Row → Row) : (g.modRow k f).fence = g.fence := rfl
@[simp] theorem Group.modRow_sysRels (g : Group) (k : Nat) (f : Row → Row) : (g.modRow k f).sysRels = g.sysRels := rfl

/-! ### Group.sput -/

@[simp] theorem Group.sput_uid (g : Group) (k : Nat) (v : Word) : (g.sput k v).uid = g.uid := rfl
@[simp] theorem Group.sput_team (g : Group) (k : Nat) (v : Word) : (g.sput k v).team = g.team := rfl
@[simp] theorem Group.sput_launch (g : Group) (k : Nat) (v : Word) : (g.sput k v).launch = g.launch := rfl
@[simp] theorem Group.sput_ctx (g : Group) (k : Nat) (v : Word) : (g.sput k v).ctx = g.ctx := rfl
@[simp] theorem Group.sput_gid (g : Group) (k : Nat) (v : Word) : (g.sput k v).gid = g.gid := rfl
@[simp] theorem Group.sput_core (g : Group) (k : Nat) (v : Word) : (g.sput k v).core = g.core := rfl
@[simp] theorem Group.sput_part (g : Group) (k : Nat) (v : Word) : (g.sput k v).part = g.part := rfl
@[simp] theorem Group.sput_slot (g : Group) (k : Nat) (v : Word) : (g.sput k v).slot = g.slot := rfl
@[simp] theorem Group.sput_born (g : Group) (k : Nat) (v : Word) : (g.sput k v).born = g.born := rfl
@[simp] theorem Group.sput_codeHi (g : Group) (k : Nat) (v : Word) : (g.sput k v).codeHi = g.codeHi := rfl
@[simp] theorem Group.sput_rows (g : Group) (k : Nat) (v : Word) : (g.sput k v).rows = g.rows := rfl
@[simp] theorem Group.sput_fams (g : Group) (k : Nat) (v : Word) : (g.sput k v).fams = g.fams := rfl
@[simp] theorem Group.sput_serials (g : Group) (k : Nat) (v : Word) : (g.sput k v).serials = g.serials := rfl
@[simp] theorem Group.sput_forceSerial (g : Group) (k : Nat) (v : Word) : (g.sput k v).forceSerial = g.forceSerial := rfl
@[simp] theorem Group.sput_lc (g : Group) (k : Nat) (v : Word) : (g.sput k v).lc = g.lc := rfl
@[simp] theorem Group.sput_loops (g : Group) (k : Nat) (v : Word) : (g.sput k v).loops = g.loops := rfl
@[simp] theorem Group.sput_frames (g : Group) (k : Nat) (v : Word) : (g.sput k v).frames = g.frames := rfl
@[simp] theorem Group.sput_wb (g : Group) (k : Nat) (v : Word) : (g.sput k v).wb = g.wb := rfl
@[simp] theorem Group.sput_blockMap (g : Group) (k : Nat) (v : Word) : (g.sput k v).blockMap = g.blockMap := rfl
@[simp] theorem Group.sput_vregs (g : Group) (k : Nat) (v : Word) : (g.sput k v).vregs = g.vregs := rfl
@[simp] theorem Group.sput_swb (g : Group) (k : Nat) (v : Word) : (g.sput k v).swb = g.swb := rfl
@[simp] theorem Group.sput_handler (g : Group) (k : Nat) (v : Word) : (g.sput k v).handler = g.handler := rfl
@[simp] theorem Group.sput_pclass (g : Group) (k : Nat) (v : Word) : (g.sput k v).pclass = g.pclass := rfl
@[simp] theorem Group.sput_pclassNow (g : Group) (k : Nat) (v : Word) : (g.sput k v).pclassNow = g.pclassNow := rfl
@[simp] theorem Group.sput_clock0 (g : Group) (k : Nat) (v : Word) : (g.sput k v).clock0 = g.clock0 := rfl
@[simp] theorem Group.sput_retired (g : Group) (k : Nat) (v : Word) : (g.sput k v).retired = g.retired := rfl
@[simp] theorem Group.sput_cycLatch (g : Group) (k : Nat) (v : Word) : (g.sput k v).cycLatch = g.cycLatch := rfl
@[simp] theorem Group.sput_retLatch (g : Group) (k : Nat) (v : Word) : (g.sput k v).retLatch = g.retLatch := rfl
@[simp] theorem Group.sput_randKey (g : Group) (k : Nat) (v : Word) : (g.sput k v).randKey = g.randKey := rfl
@[simp] theorem Group.sput_randCtr (g : Group) (k : Nat) (v : Word) : (g.sput k v).randCtr = g.randCtr := rfl
@[simp] theorem Group.sput_ops (g : Group) (k : Nat) (v : Word) : (g.sput k v).ops = g.ops := rfl
@[simp] theorem Group.sput_nb (g : Group) (k : Nat) (v : Word) : (g.sput k v).nb = g.nb := rfl
@[simp] theorem Group.sput_bars (g : Group) (k : Nat) (v : Word) : (g.sput k v).bars = g.bars := rfl
@[simp] theorem Group.sput_phases (g : Group) (k : Nat) (v : Word) : (g.sput k v).phases = g.phases := rfl
@[simp] theorem Group.sput_region (g : Group) (k : Nat) (v : Word) : (g.sput k v).region = g.region := rfl
@[simp] theorem Group.sput_held (g : Group) (k : Nat) (v : Word) : (g.sput k v).held = g.held := rfl
@[simp] theorem Group.sput_entering (g : Group) (k : Nat) (v : Word) : (g.sput k v).entering = g.entering := rfl
@[simp] theorem Group.sput_spin (g : Group) (k : Nat) (v : Word) : (g.sput k v).spin = g.spin := rfl
@[simp] theorem Group.sput_parked (g : Group) (k : Nat) (v : Word) : (g.sput k v).parked = g.parked := rfl
@[simp] theorem Group.sput_pending (g : Group) (k : Nat) (v : Word) : (g.sput k v).pending = g.pending := rfl
@[simp] theorem Group.sput_alloc (g : Group) (k : Nat) (v : Word) : (g.sput k v).alloc = g.alloc := rfl
@[simp] theorem Group.sput_roundRetired (g : Group) (k : Nat) (v : Word) : (g.sput k v).roundRetired = g.roundRetired := rfl
@[simp] theorem Group.sput_spawnWait (g : Group) (k : Nat) (v : Word) : (g.sput k v).spawnWait = g.spawnWait := rfl
@[simp] theorem Group.sput_exiting (g : Group) (k : Nat) (v : Word) : (g.sput k v).exiting = g.exiting := rfl
@[simp] theorem Group.sput_stopped (g : Group) (k : Nat) (v : Word) : (g.sput k v).stopped = g.stopped := rfl
@[simp] theorem Group.sput_answers (g : Group) (k : Nat) (v : Word) : (g.sput k v).answers = g.answers := rfl
@[simp] theorem Group.sput_barWaits (g : Group) (k : Nat) (v : Word) : (g.sput k v).barWaits = g.barWaits := rfl
@[simp] theorem Group.sput_roundOwn (g : Group) (k : Nat) (v : Word) : (g.sput k v).roundOwn = g.roundOwn := rfl
@[simp] theorem Group.sput_fence (g : Group) (k : Nat) (v : Word) : (g.sput k v).fence = g.fence := rfl
@[simp] theorem Group.sput_sysRels (g : Group) (k : Nat) (v : Word) : (g.sput k v).sysRels = g.sysRels := rfl

end Sys2Proof.Machine
end

