-- ==== Sys2Proof/Laws/Issue.lean ====
section
/-! SUPPORT. Issue and retirement: which group issues, what each way an instruction may end makes of the state, and everything
that retirement does. -/

namespace Sys2Proof.Machine

/-! ### Groups of a state -/

theorem State.group_uid {s : State} {u : Nat} {g : Group} (h : s.group u = some g) : g.uid = u := by
  simpa using List.find?_some h

/-- A change of one group, which keeps its number, changes that group. -/
theorem State.group_modGroup {s : State} {u : Nat} {g : Group} (h : s.group u = some g) {f : Group → Group}
    (hf : ∀ x, x.uid = u → (f x).uid = u) : (s.modGroup u f).group u = some (f g) := by
  have hu := State.group_uid h
  unfold State.group State.modGroup at *
  induction hl : s.groups generalizing s with
  | nil => simp [hl] at h
  | cons a r ih =>
    rw [hl] at h
    by_cases ha : a.uid = u
    · have hag : a = g := by simpa [ha] using h
      subst hag
      simp [ha, hf]
    · have h' : r.find? (fun g => g.uid == u) = some g := by simpa [ha] using h
      have := ih (s := { s with groups := r }) h' rfl
      simpa [ha] using this

/-- It leaves every other group alone. -/
theorem State.group_modGroup_ne {s : State} {u v : Nat} (h : v ≠ u) {f : Group → Group} (hf : ∀ x, x.uid = u → (f x).uid = u) :
    (s.modGroup u f).group v = s.group v := by
  unfold State.group State.modGroup
  induction s.groups with
  | nil => rfl
  | cons a r ih =>
    by_cases ha : a.uid = u
    · have e : (u == v) = false := by simpa using Ne.symm h
      simp only [List.map_cons, ha, if_true, List.find?_cons, hf a ha, ih, e]
    · simp only [List.map_cons, ha, if_false, List.find?_cons, ih]

theorem State.group_putGroup {s : State} {g g' : Group} (h : s.group g.uid = some g) (hu : g'.uid = g.uid) :
    (s.putGroup g').group g.uid = some g' := by
  unfold State.putGroup
  rw [hu]
  exact State.group_modGroup h (f := fun _ => g') fun _ _ => hu

theorem State.group_putGroup_ne {s : State} {g' : Group} {v : Nat} (h : v ≠ g'.uid) : (s.putGroup g').group v = s.group v :=
  State.group_modGroup_ne h (f := fun _ => g') fun _ _ => rfl

/-! ### Issue -/

/-- The issuer is a group of the state, and its row is live. -/
theorem State.issuer_group {s : State} {g : Group} {k : Nat} (h : s.issuer = some (g, k)) :
    s.group g.uid = some g ∧ (g.row k).live = true := by
  unfold State.issuer at h
  split at h
  · cases h
  · split at h
    · cases h
    · rename_i uid k' _ _ g' hg
      split at h
      · cases h
        exact ⟨by rw [State.group_uid hg]; exact hg, ‹_›⟩
      · cases h

/-- Where the checks pass, the instruction's own part decides. -/
theorem issue_body {s : State} {g : Group} {k : Nat} {i : Instr} (hi : s.issuer = some (g, k)) (hc : s.precheck g k i = none)
    (body : Group → Nat → Res) : issue i s body = .next (s.conclude g k i (body g k)) := by
  simp [issue, hi, hc]

/-- Where a check fails, its trap is raised and nothing else is done. -/
theorem issue_trap {s : State} {g : Group} {k : Nat} {i : Instr} {t : TrapInfo} (hi : s.issuer = some (g, k))
    (hc : s.precheck g k i = some t) (body : Group → Nat → Res) :
    issue i s body = .next (s.trapRow g.uid k { t with elected := electedLane g k i } i.insn) := by
  simp [issue, hi, hc, State.conclude]

/-- An instruction of a split that holds the turn always ends in a next state. -/
theorem issue_next {i : Instr} {s : State} {body : Group → Nat → Res} (h : s.issuer.isSome = true) :
    ∃ t, issue i s body = .next t := by
  unfold issue
  split
  · simp_all
  · exact ⟨_, rfl⟩

/-- Outside a split's turn an instruction is the one fault. -/
theorem issue_noIssuer {i : Instr} {s : State} {body : Group → Nat → Res} (h : s.issuer = none) :
    issue i s body = .fault .noIssuer := by
  simp [issue, h]

/-- A well-formed instruction whose operands are legal, whose registers exist, and of which none is watched, passes the checks. -/
theorem precheck_of {s : State} {g : Group} {k : Nat} {i : Instr} (hw : i.wf = true) (hl : i.legalNow s g k = true)
    (hr : ((i.uses.vr ++ i.uses.vw).any fun n => !g.vregOk (g.vreg n)) = false) (hh : (s.descOf g).hazardCheck = false)
    (hp : (s.descOf g).purityCheck = false) : s.precheck g k i = none := by
  simp [State.precheck, hw, hl, hr, hh, hp]

/-- The registers that an instruction passing the checks names exist. -/
theorem precheck_vregOk {s : State} {g : Group} {k : Nat} {i : Instr} (h : s.precheck g k i = none) {n : Nat}
    (hn : n ∈ i.uses.vr ++ i.uses.vw) : g.vregOk (g.vreg n) = true := by
  unfold State.precheck at h
  simp only at h
  split at h
  · cases h
  · split at h
    · cases h
    · rename_i _ hr
      by_contra hc
      apply hr
      rw [List.any_eq_true]
      exact ⟨n, hn, by simpa using hc⟩

/-- An instruction that passes the checks is well formed and legal now. -/
theorem precheck_legal {s : State} {g : Group} {k : Nat} {i : Instr} (h : s.precheck g k i = none) :
    i.wf = true ∧ i.legalNow s g k = true := by
  unfold State.precheck at h
  simp only at h
  split at h
  · cases h
  · rename_i hx
    simpa using hx

/-! ### Rows -/

theorem Group.row_lt {g : Group} {k : Nat} (h : (g.row k).live = true) : k < g.rows.length := by
  by_contra hc
  have : g.row k = Row.free := by simp [Group.row, List.getD, Nat.not_lt.1 hc]
  rw [this] at h
  cases h

theorem Group.row_modRow (g : Group) (k j : Nat) (f : Row → Row) (h : k < g.rows.length) :
    (g.modRow k f).row j = if j = k then f (g.row k) else g.row j := by
  unfold Group.row Group.modRow
  simp only [List.getD_eq_getElem?_getD, List.getElem?_modify]
  by_cases hj : j = k
  · subst hj
    simp [h]
  · simp [hj, Ne.symm hj]

theorem Group.carries_self {h : Group} {k : Nat} (hl : (h.row k).live = true) : h.carries (h.row k) :=
  ⟨k, hl, rfl, rfl, rfl, by simp, by simp⟩

theorem and_or_left {n : Nat} {a b c : BitVec n} (h : a &&& b = a) : a &&& (b ||| c) = a := by
  have : a = a &&& b := h.symm
  ext i hi
  have hb := congrArg (fun x : BitVec n => x[i]) h
  simp only [BitVec.getElem_and] at hb
  simp only [BitVec.getElem_and, BitVec.getElem_or]
  revert hb
  cases a[i] <;> cases b[i] <;> simp

theorem and_or_right {n : Nat} {a b c : BitVec n} (h : a &&& c = a) : a &&& (b ||| c) = a := by
  rw [BitVec.or_comm]
  exact and_or_left h

theorem Group.carries_fuseInto {h : Group} {r : Row} {a b : Nat} (hab : a ≠ b) (hc : h.canFuse a b = true) (hr : h.carries r) :
    (h.fuseInto a b).carries r := by
  obtain ⟨j, hl, hp, hf, hq, ho, hm⟩ := hr
  simp only [Group.canFuse, Bool.and_eq_true, beq_iff_eq] at hc
  obtain ⟨⟨⟨⟨⟨⟨⟨⟨⟨⟨xl, yl⟩, -⟩, -⟩, -⟩, -⟩, par⟩, pc⟩, fm⟩, -⟩, -⟩ := hc
  have la := Group.row_lt xl
  have lb := Group.row_lt yl
  unfold Group.fuseInto
  simp only
  have e : ∀ m, (((h.modRow a fun r => { r with mask := r.mask ||| (h.row b).mask, own := r.own ||| (h.row b).own }).modRow b
      fun _ => Row.free)).row m = if m = b then Row.free else if m = a then
        { h.row a with mask := (h.row a).mask ||| (h.row b).mask, own := (h.row a).own ||| (h.row b).own } else h.row m := by
    intro m
    rw [Group.row_modRow _ _ _ _ (by simpa [Group.modRow] using lb), Group.row_modRow _ _ _ _ la]
  by_cases hj : j = b
  · refine ⟨a, ?_⟩
    subst hj
    rw [e]
    simp only [hab, if_false, if_true]
    exact ⟨xl, pc.trans hp, fm.trans hf, par.trans hq, and_or_right ho, and_or_right hm⟩
  · by_cases hja : j = a
    · refine ⟨a, ?_⟩
      subst hja
      rw [e]
      simp only [hab, if_false, if_true]
      exact ⟨xl, hp, hf, hq, and_or_left ho, and_or_left hm⟩
    · refine ⟨j, ?_⟩
      rw [e]
      simp only [hj, hja, if_false]
      exact ⟨hl, hp, hf, hq, ho, hm⟩

/-- Fusing changes the rows alone. -/
theorem Group.fuse_eq (g : Group) : ∃ w, g.fuse = { g with rows := w } := by
  have step : ∀ (l : List (Nat × Nat)) (h : Group), (∃ w, h = { g with rows := w }) →
      ∃ w, l.foldl (fun h ab => if h.canFuse ab.1 ab.2 then h.fuseInto ab.1 ab.2 else h) h = { g with rows := w } := by
    intro l
    induction l with
    | nil => exact fun h hh => hh
    | cons ab r ih =>
      intro h hh
      refine ih _ ?_
      obtain ⟨w, rfl⟩ := hh
      dsimp only
      split
      · exact ⟨_, rfl⟩
      · exact ⟨w, rfl⟩
  exact step _ g ⟨g.rows, rfl⟩

/-- A row that could fuse goes on in the row that takes it. -/
theorem Group.carries_fuse {g : Group} {r : Row} (hr : g.carries r) : g.fuse.carries r := by
  have step : ∀ (l : List (Nat × Nat)) (h : Group), (∀ ab ∈ l, ab.1 ≠ ab.2) → h.carries r →
      (l.foldl (fun h ab => if h.canFuse ab.1 ab.2 then h.fuseInto ab.1 ab.2 else h) h).carries r := by
    intro l
    induction l with
    | nil => exact fun h _ hh => hh
    | cons ab t ih =>
      intro h hne hh
      refine ih _ (fun x hx => hne x (List.mem_cons_of_mem _ hx)) ?_
      dsimp only
      split
      · exact Group.carries_fuseInto (hne ab List.mem_cons_self) ‹_› hh
      · exact hh
  exact step _ g (by decide) hr

/-! ### Retirement -/

@[simp] theorem Group.fuse_uid (g : Group) : g.fuse.uid = g.uid := by
  obtain ⟨w, h⟩ := g.fuse_eq
  rw [h]

@[simp] theorem Group.retire_uid (g b : Group) (k : Nat) (i : Instr) (pc : Option Pc) : (g.retire b k i pc).uid = g.uid := rfl

@[simp] theorem State.debit_group (s : State) (c n u : Nat) : (s.debit c n).group u = s.group u := rfl

/-- Retirement changes groups, launches and teams alone. -/
theorem State.finish_eq (s : State) (b : Group) (k : Nat) (i : Instr) (pc : Option Pc) (fuse : Bool) :
    ∃ l t, s.finish b k i pc fuse = { (s.modGroup b.uid fun g =>
        if fuse && !(s.descOf b).det then (g.retire b k i pc).fuse else g.retire b k i pc) with launches := l, teams := t } := by
  unfold State.finish
  simp only
  split
  · exact ⟨_, _, rfl⟩
  · exact ⟨_, _, rfl⟩

/-- The retiring group after retirement. -/
theorem State.finish_group {s : State} {b g : Group} (hg : s.group b.uid = some g) (k : Nat) (i : Instr) (pc : Option Pc) (fuse : Bool) :
    (s.finish b k i pc fuse).group b.uid
      = some (if fuse && !(s.descOf b).det then (g.retire b k i pc).fuse else g.retire b k i pc) := by
  obtain ⟨l, t, h⟩ := s.finish_eq b k i pc fuse
  rw [h]
  exact State.group_modGroup hg (f := fun g => if fuse && !(s.descOf b).det then (g.retire b k i pc).fuse else g.retire b k i pc)
    (fun x hx => by split <;> simpa using hx)

/-- Every other group after retirement. -/
theorem State.finish_group_ne {s : State} {b : Group} {u : Nat} (hu : u ≠ b.uid) (k : Nat) (i : Instr) (pc : Option Pc) (fuse : Bool) :
    (s.finish b k i pc fuse).group u = s.group u := by
  obtain ⟨l, t, h⟩ := s.finish_eq b k i pc fuse
  rw [h]
  exact State.group_modGroup_ne hu (f := fun g => if fuse && !(s.descOf b).det then (g.retire b k i pc).fuse else g.retire b k i pc)
    (fun x hx => by split <;> simpa using hx)

/-- Retirement without fusing: the row's new PC, the counts, what ends spinning, and the registers a region has seen written. -/
theorem Group.retire_eq (g b : Group) (k : Nat) (i : Instr) (pc : Option Pc) :
    g.retire b k i pc = { g with
      rows := g.rows.modify k fun r => { r with pc := pc.getD r.pc, wait := .none }
      retired := g.retired + 1, roundRetired := g.roundRetired + 1, spin := spinAfter i g.spin
      region := g.region.wrote (i.uses.vw.map b.vreg) (i.uses.sw.map b.sreg) } := rfl

end Sys2Proof.Machine
end

