-- ==== Sys2Proof/Laws/KeepsHome.lean ====
section
/-! SUPPORT. Both memories keep their canonical form, up to issue and retirement: one lemma per operation. -/

namespace Sys2Proof.Machine

/-- The canonical form of both memories, in whatever state an instruction's own part leaves. -/
def Res.memOk : Res → Prop
  | .retire s | .jump s _ | .done s | .hold _ s => s.memOk
  | .trap _ | .raise _ | .park _ _ _ _ => True

/-- The same for a packet, a piece of an engine operation, and a run of loads. -/
def PktRes.memOk : PktRes → Prop
  | .halt _ s | .start s _ => s.memOk
  | .wait => True
def LineRes.memOk : LineRes → Prop
  | .moved s _ _ _ | .failed s _ => s.memOk
  | .pause _ _ _ | .wait | .finished => True
def Loads.memOk : Loads → Prop
  | .ok _ _ s | .err _ s | .wait s => s.memOk
  | .fault _ _ => True

/-- An answer whose next state, if any, has both memories in canonical form. -/
def Keeps (o : Host.Outcome State Fault Refusal) : Prop := ∀ t, o = .next t → t.memOk

theorem memOk_mk {s : State} {b d c q f v sl sr co l t g sc} (h : s.memOk) :
    State.memOk ⟨b, d, s.host, c, q, f, v, s.dram, sl, sr, co, l, t, g, sc⟩ := h
theorem memOk_mk_dram {s : State} {b d c q f v sl co l t g sc x1 x2 x3 x4 sr} (h : s.memOk) :
    State.memOk ⟨b, d, s.host, c, q, f, v, ⟨s.dram.mem, x1, x2, x3, x4⟩, sl, sr, co, l, t, g, sc⟩ := h
theorem memOk_mk_host {s : State} {b d c q f v sl co l t g sc x1 x2 x3 x4 x5 sr} (h : s.memOk) :
    State.memOk ⟨b, d, ⟨s.host.mem, x1, x2, x3, x4, x5⟩, c, q, f, v, s.dram, sl, sr, co, l, t, g, sc⟩ := h
theorem memOk_foldl {α : Type} {f : State → α → State} (hf : ∀ s a, s.memOk → (f s a).memOk) : ∀ {l : List α} {s : State}, s.memOk → (l.foldl f s).memOk
  | [], _, h => h
  | a :: l, s, h => memOk_foldl hf (l := l) (hf s a h)
theorem Res.retire_memOk {s : State} (h : s.memOk) : Res.memOk (.retire s) := h
theorem Res.jump_memOk {s : State} {pc : Pc} (h : s.memOk) : Res.memOk (.jump s pc) := h
theorem Res.done_memOk {s : State} (h : s.memOk) : Res.memOk (.done s) := h
theorem Res.hold_memOk {w : Wait} {s : State} (h : s.memOk) : Res.memOk (.hold w s) := h
theorem Res.trap_memOk {t : TrapInfo} : Res.memOk (.trap t) := True.intro
theorem Res.raise_memOk {t : TrapInfo} : Res.memOk (.raise t) := True.intro
theorem Res.park_memOk {a b c : Nat} {m : Mask} : Res.memOk (.park a b c m) := True.intro
theorem PktRes.halt_memOk {x : Halt} {s : State} (h : s.memOk) : PktRes.memOk (.halt x s) := h
theorem PktRes.start_memOk {s : State} {w} (h : s.memOk) : PktRes.memOk (.start s w) := h
theorem PktRes.wait_memOk : PktRes.memOk .wait := True.intro
theorem LineRes.moved_memOk {s : State} {n f b} (h : s.memOk) : LineRes.memOk (.moved s n f b) := h
theorem LineRes.failed_memOk {s : State} {n} (h : s.memOk) : LineRes.memOk (.failed s n) := h
theorem LineRes.pause_memOk {a b c} : LineRes.memOk (.pause a b c) := True.intro
theorem LineRes.wait_memOk : LineRes.memOk .wait := True.intro
theorem LineRes.finished_memOk : LineRes.memOk .finished := True.intro
theorem next_keeps {s : State} (h : s.memOk) : Keeps (.next s) := fun _ e => by injection e with e; exact e ▸ h
theorem fault_keeps {f : Fault} : Keeps (.fault f) := fun _ e => by cases e
theorem keeps_ite {c : Prop} [Decidable c] {a b : Host.Outcome State Fault Refusal} (ha : Keeps a) (hb : Keeps b) : Keeps (if c then a else b) := by
  split <;> assumption

/-! ### Store -/

theorem State.modGroup_memOk {s : State} {uid : Nat} {f : Group → Group} (h_s : s.memOk) : State.memOk (State.modGroup s uid f) := by
  unfold State.modGroup
  with_reducible repeat' (first | assumption | fail_if_no_progress apply memOk_mk)

theorem State.modTeam_memOk {s : State} {uid : Nat} {f : Team → Team} (h_s : s.memOk) : State.memOk (State.modTeam s uid f) := by
  unfold State.modTeam
  with_reducible repeat' (first | assumption | fail_if_no_progress apply memOk_mk)

theorem State.modLaunch_memOk {s : State} {uid : Nat} {f : Launch → Launch} (h_s : s.memOk) : State.memOk (State.modLaunch s uid f) := by
  unfold State.modLaunch
  with_reducible repeat' (first | assumption | fail_if_no_progress apply memOk_mk)

theorem State.modCore_memOk {s : State} {k : Nat} {f : Core → Core} (h_s : s.memOk) : State.memOk (State.modCore s k f) := by
  unfold State.modCore
  with_reducible repeat' (first | assumption | fail_if_no_progress apply memOk_mk)

theorem State.modCtx_memOk {s : State} {c : BitVec 5} {f : Context → Context} (h_s : s.memOk) : State.memOk (State.modCtx s c f) := by
  unfold State.modCtx
  with_reducible repeat' (first | assumption | fail_if_no_progress apply memOk_mk)

theorem State.modQueue_memOk {s : State} {q : BitVec 6} {f : Queue → Queue} (h_s : s.memOk) : State.memOk (State.modQueue s q f) := by
  unfold State.modQueue
  with_reducible repeat' (first | assumption | fail_if_no_progress apply memOk_mk)

theorem State.modPart_memOk {s : State} {k : Nat} {p : Nat} {f : Part → Part} (h_s : s.memOk) : State.memOk (State.modPart s k p f) := by
  unfold State.modPart
  with_reducible repeat' (first | assumption | apply State.modCore_memOk)

theorem State.fresh_memOk {s : State} (h : s.memOk) : s.fresh.2.memOk := h

theorem State.enqueue_memOk {s : State} {t : Turn} (h_s : s.memOk) : State.memOk (State.enqueue s t) := by
  unfold State.enqueue
  with_reducible repeat' (first | assumption | fail_if_no_progress apply memOk_mk)

/-! ### Ratio -/

theorem State.followRatio_memOk {s : State} (h_s : s.memOk) : State.memOk (State.followRatio s) := by
  unfold State.followRatio
  dsimp only
  with_reducible repeat' (first | assumption | fail_if_no_progress apply memOk_mk | split)

/-! ### Report -/

theorem State.logError_memOk {s : State} {e : ErrInput} (h_s : s.memOk) : State.memOk (State.logError s e) := by
  unfold State.logError
  dsimp only
  with_reducible repeat' (first | assumption | fail_if_no_progress apply memOk_mk | split)

theorem State.regMisuse_memOk {s : State} {off : Nat} (h_s : s.memOk) : State.memOk (State.regMisuse s off) := by
  unfold State.regMisuse
  with_reducible repeat' (first | assumption | apply State.logError_memOk)

theorem State.apertureError_memOk {s : State} {o : Nat} (h_s : s.memOk) : State.memOk (State.apertureError s o) := by
  unfold State.apertureError
  with_reducible repeat' (first | assumption | apply State.logError_memOk)

theorem State.signal_memOk {s : State} {v : Nat} (h_s : s.memOk) : State.memOk (State.signal s v) := by
  unfold State.signal
  dsimp only
  with_reducible repeat' (first | assumption | fail_if_no_progress apply memOk_mk_host | fail_if_no_progress apply memOk_mk | split)

theorem State.postNow_memOk {s : State} {e : EvRecord} (h : s.memOk) : (s.postNow e).memOk := (State.postNow_homeOnly s e).memOk h

theorem State.holdEvent_memOk {s : State} {e : EvRecord} (h_s : s.memOk) : State.memOk (State.holdEvent s e) := by
  unfold State.holdEvent
  dsimp only
  with_reducible repeat' (first | assumption | fail_if_no_progress apply memOk_mk | split)

theorem State.postRaw_memOk {s : State} {e : EvRecord} (h_s : s.memOk) : State.memOk (State.postRaw s e) := by
  unfold State.postRaw
  dsimp only
  with_reducible repeat' (first | assumption | apply State.holdEvent_memOk | apply State.postNow_memOk | fail_if_no_progress apply memOk_mk | split)

theorem State.postHeld_memOk {s : State} {n : Nat} (h : s.memOk) : (s.postHeld n).memOk := (State.postHeld_homeOnly n s).memOk h

theorem State.drainEvents_memOk {s : State}  (h : s.memOk) : (s.drainEvents ).memOk := (State.drainEvents_homeOnly s).memOk h

theorem State.postDev_memOk {s : State} {type : Nat} {code : Nat} {d0 : Nat} {d1 : Nat} (h_s : s.memOk) : State.memOk (State.postDev s type code d0
    d1) := by
  unfold State.postDev
  with_reducible repeat' (first | assumption | apply State.postRaw_memOk)

theorem State.transientError_memOk {s : State} {e : ErrInput} (h_s : s.memOk) : State.memOk (State.transientError s e) := by
  unfold State.transientError
  dsimp only
  with_reducible repeat' (first | assumption | apply State.logError_memOk | apply State.postDev_memOk | fail_if_no_progress apply memOk_mk | split)

theorem State.lastingError_memOk {s : State} {e : ErrInput} (h_s : s.memOk) : State.memOk (State.lastingError s e) := by
  unfold State.lastingError
  dsimp only
  with_reducible repeat' (first | assumption | apply State.logError_memOk | apply State.postDev_memOk | fail_if_no_progress apply memOk_mk)

/-! ### Home -/

theorem State.modDir_memOk {s : State} {line : Nat} {f : DirEntry → DirEntry} (h_s : s.memOk) : State.memOk (State.modDir s line f) := by
  unfold State.modDir
  with_reducible repeat' (first | assumption | fail_if_no_progress apply memOk_mk)

theorem State.noteWritten_memOk {s : State} {pa : Nat} (h_s : s.memOk) : State.memOk (State.noteWritten s pa) := by
  unfold State.noteWritten
  with_reducible repeat' (first | assumption | fail_if_no_progress apply memOk_mk_dram | fail_if_no_progress apply memOk_mk | split)

theorem State.wakeChan_memOk {s : State} {pa : Nat} (h_s : s.memOk) : State.memOk (State.wakeChan s pa) := by
  unfold State.wakeChan
  with_reducible repeat' (first | assumption | fail_if_no_progress apply memOk_mk_dram | fail_if_no_progress apply memOk_mk | split)

theorem State.physPut_memOk {s : State} {pa : Nat} {b : Byte} (h : s.memOk) : (s.physPut pa b).memOk := (State.physPut_homeOnly s pa b).memOk h

theorem State.meetSram_memOk {s : State} {ctx : Option (BitVec 5)} {a : SramAt} {clean : Option Bool} (h_s : s.memOk) : State.memOk (State.meetSram
    s ctx a clean) := by
  unfold State.meetSram
  dsimp only
  with_reducible repeat' (first
      | assumption | apply State.lastingError_memOk | apply State.transientError_memOk | fail_if_no_progress apply memOk_mk | split)

theorem State.noteBadAccess_memOk {s : State} {pa : Nat} {ctx : Option (BitVec 5)} (h_s : s.memOk) : State.memOk (State.noteBadAccess s pa ctx) := by
  unfold State.noteBadAccess
  with_reducible repeat' (first
      | assumption | apply State.lastingError_memOk | apply State.meetSram_memOk | fail_if_no_progress apply memOk_mk_dram
      | fail_if_no_progress apply memOk_mk | split)

theorem State.noteBadRange_memOk {s : State} {pa : Nat} {n : Nat} {ctx : Option (BitVec 5)} (h_s : s.memOk) : State.memOk (State.noteBadRange s pa n
    ctx) := by
  unfold State.noteBadRange
  with_reducible repeat' (first | assumption | apply State.noteBadAccess_memOk | apply memOk_foldl | split | intro _)

theorem State.meetIn_memOk {s : State} {ctx : BitVec 5} {p : SramAt → Bool} (h_s : s.memOk) : State.memOk (State.meetIn s ctx p) := by
  unfold State.meetIn
  with_reducible repeat' (first | assumption | apply State.meetSram_memOk | apply memOk_foldl | intro _)

theorem State.clearSram_memOk {s : State} {p : SramAt → Bool} (h_s : s.memOk) : State.memOk (State.clearSram s p) := by
  unfold State.clearSram
  with_reducible repeat' (first | assumption | fail_if_no_progress apply memOk_mk)

theorem State.putBack_memOk {s : State} {ctx : BitVec 5} {line : Nat} {bs : List (Nat × Byte)} (h_s : s.memOk) : State.memOk (State.putBack s ctx
    line bs) := by
  unfold State.putBack
  dsimp only
  with_reducible repeat' (first | assumption | apply State.physPut_memOk | apply State.noteBadAccess_memOk | apply memOk_foldl | split | intro _)

theorem State.writeBackStash_memOk {s : State} {tu : Nat} {ln : Nat} {drop : Bool} (h_s : s.memOk) : State.memOk (State.writeBackStash s tu ln drop)
    := by
  unfold State.writeBackStash
  dsimp only
  with_reducible repeat' (first
      | assumption | apply State.putBack_memOk | apply State.modTeam_memOk | apply State.modDir_memOk | fail_if_no_progress apply memOk_mk | split)

theorem State.recall_memOk {s : State} {pa : Nat} {write : Bool} (h_s : s.memOk) : State.memOk (State.recall s pa write) := by
  unfold State.recall
  with_reducible repeat' (first
      | assumption | apply State.writeBackStash_memOk | apply State.modDir_memOk | fail_if_no_progress apply memOk_mk | split)

theorem State.takeX_memOk {s : State} {pa : Nat} {taker : Option (Nat × Nat)} (h_s : s.memOk) : State.memOk (State.takeX s pa taker) := by
  unfold State.takeX
  dsimp only
  with_reducible repeat' (first | assumption | apply State.recall_memOk | apply State.modDir_memOk | fail_if_no_progress apply memOk_mk | split)

theorem State.share_memOk {s : State} {core : Nat} {line : Nat} (h_s : s.memOk) : State.memOk (State.share s core line) := by
  unfold State.share
  with_reducible repeat' (first | assumption | apply State.modDir_memOk)

theorem State.ctxPut_memOk {s : State} {ctx : BitVec 5} {pa : Nat} {b : Byte} (h_s : s.memOk) : State.memOk (State.ctxPut s ctx pa b) := by
  unfold State.ctxPut
  dsimp only
  with_reducible repeat' (first
      | assumption | apply State.recall_memOk | apply State.physPut_memOk | fail_if_no_progress apply memOk_mk_host
      | fail_if_no_progress apply memOk_mk | split)

theorem State.physPutNat_memOk {s : State} {pa v n : Nat} (h : s.memOk) : (s.physPutNat pa v n).memOk := (State.physPutNat_homeOnly n s pa v).memOk h

theorem State.incGen_memOk {s : State} {pa : Nat} (h : s.memOk) : (s.incGen pa).memOk := (State.incGen_homeOnly s pa).memOk h

theorem State.scrambleRegion_memOk {s : State} {r : Nat} (h : s.memOk) : (s.scrambleRegion r).memOk := (State.scrambleRegion_homeOnly s r).memOk h

theorem State.touchNear_memOk {s : State} {core : Nat} {pa : Nat} (h_s : s.memOk) : State.memOk (State.touchNear s core pa) := by
  unfold State.touchNear
  dsimp only
  with_reducible repeat' (first | assumption | apply State.scrambleRegion_memOk | fail_if_no_progress apply memOk_mk | split)

theorem State.setL1_memOk {s : State} {core : Nat} {line : Nat} {l : L1Line} (h_s : s.memOk) : State.memOk (State.setL1 s core line l) := by
  unfold State.setL1
  with_reducible repeat' (first | assumption | apply State.modCore_memOk)

theorem State.dropL1_memOk {s : State} {core : Nat} {line : Nat} (h_s : s.memOk) : State.memOk (State.dropL1 s core line) := by
  unfold State.dropL1
  with_reducible repeat' (first | assumption | apply State.modCore_memOk)

theorem State.writeBackLine_memOk {s : State} {line : Nat} {l : L1Line} (h_s : s.memOk) : State.memOk (State.writeBackLine s line l) := by
  unfold State.writeBackLine
  dsimp only
  with_reducible repeat' (first | assumption | apply State.putBack_memOk | apply State.incGen_memOk | split)

theorem State.cleanL1_memOk {s : State} {core : Nat} {sel : Nat → L1Line → Bool} {inval : Nat → L1Line → Bool} (h_s : s.memOk) : State.memOk
    (State.cleanL1 s core sel inval) := by
  unfold State.cleanL1
  dsimp only
  with_reducible repeat' (first
      | assumption | apply State.writeBackLine_memOk | apply State.modCore_memOk | fail_if_no_progress apply memOk_mk | apply memOk_foldl | split
      | intro _)

theorem State.dropCoherent_memOk {s : State} {core : Nat} (h_s : s.memOk) : State.memOk (State.dropCoherent s core) := by
  unfold State.dropCoherent
  with_reducible repeat' (first | assumption | apply State.modCore_memOk)

theorem State.flushContext_memOk {s : State} {core : Nat} {ctx : BitVec 5} (h_s : s.memOk) : State.memOk (State.flushContext s core ctx) := by
  unfold State.flushContext
  with_reducible repeat' (first | assumption | apply State.cleanL1_memOk)

theorem State.fillL1_memOk {s : State} {core : Nat} {ctx : BitVec 5} {attr : Attr} {pa : Nat} (h_s : s.memOk) : State.memOk (State.fillL1 s core ctx
    attr pa) := by
  unfold State.fillL1
  dsimp only
  with_reducible repeat' (first
      | assumption | apply State.share_memOk | apply State.setL1_memOk | apply State.writeBackLine_memOk | fail_if_no_progress apply memOk_mk | split)

theorem State.dirtyByte_memOk {s : State} {core : Nat} {ctx : BitVec 5} {attr : Attr} {pa : Nat} {b : Byte} (h_s : s.memOk) : State.memOk
    (State.dirtyByte s core ctx attr pa b) := by
  unfold State.dirtyByte
  dsimp only
  with_reducible repeat' (first
      | assumption | apply State.fillL1_memOk | apply State.setL1_memOk | apply State.physPut_memOk | fail_if_no_progress apply memOk_mk | split)

theorem State.updateCopy_memOk {s : State} {core : Nat} {pa : Nat} {b : Byte} (h_s : s.memOk) : State.memOk (State.updateCopy s core pa b) := by
  unfold State.updateCopy
  with_reducible repeat' (first | assumption | apply State.setL1_memOk | fail_if_no_progress apply memOk_mk | split)

/-! ### Translate -/

theorem State.cacheTlb_memOk {s : State} {g : Group} {va : Nat} (h_s : s.memOk) : State.memOk (State.cacheTlb s g va) := by
  unfold State.cacheTlb
  dsimp only
  with_reducible repeat' (first
      | assumption | apply State.meetSram_memOk | apply State.wakeChan_memOk | apply State.modPart_memOk | fail_if_no_progress apply memOk_mk
      | apply memOk_foldl | split)

theorem State.noteTlb_memOk {s : State} {g : Group} {va : Nat} (h_s : s.memOk) : State.memOk (State.noteTlb s g va) := by
  unfold State.noteTlb
  with_reducible repeat' (first | assumption | apply State.cacheTlb_memOk | apply State.touchNear_memOk | fail_if_no_progress apply memOk_mk | split)

theorem State.dropTlb_memOk {s : State} {ctx : BitVec 5} (h_s : s.memOk) : State.memOk (State.dropTlb s ctx) := by
  unfold State.dropTlb
  with_reducible repeat' (first | assumption | fail_if_no_progress apply memOk_mk)

theorem State.noteFetch_memOk {s : State} {g : Group} {va : Nat} (h_s : s.memOk) : State.memOk (State.noteFetch s g va) := by
  unfold State.noteFetch
  with_reducible repeat' (first | assumption | apply State.meetSram_memOk | apply State.modCore_memOk | fail_if_no_progress apply memOk_mk | split)

theorem State.dropIcaches_memOk {s : State} (h_s : s.memOk) : State.memOk (State.dropIcaches s) := by
  unfold State.dropIcaches
  with_reducible repeat' (first | assumption | fail_if_no_progress apply memOk_mk)

theorem State.noteFetched_memOk {s : State} {g : Group} {pc : Pc} {cuff : Bool} (h_s : s.memOk) : State.memOk (State.noteFetched s g pc cuff) := by
  unfold State.noteFetched
  dsimp only
  with_reducible repeat' (first | assumption | apply State.noteTlb_memOk | apply State.noteFetch_memOk | split)

theorem State.ownPut_memOk {ctx : BitVec 5} {n : Nat} : ∀ {s : State} {va v : Nat}, s.memOk → (s.ownPut ctx va v n).memOk := by
  induction n with
  | zero => exact fun h => h
  | succ n ih =>
    intro s va v h
    unfold State.ownPut
    apply ih
    split
    · exact State.ctxPut_memOk h
    · exact h

theorem State.ownWrite_memOk {s t : State} {ctx : BitVec 5} {va v n : Nat} (h : s.memOk) (e : s.ownWrite ctx va v n = .ok t) : t.memOk := by
  unfold State.ownWrite at e
  split at e
  · cases e
  · simp only [Except.ok.injEq] at e
    rw [← e]
    refine memOk_foldl (fun u l hu => ?_) (State.ownPut_memOk h)
    split
    · split
      · exact State.incGen_memOk hu
      · exact hu
    · exact hu

/-! ### Events -/

theorem State.noteOwnError_memOk {s : State} {ctx : BitVec 5} {va : Nat} (h_s : s.memOk) : State.memOk (State.noteOwnError s ctx va) := by
  unfold State.noteOwnError
  dsimp only
  with_reducible repeat' (first
      | assumption | apply State.noteBadAccess_memOk | fail_if_no_progress apply memOk_mk | apply memOk_foldl | split | intro _)

theorem State.logLost_memOk {s : State} {ctx : BitVec 5} {queue : BitVec 8} {code : Nat} {kind : Nat} {va : Nat} (h_s : s.memOk) : State.memOk
    (State.logLost s ctx queue code kind va) := by
  unfold State.logLost
  dsimp only
  with_reducible repeat' (first
      | assumption | apply State.noteOwnError_memOk | apply State.logError_memOk | (refine State.ownWrite_memOk ?_ (by assumption))
      | fail_if_no_progress apply memOk_mk | split)

theorem State.updateStatus_memOk {s : State} {ctx : BitVec 5} (h_s : s.memOk) : State.memOk (State.updateStatus s ctx) := by
  unfold State.updateStatus
  dsimp only
  with_reducible repeat' (first
      | assumption | apply State.modCtx_memOk | (refine State.ownWrite_memOk ?_ (by assumption)) | apply State.logLost_memOk
      | apply State.postRaw_memOk | fail_if_no_progress apply memOk_mk | split)

theorem State.ownLost_memOk {s : State} {ctx : BitVec 5} {queue : BitVec 8} {code : Nat} {kind : Nat} {va : Nat} (h_s : s.memOk) : State.memOk
    (State.ownLost s ctx queue code kind va) := by
  unfold State.ownLost
  with_reducible repeat' (first | assumption | apply State.logLost_memOk | apply State.updateStatus_memOk | apply State.postRaw_memOk)

theorem State.hostReturns_memOk {s : State} (h_s : s.memOk) : State.memOk (State.hostReturns s) := by
  unfold State.hostReturns
  with_reducible repeat' (first | assumption | apply State.updateStatus_memOk | apply State.drainEvents_memOk | apply memOk_foldl | split | intro _)

theorem State.postCtx_memOk {s : State} {ctx : BitVec 5} {type : Nat} {code : Nat} {queue : BitVec 8} {d0 : Nat} {d1 : Nat} {d2 : Nat} (h_s :
    s.memOk) : State.memOk (State.postCtx s ctx type code queue d0 d1 d2) := by
  unfold State.postCtx
  with_reducible repeat' (first | assumption | apply State.updateStatus_memOk | apply State.postRaw_memOk)

/-! ### Mem -/

theorem State.writeBackMap_memOk {s : State} {tu : Nat} {k : Nat} (h_s : s.memOk) : State.memOk (State.writeBackMap s tu k) := by
  unfold State.writeBackMap
  with_reducible repeat' (first
      | assumption | apply State.writeBackStash_memOk | fail_if_no_progress apply memOk_mk | apply memOk_foldl | split | intro _)

theorem State.writeBackTeam_memOk {s : State} {tu : Nat} (h_s : s.memOk) : State.memOk (State.writeBackTeam s tu) := by
  unfold State.writeBackTeam
  with_reducible repeat' (first | assumption | apply State.writeBackMap_memOk | apply memOk_foldl | intro _)

theorem State.fillMapped_memOk {s : State} {core : Nat} {tu : Nat} {off : Nat} (h_s : s.memOk) : State.memOk (State.fillMapped s core tu off) := by
  unfold State.fillMapped
  dsimp only
  with_reducible repeat' (first
      | assumption | apply State.touchNear_memOk | apply State.recall_memOk | apply State.share_memOk | apply State.modTeam_memOk
      | fail_if_no_progress apply memOk_mk | apply memOk_foldl | split)

theorem State.meetPlace_memOk {s : State} {core : Nat} {ctx : BitVec 5} {p : Place} (h_s : s.memOk) : State.memOk (State.meetPlace s core ctx p) := by
  unfold State.meetPlace
  dsimp only
  with_reducible repeat' (first
      | assumption | apply State.meetSram_memOk | apply State.modTeam_memOk | apply State.modDir_memOk | fail_if_no_progress apply memOk_mk | split)

theorem State.noteBook_memOk {s : State} {ctx : BitVec 5} {va : Nat} (h_s : s.memOk) : State.memOk (State.noteBook s ctx va) := by
  unfold State.noteBook
  with_reducible repeat' (first | assumption | apply State.modLaunch_memOk | fail_if_no_progress apply memOk_mk | split)

theorem State.touchLoad_memOk {s : State} {g : Group} {l : Loc} (h_s : s.memOk) : State.memOk (State.touchLoad s g l) := by
  unfold State.touchLoad
  with_reducible repeat' (first | assumption | apply State.fillL1_memOk | apply State.fillMapped_memOk | fail_if_no_progress apply memOk_mk | split)

theorem State.prepareLoad_memOk {s : State} {g : Group} {l : Loc} (h_s : s.memOk) : State.memOk (State.prepareLoad s g l) := by
  unfold State.prepareLoad
  with_reducible repeat' (first | assumption | apply State.recall_memOk | apply State.fillMapped_memOk | fail_if_no_progress apply memOk_mk | split)

theorem State.noteLine_memOk {s : State} {launch : Nat} {va : Nat} (h_s : s.memOk) : State.memOk (State.noteLine s launch va) := by
  unfold State.noteLine
  with_reducible repeat' (first | assumption | apply State.modLaunch_memOk)

theorem State.putByte_memOk {s : State} {core : Nat} {launch : Nat} {ctx : BitVec 5} {w : ByteWrite} (h_s : s.memOk) : State.memOk (State.putByte s
    core launch ctx w) := by
  unfold State.putByte
  dsimp only
  with_reducible repeat' (first
      | assumption | apply State.noteLine_memOk | apply State.noteBook_memOk | apply State.dirtyByte_memOk | apply State.ctxPut_memOk
      | apply State.updateCopy_memOk | apply State.modTeam_memOk | apply State.fillMapped_memOk | apply State.takeX_memOk
      | fail_if_no_progress apply memOk_mk | split)

theorem State.putBytes_memOk {s : State} {core : Nat} {launch : Nat} {ctx : BitVec 5} {ws : List ByteWrite} (h_s : s.memOk) : State.memOk
    (State.putBytes s core launch ctx ws) := by
  unfold State.putBytes
  dsimp only
  with_reducible repeat' (first | assumption | apply State.putByte_memOk | apply State.incGen_memOk | apply memOk_foldl | intro _)

theorem State.atomLine_memOk {s : State} {core : Nat} {ctx : BitVec 5} {l : AtomLane} (h_s : s.memOk) : (State.atomLine s core ctx l).2.memOk := by
  unfold State.atomLine
  dsimp only
  repeat' (first
      | with_reducible assumption | with_reducible apply State.cleanL1_memOk | with_reducible apply State.recall_memOk
      | with_reducible apply State.writeBackStash_memOk | fail_if_no_progress with_reducible apply memOk_mk | split)
theorem State.atomLine_memOk' {s : State} {core : Nat} {ctx : BitVec 5} {l : AtomLane} {o0} {t : State} (h_s : s.memOk) (e : State.atomLine s core
    ctx l = (o0, t)) : t.memOk := by
  have h := State.atomLine_memOk (s := s) (core := core) (ctx := ctx) (l := l) h_s
  rw [e] at h
  exact h

theorem State.noteRound_memOk {s : State} {g : Group} {coh : BitVec 2} {pa : Nat} {n : Nat} {old : Nat} {new : Nat} (h_s : s.memOk) : State.memOk
    (State.noteRound s g coh pa n old new) := by
  unfold State.noteRound
  dsimp only
  with_reducible repeat' (first
      | assumption | apply State.modLaunch_memOk | apply State.modGroup_memOk | fail_if_no_progress apply memOk_mk | apply memOk_foldl | split)

theorem State.shadowAt_memOk {s : State} {g : Group} {coh : BitVec 2} {pa : Nat} {atomic : Bool} (h_s : s.memOk) : State.memOk (State.shadowAt s g
    coh pa atomic) := by
  unfold State.shadowAt
  dsimp only
  with_reducible repeat' (first | assumption | fail_if_no_progress apply memOk_mk_dram | fail_if_no_progress apply memOk_mk | split)

theorem State.atomLane_memOk {s : State} {g : Group} {op w : Nat} {l : AtomLane} (h : s.memOk) : (s.atomLane g op w l).2.1.memOk := by
  unfold State.atomLane
  split
  · next e => exact State.atomLine_memOk' h e
  · next e =>
    have h0 := State.atomLine_memOk' h e
    dsimp only
    repeat' (first
      | with_reducible assumption | with_reducible apply State.physPut_memOk | with_reducible apply State.updateCopy_memOk
      | with_reducible apply State.shadowAt_memOk | with_reducible apply State.noteRound_memOk | with_reducible apply State.noteBook_memOk
      | with_reducible apply State.noteLine_memOk | with_reducible apply State.noteBadAccess_memOk | with_reducible apply State.meetSram_memOk
      | with_reducible apply memOk_foldl | intro _ | split)
theorem State.atomLane_memOk' {s t : State} {g : Group} {op w : Nat} {l : AtomLane} {o : Option Nat} {b : Option Nat} (h : s.memOk)
    (e : s.atomLane g op w l = (o, t, b)) : t.memOk := by
  have := State.atomLane_memOk (g := g) (op := op) (w := w) (l := l) h
  rwa [e] at this

theorem State.atomLanes_memOk {g : Group} {op w : Nat} {dest : List Nat} {ls : List AtomLane} :
    ∀ {s : State}, s.memOk → (s.atomLanes g op w dest ls).2.2.2.memOk := by
  induction ls with
  | nil => exact fun h => h
  | cons l r ih => exact fun h => ih (State.atomLane_memOk h)
theorem State.atomLanes_memOk' {s t : State} {g : Group} {op w : Nat} {dest : List Nat} {ls : List AtomLane} {a b c}
    (h : s.memOk) (e : s.atomLanes g op w dest ls = (a, b, c, t)) : t.memOk := by
  have := State.atomLanes_memOk (g := g) (op := op) (w := w) (dest := dest) (ls := ls) h
  rwa [e] at this

theorem State.settle_memOk {s : State} {uid : Nat} (h_s : s.memOk) : State.memOk (State.settle s uid) := by
  unfold State.settle
  with_reducible repeat' (first | assumption | apply State.modGroup_memOk)

theorem State.markPerf_memOk {s : State} {uid : Nat} {op : Nat} (h_s : s.memOk) : State.memOk (State.markPerf s uid op) := by
  unfold State.markPerf
  with_reducible repeat' (first | assumption | apply State.modGroup_memOk)

theorem State.prepareStore_memOk {s : State} {g : Group} {ws : List ByteWrite} (h_s : s.memOk) : State.memOk (State.prepareStore s g ws) := by
  unfold State.prepareStore
  with_reducible repeat' (first
      | assumption | apply State.fillMapped_memOk | fail_if_no_progress apply memOk_mk | apply memOk_foldl | split | intro _)

theorem State.performStore_memOk {s : State} {g : Group} {o : Op} {queued : List ByteWrite} {rest : List ByteWrite} (h_s : s.memOk) : State.memOk
    (State.performStore s g o queued rest) := by
  unfold State.performStore
  dsimp only
  with_reducible repeat' (first
      | assumption | apply State.prepareStore_memOk | apply State.meetPlace_memOk | apply State.putBytes_memOk | apply State.noteBadAccess_memOk
      | apply State.modGroup_memOk | fail_if_no_progress apply memOk_mk | apply memOk_foldl | split | intro _)

theorem State.cleanRange_memOk {s : State} {g : Group} {lo : Nat} {hi : Nat} {inval : Bool} (h_s : s.memOk) : State.memOk (State.cleanRange s g lo
    hi inval) := by
  unfold State.cleanRange
  dsimp only
  with_reducible repeat' (first
      | assumption | apply State.cleanL1_memOk | apply State.writeBackStash_memOk | fail_if_no_progress apply memOk_mk | apply memOk_foldl | split
      | intro _)

theorem State.dropRange_memOk {s : State} {g : Group} {lo : Nat} {hi : Nat} (h_s : s.memOk) : State.memOk (State.dropRange s g lo hi) := by
  unfold State.dropRange
  with_reducible repeat' (first | assumption | apply State.cleanRange_memOk)

theorem State.finishUnmap_memOk {s : State} {tu : Nat} {k : Nat} (h_s : s.memOk) : State.memOk (State.finishUnmap s tu k) := by
  unfold State.finishUnmap
  with_reducible repeat' (first
      | assumption | apply State.writeBackMap_memOk | apply State.modTeam_memOk | fail_if_no_progress apply memOk_mk | apply memOk_foldl | split)

theorem State.installMap_memOk {s : State} {tu : Nat} {m : Nat} {va : Nat} {off : Nat} {len : Nat} (h_s : s.memOk) : State.memOk (State.installMap s
    tu m va off len) := by
  unfold State.installMap
  with_reducible repeat' (first | assumption | apply State.modTeam_memOk)

theorem State.latchBars_memOk {s : State} {tu : Nat} (h_s : s.memOk) : State.memOk (State.latchBars s tu) := by
  unfold State.latchBars
  with_reducible repeat' (first | assumption | fail_if_no_progress apply memOk_mk | split)

theorem State.barApply_memOk {s : State} {loc : Nat × Nat} {f : Bar → Bar} (h_s : s.memOk) : State.memOk (State.barApply s loc f) := by
  unfold State.barApply
  dsimp only
  with_reducible repeat' (first | assumption | apply State.modTeam_memOk | apply State.latchBars_memOk | fail_if_no_progress apply memOk_mk | split)

theorem State.noteDrop_memOk {s : State} {g : Group} {loc : Nat × Nat} (h_s : s.memOk) : State.memOk (State.noteDrop s g loc) := by
  unfold State.noteDrop
  with_reducible repeat' (first | assumption | apply State.modTeam_memOk)

theorem State.raceLog_memOk {s : State} {g : Group} {kind : Nat} {va : Nat} {pc : Nat} {w : Nat × Nat} (h_s : s.memOk) : State.memOk (State.raceLog
    s g kind va pc w) := by
  unfold State.raceLog
  dsimp only
  with_reducible repeat' (first
      | assumption | apply State.modCtx_memOk | (refine State.ownWrite_memOk ?_ (by assumption)) | apply State.ownLost_memOk
      | fail_if_no_progress apply memOk_mk | split)

/-! ### Inflight -/

theorem State.addFault_memOk {s : State} {ctx : BitVec 5} {va : Nat} {kind : Nat} {agent : Nat} {core : Nat} {write : Bool} {queue : BitVec 8} (h_s
    : s.memOk) : State.memOk (State.addFault s ctx va kind agent core write queue) := by
  unfold State.addFault
  dsimp only
  with_reducible repeat' (first | assumption | fail_if_no_progress apply memOk_mk | split)

theorem State.acquire_memOk {s : State} {uid : Nat} {scope : Nat} (h_s : s.memOk) : State.memOk (State.acquire s uid scope) := by
  unfold State.acquire
  with_reducible repeat' (first
      | assumption | apply State.dropCoherent_memOk | apply State.modTeam_memOk | fail_if_no_progress apply memOk_mk | split)

theorem State.freeSlots_memOk {s : State} {tu : Nat} (h_s : s.memOk) : State.memOk (State.freeSlots s tu) := by
  unfold State.freeSlots
  dsimp only
  with_reducible repeat' (first | assumption | apply State.modTeam_memOk)

theorem State.atomMember_memOk {s : State} {g : Group} {o : Op} {op : Nat} {w64 : Bool} {dest : List Nat} {lanes : List AtomLane} (h : s.memOk) :
    (s.atomMember g o op w64 dest lanes).1.memOk := by
  unfold State.atomMember
  have h1 := State.atomLanes_memOk (g := g) (op := op) (w := if w64 then 64 else 32) (dest := dest) (ls := (atomSplit lanes).1) h
  dsimp only
  split
  · exact State.acquire_memOk (State.modGroup_memOk h1)
  · exact State.modGroup_memOk h1

theorem State.countGens_memOk {s : State} {lines : List Nat} (h_s : s.memOk) : State.memOk (State.countGens s lines) := by
  unfold State.countGens
  with_reducible repeat' (first | assumption | apply State.incGen_memOk | apply memOk_foldl | intro _)

theorem State.atomStep_memOk {s : State} {g : Group} {o : Op} {op : Nat} {w64 : Bool} {dest : List Nat} {lanes : List AtomLane} (h_s : s.memOk) :
    State.memOk (State.atomStep s g o op w64 dest lanes) := by
  unfold State.atomStep
  dsimp only
  with_reducible repeat' (first | assumption | apply State.atomMember_memOk | apply State.countGens_memOk)

theorem State.atomBundle_memOk {s : State} {ms : List Member} (h_s : s.memOk) : State.memOk (State.atomBundle s ms) := by
  have step : ∀ (l : List Member) (acc : State × List Nat), acc.1.memOk →
      (l.foldl (fun (acc : State × List Nat) m =>
        let q := acc.1.atomMember ((acc.1.group m.g.uid).getD m.g) m.o m.op m.w64 m.dest m.lanes
        (q.1, q.2 ++ acc.2)) acc).1.memOk := by
    intro l
    induction l with
    | nil => exact fun _ h => h
    | cons m r ih => exact fun acc h => ih _ (State.atomMember_memOk h)
  unfold State.atomBundle
  exact State.countGens_memOk (step _ (s, []) h_s)

theorem State.atomAll_memOk {uid ouid : Nat} {n : Nat} : ∀ {s : State}, s.memOk → (s.atomAll uid ouid n).memOk := by
  induction n with
  | zero => exact fun h => h
  | succ n ih =>
    intro s h
    unfold State.atomAll
    repeat' (first | with_reducible assumption | with_reducible apply ih | with_reducible apply State.atomStep_memOk | split)

theorem State.reserve_memOk {s : State} {g : Group} {n : Nat} (h : s.memOk) : (s.reserve g n).2.memOk := by
  unfold State.reserve
  repeat' (first | with_reducible assumption | with_reducible apply State.modLaunch_memOk | split)

theorem State.prepareEngine_memOk {s : State} {g : Group} {kind : Nat} {a : Nat} (h_s : s.memOk) : State.memOk (State.prepareEngine s g kind a) := by
  unfold State.prepareEngine
  dsimp only
  with_reducible repeat' (first | assumption | apply State.noteTlb_memOk | apply State.prepareLoad_memOk | fail_if_no_progress apply memOk_mk | split)

theorem State.meetEngine_memOk {s : State} {g : Group} {kind : Nat} {a : Nat} (h_s : s.memOk) : State.memOk (State.meetEngine s g kind a) := by
  unfold State.meetEngine
  with_reducible repeat' (first | assumption | apply State.meetPlace_memOk | fail_if_no_progress apply memOk_mk | split)

theorem State.engineWrite_memOk {s t : State} {g : Group} {l : Loc} {bs : List (Byte × Nat)} (h : s.memOk) (e : s.engineWrite g l bs = some t) :
    t.memOk := by
  unfold State.engineWrite at e
  dsimp only at e
  split at e
  · cases e
  · split at e
    · split at e
      · cases e
      · rw [← Option.some.inj e]
        repeat' (first
          | with_reducible assumption | with_reducible apply State.noteBook_memOk | with_reducible apply State.noteLine_memOk
          | with_reducible apply State.incGen_memOk | with_reducible apply State.ctxPut_memOk | with_reducible apply State.updateCopy_memOk
          | with_reducible apply State.takeX_memOk | with_reducible apply State.noteTlb_memOk | with_reducible apply memOk_foldl | intro _ | split)
    · rw [← Option.some.inj e]
      exact State.latchBars_memOk (memOk_foldl (fun u x hu => State.putByte_memOk hu) h)

theorem State.lineFailed_memOk {s : State} {g : Group} {l : Loc} (h_s : s.memOk) : State.memOk (State.lineFailed s g l) := by
  unfold State.lineFailed
  dsimp only
  with_reducible repeat' (first
      | assumption | apply State.meetPlace_memOk | apply State.noteBadAccess_memOk | fail_if_no_progress apply memOk_mk | split)

theorem State.landBar_memOk {s : State} {g : Group} {bd : Bool} {bar : Nat} {par : Bool} {k : Nat} (h_s : s.memOk) : State.memOk (State.landBar s g
    bd bar par k) := by
  unfold State.landBar
  with_reducible repeat' (first | assumption | apply State.barApply_memOk | fail_if_no_progress apply memOk_mk | split)

theorem State.copyLine_memOk {s : State} {g : Group} {c : CopyOps} {pos : Nat} (h_s : s.memOk) : LineRes.memOk (State.copyLine s g c pos) := by
  unfold State.copyLine
  dsimp only
  with_reducible repeat' (first
      | assumption | (refine State.engineWrite_memOk ?_ (by assumption)) | apply State.lineFailed_memOk | apply State.meetPlace_memOk
      | apply State.landBar_memOk | apply State.prepareEngine_memOk | apply State.meetEngine_memOk | apply State.noteOwnError_memOk
      | apply LineRes.moved_memOk | apply LineRes.failed_memOk | exact LineRes.pause_memOk | exact LineRes.wait_memOk | exact LineRes.finished_memOk
      | fail_if_no_progress apply memOk_mk | split)

theorem State.tloadLine_memOk {s : State} {g : Group} {regs : List Word} {mod : BitVec 8} {fmt : Word} {pos : Nat} {buf : List Byte} (h_s : s.memOk)
    : LineRes.memOk (State.tloadLine s g regs mod fmt pos buf) := by
  unfold State.tloadLine
  dsimp only
  with_reducible repeat' (first
      | assumption | apply State.prepareEngine_memOk | apply State.meetEngine_memOk | apply State.noteOwnError_memOk | apply State.clearSram_memOk
      | apply State.modTeam_memOk | apply LineRes.moved_memOk | apply LineRes.failed_memOk | exact LineRes.pause_memOk | exact LineRes.wait_memOk
      | exact LineRes.finished_memOk | fail_if_no_progress apply memOk_mk | split)

theorem State.streamErrors_memOk {s : State} {g : Group} {p : SramAt → Bool} (h_s : s.memOk) : State.memOk (State.streamErrors s g p) := by
  unfold State.streamErrors
  dsimp only
  with_reducible repeat' (first | assumption | apply State.meetIn_memOk | apply State.modGroup_memOk | fail_if_no_progress apply memOk_mk | split)

theorem State.accstLine_memOk {s : State} {g : Group} {regs : List Word} {mod : BitVec 8} {fmt : Word} {pos : Nat} (h_s : s.memOk) : LineRes.memOk
    (State.accstLine s g regs mod fmt pos) := by
  unfold State.accstLine
  dsimp only
  with_reducible repeat' (first
      | assumption | (refine State.engineWrite_memOk ?_ (by assumption)) | apply State.lineFailed_memOk | apply State.meetPlace_memOk
      | apply State.landBar_memOk | apply State.streamErrors_memOk | apply LineRes.moved_memOk | apply LineRes.failed_memOk
      | exact LineRes.pause_memOk | exact LineRes.wait_memOk | exact LineRes.finished_memOk | fail_if_no_progress apply memOk_mk | split)

theorem State.engineLine_memOk {s : State} {g : Group} {e : Engine} {pos : Nat} {buf : List Byte} (h_s : s.memOk) : LineRes.memOk (State.engineLine
    s g e pos buf) := by
  unfold State.engineLine
  with_reducible repeat' (first
      | assumption | apply State.copyLine_memOk | apply State.tloadLine_memOk | apply State.accstLine_memOk | fail_if_no_progress apply memOk_mk
      | split)

theorem State.modOp_memOk {s : State} {uid : Nat} {ouid : Nat} {f : Op → Op} (h_s : s.memOk) : State.memOk (State.modOp s uid ouid f) := by
  unfold State.modOp
  with_reducible repeat' (first | assumption | apply State.modGroup_memOk)

theorem State.finishOp_memOk {s : State} {g : Group} {ouid : Nat} (h_s : s.memOk) : State.memOk (State.finishOp s g ouid) := by
  unfold State.finishOp
  with_reducible repeat' (first | assumption | apply State.markPerf_memOk | apply State.settle_memOk | apply State.freeSlots_memOk)

theorem State.engineStep_memOk {s : State} {g : Group} {o : Op} {e : Engine} {pos : Nat} (h : s.memOk) : (s.engineStep g o e pos).memOk := by
  have hl := State.engineLine_memOk (g := g) (e := e) (pos := pos) (buf := o.buf) h
  unfold State.engineStep
  generalize s.engineLine g e pos o.buf = x at hl ⊢
  cases x <;> dsimp only <;> repeat' (first
      | exact hl | exact h | with_reducible apply State.finishOp_memOk | with_reducible apply State.modOp_memOk
      | with_reducible apply State.addFault_memOk | with_reducible apply State.modGroup_memOk | split)

theorem State.abandonOp_memOk {s : State} {g : Group} {o : Op} (h_s : s.memOk) : State.memOk (State.abandonOp s g o) := by
  unfold State.abandonOp
  dsimp only
  with_reducible repeat' (first
      | assumption | apply State.modGroup_memOk | apply State.modOp_memOk | apply State.finishOp_memOk | fail_if_no_progress apply memOk_mk | split)

theorem State.runStream_memOk {s : State} {g : Group} {o : Op} {m : Stream} (h_s : s.memOk) : State.memOk (State.runStream s g o m) := by
  unfold State.runStream
  dsimp only
  with_reducible repeat' (first
      | assumption | apply State.finishOp_memOk | apply State.streamErrors_memOk | apply State.modTeam_memOk | apply State.modOp_memOk
      | apply State.clearSram_memOk | fail_if_no_progress apply memOk_mk | apply memOk_foldl | split)

theorem State.runBar_memOk {s : State} {g : Group} {o : Op} {b : BarOp} (h_s : s.memOk) : State.memOk (State.runBar s g o b) := by
  unfold State.runBar
  dsimp only
  with_reducible repeat' (first
      | assumption | apply State.barApply_memOk | apply State.finishOp_memOk | apply State.modTeam_memOk | apply State.noteDrop_memOk
      | apply State.modGroup_memOk | fail_if_no_progress apply memOk_mk | split)

theorem State.runOp_memOk {s : State} {g : Group} {o : Op} (h : s.memOk) : (s.runOp g o).memOk := by
  unfold State.runOp
  split
  · exact h
  · split
    all_goals try dsimp only
    all_goals repeat' (first
        | exact h | with_reducible apply State.finishOp_memOk | with_reducible apply State.performStore_memOk
        | with_reducible apply State.acquire_memOk | with_reducible apply State.atomStep_memOk | with_reducible apply State.settle_memOk
        | with_reducible apply State.cleanRange_memOk | with_reducible apply State.dropRange_memOk | with_reducible apply State.finishUnmap_memOk | with_reducible apply State.installMap_memOk
        | with_reducible apply State.barApply_memOk | with_reducible apply State.modOp_memOk | with_reducible apply State.reserve_memOk
        | with_reducible apply State.engineStep_memOk | with_reducible apply State.runStream_memOk | with_reducible apply State.runBar_memOk | split)

theorem State.runFully_memOk {uid ouid : Nat} {n : Nat} : ∀ {s : State}, s.memOk → (s.runFully uid ouid n).memOk := by
  induction n with
  | zero => exact fun h => h
  | succ n ih =>
    intro s h
    unfold State.runFully
    repeat' (first | with_reducible assumption | with_reducible apply ih | with_reducible apply State.runOp_memOk | split)

theorem State.runOps_memOk {s : State} {uid : Nat} {sel : Op → Bool} (h_s : s.memOk) : State.memOk (State.runOps s uid sel) := by
  unfold State.runOps
  with_reducible repeat' (first | assumption | apply State.runFully_memOk | fail_if_no_progress apply memOk_mk | apply memOk_foldl | split | intro _)

theorem State.performLines_memOk {s : State} {uid : Nat} {lines : List (Nat × Nat)} (h_s : s.memOk) : State.memOk (State.performLines s uid lines)
    := by
  unfold State.performLines
  with_reducible repeat' (first | assumption | apply State.runOps_memOk)

theorem State.performAtomics_memOk {s : State} {uid : Nat} {lines : List (Nat × Nat)} (h_s : s.memOk) : State.memOk (State.performAtomics s uid
    lines) := by
  unfold State.performAtomics
  dsimp only
  with_reducible repeat' (first | assumption | apply State.performLines_memOk | fail_if_no_progress apply memOk_mk | split)

theorem State.performWrites_memOk {s : State} {uid : Nat} {stop : Option Nat} (h_s : s.memOk) : State.memOk (State.performWrites s uid stop) := by
  unfold State.performWrites
  dsimp only
  with_reducible repeat' (first | assumption | apply State.runOps_memOk | fail_if_no_progress apply memOk_mk | split)

theorem State.release_memOk {s : State} {uid : Nat} {scope : Nat} (h_s : s.memOk) : State.memOk (State.release s uid scope) := by
  unfold State.release
  dsimp only
  with_reducible repeat' (first
      | assumption | apply State.performWrites_memOk | apply State.writeBackTeam_memOk | apply State.modGroup_memOk
      | fail_if_no_progress apply memOk_mk | split)

theorem State.passFence_memOk {s : State} {uid : Nat} (h_s : s.memOk) : State.memOk (State.passFence s uid) := by
  unfold State.passFence
  dsimp only
  with_reducible repeat' (first
      | assumption | apply State.release_memOk | apply State.acquire_memOk | apply State.modGroup_memOk | fail_if_no_progress apply memOk_mk | split)

theorem State.putFence_memOk {s : State} {uid : Nat} {f : Fence} (h_s : s.memOk) : State.memOk (State.putFence s uid f) := by
  unfold State.putFence
  with_reducible repeat' (first | assumption | apply State.modGroup_memOk | apply State.passFence_memOk)

/-! ### Sections -/

theorem State.mapOs_memOk {s : State} {f : List OsEntry → List OsEntry} (h_s : s.memOk) : State.memOk (State.mapOs s f) := by
  unfold State.mapOs
  with_reducible repeat' (first | assumption | fail_if_no_progress apply memOk_mk)

theorem State.setOs_memOk {s : State} {ctx : BitVec 5} {key : Dword} {f : OsEntry → OsEntry} (h_s : s.memOk) : State.memOk (State.setOs s ctx key f)
    := by
  unfold State.setOs
  with_reducible repeat' (first | assumption | apply State.mapOs_memOk)

theorem State.osApply_memOk {s : State} {m : OsMsg} (h_s : s.memOk) : State.memOk (State.osApply s m) := by
  unfold State.osApply
  with_reducible repeat' (first | assumption | apply State.mapOs_memOk | apply State.setOs_memOk | fail_if_no_progress apply memOk_mk | split)

theorem State.osFlush_memOk {s : State} {ctx : BitVec 5} {key : Dword} (h_s : s.memOk) : State.memOk (State.osFlush s ctx key) := by
  unfold State.osFlush
  dsimp only
  with_reducible repeat' (first | assumption | apply State.osApply_memOk | fail_if_no_progress apply memOk_mk | apply memOk_foldl)

theorem State.osAsk_memOk {s : State} {g : Group} {x : HeldLane} (h : s.memOk) : (s.osAsk g x).2.memOk := by
  unfold State.osAsk
  dsimp only
  repeat' (first
      | with_reducible assumption | with_reducible apply State.osFlush_memOk | with_reducible apply State.mapOs_memOk
      | with_reducible apply State.setOs_memOk | fail_if_no_progress with_reducible apply memOk_mk | split)
theorem State.osAsk_memOk' {s t : State} {g : Group} {x : HeldLane} {o} (h : s.memOk) (e : s.osAsk g x = (o, t)) : t.memOk := by
  have := State.osAsk_memOk (g := g) (x := x) h
  rwa [e] at this

theorem State.osAskLane_memOk {s : State} {uid : Nat} {row : Nat} {pc : Pc} {h : HeldLane} (h_s : s.memOk) : State.memOk (State.osAskLane s uid row
    pc h) := by
  unfold State.osAskLane
  with_reducible repeat' (first
      | assumption | (refine State.osAsk_memOk' ?_ (by assumption)) | apply State.osAsk_memOk | apply State.modGroup_memOk
      | fail_if_no_progress apply memOk_mk | split)

theorem State.osTry_memOk {s : State} {uid : Nat} {row : Nat} {pc : Pc} {key : Option Dword} (h_s : s.memOk) : State.memOk (State.osTry s uid row pc
    key) := by
  unfold State.osTry
  with_reducible repeat' (first | assumption | apply State.osAskLane_memOk | fail_if_no_progress apply memOk_mk | apply memOk_foldl | split | intro _)

theorem State.osTryGroups_memOk {s : State} {uids : List Nat} {key : Option Dword} (h_s : s.memOk) : State.memOk (State.osTryGroups s uids key) := by
  unfold State.osTryGroups
  dsimp only
  with_reducible repeat' (first | assumption | apply State.osAskLane_memOk | fail_if_no_progress apply memOk_mk | apply memOk_foldl | split | intro _)

theorem State.osSend_memOk {s : State} {ms : List OsMsg} (h_s : s.memOk) : State.memOk (State.osSend s ms) := by
  unfold State.osSend
  with_reducible repeat' (first | assumption | fail_if_no_progress apply memOk_mk)

theorem State.osAbort_memOk {s : State} {uid : Nat} (h_s : s.memOk) : State.memOk (State.osAbort s uid) := by
  unfold State.osAbort
  dsimp only
  with_reducible repeat' (first
      | assumption | apply State.osSend_memOk | apply State.modGroup_memOk | apply State.modCtx_memOk | fail_if_no_progress apply memOk_mk | split)

theorem State.osEnd_memOk {s : State} {uid : Nat} (h_s : s.memOk) : State.memOk (State.osEnd s uid) := by
  unfold State.osEnd
  with_reducible repeat' (first | assumption | apply State.modGroup_memOk | apply State.osAbort_memOk)

/-! ### Lifecycle -/

theorem State.debit_memOk {s : State} {core : Nat} {units : Nat} (h_s : s.memOk) : State.memOk (State.debit s core units) := by
  unfold State.debit
  with_reducible repeat' (first | assumption | apply State.modCore_memOk)

theorem State.noteDebit_memOk {s : State} {ctx : BitVec 5} {units : Nat} (h_s : s.memOk) : State.memOk (State.noteDebit s ctx units) := by
  unfold State.noteDebit
  with_reducible repeat' (first | assumption | apply State.modCtx_memOk)

theorem State.onHandle_memOk {s : State} {ctx : BitVec 5} {h : Word} {f : Ray → Ray} (h_s : s.memOk) : State.memOk (State.onHandle s ctx h f) := by
  unfold State.onHandle
  with_reducible repeat' (first | assumption | apply State.modCore_memOk)

theorem State.endLanes_memOk {s : State} {g : Group} {lanes : Mask} (h_s : s.memOk) : State.memOk (State.endLanes s g lanes) := by
  unfold State.endLanes
  with_reducible repeat' (first | assumption | apply State.onHandle_memOk | fail_if_no_progress apply memOk_mk | apply memOk_foldl | split | intro _)

theorem State.teamOver_memOk {s : State} {tu : Nat} (h_s : s.memOk) : State.memOk (State.teamOver s tu) := by
  unfold State.teamOver
  dsimp only
  with_reducible repeat' (first
      | assumption | apply State.writeBackTeam_memOk | apply State.modLaunch_memOk | apply State.modTeam_memOk | apply State.followRatio_memOk
      | fail_if_no_progress apply memOk_mk | split)

theorem State.exitArrival_memOk {s : State} {g : Group} {r : BarReg} (h_s : s.memOk) : State.memOk (State.exitArrival s g r) := by
  unfold State.exitArrival
  dsimp only
  with_reducible repeat' (first
      | assumption | apply State.noteDrop_memOk | apply State.modTeam_memOk | apply State.barApply_memOk | fail_if_no_progress apply memOk_mk | split)

theorem State.exitArrivals_memOk {s : State} {uid : Nat} (h_s : s.memOk) : State.memOk (State.exitArrivals s uid) := by
  unfold State.exitArrivals
  with_reducible repeat' (first
      | assumption | apply State.exitArrival_memOk | apply State.modGroup_memOk | fail_if_no_progress apply memOk_mk | apply memOk_foldl | split
      | intro _)

theorem State.noteFree_memOk {s : State} {g : Group} {bs : List Nat} (h_s : s.memOk) : State.memOk (State.noteFree s g bs) := by
  unfold State.noteFree
  with_reducible repeat' (first | assumption | apply State.modPart_memOk | fail_if_no_progress apply memOk_mk | apply memOk_foldl | split)

theorem State.stopSpin_memOk {s : State} {g : Group} (h_s : s.memOk) : State.memOk (State.stopSpin s g) := by
  unfold State.stopSpin
  with_reducible repeat' (first | assumption | apply State.modLaunch_memOk | fail_if_no_progress apply memOk_mk | split)

theorem State.islandOff_memOk {s : State} {core : Nat} {part : Nat} (h_s : s.memOk) : State.memOk (State.islandOff s core part) := by
  unfold State.islandOff
  with_reducible repeat' (first | assumption | apply State.modPart_memOk | fail_if_no_progress apply memOk_mk | split)

theorem State.islandsOff_memOk {s : State} {core : Nat} (h_s : s.memOk) : State.memOk (State.islandsOff s core) := by
  unfold State.islandsOff
  with_reducible repeat' (first | assumption | apply State.islandOff_memOk | apply memOk_foldl | intro _)

theorem State.reap_memOk {s : State} {uid : Nat} (h_s : s.memOk) : State.memOk (State.reap s uid) := by
  unfold State.reap
  with_reducible repeat' (first
      | assumption | apply State.noteFree_memOk | apply State.islandOff_memOk | apply State.teamOver_memOk | fail_if_no_progress apply memOk_mk
      | split)

theorem State.endGroup_memOk {s : State} {uid : Nat} (h_s : s.memOk) : State.memOk (State.endGroup s uid) := by
  unfold State.endGroup
  with_reducible repeat' (first | assumption | apply State.release_memOk | apply State.exitArrivals_memOk | apply State.modGroup_memOk)

theorem State.tryExit_memOk {s : State} {uid : Nat} {boundary : Bool} (h_s : s.memOk) : State.memOk (State.tryExit s uid boundary) := by
  unfold State.tryExit
  dsimp only
  with_reducible repeat' (first
      | assumption | apply State.runOps_memOk | apply State.endGroup_memOk | apply State.reap_memOk | fail_if_no_progress apply memOk_mk | split)

theorem State.tryExits_memOk {s : State} (h_s : s.memOk) : State.memOk (State.tryExits s) := by
  unfold State.tryExits
  with_reducible repeat' (first | assumption | apply State.tryExit_memOk | apply memOk_foldl | intro _)

theorem State.endUnhandled_memOk {s : State} {uid : Nat} {cause : Nat} (h_s : s.memOk) : State.memOk (State.endUnhandled s uid cause) := by
  unfold State.endUnhandled
  dsimp only
  with_reducible repeat' (first
      | assumption | apply State.endLanes_memOk | apply State.osEnd_memOk | apply State.postCtx_memOk | apply State.stopSpin_memOk
      | apply State.modGroup_memOk | apply State.tryExit_memOk | fail_if_no_progress apply memOk_mk | split)

/-! ### Ops -/

theorem State.putGroup_memOk {s : State} {g : Group} (h_s : s.memOk) : State.memOk (State.putGroup s g) := by
  unfold State.putGroup
  with_reducible repeat' (first | assumption | apply State.modGroup_memOk)

theorem State.raiseTrap_memOk {s : State} {g : Group} {k : Nat} {p : Pending} (h_s : s.memOk) : State.memOk (State.raiseTrap s g k p) := by
  unfold State.raiseTrap
  dsimp only
  with_reducible repeat' (first
      | assumption | apply State.endUnhandled_memOk | apply State.modGroup_memOk | apply State.debit_memOk | apply State.noteDebit_memOk
      | fail_if_no_progress apply memOk_mk | split)

theorem State.trapRow_memOk {s : State} {uid : Nat} {k : Nat} {t : TrapInfo} {insn : Word} (h_s : s.memOk) : State.memOk (State.trapRow s uid k t
    insn) := by
  unfold State.trapRow
  with_reducible repeat' (first | assumption | apply State.raiseTrap_memOk | fail_if_no_progress apply memOk_mk | split)

theorem State.parkGroup_memOk {s : State} {g : Group} {k : Nat} {kind : Nat} {agent : Nat} {write : Bool} {va : Nat} {lanes : Mask} {fetch : Bool}
    (h_s : s.memOk) : State.memOk (State.parkGroup s g k kind agent write va lanes fetch) := by
  unfold State.parkGroup
  dsimp only
  with_reducible repeat' (first | assumption | apply State.addFault_memOk | apply State.modGroup_memOk)

theorem State.debitIssue_memOk {s : State} {ctx : BitVec 5} {core : Nat} {fmt : Word} {i : Instr} (h_s : s.memOk) : State.memOk (State.debitIssue s
    ctx core fmt i) := by
  unfold State.debitIssue
  dsimp only
  with_reducible repeat' (first | assumption | apply State.debit_memOk | apply State.noteDebit_memOk | fail_if_no_progress apply memOk_mk | split)

theorem State.finish_memOk {s : State} {before : Group} {k : Nat} {i : Instr} {pc : Option Pc} {fuse : Bool} (h_s : s.memOk) : State.memOk
    (State.finish s before k i pc fuse) := by
  unfold State.finish
  dsimp only
  with_reducible repeat' (first
      | assumption | apply State.modGroup_memOk | apply State.modLaunch_memOk | apply State.modTeam_memOk | apply Res.retire_memOk
      | fail_if_no_progress apply memOk_mk | split)

theorem State.conclude_memOk {s : State} {g : Group} {k : Nat} {i : Instr} {r : Res} (h : s.memOk) (hr : r.memOk) : (s.conclude g k i r).memOk := by
  unfold State.conclude
  cases r <;> dsimp only <;> repeat' (first
      | exact h | exact hr | with_reducible apply State.finish_memOk | with_reducible apply State.trapRow_memOk
      | with_reducible apply State.modGroup_memOk | with_reducible apply State.parkGroup_memOk)

theorem issue_keeps {i : Instr} {s : State} {body : Group → Nat → Res} (h : s.memOk) (hb : ∀ g k, (body g k).memOk) : Keeps (issue i s body) := by
  unfold issue
  split
  · exact fault_keeps
  · refine next_keeps (State.conclude_memOk h ?_)
    split
    · exact Res.trap_memOk
    · exact hb _ _

theorem keep_memOk {s : State} {g : Group} (h_s : s.memOk) : Res.memOk (keep s g) := by
  unfold keep
  with_reducible repeat' (first | assumption | apply State.putGroup_memOk | apply Res.retire_memOk)

end Sys2Proof.Machine
end

