-- ==== Sys2Proof/Laws/KeepsGroup.lean ====
section
/-! SUPPORT. Both memories keep their canonical form through every instruction with an encoding and what it shares with others. -/

namespace Sys2Proof.Machine

/-! ### Start -/

theorem State.addGroup_memOk {s : State} {g : Group} (h_s : s.memOk) : State.memOk (State.addGroup s g) := by
  unfold State.addGroup
  with_reducible repeat' (first | assumption | apply State.modCore_memOk | fail_if_no_progress apply memOk_mk)

theorem State.wakeCore_memOk {s : State} {core : Nat} (h_s : s.memOk) : State.memOk (State.wakeCore s core) := by
  unfold State.wakeCore
  with_reducible repeat' (first | assumption | apply State.modCore_memOk | fail_if_no_progress apply memOk_mk | split)

/-! ### Scalar -/

theorem scalarOp_memOk {i : Instr} {d : R7} {a : R7} {b : SOp} {f : Word → Word → Word} {s : State} (h_s : s.memOk) : Keeps (scalarOp i d a b f s)
    := by
  unfold scalarOp
  with_reducible repeat' (first | assumption | apply issue_memOk | apply keep_memOk | apply issue_keeps | split | intro _)

theorem execAdd_memOk {d : R7} {a : R7} {b : SOp} {s : State} (h_s : s.memOk) : Keeps (execAdd d a b s) := by
  unfold execAdd
  with_reducible repeat' (first | assumption | apply scalarOp_memOk)

theorem execSub_memOk {d : R7} {a : R7} {b : SOp} {s : State} (h_s : s.memOk) : Keeps (execSub d a b s) := by
  unfold execSub
  with_reducible repeat' (first | assumption | apply scalarOp_memOk)

theorem execMul_memOk {d : R7} {a : R7} {b : SOp} {s : State} (h_s : s.memOk) : Keeps (execMul d a b s) := by
  unfold execMul
  with_reducible repeat' (first | assumption | apply scalarOp_memOk)

theorem execMulh_memOk {d : R7} {a : R7} {b : SOp} {s : State} (h_s : s.memOk) : Keeps (execMulh d a b s) := by
  unfold execMulh
  with_reducible repeat' (first | assumption | apply scalarOp_memOk)

theorem execMulhu_memOk {d : R7} {a : R7} {b : SOp} {s : State} (h_s : s.memOk) : Keeps (execMulhu d a b s) := by
  unfold execMulhu
  with_reducible repeat' (first | assumption | apply scalarOp_memOk)

theorem execDiv_memOk {d : R7} {a : R7} {b : SOp} {s : State} (h_s : s.memOk) : Keeps (execDiv d a b s) := by
  unfold execDiv
  with_reducible repeat' (first | assumption | apply scalarOp_memOk)

theorem execDivu_memOk {d : R7} {a : R7} {b : SOp} {s : State} (h_s : s.memOk) : Keeps (execDivu d a b s) := by
  unfold execDivu
  with_reducible repeat' (first | assumption | apply scalarOp_memOk)

theorem execRem_memOk {d : R7} {a : R7} {b : SOp} {s : State} (h_s : s.memOk) : Keeps (execRem d a b s) := by
  unfold execRem
  with_reducible repeat' (first | assumption | apply scalarOp_memOk)

theorem execRemu_memOk {d : R7} {a : R7} {b : SOp} {s : State} (h_s : s.memOk) : Keeps (execRemu d a b s) := by
  unfold execRemu
  with_reducible repeat' (first | assumption | apply scalarOp_memOk)

theorem execAnd_memOk {d : R7} {a : R7} {b : SOp} {s : State} (h_s : s.memOk) : Keeps (execAnd d a b s) := by
  unfold execAnd
  with_reducible repeat' (first | assumption | apply scalarOp_memOk)

theorem execOr_memOk {d : R7} {a : R7} {b : SOp} {s : State} (h_s : s.memOk) : Keeps (execOr d a b s) := by
  unfold execOr
  with_reducible repeat' (first | assumption | apply scalarOp_memOk)

theorem execXor_memOk {d : R7} {a : R7} {b : SOp} {s : State} (h_s : s.memOk) : Keeps (execXor d a b s) := by
  unfold execXor
  with_reducible repeat' (first | assumption | apply scalarOp_memOk)

theorem execShl_memOk {d : R7} {a : R7} {b : SOp} {s : State} (h_s : s.memOk) : Keeps (execShl d a b s) := by
  unfold execShl
  with_reducible repeat' (first | assumption | apply scalarOp_memOk)

theorem execShr_memOk {d : R7} {a : R7} {b : SOp} {s : State} (h_s : s.memOk) : Keeps (execShr d a b s) := by
  unfold execShr
  with_reducible repeat' (first | assumption | apply scalarOp_memOk)

theorem execSar_memOk {d : R7} {a : R7} {b : SOp} {s : State} (h_s : s.memOk) : Keeps (execSar d a b s) := by
  unfold execSar
  with_reducible repeat' (first | assumption | apply scalarOp_memOk)

theorem execMin_memOk {d : R7} {a : R7} {b : SOp} {s : State} (h_s : s.memOk) : Keeps (execMin d a b s) := by
  unfold execMin
  with_reducible repeat' (first | assumption | apply scalarOp_memOk)

theorem execMax_memOk {d : R7} {a : R7} {b : SOp} {s : State} (h_s : s.memOk) : Keeps (execMax d a b s) := by
  unfold execMax
  with_reducible repeat' (first | assumption | apply scalarOp_memOk)

theorem execMinu_memOk {d : R7} {a : R7} {b : SOp} {s : State} (h_s : s.memOk) : Keeps (execMinu d a b s) := by
  unfold execMinu
  with_reducible repeat' (first | assumption | apply scalarOp_memOk)

theorem execMaxu_memOk {d : R7} {a : R7} {b : SOp} {s : State} (h_s : s.memOk) : Keeps (execMaxu d a b s) := by
  unfold execMaxu
  with_reducible repeat' (first | assumption | apply scalarOp_memOk)

theorem execSeq_memOk {d : R7} {a : R7} {b : SOp} {s : State} (h_s : s.memOk) : Keeps (execSeq d a b s) := by
  unfold execSeq
  with_reducible repeat' (first | assumption | apply scalarOp_memOk)

theorem execSne_memOk {d : R7} {a : R7} {b : SOp} {s : State} (h_s : s.memOk) : Keeps (execSne d a b s) := by
  unfold execSne
  with_reducible repeat' (first | assumption | apply scalarOp_memOk)

theorem execSlt_memOk {d : R7} {a : R7} {b : SOp} {s : State} (h_s : s.memOk) : Keeps (execSlt d a b s) := by
  unfold execSlt
  with_reducible repeat' (first | assumption | apply scalarOp_memOk)

theorem execSltu_memOk {d : R7} {a : R7} {b : SOp} {s : State} (h_s : s.memOk) : Keeps (execSltu d a b s) := by
  unfold execSltu
  with_reducible repeat' (first | assumption | apply scalarOp_memOk)

theorem execSel_memOk {d : R7} {a : R7} {b : SOp} {s : State} (h_s : s.memOk) : Keeps (execSel d a b s) := by
  unfold execSel
  with_reducible repeat' (first | assumption | apply issue_memOk | apply keep_memOk | apply issue_keeps | split | intro _)

theorem execMov_memOk {d : R7} {b : SOp} {s : State} (h_s : s.memOk) : Keeps (execMov d b s) := by
  unfold execMov
  with_reducible repeat' (first | assumption | apply issue_memOk | apply keep_memOk | apply issue_keeps | split | intro _)

theorem scalarOp1_memOk {i : Instr} {d : R7} {a : R7} {f : Word → Word} {s : State} (h_s : s.memOk) : Keeps (scalarOp1 i d a f s) := by
  unfold scalarOp1
  with_reducible repeat' (first | assumption | apply issue_memOk | apply keep_memOk | apply issue_keeps | split | intro _)

theorem execPopc_memOk {d : R7} {a : R7} {s : State} (h_s : s.memOk) : Keeps (execPopc d a s) := by
  unfold execPopc
  with_reducible repeat' (first | assumption | apply scalarOp1_memOk)

theorem execClz_memOk {d : R7} {a : R7} {s : State} (h_s : s.memOk) : Keeps (execClz d a s) := by
  unfold execClz
  with_reducible repeat' (first | assumption | apply scalarOp1_memOk)

theorem execCtz_memOk {d : R7} {a : R7} {s : State} (h_s : s.memOk) : Keeps (execCtz d a s) := by
  unfold execCtz
  with_reducible repeat' (first | assumption | apply scalarOp1_memOk)

theorem execMpop_memOk {d : R7} {a : R7} {s : State} (h_s : s.memOk) : Keeps (execMpop d a s) := by
  unfold execMpop
  with_reducible repeat' (first | assumption | apply issue_memOk | apply keep_memOk | apply issue_keeps | split | intro _)

theorem execMfirst_memOk {d : R7} {a : R7} {s : State} (h_s : s.memOk) : Keeps (execMfirst d a s) := by
  unfold execMfirst
  dsimp only
  with_reducible repeat' (first | assumption | apply issue_memOk | apply keep_memOk | apply issue_keeps | split | intro _)

theorem execNop_memOk {s : State} (h_s : s.memOk) : Keeps (execNop s) := by
  unfold execNop
  with_reducible repeat' (first | assumption | apply issue_memOk | apply keep_memOk | apply issue_keeps | split | intro _)

theorem execPause_memOk {s : State} (h_s : s.memOk) : Keeps (execPause s) := by
  unfold execPause
  with_reducible repeat' (first | assumption | apply issue_memOk | apply keep_memOk | apply issue_keeps | split | intro _)

theorem execGets_memOk {sel : BitVec 8} {d : R7} {s : State} (h_s : s.memOk) : Keeps (execGets sel d s) := by
  unfold execGets
  with_reducible repeat' (first | assumption | apply issue_memOk | apply keep_memOk | apply issue_keeps | split | intro _)

theorem execSets_memOk {sel : BitVec 8} {a : R7} {s : State} (h_s : s.memOk) : Keeps (execSets sel a s) := by
  unfold execSets
  with_reducible repeat' (first | assumption | apply issue_memOk | apply keep_memOk | apply issue_keeps | split | intro _)

theorem execFmt_memOk {b : SOp} {s : State} (h_s : s.memOk) : Keeps (execFmt b s) := by
  unfold execFmt
  with_reducible repeat' (first | assumption | apply issue_memOk | apply keep_memOk | apply issue_keeps | split | intro _)

theorem execPclass_memOk {b : SOp} {s : State} (h_s : s.memOk) : Keeps (execPclass b s) := by
  unfold execPclass
  with_reducible repeat' (first | assumption | apply issue_memOk | apply keep_memOk | apply issue_keeps | split | intro _)

/-! ### VecInt -/

theorem vecFl_memOk {i : Instr} {v : VOps} {f : State → Group → Word → Word → Word → Word × BitVec 3} {s : State} (h_s : s.memOk) : Keeps (vecFl i v
    f s) := by
  unfold vecFl
  dsimp only
  with_reducible repeat' (first | assumption | apply issue_memOk | apply keep_memOk | apply issue_keeps | split | intro _)

theorem vec_memOk {i : Instr} {v : VOps} {f : Word → Word → Word → Word} {s : State} (h_s : s.memOk) : Keeps (vec i v f s) := by
  unfold vec
  dsimp only
  with_reducible repeat' (first | assumption | apply issue_memOk | apply keep_memOk | apply issue_keeps | split | intro _)

theorem vecInt_memOk {i : Instr} {v : VOps} {f : Nat → Int → Int → Int → Int} {s : State} (h_s : s.memOk) : Keeps (vecInt i v f s) := by
  unfold vecInt
  dsimp only
  with_reducible repeat' (first | assumption | apply vec_memOk)

theorem vecNat_memOk {i : Instr} {v : VOps} {f : Nat → Nat → Nat → Nat → Nat} {s : State} (h_s : s.memOk) : Keeps (vecNat i v f s) := by
  unfold vecNat
  with_reducible repeat' (first | assumption | apply vec_memOk)

theorem execVaddInt_memOk {v : VOps} {s : State} (h_s : s.memOk) : Keeps (execVaddInt v s) := by
  unfold execVaddInt
  with_reducible repeat' (first | assumption | apply vecInt_memOk)

theorem execVsubInt_memOk {v : VOps} {s : State} (h_s : s.memOk) : Keeps (execVsubInt v s) := by
  unfold execVsubInt
  with_reducible repeat' (first | assumption | apply vecInt_memOk)

theorem execVmulInt_memOk {v : VOps} {s : State} (h_s : s.memOk) : Keeps (execVmulInt v s) := by
  unfold execVmulInt
  with_reducible repeat' (first | assumption | apply vecInt_memOk)

theorem execVmulh_memOk {v : VOps} {s : State} (h_s : s.memOk) : Keeps (execVmulh v s) := by
  unfold execVmulh
  with_reducible repeat' (first | assumption | apply vecInt_memOk)

theorem execVmad_memOk {v : VOps} {s : State} (h_s : s.memOk) : Keeps (execVmad v s) := by
  unfold execVmad
  with_reducible repeat' (first | assumption | apply vecInt_memOk)

theorem execVadds_memOk {v : VOps} {s : State} (h_s : s.memOk) : Keeps (execVadds v s) := by
  unfold execVadds
  with_reducible repeat' (first | assumption | apply vecInt_memOk)

theorem execVsubs_memOk {v : VOps} {s : State} (h_s : s.memOk) : Keeps (execVsubs v s) := by
  unfold execVsubs
  with_reducible repeat' (first | assumption | apply vecInt_memOk)

theorem execVand_memOk {v : VOps} {s : State} (h_s : s.memOk) : Keeps (execVand v s) := by
  unfold execVand
  with_reducible repeat' (first | assumption | apply vec_memOk)

theorem execVor_memOk {v : VOps} {s : State} (h_s : s.memOk) : Keeps (execVor v s) := by
  unfold execVor
  with_reducible repeat' (first | assumption | apply vec_memOk)

theorem execVxor_memOk {v : VOps} {s : State} (h_s : s.memOk) : Keeps (execVxor v s) := by
  unfold execVxor
  with_reducible repeat' (first | assumption | apply vec_memOk)

theorem execVnot_memOk {v : VOps} {s : State} (h_s : s.memOk) : Keeps (execVnot v s) := by
  unfold execVnot
  with_reducible repeat' (first | assumption | apply vec_memOk)

theorem execVshl_memOk {v : VOps} {s : State} (h_s : s.memOk) : Keeps (execVshl v s) := by
  unfold execVshl
  with_reducible repeat' (first | assumption | apply vecNat_memOk)

theorem execVshr_memOk {v : VOps} {s : State} (h_s : s.memOk) : Keeps (execVshr v s) := by
  unfold execVshr
  with_reducible repeat' (first | assumption | apply vecNat_memOk)

theorem execVsar_memOk {v : VOps} {s : State} (h_s : s.memOk) : Keeps (execVsar v s) := by
  unfold execVsar
  with_reducible repeat' (first | assumption | apply vecNat_memOk)

theorem execVminInt_memOk {v : VOps} {s : State} (h_s : s.memOk) : Keeps (execVminInt v s) := by
  unfold execVminInt
  with_reducible repeat' (first | assumption | apply vecInt_memOk)

theorem execVmaxInt_memOk {v : VOps} {s : State} (h_s : s.memOk) : Keeps (execVmaxInt v s) := by
  unfold execVmaxInt
  with_reducible repeat' (first | assumption | apply vecInt_memOk)

theorem execVabsInt_memOk {v : VOps} {s : State} (h_s : s.memOk) : Keeps (execVabsInt v s) := by
  unfold execVabsInt
  with_reducible repeat' (first | assumption | apply vecInt_memOk)

theorem execVcmpInt_memOk {v : VOps} {s : State} (h_s : s.memOk) : Keeps (execVcmpInt v s) := by
  unfold execVcmpInt
  with_reducible repeat' (first | assumption | apply vecInt_memOk)

theorem execVsel_memOk {v : VOps} {s : State} (h_s : s.memOk) : Keeps (execVsel v s) := by
  unfold execVsel
  with_reducible repeat' (first | assumption | apply vecNat_memOk)

theorem execVpopc_memOk {v : VOps} {s : State} (h_s : s.memOk) : Keeps (execVpopc v s) := by
  unfold execVpopc
  with_reducible repeat' (first | assumption | apply vecNat_memOk)

theorem execVclz_memOk {v : VOps} {s : State} (h_s : s.memOk) : Keeps (execVclz v s) := by
  unfold execVclz
  with_reducible repeat' (first | assumption | apply vecNat_memOk)

theorem execVmov_memOk {v : VOps} {s : State} (h_s : s.memOk) : Keeps (execVmov v s) := by
  unfold execVmov
  with_reducible repeat' (first | assumption | apply vec_memOk)

theorem execVdot4_memOk {v : VOps} {s : State} (h_s : s.memOk) : Keeps (execVdot4 v s) := by
  unfold execVdot4
  with_reducible repeat' (first | assumption | apply vec_memOk)

theorem execVbfe_memOk {v : VOps} {s : State} (h_s : s.memOk) : Keeps (execVbfe v s) := by
  unfold execVbfe
  with_reducible repeat' (first | assumption | apply vec_memOk)

theorem execVbfi_memOk {v : VOps} {s : State} (h_s : s.memOk) : Keeps (execVbfi v s) := by
  unfold execVbfi
  with_reducible repeat' (first | assumption | apply vec_memOk)

/-! ### VecFp -/

theorem vecFp_memOk {i : Instr} {v : VOps} {f : Fmt → Nat → Nat → Nat → FRes} {s : State} (h_s : s.memOk) : Keeps (vecFp i v f s) := by
  unfold vecFp
  dsimp only
  with_reducible repeat' (first | assumption | apply vecFl_memOk)

theorem vecFpRaw_memOk {i : Instr} {v : VOps} {f : Fmt → Nat → Nat → FRes} {s : State} (h_s : s.memOk) : Keeps (vecFpRaw i v f s) := by
  unfold vecFpRaw
  dsimp only
  with_reducible repeat' (first | assumption | apply vecFl_memOk)

theorem execVaddFp_memOk {v : VOps} {s : State} (h_s : s.memOk) : Keeps (execVaddFp v s) := by
  unfold execVaddFp
  with_reducible repeat' (first | assumption | apply vecFp_memOk)

theorem execVsubFp_memOk {v : VOps} {s : State} (h_s : s.memOk) : Keeps (execVsubFp v s) := by
  unfold execVsubFp
  with_reducible repeat' (first | assumption | apply vecFp_memOk)

theorem execVmulFp_memOk {v : VOps} {s : State} (h_s : s.memOk) : Keeps (execVmulFp v s) := by
  unfold execVmulFp
  with_reducible repeat' (first | assumption | apply vecFp_memOk)

theorem execVfma_memOk {v : VOps} {s : State} (h_s : s.memOk) : Keeps (execVfma v s) := by
  unfold execVfma
  with_reducible repeat' (first | assumption | apply vecFp_memOk)

theorem execVminFp_memOk {v : VOps} {s : State} (h_s : s.memOk) : Keeps (execVminFp v s) := by
  unfold execVminFp
  with_reducible repeat' (first | assumption | apply vecFp_memOk)

theorem execVmaxFp_memOk {v : VOps} {s : State} (h_s : s.memOk) : Keeps (execVmaxFp v s) := by
  unfold execVmaxFp
  with_reducible repeat' (first | assumption | apply vecFp_memOk)

theorem execVcmpFp_memOk {v : VOps} {s : State} (h_s : s.memOk) : Keeps (execVcmpFp v s) := by
  unfold execVcmpFp
  dsimp only
  with_reducible repeat' (first | assumption | apply vecFpRaw_memOk)

theorem execVabsFp_memOk {v : VOps} {s : State} (h_s : s.memOk) : Keeps (execVabsFp v s) := by
  unfold execVabsFp
  with_reducible repeat' (first | assumption | apply vecFp_memOk)

theorem execVneg_memOk {v : VOps} {s : State} (h_s : s.memOk) : Keeps (execVneg v s) := by
  unfold execVneg
  with_reducible repeat' (first | assumption | apply vecFp_memOk)

theorem execVclass_memOk {v : VOps} {s : State} (h_s : s.memOk) : Keeps (execVclass v s) := by
  unfold execVclass
  with_reducible repeat' (first | assumption | apply vecFpRaw_memOk)

/-! ### Convert -/

theorem execCvt_memOk {v : VOps} {s : State} (h_s : s.memOk) : Keeps (execCvt v s) := by
  unfold execCvt
  dsimp only
  with_reducible repeat' (first
      | assumption | apply issue_memOk | apply keep_memOk | exact Res.trap_memOk | apply issue_keeps | fail_if_no_progress apply memOk_mk | split
      | intro _)

theorem execSxpack_memOk {v : VOps} {s : State} (h_s : s.memOk) : Keeps (execSxpack v s) := by
  unfold execSxpack
  dsimp only
  with_reducible repeat' (first | assumption | apply issue_memOk | apply keep_memOk | apply issue_keeps | apply memOk_foldl | split | intro _)

theorem execSxunpk_memOk {v : VOps} {s : State} (h_s : s.memOk) : Keeps (execSxunpk v s) := by
  unfold execSxunpk
  dsimp only
  with_reducible repeat' (first | assumption | apply issue_memOk | apply keep_memOk | apply issue_keeps | apply memOk_foldl | split | intro _)

theorem execVrnd_memOk {v : VOps} {s : State} (h_s : s.memOk) : Keeps (execVrnd v s) := by
  unfold execVrnd
  with_reducible repeat' (first | assumption | apply vecFp_memOk)

theorem execVsqrt_memOk {v : VOps} {s : State} (h_s : s.memOk) : Keeps (execVsqrt v s) := by
  unfold execVsqrt
  with_reducible repeat' (first | assumption | apply vecFp_memOk)

theorem execVdiv_memOk {v : VOps} {s : State} (h_s : s.memOk) : Keeps (execVdiv v s) := by
  unfold execVdiv
  with_reducible repeat' (first | assumption | apply vecFp_memOk)

theorem vecApprox_memOk {i : Instr} {v : VOps} {fn : ApproxFn} {s : State} (h_s : s.memOk) : Keeps (vecApprox i v fn s) := by
  unfold vecApprox
  with_reducible repeat' (first | assumption | apply vecFp_memOk)

theorem execVrcp_memOk {v : VOps} {s : State} (h_s : s.memOk) : Keeps (execVrcp v s) := by
  unfold execVrcp
  with_reducible repeat' (first | assumption | apply vecApprox_memOk)

theorem execVrsq_memOk {v : VOps} {s : State} (h_s : s.memOk) : Keeps (execVrsq v s) := by
  unfold execVrsq
  with_reducible repeat' (first | assumption | apply vecApprox_memOk)

theorem execVexp2_memOk {v : VOps} {s : State} (h_s : s.memOk) : Keeps (execVexp2 v s) := by
  unfold execVexp2
  with_reducible repeat' (first | assumption | apply vecApprox_memOk)

theorem execVlog2_memOk {v : VOps} {s : State} (h_s : s.memOk) : Keeps (execVlog2 v s) := by
  unfold execVlog2
  with_reducible repeat' (first | assumption | apply vecApprox_memOk)

theorem execVsin_memOk {v : VOps} {s : State} (h_s : s.memOk) : Keeps (execVsin v s) := by
  unfold execVsin
  with_reducible repeat' (first | assumption | apply vecApprox_memOk)

theorem execVcos_memOk {v : VOps} {s : State} (h_s : s.memOk) : Keeps (execVcos v s) := by
  unfold execVcos
  with_reducible repeat' (first | assumption | apply vecApprox_memOk)

theorem execVtanh_memOk {v : VOps} {s : State} (h_s : s.memOk) : Keeps (execVtanh v s) := by
  unfold execVtanh
  with_reducible repeat' (first | assumption | apply vecApprox_memOk)

theorem execRand_memOk {v : VOps} {s : State} (h_s : s.memOk) : Keeps (execRand v s) := by
  unfold execRand
  dsimp only
  with_reducible repeat' (first
      | assumption | apply issue_memOk | apply keep_memOk | apply issue_keeps | fail_if_no_progress apply memOk_mk | split | intro _)

/-! ### CrossLane -/

theorem execVperm_memOk {v : VOps} {s : State} (h_s : s.memOk) : Keeps (execVperm v s) := by
  unfold execVperm
  dsimp only
  with_reducible repeat' (first | assumption | apply issue_memOk | apply keep_memOk | apply issue_keeps | split | intro _)

theorem execVcmpct_memOk {v : VOps} {s : State} (h_s : s.memOk) : Keeps (execVcmpct v s) := by
  unfold execVcmpct
  dsimp only
  with_reducible repeat' (first | assumption | apply issue_memOk | apply keep_memOk | apply issue_keeps | split | intro _)

theorem execVexpnd_memOk {v : VOps} {s : State} (h_s : s.memOk) : Keeps (execVexpnd v s) := by
  unfold execVexpnd
  dsimp only
  with_reducible repeat' (first | assumption | apply issue_memOk | apply keep_memOk | apply issue_keeps | split | intro _)

theorem execMatch_memOk {v : VOps} {s : State} (h_s : s.memOk) : Keeps (execMatch v s) := by
  unfold execMatch
  dsimp only
  with_reducible repeat' (first | assumption | apply issue_memOk | apply keep_memOk | apply issue_keeps | split | intro _)

theorem execReduce_memOk {v : VOps} {s : State} (h_s : s.memOk) : Keeps (execReduce v s) := by
  unfold execReduce
  dsimp only
  with_reducible repeat' (first | assumption | apply issue_memOk | apply keep_memOk | apply issue_keeps | split | intro _)

theorem execScan_memOk {v : VOps} {s : State} (h_s : s.memOk) : Keeps (execScan v s) := by
  unfold execScan
  dsimp only
  with_reducible repeat' (first | assumption | apply issue_memOk | apply keep_memOk | apply issue_keeps | apply memOk_foldl | split | intro _)

theorem execVballot_memOk {v : VOps} {s : State} (h_s : s.memOk) : Keeps (execVballot v s) := by
  unfold execVballot
  dsimp only
  with_reducible repeat' (first | assumption | apply issue_memOk | apply keep_memOk | apply issue_keeps | apply memOk_foldl | split | intro _)

theorem execVlane_memOk {v : VOps} {s : State} (h_s : s.memOk) : Keeps (execVlane v s) := by
  unfold execVlane
  dsimp only
  with_reducible repeat' (first | assumption | apply issue_memOk | apply keep_memOk | apply issue_keeps | split | intro _)

/-! ### Control -/

theorem checkTargets_memOk {s : State} {g : Group} {ts : List Int} {r : Res} (h_s : s.memOk) (h_r : r.memOk) : Res.memOk (checkTargets s g ts r) := by
  unfold checkTargets
  with_reducible repeat' (first | assumption | exact Res.trap_memOk | fail_if_no_progress apply memOk_mk | split)

theorem execJmp_memOk {tofs : BitVec 16} {s : State} (h_s : s.memOk) : Keeps (execJmp tofs s) := by
  unfold execJmp
  with_reducible repeat' (first
      | assumption | apply issue_memOk | apply checkTargets_memOk | apply Res.jump_memOk | apply issue_keeps | split | intro _)

theorem execJmpr_memOk {a : R7} {s : State} (h_s : s.memOk) : Keeps (execJmpr a s) := by
  unfold execJmpr
  dsimp only
  with_reducible repeat' (first
      | assumption | apply issue_memOk | apply Res.jump_memOk | exact Res.trap_memOk | apply issue_keeps | fail_if_no_progress apply memOk_mk | split
      | intro _)

theorem execBraS_memOk {cond : BitVec 5} {sb : Bool} {b : R7} {a : R7} {tofs : BitVec 16} {s : State} (h_s : s.memOk) : Keeps (execBraS cond sb b a
    tofs s) := by
  unfold execBraS
  dsimp only
  with_reducible repeat' (first
      | assumption | apply issue_memOk | apply checkTargets_memOk | apply Res.retire_memOk | apply Res.jump_memOk | apply issue_keeps | split
      | intro _)

theorem Group.diverge_memOk {s : State} {g : Group} {k : Nat} {x : Mask} {t : Pc} {j : Pc} {fall : Pc} (h_s : s.memOk) : Res.memOk (Group.diverge s
    g k x t j fall) := by
  unfold Group.diverge
  dsimp only
  with_reducible repeat' (first
      | assumption | apply State.putGroup_memOk | apply Res.jump_memOk | apply Res.done_memOk | exact Res.trap_memOk
      | fail_if_no_progress apply memOk_mk | split)

theorem execBraV_memOk {cond : BitVec 5} {sb : Bool} {b : R7} {a : R7} {tofs : BitVec 16} {jofs : BitVec 16} {s : State} (h_s : s.memOk) : Keeps
    (execBraV cond sb b a tofs jofs s) := by
  unfold execBraV
  dsimp only
  with_reducible repeat' (first
      | assumption | apply issue_memOk | apply checkTargets_memOk | apply Group.diverge_memOk | apply issue_keeps | split | intro _)

theorem execJoin_memOk {s : State} (h_s : s.memOk) : Keeps (execJoin s) := by
  unfold execJoin
  with_reducible repeat' (first
      | assumption | apply issue_memOk | apply State.putGroup_memOk | apply Res.done_memOk | apply Res.hold_memOk | exact Res.trap_memOk
      | apply issue_keeps | fail_if_no_progress apply memOk_mk | split | intro _)

theorem execLoop_memOk {sb : Bool} {x : R7} {tofs : BitVec 16} {s : State} (h_s : s.memOk) : Keeps (execLoop sb x tofs s) := by
  unfold execLoop
  dsimp only
  with_reducible repeat' (first
      | assumption | apply issue_memOk | apply checkTargets_memOk | apply State.putGroup_memOk | apply Res.retire_memOk | apply Res.jump_memOk
      | exact Res.trap_memOk | apply issue_keeps | fail_if_no_progress apply memOk_mk | split | intro _)

theorem lendRes_memOk {s : State} {g : Group} {k : Nat} {x : Bool} (h_s : s.memOk) : Res.memOk (lendRes s g k x) := by
  unfold lendRes
  dsimp only
  with_reducible repeat' (first
      | assumption | apply State.putGroup_memOk | apply Res.retire_memOk | apply Res.jump_memOk | exact Res.trap_memOk
      | fail_if_no_progress apply memOk_mk | split)

theorem execLend_memOk {s : State} (h_s : s.memOk) : Keeps (execLend s) := by
  unfold execLend
  with_reducible repeat' (first | assumption | apply issue_memOk | apply lendRes_memOk | apply issue_keeps | split | intro _)

theorem execLendX_memOk {s : State} (h_s : s.memOk) : Keeps (execLendX s) := by
  unfold execLendX
  with_reducible repeat' (first | assumption | apply issue_memOk | apply lendRes_memOk | apply issue_keeps | split | intro _)

theorem execExit_memOk {s : State} (h_s : s.memOk) : Keeps (execExit s) := by
  unfold execExit
  dsimp only
  with_reducible repeat' (first
      | assumption | apply issue_memOk | apply State.endLanes_memOk | apply State.putGroup_memOk | apply State.tryExit_memOk | apply Res.done_memOk
      | exact Res.trap_memOk | apply issue_keeps | split | intro _)

/-! ### Frames -/

theorem allocate_memOk {s : State} {g : Group} {k : Nat} {go : Group → Res} (h_s : s.memOk) (h_go : ∀ x0, Res.memOk (go x0)) : Res.memOk (allocate s
    g k go) := by
  unfold allocate
  dsimp only
  with_reducible repeat' (first
      | assumption | apply State.putGroup_memOk | apply h_go | apply Res.hold_memOk | exact Res.trap_memOk | fail_if_no_progress apply memOk_mk
      | split)

theorem freeThen_memOk {s : State} {g : Group} {lo : Nat} {hi : Nat} {go : State → Group → Res} (h_s : s.memOk) (h_go : ∀ x0 x1, x0.memOk →
    Res.memOk (go x0 x1)) : Res.memOk (freeThen s g lo hi go) := by
  unfold freeThen
  with_reducible repeat' (first | assumption | apply State.noteFree_memOk | apply h_go | apply Res.hold_memOk | split)

theorem frameCall_memOk {s : State} {g : Group} {k : Nat} {i : Instr} {d : Nat} {a : Nat} {target : Pc} (h_s : s.memOk) : Res.memOk (frameCall s g k
    i d a target) := by
  unfold frameCall
  dsimp only
  with_reducible repeat' (first
      | assumption | apply allocate_memOk | apply State.putGroup_memOk | apply Res.jump_memOk | exact Res.trap_memOk
      | fail_if_no_progress apply memOk_mk | split | intro _)

theorem frameChecks_memOk {g : Group} {r : Res} (h_r : r.memOk) : Res.memOk (frameChecks g r) := by
  unfold frameChecks
  with_reducible repeat' (first | assumption | exact Res.trap_memOk | split)

theorem execCall_memOk {demand : BitVec 5} {args : BitVec 5} {tofs : BitVec 16} {s : State} (h_s : s.memOk) : Keeps (execCall demand args tofs s) :=
    by
  unfold execCall
  with_reducible repeat' (first
      | assumption | apply issue_memOk | apply frameChecks_memOk | apply checkTargets_memOk | apply frameCall_memOk | apply issue_keeps | split
      | intro _)

theorem execCallr_memOk {b : R7} {demand : BitVec 5} {args : BitVec 5} {s : State} (h_s : s.memOk) : Keeps (execCallr b demand args s) := by
  unfold execCallr
  dsimp only
  with_reducible repeat' (first
      | assumption | apply issue_memOk | apply frameChecks_memOk | apply frameCall_memOk | exact Res.trap_memOk | apply issue_keeps
      | fail_if_no_progress apply memOk_mk | split | intro _)

theorem execRet_memOk {s : State} (h_s : s.memOk) : Keeps (execRet s) := by
  unfold execRet
  dsimp only
  with_reducible repeat' (first
      | assumption | apply issue_memOk | apply frameChecks_memOk | apply freeThen_memOk | apply State.putGroup_memOk | apply Res.jump_memOk
      | exact Res.trap_memOk | apply issue_keeps | fail_if_no_progress apply memOk_mk | split | intro _)

theorem execAcquire_memOk {b : SOp} {s : State} (h_s : s.memOk) : Keeps (execAcquire b s) := by
  unfold execAcquire
  dsimp only
  with_reducible repeat' (first
      | assumption | apply issue_memOk | apply State.acquire_memOk | apply frameChecks_memOk | apply allocate_memOk | apply keep_memOk
      | exact Res.trap_memOk | apply issue_keeps | fail_if_no_progress apply memOk_mk | split | intro _)

theorem execRelease_memOk {b : SOp} {s : State} (h_s : s.memOk) : Keeps (execRelease b s) := by
  unfold execRelease
  dsimp only
  with_reducible repeat' (first
      | assumption | apply issue_memOk | apply State.release_memOk | apply frameChecks_memOk | apply freeThen_memOk | apply keep_memOk
      | exact Res.trap_memOk | apply issue_keeps | fail_if_no_progress apply memOk_mk | split | intro _)

theorem execWbase_memOk {b : SOp} {s : State} (h_s : s.memOk) : Keeps (execWbase b s) := by
  unfold execWbase
  dsimp only
  with_reducible repeat' (first
      | assumption | apply issue_memOk | apply keep_memOk | exact Res.trap_memOk | apply issue_keeps | fail_if_no_progress apply memOk_mk | split
      | intro _)

theorem execUnwind_memOk {b : SOp} {s : State} (h_s : s.memOk) : Keeps (execUnwind b s) := by
  unfold execUnwind
  dsimp only
  with_reducible repeat' (first
      | assumption | apply issue_memOk | apply freeThen_memOk | apply keep_memOk | exact Res.trap_memOk | apply issue_keeps
      | fail_if_no_progress apply memOk_mk | split | intro _)

theorem execSwin_memOk {b : SOp} {s : State} (h_s : s.memOk) : Keeps (execSwin b s) := by
  unfold execSwin
  dsimp only
  with_reducible repeat' (first
      | assumption | apply issue_memOk | apply keep_memOk | exact Res.trap_memOk | apply issue_keeps | fail_if_no_progress apply memOk_mk | split
      | intro _)

/-! ### Memory -/

theorem State.pushOp_memOk {s : State} {uid : Nat} {cls : Option Cls} {body : OpBody} {f : Op → Op} (h_s : s.memOk) : State.memOk (State.pushOp s
    uid cls body f) := by
  unfold State.pushOp
  dsimp only
  with_reducible repeat' (first | assumption | apply State.fresh_memOk | apply State.modGroup_memOk)

theorem counted_memOk {s : State} {g : Group} {c : Cls} {r : Res} (h_s : s.memOk) (h_r : r.memOk) : Res.memOk (counted s g c r) := by
  unfold counted
  with_reducible repeat' (first | assumption | apply Res.hold_memOk | split)

theorem releaseThen_memOk {s : State} {g : Group} {scope : Nat} {go : State → Res} (h_s : s.memOk) (h_go : ∀ x0, x0.memOk → Res.memOk (go x0)) :
    Res.memOk (releaseThen s g scope go) := by
  unfold releaseThen
  with_reducible repeat' (first | assumption | apply State.modGroup_memOk | apply State.release_memOk | apply h_go | apply Res.hold_memOk | split)

theorem State.fenceBy_memOk {s : State} {g : Group} {f : Fence} (h_s : s.memOk) : State.memOk (State.fenceBy s g f) := by
  unfold State.fenceBy
  dsimp only
  with_reducible repeat' (first | assumption | apply State.modGroup_memOk | apply State.acquire_memOk | apply State.putFence_memOk | split | intro _)

theorem State.notePages_memOk {s : State} {g : Group} {ls : List (Nat × Loc)} (h_s : s.memOk) : State.memOk (State.notePages s g ls) := by
  unfold State.notePages
  with_reducible repeat' (first
      | assumption | apply State.touchNear_memOk | apply State.cacheTlb_memOk | fail_if_no_progress apply memOk_mk | apply memOk_foldl | split
      | intro _)

theorem locateThen_memOk {s : State} {g : Group} {sp : Space} {k : AccKind} {agent : Nat} {n : Nat} {align : Nat} {as : List (Nat × Nat)} {go : List
    (Nat × Loc) → List (Nat × Nat) → Res} (h_s : s.memOk) (h_go : ∀ x0 x1, Res.memOk (go x0 x1)) : Res.memOk (locateThen s g sp k agent n align as
    go) := by
  unfold locateThen
  dsimp only
  with_reducible repeat' (first
      | assumption | apply h_go | apply Res.hold_memOk | exact Res.trap_memOk | exact Res.park_memOk | fail_if_no_progress apply memOk_mk | split)

theorem State.noteShadows_memOk {s : State} {g : Group} {ls : List (Nat × Loc)} (h_s : s.memOk) : State.memOk (State.noteShadows s g ls) := by
  unfold State.noteShadows
  with_reducible repeat' (first | assumption | apply State.shadowAt_memOk | fail_if_no_progress apply memOk_mk | apply memOk_foldl | split | intro _)

theorem guarded_memOk {s : State} {g : Group} {row : Nat} {kind : Nat} {excl : Bool} {scalar : Bool} {ls : List (Nat × Loc)} {go : State → Res} (h_s
    : s.memOk) (h_go : ∀ x0, x0.memOk → Res.memOk (go x0)) : Res.memOk (guarded s g row kind excl scalar ls go) := by
  unfold guarded
  dsimp only
  with_reducible repeat' (first
      | assumption | apply State.raceLog_memOk | apply h_go | apply Res.hold_memOk | exact Res.trap_memOk | fail_if_no_progress apply memOk_mk | split)

theorem State.readLanes_memOk {s : State} {g : Group} {ls : List (Nat × Loc)} {n : Nat} (h : s.memOk) : (s.readLanes g ls n).2.2.memOk := by
  unfold State.readLanes
  dsimp only
  repeat' (first
      | with_reducible assumption | with_reducible apply State.prepareLoad_memOk | with_reducible apply State.touchLoad_memOk
      | with_reducible apply State.noteBadAccess_memOk | with_reducible apply State.meetPlace_memOk | with_reducible apply memOk_foldl | intro _ | split)

theorem State.pushLoad_memOk {s : State} {g : Group} {vec : Bool} {regs : List Nat} {vals : List (Nat × Nat)} {bad : List (Nat × Nat)} (h_s :
    s.memOk) : State.memOk (State.pushLoad s g vec regs vals bad) := by
  unfold State.pushLoad
  with_reducible repeat' (first | assumption | apply State.pushOp_memOk)

theorem loadRes_memOk {s : State} {g : Group} {row : Nat} {m : MOps} {sp : Space} {scalar : Bool} (h_s : s.memOk) : Res.memOk (loadRes s g row m sp
    scalar) := by
  unfold loadRes
  dsimp only
  with_reducible repeat' (first
      | assumption | apply locateThen_memOk | apply counted_memOk | apply guarded_memOk | apply State.performAtomics_memOk
      | apply State.notePages_memOk | apply State.readLanes_memOk | apply State.pushLoad_memOk | apply State.fenceBy_memOk | apply Res.retire_memOk
      | apply Res.hold_memOk | split | intro _)

theorem execLd_memOk {m : MOps} {s : State} (h_s : s.memOk) : Keeps (execLd m s) := by
  unfold execLd
  with_reducible repeat' (first | assumption | apply issue_memOk | apply loadRes_memOk | apply issue_keeps | split | intro _)

theorem execLds_memOk {m : MOps} {s : State} (h_s : s.memOk) : Keeps (execLds m s) := by
  unfold execLds
  with_reducible repeat' (first | assumption | apply issue_memOk | apply loadRes_memOk | apply issue_keeps | split | intro _)

theorem execLdsh_memOk {m : MOps} {s : State} (h_s : s.memOk) : Keeps (execLdsh m s) := by
  unfold execLdsh
  with_reducible repeat' (first | assumption | apply issue_memOk | apply loadRes_memOk | apply issue_keeps | split | intro _)

theorem execLdcl_memOk {m : MOps} {s : State} (h_s : s.memOk) : Keeps (execLdcl m s) := by
  unfold execLdcl
  with_reducible repeat' (first | assumption | apply issue_memOk | apply loadRes_memOk | apply issue_keeps | split | intro _)

theorem storeRes_memOk {s : State} {g : Group} {row : Nat} {m : MOps} {sp : Space} {scalar : Bool} (h_s : s.memOk) : Res.memOk (storeRes s g row m
    sp scalar) := by
  unfold storeRes
  dsimp only
  with_reducible repeat' (first
      | assumption | apply locateThen_memOk | apply State.release_memOk | apply counted_memOk | apply guarded_memOk | apply State.notePages_memOk
      | apply State.noteShadows_memOk | apply State.pushOp_memOk | apply State.modTeam_memOk | apply releaseThen_memOk | apply Res.retire_memOk
      | apply Res.hold_memOk | fail_if_no_progress apply memOk_mk | split | intro _)

theorem execSt_memOk {m : MOps} {s : State} (h_s : s.memOk) : Keeps (execSt m s) := by
  unfold execSt
  with_reducible repeat' (first | assumption | apply issue_memOk | apply storeRes_memOk | apply issue_keeps | split | intro _)

theorem execSts_memOk {m : MOps} {s : State} (h_s : s.memOk) : Keeps (execSts m s) := by
  unfold execSts
  with_reducible repeat' (first | assumption | apply issue_memOk | apply storeRes_memOk | apply issue_keeps | split | intro _)

theorem execStsh_memOk {m : MOps} {s : State} (h_s : s.memOk) : Keeps (execStsh m s) := by
  unfold execStsh
  with_reducible repeat' (first | assumption | apply issue_memOk | apply storeRes_memOk | apply issue_keeps | split | intro _)

theorem execStcl_memOk {m : MOps} {s : State} (h_s : s.memOk) : Keeps (execStcl m s) := by
  unfold execStcl
  with_reducible repeat' (first | assumption | apply issue_memOk | apply storeRes_memOk | apply issue_keeps | split | intro _)

/-! ### Atomics -/

theorem atomRes_memOk {s : State} {g : Group} {row : Nat} {m : MOps} {op : Nat} {ret : Bool} (h_s : s.memOk) : Res.memOk (atomRes s g row m op ret)
    := by
  unfold atomRes
  dsimp only
  with_reducible repeat' (first
      | assumption | apply locateThen_memOk | apply State.release_memOk | apply counted_memOk | apply guarded_memOk | apply State.notePages_memOk
      | apply State.pushOp_memOk | apply State.modGroup_memOk | apply releaseThen_memOk | apply Res.retire_memOk | apply Res.hold_memOk
      | exact Res.trap_memOk | fail_if_no_progress apply memOk_mk | split | intro _)

theorem execAtom_memOk {m : MOps} {s : State} (h_s : s.memOk) : Keeps (execAtom m s) := by
  unfold execAtom
  with_reducible repeat' (first | assumption | apply issue_memOk | apply atomRes_memOk | apply issue_keeps | split | intro _)

theorem execAtomn_memOk {m : MOps} {s : State} (h_s : s.memOk) : Keeps (execAtomn m s) := by
  unfold execAtomn
  with_reducible repeat' (first | assumption | apply issue_memOk | apply atomRes_memOk | apply issue_keeps | split | intro _)

theorem execCas_memOk {m : MOps} {s : State} (h_s : s.memOk) : Keeps (execCas m s) := by
  unfold execCas
  with_reducible repeat' (first | assumption | apply issue_memOk | apply atomRes_memOk | apply issue_keeps | split | intro _)

theorem execXchg_memOk {m : MOps} {s : State} (h_s : s.memOk) : Keeps (execXchg m s) := by
  unfold execXchg
  with_reducible repeat' (first | assumption | apply issue_memOk | apply atomRes_memOk | apply issue_keeps | split | intro _)

/-! ### Boot -/

theorem State.resetPart_memOk {s : State} {b : Boot} (h : s.memOk) : (s.resetPart b).memOk := ⟨rfl, h.2⟩

theorem execPerstNAssert_memOk {s : State} (h_s : s.memOk) : Keeps (execPerstNAssert s) := by
  unfold execPerstNAssert
  with_reducible repeat' (first | assumption | apply State.resetPart_memOk | apply next_keeps | fail_if_no_progress apply memOk_mk | split)

theorem execPerstNDeassert_memOk {s : State} (h_s : s.memOk) : Keeps (execPerstNDeassert s) := by
  unfold execPerstNDeassert
  with_reducible repeat' (first | assumption | apply next_keeps | fail_if_no_progress apply memOk_mk | split)

theorem execHotReset_memOk {s : State} (h_s : s.memOk) : Keeps (execHotReset s) := by
  unfold execHotReset
  with_reducible repeat' (first | assumption | apply State.resetPart_memOk | apply next_keeps | fail_if_no_progress apply memOk_mk | split)

theorem execFunctionLevelReset_memOk {s : State} (h_s : s.memOk) : Keeps (execFunctionLevelReset s) := by
  unfold execFunctionLevelReset
  with_reducible repeat' (first | assumption | apply State.resetPart_memOk | apply next_keeps | fail_if_no_progress apply memOk_mk | split)

theorem execPowerRemoval_memOk {s : State} (h_s : s.memOk) : Keeps (execPowerRemoval s) := by
  unfold execPowerRemoval
  with_reducible repeat' (first | assumption | apply State.resetPart_memOk | apply next_keeps | fail_if_no_progress apply memOk_mk | split)

theorem execPowerUp_memOk {s : State} (h_s : s.memOk) : Keeps (execPowerUp s) := by
  unfold execPowerUp
  with_reducible repeat' (first | assumption | apply State.resetPart_memOk | apply next_keeps | split)

theorem State.thermalTrip_memOk {s : State} (h_s : s.memOk) : State.memOk (State.thermalTrip s) := by
  unfold State.thermalTrip
  with_reducible repeat' (first | assumption | apply State.resetPart_memOk)

theorem execThermalTrip_memOk {sensor : BitVec 8} {s : State} (h_s : s.memOk) : Keeps (execThermalTrip sensor s) := by
  unfold execThermalTrip
  with_reducible repeat' (first | assumption | apply State.thermalTrip_memOk | apply next_keeps | split)

theorem execFirmwareLoadDone_memOk {bootErr : BitVec 8} {build : BitVec 8} {s : State} (h_s : s.memOk) : Keeps (execFirmwareLoadDone bootErr build
    s) := by
  unfold execFirmwareLoadDone
  with_reducible repeat' (first | assumption | apply next_keeps | fail_if_no_progress apply memOk_mk | split)

theorem State.zeroGenerations_memOk {s : State}  (h : s.memOk) : (s.zeroGenerations ).memOk := (State.zeroGenerations_homeOnly s).memOk h

theorem State.reportChannel_memOk {s : State} {n : Nat} (h_s : s.memOk) : State.memOk (State.reportChannel s n) := by
  unfold State.reportChannel
  with_reducible repeat' (first | assumption | apply State.lastingError_memOk)

theorem execChannelTrainingDone_memOk {failed : Word} {rate : BitVec 8} {s : State} (h_s : s.memOk) : Keeps (execChannelTrainingDone failed rate s)
    := by
  unfold execChannelTrainingDone
  dsimp only
  with_reducible repeat' (first
      | assumption | apply State.zeroGenerations_memOk | apply State.reportChannel_memOk | apply next_keeps | fail_if_no_progress apply memOk_mk
      | apply memOk_foldl | split)

theorem State.hostAsk_memOk {s : State} {req : CfgReq} (h_s : s.memOk) : State.memOk (State.hostAsk s req) := by
  unfold State.hostAsk
  with_reducible repeat' (first | assumption | fail_if_no_progress apply memOk_mk | split)

theorem execConfigurationRequest_memOk {s : State} (h_s : s.memOk) : Keeps (execConfigurationRequest s) := by
  unfold execConfigurationRequest
  with_reducible repeat' (first | assumption | apply next_keeps | fail_if_no_progress apply memOk_mk | split)

theorem execLinkUp_memOk {s : State} (h_s : s.memOk) : Keeps (execLinkUp s) := by
  unfold execLinkUp
  with_reducible repeat' (first | assumption | apply State.hostReturns_memOk | apply next_keeps | fail_if_no_progress apply memOk_mk | split)

theorem execCorrectableLinkError_memOk {s : State} (h_s : s.memOk) : Keeps (execCorrectableLinkError s) := by
  unfold execCorrectableLinkError
  with_reducible repeat' (first | assumption | apply next_keeps | fail_if_no_progress apply memOk_mk | split)

theorem execUncorrectableLinkError_memOk {err : LinkErr} {s : State} (h_s : s.memOk) : Keeps (execUncorrectableLinkError err s) := by
  unfold execUncorrectableLinkError
  dsimp only
  with_reducible repeat' (first | assumption | apply State.logError_memOk | apply next_keeps | fail_if_no_progress apply memOk_mk | split)

theorem execD3hotEntry_memOk {s : State} (h_s : s.memOk) : Keeps (execD3hotEntry s) := by
  unfold execD3hotEntry
  with_reducible repeat' (first | assumption | apply next_keeps | fail_if_no_progress apply memOk_mk | split)

theorem execD0Return_memOk {s : State} (h_s : s.memOk) : Keeps (execD0Return s) := by
  unfold execD0Return
  with_reducible repeat' (first | assumption | apply State.hostReturns_memOk | apply next_keeps | fail_if_no_progress apply memOk_mk | split)

theorem execRegulatorAlert_memOk {statusWord : BitVec 16} {s : State} (h_s : s.memOk) : Keeps (execRegulatorAlert statusWord s) := by
  unfold execRegulatorAlert
  with_reducible repeat' (first
      | assumption | apply State.logError_memOk | apply State.postDev_memOk | apply next_keeps | fail_if_no_progress apply memOk_mk | split)

theorem execBoundaryScan_memOk {tck : Bool} {tdi : Bool} {tms : Bool} {trstN : Bool} {s : State} (h_s : s.memOk) : Keeps (execBoundaryScan tck tdi
    tms trstN s) := by
  unfold execBoundaryScan
  dsimp only
  with_reducible repeat' (first | assumption | apply next_keeps | fail_if_no_progress apply memOk_mk | split)

theorem State.modChan_memOk {s : State} {n : Nat} {f : Chan → Chan} (h_s : s.memOk) : State.memOk (State.modChan s n f) := by
  unfold State.modChan
  with_reducible repeat' (first | assumption | fail_if_no_progress apply memOk_mk_dram)

theorem execWriteTimingRecentre_memOk {chan : BitVec 5} {s : State} (h_s : s.memOk) : Keeps (execWriteTimingRecentre chan s) := by
  unfold execWriteTimingRecentre
  with_reducible repeat' (first | assumption | apply State.modChan_memOk | apply next_keeps | fail_if_no_progress apply memOk_mk | split)

theorem execRefresh_memOk {chan : BitVec 5} {_perBank : Bool} {s : State} (h_s : s.memOk) : Keeps (execRefresh chan _perBank s) := by
  unfold execRefresh
  with_reducible repeat' (first | assumption | apply State.modChan_memOk | apply next_keeps | fail_if_no_progress apply memOk_mk | split)

theorem execSelfRefreshEntry_memOk {chan : BitVec 5} {s : State} (h_s : s.memOk) : Keeps (execSelfRefreshEntry chan s) := by
  unfold execSelfRefreshEntry
  with_reducible repeat' (first | assumption | apply State.modChan_memOk | apply next_keeps | fail_if_no_progress apply memOk_mk | split)

theorem execSelfRefreshExit_memOk {chan : BitVec 5} {s : State} (h_s : s.memOk) : Keeps (execSelfRefreshExit chan s) := by
  unfold execSelfRefreshExit
  with_reducible repeat' (first | assumption | apply State.modChan_memOk | apply next_keeps | fail_if_no_progress apply memOk_mk | split)

theorem execDramReadComplete_memOk {pa : BitVec 48} {correctable : Bool} {s : State} (h_s : s.memOk) : Keeps (execDramReadComplete pa correctable s)
    := by
  unfold execDramReadComplete
  dsimp only
  with_reducible repeat' (first
      | assumption | apply next_keeps | fail_if_no_progress apply memOk_mk_dram | fail_if_no_progress apply memOk_mk | split)

theorem execDramReadRetry_memOk {pa : BitVec 48} {correct : Bool} {s : State} (h_s : s.memOk) : Keeps (execDramReadRetry pa correct s) := by
  unfold execDramReadRetry
  dsimp only
  with_reducible repeat' (first
      | assumption | apply State.transientError_memOk | apply State.lastingError_memOk | apply next_keeps | fail_if_no_progress apply memOk_mk_dram
      | fail_if_no_progress apply memOk_mk | split)

/-! ### StashCache -/

theorem State.noteTlbs_memOk {s : State} {g : Group} {ps : List Nat} (h_s : s.memOk) : State.memOk (State.noteTlbs s g ps) := by
  unfold State.noteTlbs
  with_reducible repeat' (first | assumption | apply State.cacheTlb_memOk | apply memOk_foldl | intro _)

theorem State.dueErr_memOk {s : State} {uid : Nat} {e : Option Nat} (h_s : s.memOk) : State.memOk (State.dueErr s uid e) := by
  unfold State.dueErr
  with_reducible repeat' (first | assumption | apply State.modGroup_memOk | fail_if_no_progress apply memOk_mk | split)

theorem execStashMap_memOk {b : R7} {a : R7} {m : BitVec 3} {s : State} (h_s : s.memOk) : Keeps (execStashMap b a m s) := by
  unfold execStashMap
  dsimp only
  with_reducible repeat' (first
      | assumption | apply issue_memOk | apply State.noteTlbs_memOk | apply State.dueErr_memOk | apply State.pushOp_memOk
      | apply State.dropRange_memOk | apply State.installMap_memOk | apply Res.retire_memOk | apply Res.hold_memOk | exact Res.trap_memOk
      | exact Res.park_memOk | apply issue_keeps | fail_if_no_progress apply memOk_mk | split | intro _)

theorem execStashUnmap_memOk {m : BitVec 3} {s : State} (h_s : s.memOk) : Keeps (execStashUnmap m s) := by
  unfold execStashUnmap
  with_reducible repeat' (first
      | assumption | apply issue_memOk | apply counted_memOk | apply State.pushOp_memOk | apply Res.retire_memOk | exact Res.trap_memOk
      | apply issue_keeps | fail_if_no_progress apply memOk_mk | split | intro _)

theorem cleanRes_memOk {s : State} {g : Group} {k : Nat} {b : R7} {a : R7} {inval : Bool} (h_s : s.memOk) : Res.memOk (cleanRes s g k b a inval) := by
  unfold cleanRes
  dsimp only
  with_reducible repeat' (first
      | assumption | apply counted_memOk | apply State.noteTlbs_memOk | apply State.dueErr_memOk | apply State.pushOp_memOk | apply Res.retire_memOk
      | apply Res.hold_memOk | exact Res.trap_memOk | exact Res.park_memOk | fail_if_no_progress apply memOk_mk | split)

theorem execCwb_memOk {b : R7} {a : R7} {s : State} (h_s : s.memOk) : Keeps (execCwb b a s) := by
  unfold execCwb
  with_reducible repeat' (first | assumption | apply issue_memOk | apply cleanRes_memOk | apply issue_keeps | split | intro _)

theorem execCinv_memOk {b : R7} {a : R7} {s : State} (h_s : s.memOk) : Keeps (execCinv b a s) := by
  unfold execCinv
  with_reducible repeat' (first | assumption | apply issue_memOk | apply cleanRes_memOk | apply issue_keeps | split | intro _)

theorem execRel_memOk {scope : BitVec 3} {s : State} (h_s : s.memOk) : Keeps (execRel scope s) := by
  unfold execRel
  with_reducible repeat' (first
      | assumption | apply issue_memOk | apply State.fenceBy_memOk | apply Res.retire_memOk | apply issue_keeps | split | intro _)

theorem execAcq_memOk {scope : BitVec 3} {s : State} (h_s : s.memOk) : Keeps (execAcq scope s) := by
  unfold execAcq
  with_reducible repeat' (first
      | assumption | apply issue_memOk | apply State.fenceBy_memOk | apply Res.retire_memOk | apply issue_keeps | split | intro _)

theorem execPhase_memOk {scope : BitVec 3} {s : State} (h_s : s.memOk) : Keeps (execPhase scope s) := by
  unfold execPhase
  with_reducible repeat' (first
      | assumption | apply issue_memOk | apply State.fenceBy_memOk | apply Res.retire_memOk | apply issue_keeps | split | intro _)

/-! ### Sync -/

theorem waitRes_memOk {s : State} {g : Group} {ts : List (Cls × Nat)} (h_s : s.memOk) : Res.memOk (waitRes s g ts) := by
  unfold waitRes
  with_reducible repeat' (first | assumption | apply keep_memOk | apply Res.hold_memOk | split)

theorem execWait_memOk {tl : BitVec 4} {cp : BitVec 4} {st : BitVec 6} {ld : BitVec 6} {s : State} (h_s : s.memOk) : Keeps (execWait tl cp st ld s)
    := by
  unfold execWait
  with_reducible repeat' (first | assumption | apply issue_memOk | apply waitRes_memOk | apply issue_keeps | split | intro _)

theorem execWaitr_memOk {a : R7} {k : BitVec 2} {s : State} (h_s : s.memOk) : Keeps (execWaitr a k s) := by
  unfold execWaitr
  with_reducible repeat' (first | assumption | apply issue_memOk | apply waitRes_memOk | apply issue_keeps | split | intro _)

theorem atBar_memOk {s : State} {g : Group} {cl : Bool} {v : Word} {go : Nat × Nat → Res} (h_s : s.memOk) (h_go : ∀ x0, Res.memOk (go x0)) :
    Res.memOk (atBar s g cl v go) := by
  unfold atBar
  with_reducible repeat' (first | assumption | apply h_go | exact Res.trap_memOk | fail_if_no_progress apply memOk_mk | split)

theorem execBarJoin_memOk {a : R7} {cl : Bool} {s : State} (h_s : s.memOk) : Keeps (execBarJoin a cl s) := by
  unfold execBarJoin
  dsimp only
  with_reducible repeat' (first
      | assumption | apply issue_memOk | apply atBar_memOk | apply State.modGroup_memOk | apply State.pushOp_memOk | apply Res.retire_memOk
      | exact Res.trap_memOk | apply issue_keeps | fail_if_no_progress apply memOk_mk | split | intro _)

theorem execBarExpect_memOk {b : R7} {a : R7} {cl : Bool} {s : State} (h_s : s.memOk) : Keeps (execBarExpect b a cl s) := by
  unfold execBarExpect
  with_reducible repeat' (first
      | assumption | apply issue_memOk | apply atBar_memOk | apply counted_memOk | apply State.pushOp_memOk | apply Res.retire_memOk
      | apply issue_keeps | fail_if_no_progress apply memOk_mk | split | intro _)

theorem arriveNow_memOk {s : State} {g : Group} {k : Nat} {drop : Bool} {d : R7} {loc : Nat × Nat} (h_s : s.memOk) : Res.memOk (arriveNow s g k drop
    d loc) := by
  unfold arriveNow
  dsimp only
  with_reducible repeat' (first
      | assumption | apply releaseThen_memOk | apply State.noteDrop_memOk | apply State.modGroup_memOk | apply State.barApply_memOk
      | apply Res.retire_memOk | split | intro _)

theorem execBarArrive_memOk {drop : Bool} {cl : Bool} {a : R7} {d : R7} {s : State} (h_s : s.memOk) : Keeps (execBarArrive drop cl a d s) := by
  unfold execBarArrive
  dsimp only
  with_reducible repeat' (first
      | assumption | apply issue_memOk | apply atBar_memOk | apply keep_memOk | apply State.pushOp_memOk | apply State.performLines_memOk
      | apply arriveNow_memOk | apply Res.hold_memOk | exact Res.trap_memOk | apply issue_keeps | fail_if_no_progress apply memOk_mk | split | intro _)

theorem execBarWait_memOk {b : R7} {a : R7} {cl : Bool} {s : State} (h_s : s.memOk) : Keeps (execBarWait b a cl s) := by
  unfold execBarWait
  dsimp only
  with_reducible repeat' (first
      | assumption | apply issue_memOk | apply atBar_memOk | apply State.modGroup_memOk | apply State.fenceBy_memOk | apply Res.retire_memOk
      | apply Res.hold_memOk | apply issue_keeps | split | intro _)

/-! ### CopyEngine -/

theorem copyRes_memOk {s : State} {g : Group} {k : Nat} {a : R7} {n : Nat} {twoD : Bool} {fill : Bool} {mod : BitVec 8} (h_s : s.memOk) : Res.memOk
    (copyRes s g k a n twoD fill mod) := by
  unfold copyRes
  dsimp only
  with_reducible repeat' (first
      | assumption | apply counted_memOk | apply State.pushOp_memOk | apply Res.retire_memOk | exact Res.trap_memOk
      | fail_if_no_progress apply memOk_mk | split)

theorem execCopy_memOk {a : R7} {mod : BitVec 8} {s : State} (h_s : s.memOk) : Keeps (execCopy a mod s) := by
  unfold execCopy
  with_reducible repeat' (first | assumption | apply issue_memOk | apply copyRes_memOk | apply issue_keeps | split | intro _)

theorem execCopy2d_memOk {a : R7} {mod : BitVec 8} {s : State} (h_s : s.memOk) : Keeps (execCopy2d a mod s) := by
  unfold execCopy2d
  with_reducible repeat' (first | assumption | apply issue_memOk | apply copyRes_memOk | apply issue_keeps | split | intro _)

theorem execFill_memOk {a : R7} {mod : BitVec 8} {s : State} (h_s : s.memOk) : Keeps (execFill a mod s) := by
  unfold execFill
  with_reducible repeat' (first | assumption | apply issue_memOk | apply copyRes_memOk | apply issue_keeps | split | intro _)

/-! ### Spawn -/

theorem State.placeGroup_memOk {s t : State} {l : Launch} {tm : Team} {gid core blocks : Nat} {entry : Pc} {mask : Mask} {n : Nat} (h : s.memOk)
    (e : s.placeGroup l tm gid core blocks entry mask = some (t, n)) : t.memOk := by
  unfold State.placeGroup at e
  dsimp only at e
  repeat' split at e
  · cases e
  · cases e
  · cases e
    exact State.addGroup_memOk (State.fresh_memOk h)

theorem State.startWave_memOk {s t : State} {l : Launch} {core : Nat} {w : Wave} {n : Nat} (h : s.memOk) (e : s.startWave l core w = some (t, n))
    : t.memOk := by
  unfold State.startWave at e
  dsimp only at e
  split at e
  · cases e
  · split at e
    · cases e
    · next hp =>
      cases e
      apply State.modGroup_memOk
      apply State.modLaunch_memOk
      apply State.dropCoherent_memOk
      refine State.placeGroup_memOk ?_ hp
      exact memOk_mk (State.wakeCore_memOk (State.fresh_memOk h))

theorem State.startBin_memOk {s : State} {core : Nat} {i : Nat} {dest : Nat} (h_s : s.memOk) : State.memOk (State.startBin s core i dest) := by
  unfold State.startBin
  with_reducible repeat' (first
      | assumption | (refine State.startWave_memOk ?_ (by assumption)) | apply State.modCore_memOk | fail_if_no_progress apply memOk_mk | split)

theorem State.startBins_memOk {s : State} {core : Nat} (h_s : s.memOk) : State.memOk (State.startBins s core) := by
  unfold State.startBins
  with_reducible repeat' (first | assumption | apply State.startBin_memOk | apply memOk_foldl | split | intro _)

theorem State.sendRecord_memOk {s t : State} {core : Nat} {k : BinKey} {r : BinRec} (h : s.memOk) (e : s.sendRecord core k r = some t)
    : t.memOk := by
  unfold State.sendRecord at e
  obtain ⟨bs, -, rfl⟩ := Option.map_eq_some_iff.mp e
  exact State.startBins_memOk (State.modCore_memOk h)

theorem State.sendAll_memOk {core : Nat → Option Nat} {k : BinKey} {rc : Nat → List Word} {l : List Nat} :
    ∀ {s : State} {m : Mask}, s.memOk → (s.sendAll core k rc l m).2.memOk := by
  induction l with
  | nil => exact fun h => h
  | cons i r ih =>
    intro s m h
    unfold State.sendAll
    split
    · exact h
    · next e =>
      obtain ⟨c, -, hc⟩ := Option.bind_eq_some_iff.mp e
      exact ih (State.sendRecord_memOk h hc)

theorem execSpawn_memOk {a : R7} {d : R7} {mod : BitVec 8} {s : State} (h_s : s.memOk) : Keeps (execSpawn a d mod s) := by
  unfold execSpawn
  dsimp only
  with_reducible repeat' (first
      | assumption | apply issue_memOk | apply State.modLaunch_memOk | apply State.sendAll_memOk | apply State.modGroup_memOk | apply Res.retire_memOk
      | apply Res.hold_memOk | exact Res.trap_memOk | apply issue_keeps | fail_if_no_progress apply memOk_mk | split | intro _)

theorem execReserve_memOk {sb : Bool} {b : R7} {d : R7} {s : State} (h_s : s.memOk) : Keeps (execReserve sb b d s) := by
  unfold execReserve
  dsimp only
  with_reducible repeat' (first
      | assumption | apply issue_memOk | apply State.reserve_memOk | apply counted_memOk | apply State.pushOp_memOk | apply Res.retire_memOk
      | exact Res.trap_memOk | apply issue_keeps | fail_if_no_progress apply memOk_mk | split | intro _)

theorem State.startConsumer_memOk {s : State} {launch : Nat} {entry : Pc} {core : Nat} (h_s : s.memOk) : State.memOk (State.startConsumer s launch
    entry core) := by
  unfold State.startConsumer
  dsimp only
  with_reducible repeat' (first
      | assumption | (refine State.startWave_memOk ?_ (by assumption)) | apply State.modLaunch_memOk | fail_if_no_progress apply memOk_mk | split)

theorem State.startFull_memOk {launch core : Nat} {n : Nat} : ∀ {s : State}, s.memOk → (s.startFull launch core n).memOk := by
  induction n with
  | zero => exact fun h => h
  | succ n ih =>
    intro s h
    unfold State.startFull
    repeat' (first | with_reducible assumption | with_reducible apply ih | with_reducible apply State.startConsumer_memOk | split)

theorem State.commitRun_memOk {s : State} {launch : Nat} {cell : Nat} {entry : Pc} {now : Nat} (h_s : s.memOk) : State.memOk (State.commitRun s
    launch cell entry now) := by
  unfold State.commitRun
  with_reducible repeat' (first | assumption | apply State.modLaunch_memOk)

theorem execCommit_memOk {a : R7} {s : State} (h_s : s.memOk) : Keeps (execCommit a s) := by
  unfold execCommit
  dsimp only
  with_reducible repeat' (first
      | assumption | apply issue_memOk | apply releaseThen_memOk | apply State.modLaunch_memOk | apply State.commitRun_memOk
      | apply State.startFull_memOk | apply Res.retire_memOk | exact Res.trap_memOk | apply issue_keeps | fail_if_no_progress apply memOk_mk | split
      | intro _)

/-! ### MatrixIns -/

theorem afterChecks_memOk {cs : List (Option TrapInfo)} {r : Res} (h_r : r.memOk) : Res.memOk (afterChecks cs r) := by
  unfold afterChecks
  with_reducible repeat' (first | assumption | exact Res.trap_memOk | fail_if_no_progress apply memOk_mk | split)

theorem withTeam_memOk {s : State} {g : Group} {go : Team → Res} (h_s : s.memOk) (h_go : ∀ x0, Res.memOk (go x0)) : Res.memOk (withTeam s g go) := by
  unfold withTeam
  with_reducible repeat' (first | assumption | apply h_go | apply Res.hold_memOk | fail_if_no_progress apply memOk_mk | split)

theorem streamRes_memOk {s : State} {g : Group} {cls : Option Cls} {body : OpBody} {dests : List (Bool × Nat)} (h_s : s.memOk) : Res.memOk
    (streamRes s g cls body dests) := by
  unfold streamRes
  dsimp only
  with_reducible repeat' (first
      | assumption | apply State.pushOp_memOk | apply counted_memOk | apply Res.retire_memOk | apply Res.hold_memOk
      | fail_if_no_progress apply memOk_mk | split)

theorem execClaim_memOk {d : R7} {s : State} (h_s : s.memOk) : Keeps (execClaim d s) := by
  unfold execClaim
  dsimp only
  with_reducible repeat' (first
      | assumption | apply issue_memOk | apply withTeam_memOk | apply keep_memOk | apply State.modTeam_memOk | apply State.modGroup_memOk
      | apply Res.retire_memOk | apply Res.hold_memOk | exact Res.trap_memOk | apply issue_keeps | fail_if_no_progress apply memOk_mk | split
      | intro _)

theorem execReleaseSlot_memOk {a : R7} {s : State} (h_s : s.memOk) : Keeps (execReleaseSlot a s) := by
  unfold execReleaseSlot
  dsimp only
  with_reducible repeat' (first
      | assumption | apply issue_memOk | apply withTeam_memOk | apply afterChecks_memOk | apply State.modTeam_memOk | apply State.freeSlots_memOk
      | apply Res.retire_memOk | apply issue_keeps | split | intro _)

theorem execTload_memOk {a : R7} {mod : BitVec 8} {s : State} (h_s : s.memOk) : Keeps (execTload a mod s) := by
  unfold execTload
  dsimp only
  with_reducible repeat' (first
      | assumption | apply issue_memOk | apply withTeam_memOk | apply afterChecks_memOk | apply counted_memOk | apply State.pushOp_memOk
      | apply Res.retire_memOk | apply issue_keeps | fail_if_no_progress apply memOk_mk | split | intro _)

theorem execMma_memOk {d : R7} {a : R7} {b : R7} {mod : BitVec 8} {s : State} (h_s : s.memOk) : Keeps (execMma d a b mod s) := by
  unfold execMma
  dsimp only
  with_reducible repeat' (first
      | assumption | apply issue_memOk | apply withTeam_memOk | apply afterChecks_memOk | apply streamRes_memOk | apply issue_keeps | split | intro _)

theorem execHad_memOk {a : R7} {b : R7} {mod : BitVec 8} {s : State} (h_s : s.memOk) : Keeps (execHad a b mod s) := by
  unfold execHad
  dsimp only
  with_reducible repeat' (first
      | assumption | apply issue_memOk | apply withTeam_memOk | apply afterChecks_memOk | apply streamRes_memOk | apply issue_keeps | split | intro _)

theorem execAccz_memOk {a : R7} {b : R7} {s : State} (h_s : s.memOk) : Keeps (execAccz a b s) := by
  unfold execAccz
  dsimp only
  with_reducible repeat' (first
      | assumption | apply issue_memOk | apply withTeam_memOk | apply afterChecks_memOk | apply streamRes_memOk | apply issue_keeps | split | intro _)

theorem execMfence_memOk {s : State} (h_s : s.memOk) : Keeps (execMfence s) := by
  unfold execMfence
  dsimp only
  with_reducible repeat' (first
      | assumption | apply issue_memOk | apply keep_memOk | apply Res.hold_memOk | apply issue_keeps | fail_if_no_progress apply memOk_mk | split
      | intro _)

theorem mwaitRes_memOk {s : State} {g : Group} {b : Nat} (h_s : s.memOk) : Res.memOk (mwaitRes s g b) := by
  unfold mwaitRes
  with_reducible repeat' (first | assumption | apply Res.retire_memOk | apply Res.hold_memOk | fail_if_no_progress apply memOk_mk | split)

theorem execMwait_memOk {a : R7} {s : State} (h_s : s.memOk) : Keeps (execMwait a s) := by
  unfold execMwait
  with_reducible repeat' (first | assumption | apply issue_memOk | apply mwaitRes_memOk | apply issue_keeps | split | intro _)

theorem execMwaitImm_memOk {b : BitVec 4} {s : State} (h_s : s.memOk) : Keeps (execMwaitImm b s) := by
  unfold execMwaitImm
  with_reducible repeat' (first | assumption | apply issue_memOk | apply mwaitRes_memOk | apply issue_keeps | split | intro _)

theorem execAccrd_memOk {d : R7} {a : R7} {mod : BitVec 8} {s : State} (h_s : s.memOk) : Keeps (execAccrd d a mod s) := by
  unfold execAccrd
  dsimp only
  with_reducible repeat' (first
      | assumption | apply issue_memOk | apply withTeam_memOk | apply afterChecks_memOk | apply streamRes_memOk | apply issue_keeps | split | intro _)

theorem execAccst_memOk {a : R7} {mod : BitVec 8} {s : State} (h_s : s.memOk) : Keeps (execAccst a mod s) := by
  unfold execAccst
  dsimp only
  with_reducible repeat' (first
      | assumption | apply issue_memOk | apply withTeam_memOk | apply afterChecks_memOk | apply streamRes_memOk | apply issue_keeps | split | intro _)

theorem execVmx_memOk {sb : Bool} {d : R7} {a : R7} {b : R7} {mod : BitVec 8} {s : State} (h_s : s.memOk) : Keeps (execVmx sb d a b mod s) := by
  unfold execVmx
  dsimp only
  with_reducible repeat' (first
      | assumption | apply issue_memOk | apply locateThen_memOk | apply guarded_memOk | apply State.performAtomics_memOk | apply State.notePages_memOk
      | apply State.readLanes_memOk | apply State.modGroup_memOk | apply Res.retire_memOk | apply Res.hold_memOk | exact Res.trap_memOk
      | apply issue_keeps | fail_if_no_progress apply memOk_mk | apply memOk_foldl | split | intro _)

/-! ### Raster -/

theorem execRast_memOk {d : R7} {a : R7} {s : State} (h_s : s.memOk) : Keeps (execRast d a s) := by
  unfold execRast
  dsimp only
  with_reducible repeat' (first
      | assumption | apply issue_memOk | apply keep_memOk | exact Res.trap_memOk | apply issue_keeps | fail_if_no_progress apply memOk_mk
      | apply memOk_foldl | split | intro _)

/-! ### Sample -/

theorem sampleRes_memOk {s : State} {g : Group} {row : Nat} {v : VOps} {a : SampleArgs} {t : Tex} {p : Samp} (h_s : s.memOk) : Res.memOk (sampleRes
    s g row v a t p) := by
  unfold sampleRes
  dsimp only
  with_reducible repeat' (first
      | assumption | apply locateThen_memOk | apply counted_memOk | apply State.performAtomics_memOk | apply State.notePages_memOk
      | apply State.readLanes_memOk | apply State.pushLoad_memOk | apply Res.retire_memOk | apply Res.hold_memOk | exact Res.trap_memOk
      | fail_if_no_progress apply memOk_mk | split | intro _)

theorem execSample_memOk {v : VOps} {s : State} (h_s : s.memOk) : Keeps (execSample v s) := by
  unfold execSample
  refine issue_keeps h_s fun g k => ?_
  dsimp only
  have h2 := State.noteTlb_memOk (g := g) (va := g.spair s k (v.b.toNat + 2)) (State.noteTlb_memOk (g := g) (va := g.spair s k v.b.toNat) h_s)
  generalize (s.noteTlb g (g.spair s k v.b.toNat)).noteTlb g (g.spair s k (v.b.toNat + 2)) = s2 at h2 ⊢
  with_reducible repeat' (first
      | assumption | apply counted_memOk | apply State.noteOwnError_memOk | apply State.pushLoad_memOk | apply sampleRes_memOk
      | apply Res.retire_memOk | apply Res.hold_memOk | exact Res.trap_memOk | exact Res.park_memOk | split)

/-! ### Memo -/

theorem State.noteGen_memOk {s : State} {g : Group} {va : Nat} (h_s : s.memOk) : State.memOk (State.noteGen s g va) := by
  unfold State.noteGen
  dsimp only
  with_reducible repeat' (first
      | assumption | apply State.noteBadAccess_memOk | apply State.cacheTlb_memOk | fail_if_no_progress apply memOk_mk | apply memOk_foldl | split
      | intro _)

theorem State.noteGens_memOk {s : State} {g : Group} {vas : List Nat} (h_s : s.memOk) : State.memOk (State.noteGens s g vas) := by
  unfold State.noteGens
  with_reducible repeat' (first | assumption | apply State.noteGen_memOk | apply memOk_foldl | intro _)

theorem State.memoTouch_memOk {s : State} {set : Nat} {w : Nat} (h_s : s.memOk) : State.memOk (State.memoTouch s set w) := by
  unfold State.memoTouch
  with_reducible repeat' (first | assumption | fail_if_no_progress apply memOk_mk)

theorem State.memoStore_memOk {s : State} {e : MemoEntry} (h_s : s.memOk) : State.memOk (State.memoStore s e) := by
  unfold State.memoStore
  dsimp only
  with_reducible repeat' (first | assumption | apply State.clearSram_memOk | apply State.memoTouch_memOk | fail_if_no_progress apply memOk_mk)

theorem State.memoDrop_memOk {s : State} {e : MemoEntry} (h_s : s.memOk) : State.memOk (State.memoDrop s e) := by
  unfold State.memoDrop
  with_reducible repeat' (first | assumption | fail_if_no_progress apply memOk_mk | split)

theorem State.memoPost_memOk {s : State} {m : MemoMsg} (h_s : s.memOk) : State.memOk (State.memoPost s m) := by
  unfold State.memoPost
  with_reducible repeat' (first | assumption | fail_if_no_progress apply memOk_mk)

theorem State.memoApply_memOk {s : State} {m : MemoMsg} (h_s : s.memOk) : State.memOk (State.memoApply s m) := by
  unfold State.memoApply
  with_reducible repeat' (first | assumption | apply State.memoDrop_memOk | apply State.memoStore_memOk | split)

theorem State.memoArrive_memOk {s : State} {must : MemoMsg → Bool} (h_s : s.memOk) : State.memOk (State.memoArrive s must) := by
  unfold State.memoArrive
  dsimp only
  with_reducible repeat' (first | assumption | apply State.memoApply_memOk | fail_if_no_progress apply memOk_mk | apply memOk_foldl | intro _)

theorem State.memoLookup_memOk {s : State} {core : Nat} {ctx : BitVec 5} {kind : BitVec 2} {key : Dword × Word} (h : s.memOk)
    : (s.memoLookup core ctx kind key).2.memOk := by
  unfold State.memoLookup
  dsimp only
  repeat' (first
      | with_reducible assumption | with_reducible apply State.memoArrive_memOk | with_reducible apply State.memoTouch_memOk
      | with_reducible apply State.meetSram_memOk | fail_if_no_progress with_reducible apply memOk_mk | split)

theorem State.memoFlush_memOk {s : State} {ctx : BitVec 5} (h_s : s.memOk) : State.memOk (State.memoFlush s ctx) := by
  unfold State.memoFlush
  dsimp only
  with_reducible repeat' (first | assumption | apply State.memoArrive_memOk | fail_if_no_progress apply memOk_mk)

theorem State.memoMismatch_memOk {s : State} {g : Group} {e : MemoEntry} (h_s : s.memOk) : State.memOk (State.memoMismatch s g e) := by
  unfold State.memoMismatch
  with_reducible repeat' (first | assumption | apply State.memoPost_memOk | apply State.modCtx_memOk | apply State.postCtx_memOk)

theorem State.memoChecked_memOk {s : State} {ctx : BitVec 5} {n : Nat} (h_s : s.memOk) : State.memOk (State.memoChecked s ctx n) := by
  unfold State.memoChecked
  with_reducible repeat' (first | assumption | apply State.modCtx_memOk)

theorem State.credit_memOk {s : State} {ctx : BitVec 5} {n : Nat} (h_s : s.memOk) : State.memOk (State.credit s ctx n) := by
  unfold State.credit
  with_reducible repeat' (first | assumption | apply State.modCtx_memOk)

theorem regionCheck_memOk {g : Group} {split : Bool} {want : RegionState} {r : Res} (h_r : r.memOk) : Res.memOk (regionCheck g split want r) := by
  unfold regionCheck
  with_reducible repeat' (first | assumption | exact Res.trap_memOk | split)

theorem execPureBegin_memOk {a : R7} {s : State} (h_s : s.memOk) : Keeps (execPureBegin a s) := by
  unfold execPureBegin
  dsimp only
  with_reducible repeat' (first
      | assumption | apply issue_memOk | apply regionCheck_memOk | apply keep_memOk | apply issue_keeps | fail_if_no_progress apply memOk_mk | split
      | intro _)

theorem execMkey_memOk {v : VOps} {s : State} (h_s : s.memOk) : Keeps (execMkey v s) := by
  unfold execMkey
  dsimp only
  with_reducible repeat' (first
      | assumption | apply issue_memOk | apply regionCheck_memOk | apply keep_memOk | apply State.noteGens_memOk | apply Res.hold_memOk
      | exact Res.trap_memOk | exact Res.park_memOk | exact fault_keeps | apply issue_keeps | fail_if_no_progress apply memOk_mk | split | intro _)

theorem State.probeAll_memOk {g : Group} {l : List Nat} : ∀ {s : State}, s.memOk → (s.probeAll g l).2.memOk := by
  induction l with
  | nil => exact fun h => h
  | cons i r ih =>
    intro s h
    unfold State.probeAll
    dsimp only
    split
    · exact ih h
    · split <;> exact ih (State.memoLookup_memOk h)

theorem probeRes_memOk {s : State} {g : Group} {k : Nat} {d : R7} {pw : Nat} {quad : Bool} (h_s : s.memOk) : Res.memOk (probeRes s g k d pw quad) :=
    by
  unfold probeRes
  dsimp only
  with_reducible repeat' (first
      | assumption | apply State.probeAll_memOk | apply State.modGroup_memOk | apply State.memoChecked_memOk | apply State.credit_memOk
      | apply Res.retire_memOk | fail_if_no_progress apply memOk_mk | apply memOk_foldl | split)

theorem execPureProbe_memOk {d : R7} {mod : BitVec 8} {s : State} (h_s : s.memOk) : Keeps (execPureProbe d mod s) := by
  unfold execPureProbe
  dsimp only
  with_reducible repeat' (first
      | assumption | apply issue_memOk | apply regionCheck_memOk | apply probeRes_memOk | apply State.putGroup_memOk | apply State.modGroup_memOk
      | apply Res.hold_memOk | apply issue_keeps | fail_if_no_progress apply memOk_mk | split | intro _)

theorem State.endLane_memOk {s : State} {g : Group} {cost : Nat} {ws : Nat → List Word} {i : Nat} (h_s : s.memOk) : State.memOk (State.endLane s g
    cost ws i) := by
  unfold State.endLane
  dsimp only
  with_reducible repeat' (first
      | assumption | apply State.memoMismatch_memOk | apply State.memoPost_memOk | fail_if_no_progress apply memOk_mk | split)

theorem execPureEnd_memOk {s : State} (h_s : s.memOk) : Keeps (execPureEnd s) := by
  unfold execPureEnd
  dsimp only
  with_reducible repeat' (first
      | assumption | apply issue_memOk | apply regionCheck_memOk | apply State.endLane_memOk | apply State.modGroup_memOk | apply Res.retire_memOk
      | exact Res.trap_memOk | apply issue_keeps | fail_if_no_progress apply memOk_mk | apply memOk_foldl | split | intro _)

theorem execMemoFlush_memOk {s : State} (h_s : s.memOk) : Keeps (execMemoFlush s) := by
  unfold execMemoFlush
  with_reducible repeat' (first
      | assumption | apply issue_memOk | apply State.memoFlush_memOk | apply Res.retire_memOk | apply issue_keeps | split | intro _)

theorem execMemoLookupReturn_memOk {group : Nat} {s : State} (h_s : s.memOk) : Keeps (execMemoLookupReturn group s) := by
  unfold execMemoLookupReturn
  with_reducible repeat' (first | assumption | apply State.memoArrive_memOk | apply State.modGroup_memOk | apply next_keeps)

/-! ### Trace -/

theorem State.putRay_memOk {s : State} {core : Nat} {r : Ray} (h_s : s.memOk) : State.memOk (State.putRay s core r) := by
  unfold State.putRay
  with_reducible repeat' (first | assumption | apply State.modCore_memOk)

theorem State.dispatch_memOk {s t : State} {g : Group} {core : Nat} {r : Ray} {x : Hit} {isect : Bool} {entry : Pc} {obj : List Word} (h : s.memOk)
    (e : s.dispatch g core r x isect entry obj = some t) : t.memOk := by
  unfold State.dispatch at e
  dsimp only at e
  split at e
  · rw [← Option.some.inj e]
    exact State.modLaunch_memOk (State.putRay_memOk (State.modCore_memOk h))
  · split at e
    · cases e
    · exact State.sendRecord_memOk (State.putRay_memOk (State.modCore_memOk h)) e

theorem State.parkRay_memOk {s : State} {g : Group} {core : Nat} {r : Ray} {kind : Nat} {va : Nat} (h_s : s.memOk) : State.memOk (State.parkRay s g
    core r kind va) := by
  unfold State.parkRay
  with_reducible repeat' (first | assumption | apply State.putRay_memOk | apply State.addFault_memOk)

theorem State.walkRay_memOk {g : Group} {core n : Nat} : ∀ {s : State} {r : Ray}, s.memOk → (s.walkRay g core r n).memOk := by
  induction n with
  | zero => exact fun h => State.putRay_memOk h
  | succ n ih =>
    intro s r h
    unfold State.walkRay
    dsimp only
    repeat' (first
        | with_reducible assumption | with_reducible apply ih | with_reducible apply State.putRay_memOk | with_reducible apply State.parkRay_memOk
        | with_reducible apply State.modGroup_memOk | with_reducible apply State.noteTlb_memOk | with_reducible apply State.noteOwnError_memOk
        | with_reducible (refine State.dispatch_memOk ?_ (by with_reducible assumption)) | split)

theorem State.keepRay_memOk {s : State} {g : Group} {core : Nat} {r : Ray} {ws : List Word} (h_s : s.memOk) : State.memOk (State.keepRay s g core r
    ws) := by
  unfold State.keepRay
  dsimp only
  with_reducible repeat' (first
      | assumption | apply State.memoMismatch_memOk | apply State.memoPost_memOk | fail_if_no_progress apply memOk_mk | split)

theorem State.landRay_memOk {s : State} {g : Group} {core : Nat} {r : Ray} {ws : List Word} (h_s : s.memOk) : State.memOk (State.landRay s g core r
    ws) := by
  unfold State.landRay
  dsimp only
  with_reducible repeat' (first
      | assumption | apply State.keepRay_memOk | apply State.modCore_memOk | apply State.modOp_memOk | apply State.finishOp_memOk
      | fail_if_no_progress apply memOk_mk | split)

theorem execTraversalComplete_memOk {core : BitVec 7} {entry : BitVec 11} {s : State} (h_s : s.memOk) : Keeps (execTraversalComplete core entry s)
    := by
  unfold execTraversalComplete
  dsimp only
  with_reducible repeat' (first
      | assumption | apply State.modCore_memOk | apply State.walkRay_memOk | apply State.landRay_memOk | apply State.tryExit_memOk
      | apply Res.done_memOk | apply next_keeps | fail_if_no_progress apply memOk_mk | split)

theorem State.parkRays_memOk {s : State} {g : Group} {d : R7} {flags : Word} {root : Nat} {rays : List RayStart} {hits : List (Nat × List Word)}
    (h_s : s.memOk) : State.memOk (State.parkRays s g d flags root rays hits) := by
  unfold State.parkRays
  dsimp only
  with_reducible repeat' (first | assumption | apply State.pushOp_memOk | apply State.modCore_memOk | apply State.settle_memOk)

theorem execTrace_memOk {v : VOps} {s : State} (h_s : s.memOk) : Keeps (execTrace v s) := by
  unfold execTrace
  dsimp only
  with_reducible repeat' (first
      | assumption | apply issue_memOk | apply counted_memOk | apply State.parkRays_memOk | apply Res.retire_memOk | apply Res.hold_memOk
      | exact Res.trap_memOk | apply issue_keeps | fail_if_no_progress apply memOk_mk | split | intro _)

theorem State.keyRays_memOk {g : Group} {tol : BitVec 2} {sig : List Word → SigState} {l : List RayStart} :
    ∀ {s : State} {c : Word}, s.memOk → (s.keyRays g tol sig l c).2.2.2.2.2.memOk := by
  induction l with
  | nil => exact fun h => h
  | cons r rs ih =>
    intro s c h
    have hl := State.memoLookup_memOk (core := g.core) (ctx := g.ctx) (kind := 3) (key := (sig r.ray).fin) h
    unfold State.keyRays
    dsimp only
    repeat' (first | with_reducible assumption | exact hl | with_reducible apply ih | split)

theorem execTraceM_memOk {memo : BitVec 4} {d : R7} {a : R7} {b : R7} {s : State} (h_s : s.memOk) : Keeps (execTraceM memo d a b s) := by
  unfold execTraceM
  dsimp only
  with_reducible repeat' (first
      | assumption | apply issue_memOk | apply counted_memOk | apply State.parkRays_memOk | apply State.noteGen_memOk | apply State.pushLoad_memOk
      | apply State.keyRays_memOk | apply State.modGroup_memOk | apply State.credit_memOk | apply State.memoChecked_memOk | apply Res.retire_memOk
      | apply Res.hold_memOk | exact Res.trap_memOk | exact Res.park_memOk | exact fault_keeps | apply issue_keeps
      | fail_if_no_progress apply memOk_mk | split | intro _)

theorem execVerdict_memOk {a : R7} {s : State} (h_s : s.memOk) : Keeps (execVerdict a s) := by
  unfold execVerdict
  dsimp only
  with_reducible repeat' (first
      | assumption | apply issue_memOk | apply releaseThen_memOk | apply State.onHandle_memOk | apply Res.retire_memOk | apply issue_keeps
      | apply memOk_foldl | split | intro _)

theorem execBxunion_memOk {v : VOps} {s : State} (h_s : s.memOk) : Keeps (execBxunion v s) := by
  unfold execBxunion
  dsimp only
  with_reducible repeat' (first | assumption | apply issue_memOk | apply keep_memOk | apply issue_keeps | apply memOk_foldl | split | intro _)

theorem execSahcost_memOk {d : R7} {a : R7} {s : State} (h_s : s.memOk) : Keeps (execSahcost d a s) := by
  unfold execSahcost
  dsimp only
  with_reducible repeat' (first | assumption | apply issue_memOk | apply keep_memOk | apply issue_keeps | split | intro _)

theorem execNodepack_memOk {d : R7} {a : R7} {s : State} (h_s : s.memOk) : Keeps (execNodepack d a s) := by
  unfold execNodepack
  dsimp only
  with_reducible repeat' (first
      | assumption | apply issue_memOk | apply keep_memOk | exact Res.trap_memOk | apply issue_keeps | fail_if_no_progress apply memOk_mk
      | apply memOk_foldl | split | intro _)

/-! ### SectionsIns -/

theorem execOsenter_memOk {d : R7} {a : R7} {b : R7} {s : State} (h_s : s.memOk) : Keeps (execOsenter d a b s) := by
  unfold execOsenter
  dsimp only
  with_reducible repeat' (first
      | assumption | apply issue_memOk | apply State.putGroup_memOk | apply State.osTry_memOk | apply Res.retire_memOk | apply Res.hold_memOk
      | exact Res.trap_memOk | apply issue_keeps | fail_if_no_progress apply memOk_mk | split | intro _)

theorem leaveRes_memOk {s : State} {g : Group} {done : Bool} (h_s : s.memOk) : Res.memOk (leaveRes s g done) := by
  unfold leaveRes
  with_reducible repeat' (first
      | assumption | apply State.osSend_memOk | apply State.putGroup_memOk | apply Res.retire_memOk | exact Res.trap_memOk
      | fail_if_no_progress apply memOk_mk | split)

theorem execOsleave_memOk {s : State} (h_s : s.memOk) : Keeps (execOsleave s) := by
  unfold execOsleave
  with_reducible repeat' (first | assumption | apply issue_memOk | apply leaveRes_memOk | apply issue_keeps | split | intro _)

theorem execOsleaveDone_memOk {s : State} (h_s : s.memOk) : Keeps (execOsleaveDone s) := by
  unfold execOsleaveDone
  with_reducible repeat' (first | assumption | apply issue_memOk | apply leaveRes_memOk | apply issue_keeps | split | intro _)

theorem execOsabort_memOk {s : State} (h_s : s.memOk) : Keeps (execOsabort s) := by
  unfold execOsabort
  with_reducible repeat' (first
      | assumption | apply issue_memOk | apply State.osAbort_memOk | apply Res.retire_memOk | apply issue_keeps | split | intro _)

theorem execOsAdvanceAtHome_memOk {s : State} (h_s : s.memOk) : Keeps (execOsAdvanceAtHome s) := by
  unfold execOsAdvanceAtHome
  dsimp only
  with_reducible repeat' (first
      | assumption | apply State.osApply_memOk | apply State.osTryGroups_memOk | apply next_keeps | fail_if_no_progress apply memOk_mk | split)

theorem execOsStall_memOk {ctx : BitVec 5} {key : Dword} {s : State} (h_s : s.memOk) : Keeps (execOsStall ctx key s) := by
  unfold execOsStall
  dsimp only
  with_reducible repeat' (first
      | assumption | apply State.modCtx_memOk | apply State.postCtx_memOk | apply next_keeps | fail_if_no_progress apply memOk_mk | split)

/-! ### Tile -/

theorem State.groupLoads_memOk {g : Group} {n : Nat} {l : List Nat} : ∀ {s : State}, s.memOk → (s.groupLoads g n l).memOk := by
  induction l with
  | nil => exact fun h => h
  | cons va r ih =>
    intro s h
    unfold State.groupLoads
    split
    · exact h
    split
    · exact True.intro
    · exact h
    · next l0 _ =>
      split
      · exact h
      dsimp only
      have hs := State.performAtomics_memOk (uid := g.uid) (lines := [l0.place.line]) (State.noteTlb_memOk (g := g) (va := va) h)
      generalize (s.noteTlb g va).performAtomics g.uid [l0.place.line] = s1 at hs ⊢
      have hq := State.readLanes_memOk (g := s1.regroup g) (ls := [(0, l0)]) (n := n) hs
      generalize s1.readLanes (s1.regroup g) [(0, l0)] n = q at hq ⊢
      have hr := ih hq
      split
      · exact hq
      · generalize q.2.2.groupLoads g n r = x at hr ⊢
        split
        · exact hr
        · exact hr

theorem withLoads_memOk {q : Loads} {failed : Nat → State → Res} {go : List Nat → Bool → State → Res}
    (h : q.memOk) (hf : ∀ a t, t.memOk → (failed a t).memOk)
    (hg : ∀ ws m t, t.memOk → (go ws m t).memOk) : (withLoads q failed go).memOk := by
  unfold withLoads
  split
  · exact hg _ _ _ h
  · exact True.intro
  · exact hf _ _ h
  · exact h

theorem tileFailed_memOk {g : Group} {va : Nat} {s : State} (h_s : s.memOk) : Res.memOk (tileFailed g va s) := by
  unfold tileFailed
  with_reducible repeat' (first | assumption | apply State.modGroup_memOk | apply Res.retire_memOk)

theorem sigGens_memOk {g : Group} {failed : Nat → State → Res} {go : State → SigState → Res} {l : List Nat}
    (hf : ∀ a t, t.memOk → (failed a t).memOk)
    (hg : ∀ t x, t.memOk → (go t x).memOk) : ∀ {s : State} {x : SigState}, s.memOk → (sigGens g failed go l s x).memOk := by
  induction l with
  | nil => exact fun h => hg _ _ h
  | cons va r ih =>
    intro s x h
    unfold sigGens
    split
    · exact Res.hold_memOk h
    · split
      · exact True.intro
      · exact hf _ _ (State.noteGen_memOk h)
      · exact ih (State.noteGen_memOk h)

theorem sigCodes_memOk {g : Group} {failed : Nat → State → Res} {go : State → SigState → Res} {l : List Nat}
    (hf : ∀ a t, t.memOk → (failed a t).memOk)
    (hg : ∀ t x, t.memOk → (go t x).memOk) : ∀ {s : State} {x : SigState}, s.memOk → (sigCodes g failed go l s x).memOk := by
  induction l with
  | nil => exact fun h => hg _ _ h
  | cons a r ih =>
    intro s x h
    unfold sigCodes
    split
    · exact ih h
    · exact withLoads_memOk (State.groupLoads_memOk h) hf fun ws m t ht => ih ht

theorem sigConsts_memOk {g : Group} {td : Nat} {failed : Nat → State → Res} {go : State → SigState → Res} {l : List Nat}
    (hf : ∀ a t, t.memOk → (failed a t).memOk)
    (hg : ∀ t x, t.memOk → (go t x).memOk) : ∀ {s : State} {x : SigState}, s.memOk → (sigConsts g td failed go l s x).memOk := by
  induction l with
  | nil => exact fun h => hg _ _ h
  | cons a r ih =>
    intro s x h
    unfold sigConsts
    dsimp only
    split
    · exact ih h
    · exact withLoads_memOk (State.groupLoads_memOk h) hf fun ws m t ht => ih ht

theorem sigTexs_memOk {g : Group} {td : Nat} {failed : Nat → State → Res} {go : State → SigState → Res} {l : List Nat}
    (hf : ∀ a t, t.memOk → (failed a t).memOk)
    (hg : ∀ t x, t.memOk → (go t x).memOk) : ∀ {s : State} {x : SigState}, s.memOk → (sigTexs g td failed go l s x).memOk := by
  induction l with
  | nil => exact fun h => hg _ _ h
  | cons a r ih =>
    intro s x h
    unfold sigTexs
    split
    · exact ih h
    · exact withLoads_memOk (State.groupLoads_memOk h) hf fun ws m t ht => sigGens_memOk hf (fun u y hu => ih hu) ht

theorem tileWrite_memOk {s : State} {g : Group} {k : Nat} {entry : Nat} {e : TileEntry} {ans : List Word} {go : State → Res} (h_s : s.memOk) (h_go :
    ∀ x0, x0.memOk → Res.memOk (go x0)) : Res.memOk (tileWrite s g k entry e ans go) := by
  unfold tileWrite
  dsimp only
  with_reducible repeat' (first
      | assumption | apply State.notePages_memOk | apply State.pushOp_memOk | apply State.modGroup_memOk | apply State.runOps_memOk | apply h_go
      | apply Res.hold_memOk | exact Res.trap_memOk | exact Res.park_memOk | fail_if_no_progress apply memOk_mk | split)

theorem tileAgain_memOk {s : State} {g : Group} {k : Nat} {done : List Word → Res} {first : Res} (h_s : s.memOk) (h_done : ∀ x0, Res.memOk (done
    x0)) (h_first : first.memOk) : Res.memOk (tileAgain s g k done first) := by
  unfold tileAgain
  with_reducible repeat' (first | assumption | apply h_done | apply Res.hold_memOk | fail_if_no_progress apply memOk_mk | split)

theorem tileChecks_memOk {s : State} {g : Group} {t : Nat} {go : FrameState → Res} (h_s : s.memOk) (h_go : ∀ x0, Res.memOk (go x0)) : Res.memOk
    (tileChecks s g t go) := by
  unfold tileChecks
  with_reducible repeat' (first | assumption | apply h_go | exact Res.trap_memOk | fail_if_no_progress apply memOk_mk | split)

theorem tsigDone_memOk {s : State} {g : Group} {k : Nat} {d : R7} {ws : List Word} (h_s : s.memOk) : Res.memOk (tsigDone s g k d ws) := by
  unfold tsigDone
  with_reducible repeat' (first | assumption | apply State.modGroup_memOk | apply Res.retire_memOk)

theorem prevEntry_memOk {s : State} {g : Group} {f : FrameState} {t : Nat} {go : Option TileEntry → State → Res} (h_s : s.memOk) (h_go : ∀ x0 x1,
    x1.memOk → Res.memOk (go x0 x1)) : Res.memOk (prevEntry s g f t go) := by
  unfold prevEntry
  with_reducible repeat' (first
      | assumption | apply withLoads_memOk | apply State.groupLoads_memOk | apply tileFailed_memOk | apply h_go | split | intro _)

theorem tsigEntry_memOk {s : State} {g : Group} {k : Nat} {d : R7} {f : FrameState} {t : Nat} {x : SigState} (h_s : s.memOk) : Res.memOk (tsigEntry
    s g k d f t x) := by
  unfold tsigEntry
  dsimp only
  with_reducible repeat' (first
      | assumption | apply prevEntry_memOk | apply tileWrite_memOk | apply tsigDone_memOk | fail_if_no_progress apply memOk_mk | split | intro _)

theorem execTsig_memOk {d : R7} {a : R7} {sz : BitVec 2} {s : State} (h_s : s.memOk) : Keeps (execTsig d a sz s) := by
  unfold execTsig
  dsimp only
  with_reducible repeat' (first
      | assumption | apply issue_memOk | apply tileAgain_memOk | apply tsigDone_memOk | apply tileChecks_memOk | apply withLoads_memOk
      | apply State.groupLoads_memOk | apply tileFailed_memOk | apply sigCodes_memOk | apply sigConsts_memOk | apply sigTexs_memOk
      | apply tsigEntry_memOk | apply Res.hold_memOk | exact Res.trap_memOk | apply issue_keeps | split | intro _)

theorem curEntry_memOk {s : State} {g : Group} {t : Nat} {go : FrameState → TileEntry → State → Res} (h_s : s.memOk) (h_go : ∀ x0 x1 x2, x2.memOk →
    Res.memOk (go x0 x1 x2)) : Res.memOk (curEntry s g t go) := by
  unfold curEntry
  with_reducible repeat' (first
      | assumption | apply tileChecks_memOk | apply withLoads_memOk | apply State.groupLoads_memOk | apply tileFailed_memOk | apply h_go
      | apply Res.hold_memOk | split | intro _)

theorem tileDone_memOk {s : State} {g : Group} {k : Nat} (h_s : s.memOk) : Res.memOk (tileDone s g k) := by
  unfold tileDone
  with_reducible repeat' (first | assumption | apply State.modGroup_memOk | apply Res.retire_memOk)

theorem execTcost_memOk {b : R7} {a : R7} {s : State} (h_s : s.memOk) : Keeps (execTcost b a s) := by
  unfold execTcost
  dsimp only
  with_reducible repeat' (first
      | assumption | apply issue_memOk | apply tileAgain_memOk | apply tileDone_memOk | apply curEntry_memOk | apply tileWrite_memOk
      | apply Res.retire_memOk | apply issue_keeps | fail_if_no_progress apply memOk_mk | split | intro _)

theorem execTskip_memOk {a : R7} {s : State} (h_s : s.memOk) : Keeps (execTskip a s) := by
  unfold execTskip
  dsimp only
  with_reducible repeat' (first
      | assumption | apply issue_memOk | apply tileAgain_memOk | apply tileDone_memOk | apply State.credit_memOk | apply curEntry_memOk
      | apply tileWrite_memOk | apply Res.retire_memOk | apply issue_keeps | fail_if_no_progress apply memOk_mk | split | intro _)

end Sys2Proof.Machine
end

