-- ==== Sys2Proof/Laws/KeepsPart.lean ====
section
/-! SUPPORT. Both memories keep their canonical form through every event of the part and of the host. -/

namespace Sys2Proof.Machine

/-! ### System -/

theorem execTrap_memOk {code : R7} {s : State} (h_s : s.memOk) : Keeps (execTrap code s) := by
  unfold execTrap
  with_reducible repeat' (first | assumption | apply issue_memOk | exact Res.trap_memOk | exact Res.raise_memOk | apply issue_keeps | split | intro _)

theorem execBrk_memOk {code : R7} {s : State} (h_s : s.memOk) : Keeps (execBrk code s) := by
  unfold execBrk
  with_reducible repeat' (first | assumption | apply issue_memOk | exact Res.raise_memOk | apply issue_keeps | split | intro _)

theorem execTret_memOk {s : State} (h_s : s.memOk) : Keeps (execTret s) := by
  unfold execTret
  with_reducible repeat' (first
      | assumption | apply issue_memOk | apply State.putGroup_memOk | apply Res.done_memOk | apply Res.hold_memOk | exact Res.trap_memOk
      | apply issue_keeps | fail_if_no_progress apply memOk_mk | split | intro _)

/-! ### Contexts -/

theorem State.ctxMisuse_memOk {s : State} {ctx : BitVec 5} (h_s : s.memOk) : State.memOk (State.ctxMisuse s ctx) := by
  unfold State.ctxMisuse
  with_reducible repeat' (first | assumption | apply State.regMisuse_memOk)

theorem State.activate_memOk {s : State} {ctx : BitVec 5} {d : Desc} (h_s : s.memOk) : State.memOk (State.activate s ctx d) := by
  unfold State.activate
  dsimp only
  with_reducible repeat' (first
      | assumption | apply State.modCtx_memOk | apply State.updateStatus_memOk | (refine State.ownWrite_memOk ?_ (by assumption))
      | apply State.ownLost_memOk | fail_if_no_progress apply memOk_mk | split)

theorem execEnable_memOk {ctx : BitVec 5} {s : State} (h_s : s.memOk) : Keeps (execEnable ctx s) := by
  unfold execEnable
  dsimp only
  with_reducible repeat' (first
      | assumption | apply State.ctxMisuse_memOk | apply State.activate_memOk | apply State.noteBadRange_memOk | apply State.modCtx_memOk
      | apply next_keeps | fail_if_no_progress apply memOk_mk | split)

theorem execHalt_memOk {ctx : BitVec 5} {s : State} (h_s : s.memOk) : Keeps (execHalt ctx s) := by
  unfold execHalt
  with_reducible repeat' (first
      | assumption | apply State.modCtx_memOk | apply State.ctxMisuse_memOk | apply next_keeps | fail_if_no_progress apply memOk_mk | split)

theorem execResume_memOk {ctx : BitVec 5} {s : State} (h_s : s.memOk) : Keeps (execResume ctx s) := by
  unfold execResume
  with_reducible repeat' (first
      | assumption | apply State.modCtx_memOk | apply State.ctxMisuse_memOk | apply next_keeps | fail_if_no_progress apply memOk_mk | split)

theorem execDisable_memOk {ctx : BitVec 5} {s : State} (h_s : s.memOk) : Keeps (execDisable ctx s) := by
  unfold execDisable
  dsimp only
  with_reducible repeat' (first
      | assumption | apply State.modCtx_memOk | apply State.ctxMisuse_memOk | apply next_keeps | fail_if_no_progress apply memOk_mk | split)

theorem State.finishOps_memOk {s : State} {uid : Nat} (h_s : s.memOk) : State.memOk (State.finishOps s uid) := by
  unfold State.finishOps
  with_reducible repeat' (first | assumption | apply State.runOps_memOk)

theorem State.dropContext_memOk {s : State} {ctx : BitVec 5} (h_s : s.memOk) : State.memOk (State.dropContext s ctx) := by
  unfold State.dropContext
  dsimp only
  with_reducible repeat' (first
      | assumption | apply State.noteFree_memOk | apply State.memoFlush_memOk | apply State.islandsOff_memOk | apply State.followRatio_memOk
      | apply State.dropTlb_memOk | fail_if_no_progress apply memOk_mk | apply memOk_foldl | intro _)

theorem State.flushAll_memOk {s : State} {ctx : BitVec 5} (h_s : s.memOk) : State.memOk (State.flushAll s ctx) := by
  unfold State.flushAll
  dsimp only
  with_reducible repeat' (first | assumption | apply State.writeBackTeam_memOk | apply State.cleanL1_memOk | apply memOk_foldl | intro _)

theorem execContextEnded_memOk {ctx : BitVec 5} {s : State} (h_s : s.memOk) : Keeps (execContextEnded ctx s) := by
  unfold execContextEnded
  dsimp only
  with_reducible repeat' (first
      | assumption | apply State.finishOps_memOk | apply State.flushAll_memOk | apply State.dropContext_memOk | apply State.postCtx_memOk
      | apply State.modCtx_memOk | apply next_keeps | fail_if_no_progress apply memOk_mk | apply memOk_foldl | split)

theorem State.dropFault_memOk {s : State} {id : Word} (h_s : s.memOk) : State.memOk (State.dropFault s id) := by
  unfold State.dropFault
  with_reducible repeat' (first | assumption | fail_if_no_progress apply memOk_mk)

theorem State.mapLadle_memOk {s : State} {f : LadleFault → Option LadleFault} (h_s : s.memOk) : State.memOk (State.mapLadle s f) := by
  unfold State.mapLadle
  with_reducible repeat' (first | assumption | fail_if_no_progress apply memOk_mk)

theorem State.enterGroup_memOk {s : State} {g : Group} (h_s : s.memOk) : State.memOk (State.enterGroup s g) := by
  unfold State.enterGroup
  dsimp only
  with_reducible repeat' (first
      | assumption | apply State.addFault_memOk | apply State.modGroup_memOk | fail_if_no_progress apply memOk_mk | apply memOk_foldl | split
      | intro _)

theorem State.enterCore_memOk {s : State} {core : Nat} {c : Core} (h_s : s.memOk) : State.memOk (State.enterCore s core c) := by
  unfold State.enterCore
  refine memOk_foldl (fun t f h => ?_) (memOk_foldl (fun t r h => ?_) h_s)
  · split
    · exact h
    · cases s.group f.group with
      | none => exact h
      | some g => exact State.addFault_memOk h
  · split
    · exact State.addFault_memOk h
    · exact h

theorem State.enterFaults_memOk {s : State} (h_s : s.memOk) : State.memOk (State.enterFaults s) := by
  unfold State.enterFaults
  dsimp only
  with_reducible repeat' (first | assumption | apply State.enterGroup_memOk | apply State.enterCore_memOk | apply memOk_foldl | intro _)

theorem State.replay_memOk {s : State} {e : FaultEntry} (h_s : s.memOk) : State.memOk (State.replay s e) := by
  unfold State.replay
  dsimp only
  with_reducible repeat' (first
      | assumption | apply State.dropFault_memOk | apply State.mapLadle_memOk | apply State.enterFaults_memOk | fail_if_no_progress apply memOk_mk)

theorem State.abandonWaiting_memOk {s : State} {e : FaultEntry} {uid : Nat} (h : s.memOk) : (s.abandonWaiting e uid).memOk := by
  refine memOk_foldl (fun v o hv => ?_) h
  generalize v.group uid = x
  cases x
  · exact hv
  · exact State.abandonOp_memOk hv

theorem State.convert_memOk {s : State} {e : FaultEntry} (h_s : s.memOk) : State.memOk (State.convert s e) := by
  unfold State.convert
  dsimp only
  with_reducible repeat' (first
      | assumption | apply State.dropFault_memOk | apply State.mapLadle_memOk | apply State.abandonWaiting_memOk | apply State.enterFaults_memOk
      | fail_if_no_progress apply memOk_mk | apply memOk_foldl | intro _)

theorem State.faultMisuse_memOk {s : State} {ctx : BitVec 5} (h_s : s.memOk) : State.memOk (State.faultMisuse s ctx) := by
  unfold State.faultMisuse
  with_reducible repeat' (first | assumption | apply State.regMisuse_memOk)

theorem execFaultReplay_memOk {ctx : BitVec 5} {id : Word} {s : State} (h_s : s.memOk) : Keeps (execFaultReplay ctx id s) := by
  unfold execFaultReplay
  with_reducible repeat' (first
      | assumption | apply State.replay_memOk | apply State.faultMisuse_memOk | apply next_keeps | exact fault_keeps
      | fail_if_no_progress apply memOk_mk | split)

theorem execFaultConvertToTrap_memOk {ctx : BitVec 5} {id : Word} {s : State} (h_s : s.memOk) : Keeps (execFaultConvertToTrap ctx id s) := by
  unfold execFaultConvertToTrap
  with_reducible repeat' (first
      | assumption | apply State.convert_memOk | apply State.faultMisuse_memOk | apply next_keeps | exact fault_keeps
      | fail_if_no_progress apply memOk_mk | split)

theorem execFaultEntryWalk_memOk {id : Word} {s : State} (h_s : s.memOk) : Keeps (execFaultEntryWalk id s) := by
  unfold execFaultEntryWalk
  dsimp only
  with_reducible repeat' (first
      | assumption | apply State.dropTlb_memOk | apply State.replay_memOk | apply State.postCtx_memOk | apply next_keeps | exact fault_keeps
      | fail_if_no_progress apply memOk_mk | split)

/-! ### Queues -/

theorem State.haltQueue_memOk {s : State} {q : BitVec 6} {off : BitVec 20} {tag : Nat} {h : Halt} (h_s : s.memOk) : State.memOk (State.haltQueue s q
    off tag h) := by
  unfold State.haltQueue
  dsimp only
  with_reducible repeat' (first
      | assumption | apply State.modQueue_memOk | apply State.noteOwnError_memOk | apply State.logError_memOk | apply State.postCtx_memOk
      | fail_if_no_progress apply memOk_mk | split)

theorem State.readHead_memOk {s : State} {q : BitVec 6} (h_s : s.memOk) : State.memOk (State.readHead s q) := by
  unfold State.readHead
  with_reducible repeat' (first | assumption | apply State.haltQueue_memOk | fail_if_no_progress apply memOk_mk | split)

theorem State.completePkt_memOk {s : State} {q : BitVec 6} {off : BitVec 20} {tag : Word} {notify : Bool} (h_s : s.memOk) : State.memOk
    (State.completePkt s q off tag notify) := by
  unfold State.completePkt
  dsimp only
  with_reducible repeat' (first
      | assumption | apply State.modQueue_memOk | apply State.postCtx_memOk | apply State.updateStatus_memOk | apply State.settle_memOk
      | apply Res.done_memOk | fail_if_no_progress apply memOk_mk | split)

theorem State.passHead_memOk {s : State} {q : BitVec 6} {len : Nat} (h_s : s.memOk) : State.memOk (State.passHead s q len) := by
  unfold State.passHead
  with_reducible repeat' (first | assumption | apply State.modQueue_memOk)

theorem packetEvent_memOk {type : Nat} {q : BitVec 6} {s : State} {go : Nat → PktRes} (h : s.memOk) (hg : ∀ n, (go n).memOk)
    : Keeps (packetEvent type q s go) := by
  unfold packetEvent
  apply next_keeps
  split
  · exact h
  · exact State.haltQueue_memOk h
  · dsimp only
    split
    · exact h
    · next hdr _ _ =>
      have hx := hg hdr
      split
      · exact h
      · next e => rw [e] at hx; exact State.haltQueue_memOk hx
      · next e => rw [e] at hx; exact State.completePkt_memOk (State.passHead_memOk hx)
      · next e => rw [e] at hx; exact State.modQueue_memOk (State.passHead_memOk hx)

theorem State.startQueue_memOk {s : State} {q : BitVec 6} (h_s : s.memOk) : State.memOk (State.startQueue s q) := by
  unfold State.startQueue
  with_reducible repeat' (first
      | assumption | apply State.regMisuse_memOk | apply State.modQueue_memOk | apply State.readHead_memOk | fail_if_no_progress apply memOk_mk
      | split)

theorem State.stopQueue_memOk {s : State} {q : BitVec 6} (h_s : s.memOk) : State.memOk (State.stopQueue s q) := by
  unfold State.stopQueue
  with_reducible repeat' (first | assumption | apply State.modQueue_memOk)

theorem State.doorbell_memOk {s : State} {q : BitVec 6} {v : Nat} (h_s : s.memOk) : State.memOk (State.doorbell s q v) := by
  unfold State.doorbell
  with_reducible repeat' (first | assumption | apply State.modQueue_memOk | apply State.readHead_memOk)

theorem execQueueStart_memOk {q : BitVec 6} {s : State} (h_s : s.memOk) : Keeps (execQueueStart q s) := by
  unfold execQueueStart
  with_reducible repeat' (first | assumption | apply State.startQueue_memOk | apply next_keeps | split)

theorem execQueueStop_memOk {q : BitVec 6} {s : State} (h_s : s.memOk) : Keeps (execQueueStop q s) := by
  unfold execQueueStop
  with_reducible repeat' (first | assumption | apply State.stopQueue_memOk | apply next_keeps | split)

theorem execQtailDoorbell_memOk {q : BitVec 6} {value : BitVec 20} {s : State} (h_s : s.memOk) : Keeps (execQtailDoorbell q value s) := by
  unfold execQtailDoorbell
  with_reducible repeat' (first | assumption | apply State.doorbell_memOk | apply next_keeps | split)

/-! ### HostRegs -/

theorem State.acceptChannels_memOk {s : State} (h_s : s.memOk) : State.memOk (State.acceptChannels s) := by
  unfold State.acceptChannels
  with_reducible repeat' (first | assumption | apply State.regMisuse_memOk | fail_if_no_progress apply memOk_mk | split)

theorem State.writeCapW_memOk {s : State} {v : BitVec 16} (h_s : s.memOk) : State.memOk (State.writeCapW s v) := by
  unfold State.writeCapW
  with_reducible repeat' (first | assumption | fail_if_no_progress apply memOk_mk)

theorem State.writeEvqHead_memOk {s : State} {v : BitVec 16} (h_s : s.memOk) : State.memOk (State.writeEvqHead s v) := by
  unfold State.writeEvqHead
  with_reducible repeat' (first
      | assumption | apply State.regMisuse_memOk | apply State.drainEvents_memOk | fail_if_no_progress apply memOk_mk | split)

theorem State.writeEvqCtrl_memOk {s : State} {enable : Bool} {log2 : BitVec 5} (h_s : s.memOk) : State.memOk (State.writeEvqCtrl s enable log2) := by
  unfold State.writeEvqCtrl
  with_reducible repeat' (first
      | assumption | apply State.regMisuse_memOk | apply State.drainEvents_memOk | fail_if_no_progress apply memOk_mk | split)

theorem State.writeIfOff_memOk {s : State} {off : Nat} {same : Bool} {f : Dev → Dev} (h_s : s.memOk) : State.memOk (State.writeIfOff s off same f)
    := by
  unfold State.writeIfOff
  with_reducible repeat' (first | assumption | apply State.regMisuse_memOk | fail_if_no_progress apply memOk_mk | split)

theorem State.writeCtxCmd_memOk {s : State} {ctx : BitVec 5} {v : Nat} (h_s : s.memOk) : Keeps (State.writeCtxCmd s ctx v) := by
  unfold State.writeCtxCmd
  with_reducible repeat' (first
      | assumption | apply execEnable_memOk | apply execDisable_memOk | apply execHalt_memOk | apply execResume_memOk | apply State.ctxMisuse_memOk
      | apply next_keeps | fail_if_no_progress apply memOk_mk | split)

theorem State.writeFault_memOk {s : State} {ctx : BitVec 5} {off : Nat} {wide : Bool} {v : Nat} (h_s : s.memOk) : Keeps (State.writeFault s ctx off
    wide v) := by
  unfold State.writeFault
  with_reducible repeat' (first
      | assumption | apply State.regMisuse_memOk | apply execFaultReplay_memOk | apply execFaultConvertToTrap_memOk | apply State.faultMisuse_memOk
      | apply next_keeps | exact fault_keeps | fail_if_no_progress apply memOk_mk | split)

theorem State.writeQCtrl_memOk {s : State} {q : BitVec 6} {v : Nat} (h_s : s.memOk) : State.memOk (State.writeQCtrl s q v) := by
  unfold State.writeQCtrl
  dsimp only
  with_reducible repeat' (first
      | assumption | apply State.regMisuse_memOk | apply State.modQueue_memOk | apply State.startQueue_memOk | apply State.stopQueue_memOk | split)

theorem State.writeQHead_memOk {s : State} {q : BitVec 6} {v : Nat} (h_s : s.memOk) : State.memOk (State.writeQHead s q v) := by
  unfold State.writeQHead
  dsimp only
  with_reducible repeat' (first | assumption | apply State.regMisuse_memOk | apply State.modQueue_memOk | fail_if_no_progress apply memOk_mk | split)

theorem State.writeQBase_memOk {s : State} {q : BitVec 6} {off : Nat} {v : Nat} (h_s : s.memOk) : State.memOk (State.writeQBase s q off v) := by
  unfold State.writeQBase
  dsimp only
  with_reducible repeat' (first | assumption | apply State.regMisuse_memOk | apply State.modQueue_memOk | fail_if_no_progress apply memOk_mk | split)

theorem State.writeWide_memOk {s : State} {b : Block0} {o : Nat} {off : Nat} {wide : Bool} {v : Nat} (h_s : s.memOk) : Keeps (State.writeWide s b o
    off wide v) := by
  unfold State.writeWide
  dsimp only
  with_reducible repeat' (first
      | assumption | apply State.writeIfOff_memOk | apply State.regMisuse_memOk | apply State.writeFault_memOk | apply State.writeQBase_memOk
      | apply next_keeps | fail_if_no_progress apply memOk_mk | split)

theorem State.writeWord_memOk {s : State} {b : Block0} {o : Nat} {v : Nat} (h_s : s.memOk) : Keeps (State.writeWord s b o v) := by
  unfold State.writeWord
  dsimp only
  with_reducible repeat' (first
      | assumption | apply State.acceptChannels_memOk | apply State.writeCapW_memOk | apply State.writeEvqCtrl_memOk | apply State.writeEvqHead_memOk
      | apply State.writeIfOff_memOk | apply State.writeCtxCmd_memOk | apply State.writeQCtrl_memOk | apply State.writeQHead_memOk
      | apply State.doorbell_memOk | apply State.regMisuse_memOk | apply next_keeps | fail_if_no_progress apply memOk_mk | split)

theorem State.writeDword_memOk {s : State} {off : Nat} {v : Nat} (h_s : s.memOk) : Keeps (State.writeDword s off v) := by
  unfold State.writeDword
  dsimp only
  with_reducible repeat' (first | assumption | apply State.writeWide_memOk | apply State.writeWord_memOk | split)

theorem State.accessOk_memOk {s : State} {ok : Bool} (h_s : s.memOk) : State.memOk (State.accessOk s ok) := by
  unfold State.accessOk
  with_reducible repeat' (first | assumption | fail_if_no_progress apply memOk_mk_host)

theorem execRegisterWrite_memOk {off : BitVec 26} {wide : Bool} {value : Dword} {s : State} (h : s.memOk)
    : Keeps (execRegisterWrite off wide value s) := by
  unfold execRegisterWrite
  dsimp only
  have ha := State.accessOk_memOk (ok := off.toNat % (if wide then 8 else 4) == 0) h
  generalize s.accessOk (off.toNat % (if wide then 8 else 4) == 0) = s1 at ha ⊢
  have hd := State.writeDword_memOk (off := off.toNat) (v := value.toNat % 2 ^ 32) ha
  generalize s1.writeDword off.toNat (value.toNat % 2 ^ 32) = x at hd ⊢
  repeat' (first
      | exact next_keeps h | exact next_keeps ha | exact State.writeWide_memOk ha | exact next_keeps (State.regMisuse_memOk ha)
      | exact State.writeDword_memOk (hd _ rfl) | exact hd | split)

theorem State.hostRead_memOk {s : State} {off : BitVec 26} {n : BitVec 8} (h_s : s.memOk) : State.memOk (State.hostRead s off n) := by
  unfold State.hostRead
  dsimp only
  with_reducible repeat' (first
      | assumption | apply State.accessOk_memOk | fail_if_no_progress apply memOk_mk_host | fail_if_no_progress apply memOk_mk | split)

theorem execAcceptChannels_memOk {s : State} (h_s : s.memOk) : Keeps (execAcceptChannels s) := by
  unfold execAcceptChannels
  with_reducible repeat' (first | assumption | apply State.acceptChannels_memOk | apply next_keeps | split)

theorem execCapWWrite_memOk {value : BitVec 16} {s : State} (h_s : s.memOk) : Keeps (execCapWWrite value s) := by
  unfold execCapWWrite
  with_reducible repeat' (first | assumption | apply State.writeCapW_memOk | apply next_keeps | split)

theorem execEvqHeadWrite_memOk {value : BitVec 16} {s : State} (h_s : s.memOk) : Keeps (execEvqHeadWrite value s) := by
  unfold execEvqHeadWrite
  with_reducible repeat' (first | assumption | apply State.writeEvqHead_memOk | apply next_keeps | split)

theorem execEvqEnableWrite_memOk {enable : Bool} {s : State} (h_s : s.memOk) : Keeps (execEvqEnableWrite enable s) := by
  unfold execEvqEnableWrite
  with_reducible repeat' (first | assumption | apply State.writeEvqCtrl_memOk | apply next_keeps | split)

theorem State.sendPending_memOk {s : State} {v : Nat} (h_s : s.memOk) : State.memOk (State.sendPending s v) := by
  unfold State.sendPending
  dsimp only
  with_reducible repeat' (first | assumption | apply State.signal_memOk | fail_if_no_progress apply memOk_mk | split)

theorem execMsixTableWrite_memOk {off : BitVec 16} {value : Word} {s : State} (h_s : s.memOk) : Keeps (execMsixTableWrite off value s) := by
  unfold execMsixTableWrite
  dsimp only
  with_reducible repeat' (first | assumption | apply State.sendPending_memOk | apply next_keeps | fail_if_no_progress apply memOk_mk | split)

theorem State.apertureClosed_memOk {s t : State} {o n : Nat} (h : s.memOk) (e : s.apertureClosed o n = some t) : t.memOk := by
  unfold State.apertureClosed at e
  split at e
  · cases e
    exact h
  · split at e
    · cases e
      exact State.apertureError_memOk h
    · split at e
      · cases e
        exact h
      · cases e

theorem State.recallRange_memOk {s : State} {pa : Nat} {n : Nat} {write : Bool} (h_s : s.memOk) : State.memOk (State.recallRange s pa n write) := by
  unfold State.recallRange
  with_reducible repeat' (first | assumption | apply State.recall_memOk | apply memOk_foldl | split | intro _)

theorem State.logAperture_memOk {s : State} {o : Nat} {pa : Nat} {n : Nat} {write : Bool} (h_s : s.memOk) : State.memOk (State.logAperture s o pa n
    write) := by
  unfold State.logAperture
  dsimp only
  with_reducible repeat' (first
      | assumption | apply State.apertureError_memOk | apply State.lastingError_memOk | apply State.noteBadAccess_memOk
      | fail_if_no_progress apply memOk_mk | split)

theorem execApertureRead_memOk {off : BitVec 37} {n : BitVec 8} {s : State} (h_s : s.memOk) : Keeps (execApertureRead off n s) := by
  unfold execApertureRead
  dsimp only
  with_reducible repeat' (first
      | assumption | (refine State.apertureClosed_memOk ?_ (by assumption)) | apply State.recallRange_memOk | apply State.logAperture_memOk
      | apply next_keeps | fail_if_no_progress apply memOk_mk_host | fail_if_no_progress apply memOk_mk | split)

theorem execApertureWrite_memOk {off : BitVec 37} {data : List Byte} {s : State} (h_s : s.memOk) : Keeps (execApertureWrite off data s) := by
  unfold execApertureWrite
  dsimp only
  with_reducible repeat' (first
      | assumption | (refine State.apertureClosed_memOk ?_ (by assumption)) | apply State.recallRange_memOk | apply State.physPut_memOk
      | apply State.incGen_memOk | apply State.logAperture_memOk | apply next_keeps | fail_if_no_progress apply memOk_mk | apply memOk_foldl | split
      | intro _)

/-! ### Packets -/

theorem State.recallOwn_memOk {s : State} {ctx : BitVec 5} {va : Nat} {n : Nat} (h_s : s.memOk) : State.memOk (State.recallOwn s ctx va n) := by
  unfold State.recallOwn
  with_reducible repeat' (first | assumption | apply State.recall_memOk | fail_if_no_progress apply memOk_mk | apply memOk_foldl | split | intro _)

theorem withPayload_memOk {s : State} {q : BitVec 6} {n : Nat} {go : List Nat → PktRes} (h_s : s.memOk) (h_go : ∀ x0, PktRes.memOk (go x0)) :
    PktRes.memOk (withPayload s q n go) := by
  unfold withPayload
  with_reducible repeat' (first | assumption | apply h_go | apply PktRes.halt_memOk | fail_if_no_progress apply memOk_mk | split)

theorem readObject_memOk {s : State} {q : BitVec 6} {field : Nat} {va : Nat} {n : Nat} {go : State → Nat → PktRes} (h_s : s.memOk) (h_go : ∀ x0 x1,
    x0.memOk → PktRes.memOk (go x0 x1)) : PktRes.memOk (readObject s q field va n go) := by
  unfold readObject
  dsimp only
  with_reducible repeat' (first
      | assumption | apply State.recallOwn_memOk | apply h_go | apply PktRes.halt_memOk | exact PktRes.wait_memOk | fail_if_no_progress apply memOk_mk
      | split)

theorem writeObject_memOk {s : State} {q : BitVec 6} {field : Nat} {va : Nat} {v : Nat} {n : Nat} {go : State → PktRes} (h_s : s.memOk) (h_go : ∀
    x0, x0.memOk → PktRes.memOk (go x0)) : PktRes.memOk (writeObject s q field va v n go) := by
  unfold writeObject
  dsimp only
  with_reducible repeat' (first
      | assumption | apply State.recallOwn_memOk | (refine State.ownWrite_memOk ?_ (by assumption)) | apply h_go | apply PktRes.halt_memOk
      | exact PktRes.wait_memOk | fail_if_no_progress apply memOk_mk | split)

theorem execNopPacket_memOk {q : BitVec 6} {s : State} (h_s : s.memOk) : Keeps (execNopPacket q s) := by
  unfold execNopPacket
  with_reducible repeat' (first | assumption | apply packetEvent_memOk | apply PktRes.start_memOk | split | intro _)

theorem execMemoFlushPacket_memOk {q : BitVec 6} {s : State} (h_s : s.memOk) : Keeps (execMemoFlushPacket q s) := by
  unfold execMemoFlushPacket
  with_reducible repeat' (first | assumption | apply packetEvent_memOk | apply State.memoFlush_memOk | apply PktRes.start_memOk | split | intro _)

theorem State.pollSem_memOk {s : State} {q : BitVec 6} (h_s : s.memOk) : State.memOk (State.pollSem s q) := by
  unfold State.pollSem
  dsimp only
  with_reducible repeat' (first
      | assumption | apply State.recallOwn_memOk | apply State.haltQueue_memOk | apply State.modQueue_memOk | apply State.completePkt_memOk
      | fail_if_no_progress apply memOk_mk | split)

theorem State.pollAll_memOk {s : State} {pa : Option Nat} (h_s : s.memOk) : State.memOk (State.pollAll s pa) := by
  unfold State.pollAll
  dsimp only
  with_reducible repeat' (first | assumption | apply State.pollSem_memOk | fail_if_no_progress apply memOk_mk | apply memOk_foldl | split | intro _)

theorem execSemSignal_memOk {q : BitVec 6} {s : State} (h_s : s.memOk) : Keeps (execSemSignal q s) := by
  unfold execSemSignal
  dsimp only
  with_reducible repeat' (first
      | assumption | apply packetEvent_memOk | apply withPayload_memOk | apply readObject_memOk | apply writeObject_memOk | apply State.pollAll_memOk
      | apply PktRes.halt_memOk | apply PktRes.start_memOk | split | intro _)

theorem execSemWait_memOk {q : BitVec 6} {s : State} (h : s.memOk) : Keeps (execSemWait q s) := by
  have hp : ∀ go, (∀ n, PktRes.memOk (go n)) → Keeps (packetEvent 3 q s go) := fun go hg => packetEvent_memOk h hg
  unfold execSemWait
  dsimp only
  split
  · next t e =>
    refine next_keeps (State.modQueue_memOk (hp _ (fun n => ?_) t e))
    repeat' (first
        | with_reducible assumption | with_reducible apply withPayload_memOk | with_reducible apply readObject_memOk
        | with_reducible apply State.modQueue_memOk | with_reducible apply PktRes.halt_memOk | with_reducible apply PktRes.start_memOk | intro _
        | split)
  · refine hp _ fun n => ?_
    repeat' (first
        | with_reducible assumption | with_reducible apply withPayload_memOk | with_reducible apply readObject_memOk
        | with_reducible apply State.modQueue_memOk | with_reducible apply PktRes.halt_memOk | with_reducible apply PktRes.start_memOk | intro _
        | split)

theorem execSemWaitPoll_memOk {q : BitVec 6} {s : State} (h_s : s.memOk) : Keeps (execSemWaitPoll q s) := by
  unfold execSemWaitPoll
  with_reducible repeat' (first | assumption | apply State.pollSem_memOk | apply next_keeps)

theorem execSetState_memOk {q : BitVec 6} {s : State} (h_s : s.memOk) : Keeps (execSetState q s) := by
  unfold execSetState
  dsimp only
  with_reducible repeat' (first
      | assumption | apply packetEvent_memOk | apply withPayload_memOk | apply State.modCtx_memOk | apply PktRes.halt_memOk | apply PktRes.start_memOk
      | fail_if_no_progress apply memOk_mk | split | intro _)

theorem execFrameMark_memOk {q : BitVec 6} {s : State} (h_s : s.memOk) : Keeps (execFrameMark q s) := by
  unfold execFrameMark
  dsimp only
  with_reducible repeat' (first
      | assumption | apply packetEvent_memOk | apply withPayload_memOk | apply State.modCtx_memOk | apply PktRes.halt_memOk | apply PktRes.start_memOk
      | fail_if_no_progress apply memOk_mk | split | intro _)

theorem traceBuf_memOk {s : State} {q : BitVec 6} {go : Pc → Word → PktRes} (h_s : s.memOk) (h_go : ∀ x0 x1, PktRes.memOk (go x0 x1)) : PktRes.memOk
    (traceBuf s q go) := by
  unfold traceBuf
  dsimp only
  with_reducible repeat' (first | assumption | apply withPayload_memOk | apply h_go | apply PktRes.halt_memOk | split | intro _)

theorem execTraceRecord_memOk {q : BitVec 6} {s : State} (h_s : s.memOk) : Keeps (execTraceRecord q s) := by
  unfold execTraceRecord
  with_reducible repeat' (first
      | assumption | apply packetEvent_memOk | apply traceBuf_memOk | apply writeObject_memOk | apply State.modCtx_memOk | apply PktRes.start_memOk
      | fail_if_no_progress apply memOk_mk | split | intro _)

theorem execTraceReplay_memOk {q : BitVec 6} {s : State} (h_s : s.memOk) : Keeps (execTraceReplay q s) := by
  unfold execTraceReplay
  with_reducible repeat' (first
      | assumption | apply packetEvent_memOk | apply traceBuf_memOk | apply State.modCtx_memOk | apply PktRes.start_memOk
      | fail_if_no_progress apply memOk_mk | split | intro _)

theorem execPower_memOk {q : BitVec 6} {s : State} (h_s : s.memOk) : Keeps (execPower q s) := by
  unfold execPower
  dsimp only
  with_reducible repeat' (first
      | assumption | apply packetEvent_memOk | apply withPayload_memOk | apply PktRes.halt_memOk | apply PktRes.start_memOk
      | fail_if_no_progress apply memOk_mk | split | intro _)

/-! ### Launch -/

theorem State.traceAppend_memOk {s : State} {ctx : BitVec 5} {queue : BitVec 6} {kind : Nat} {value : Nat} {size : Nat} (h_s : s.memOk) :
    State.memOk (State.traceAppend s ctx queue kind value size) := by
  unfold State.traceAppend
  dsimp only
  with_reducible repeat' (first
      | assumption | apply State.modCtx_memOk | (refine State.ownWrite_memOk ?_ (by assumption)) | apply State.ownLost_memOk
      | fail_if_no_progress apply memOk_mk | split)

theorem withSegment_memOk {s : State} {q : BitVec 6} {d : LDesc} {go : Option (List (Nat × Nat) × Nat) → PktRes} (h_s : s.memOk) (h_go : ∀ x0,
    PktRes.memOk (go x0)) : PktRes.memOk (withSegment s q d go) := by
  unfold withSegment
  dsimp only
  with_reducible repeat' (first
      | assumption | apply h_go | apply PktRes.halt_memOk | exact PktRes.wait_memOk | fail_if_no_progress apply memOk_mk | split)

theorem State.moveCursor_memOk {s : State} {ctx : BitVec 5} {seg : Option (List (Nat × Nat) × Nat)} (h_s : s.memOk) : State.memOk (State.moveCursor
    s ctx seg) := by
  unfold State.moveCursor
  with_reducible repeat' (first | assumption | apply State.modCtx_memOk | fail_if_no_progress apply memOk_mk | split)

theorem withCode_memOk {s : State} {q : BitVec 6} {d : LDesc} {go : State → Option (Dword × Word) → PktRes} (h_s : s.memOk) (h_go : ∀ x0 x1,
    x0.memOk → PktRes.memOk (go x0 x1)) : PktRes.memOk (withCode s q d go) := by
  unfold withCode
  with_reducible repeat' (first | assumption | apply readObject_memOk | apply h_go | apply PktRes.halt_memOk | split | intro _)

theorem withCover_memOk {s : State} {q : BitVec 6} {d : LDesc} {go : State → Option Cover → PktRes} (h_s : s.memOk) (h_go : ∀ x0 x1, x0.memOk →
    PktRes.memOk (go x0 x1)) : PktRes.memOk (withCover s q d go) := by
  unfold withCover
  with_reducible repeat' (first
      | assumption | apply readObject_memOk | apply h_go | apply PktRes.halt_memOk | fail_if_no_progress apply memOk_mk | split | intro _)

theorem State.traceLaunch_memOk {s : State} {q : BitVec 6} {d : LDesc} (h_s : s.memOk) : State.memOk (State.traceLaunch s q d) := by
  unfold State.traceLaunch
  with_reducible repeat' (first | assumption | apply State.modCtx_memOk | apply State.traceAppend_memOk | fail_if_no_progress apply memOk_mk | split)

theorem execLaunch_memOk {q : BitVec 6} {s : State} (h_s : s.memOk) : Keeps (execLaunch q s) := by
  unfold execLaunch
  dsimp only
  with_reducible repeat' (first
      | assumption | apply packetEvent_memOk | apply withPayload_memOk | apply readObject_memOk | apply withSegment_memOk | apply withCode_memOk
      | apply withCover_memOk | apply State.moveCursor_memOk | apply State.dropTlb_memOk | apply State.dropIcaches_memOk | apply State.fresh_memOk
      | apply State.traceLaunch_memOk | apply PktRes.halt_memOk | apply PktRes.start_memOk | exact PktRes.wait_memOk
      | fail_if_no_progress apply memOk_mk | split | intro _)

theorem State.launchWrite_memOk {s : State} {l : Launch} {code : Nat} {va : Nat} {v : Nat} {n : Nat} (h_s : s.memOk) : State.memOk
    (State.launchWrite s l code va v n) := by
  unfold State.launchWrite
  with_reducible repeat' (first
      | assumption | apply State.recallOwn_memOk | (refine State.ownWrite_memOk ?_ (by assumption)) | apply State.ownLost_memOk
      | fail_if_no_progress apply memOk_mk | split)

theorem State.writeHeader_memOk {s : State} {l : Launch} (h_s : s.memOk) : State.memOk (State.writeHeader s l) := by
  unfold State.writeHeader
  with_reducible repeat' (first
      | assumption | apply State.recallOwn_memOk | (refine State.ownWrite_memOk ?_ (by assumption)) | apply State.modCtx_memOk
      | apply State.ownLost_memOk | fail_if_no_progress apply memOk_mk | split)

theorem State.writeCover_memOk {s : State} {l : Launch} {start : Cover} (h_s : s.memOk) : State.memOk (State.writeCover s l start) := by
  unfold State.writeCover
  dsimp only
  with_reducible repeat' (first | assumption | apply State.ownLost_memOk | apply State.launchWrite_memOk | fail_if_no_progress apply memOk_mk | split)

theorem execLaunchComplete_memOk {launch : Nat} {s : State} (h_s : s.memOk) : Keeps (execLaunchComplete launch s) := by
  unfold execLaunchComplete
  dsimp only
  with_reducible repeat' (first
      | assumption | apply State.flushContext_memOk | apply State.writeCover_memOk | apply State.credit_memOk | apply State.writeHeader_memOk
      | apply State.launchWrite_memOk | apply State.completePkt_memOk | apply next_keeps | fail_if_no_progress apply memOk_mk | apply memOk_foldl
      | split | intro _)

/-! ### Governor -/

theorem State.mayEvict_memOk {s : State} {core : Nat} (h_s : s.memOk) : State.memOk (State.mayEvict s core) := by
  unfold State.mayEvict
  dsimp only
  with_reducible repeat' (first
      | assumption | apply State.writeBackLine_memOk | apply State.dropL1_memOk | fail_if_no_progress apply memOk_mk | split)

theorem execAllowanceUpdate_memOk {core : BitVec 7} {s : State} (h_s : s.memOk) : Keeps (execAllowanceUpdate core s) := by
  unfold execAllowanceUpdate
  dsimp only
  with_reducible repeat' (first
      | assumption | apply State.mayEvict_memOk | apply State.modCtx_memOk | apply State.modPart_memOk | apply State.modCore_memOk | apply next_keeps
      | fail_if_no_progress apply memOk_mk | apply memOk_foldl | split | intro _)

theorem execNearThresholdWindow_memOk {core : BitVec 7} {part : BitVec 2} {s : State} (h_s : s.memOk) : Keeps (execNearThresholdWindow core part s)
    := by
  unfold execNearThresholdWindow
  dsimp only
  with_reducible repeat' (first | assumption | apply State.modPart_memOk | apply next_keeps | fail_if_no_progress apply memOk_mk | split)

theorem execNearThresholdExit_memOk {core : BitVec 7} {part : BitVec 2} {s : State} (h_s : s.memOk) : Keeps (execNearThresholdExit core part s) := by
  unfold execNearThresholdExit
  with_reducible repeat' (first | assumption | apply State.modPart_memOk | apply next_keeps | fail_if_no_progress apply memOk_mk | split)

theorem execWithheldCompletely_memOk {ctx : BitVec 5} {core : BitVec 7} {s : State} (h_s : s.memOk) : Keeps (execWithheldCompletely ctx core s) := by
  unfold execWithheldCompletely
  dsimp only
  with_reducible repeat' (first | assumption | apply State.modCtx_memOk | apply next_keeps | fail_if_no_progress apply memOk_mk | split)

theorem State.throttle_memOk {s : State} {ctx : Nat} (h_s : s.memOk) : State.memOk (State.throttle s ctx) := by
  unfold State.throttle
  dsimp only
  with_reducible repeat' (first | assumption | apply State.modCtx_memOk | apply State.postCtx_memOk | fail_if_no_progress apply memOk_mk | split)

theorem State.grantCap_memOk {s : State} {r : CapReq} (h_s : s.memOk) : State.memOk (State.grantCap s r) := by
  unfold State.grantCap
  dsimp only
  with_reducible repeat' (first | assumption | apply State.modCtx_memOk | fail_if_no_progress apply memOk_mk | split)

theorem State.refuseCap_memOk {s : State} {r : CapReq} {code : Nat} (h_s : s.memOk) : State.memOk (State.refuseCap s r code) := by
  unfold State.refuseCap
  dsimp only
  with_reducible repeat' (first | assumption | apply State.postCtx_memOk | apply State.postDev_memOk | fail_if_no_progress apply memOk_mk | split)

theorem State.testCap_memOk {s : State} {r : CapReq} (h_s : s.memOk) : State.memOk (State.testCap s r) := by
  unfold State.testCap
  dsimp only
  with_reducible repeat' (first
      | assumption | apply State.grantCap_memOk | apply State.refuseCap_memOk | apply State.completePkt_memOk | fail_if_no_progress apply memOk_mk
      | split)

theorem State.testCaps_memOk {s : State} (h_s : s.memOk) : State.memOk (State.testCaps s) := by
  unfold State.testCaps
  dsimp only
  with_reducible repeat' (first | assumption | apply State.testCap_memOk | fail_if_no_progress apply memOk_mk | apply memOk_foldl)

theorem State.thermalAlert_memOk {s : State} {temps : List Nat} (h_s : s.memOk) : State.memOk (State.thermalAlert s temps) := by
  unfold State.thermalAlert
  dsimp only
  with_reducible repeat' (first | assumption | apply State.postDev_memOk | fail_if_no_progress apply memOk_mk | split)

theorem State.setCores_memOk {s : State} {nonCoreW : Nat} (h_s : s.memOk) : State.memOk (State.setCores s nonCoreW) := by
  unfold State.setCores
  dsimp only
  with_reducible repeat' (first | assumption | apply State.followRatio_memOk | fail_if_no_progress apply memOk_mk)

theorem State.noteHot_memOk {s : State} {ts : List Nat} (h_s : s.memOk) : State.memOk (State.noteHot s ts) := by
  unfold State.noteHot
  with_reducible repeat' (first | assumption | fail_if_no_progress apply memOk_mk_dram)

theorem execGovernorPeriod_memOk {temps : List (BitVec 8)} {nonCoreW : Nat} {s : State} (h_s : s.memOk) : Keeps (execGovernorPeriod temps nonCoreW
    s) := by
  unfold execGovernorPeriod
  dsimp only
  with_reducible repeat' (first
      | assumption | apply State.thermalTrip_memOk | apply State.throttle_memOk | apply State.testCaps_memOk | apply State.thermalAlert_memOk
      | apply State.noteHot_memOk | apply State.setCores_memOk | apply next_keeps | fail_if_no_progress apply memOk_mk | apply memOk_foldl | split)

/-! ### Coverage -/

theorem State.fillPoint_memOk {s : State} {l : Launch} {f : Surface} {p : CovPoint} {v : Nat} (h_s : s.memOk) : State.memOk (State.fillPoint s l f p
    v) := by
  unfold State.fillPoint
  dsimp only
  with_reducible repeat' (first
      | assumption | apply State.recallOwn_memOk | (refine State.ownWrite_memOk ?_ (by assumption)) | apply State.noteLine_memOk
      | fail_if_no_progress apply memOk_mk | split)

theorem State.infillTeam_memOk {s : State} {tu : Nat} (h_s : s.memOk) : State.memOk (State.infillTeam s tu) := by
  unfold State.infillTeam
  dsimp only
  with_reducible repeat' (first
      | assumption | apply State.fillPoint_memOk | apply State.modLaunch_memOk | fail_if_no_progress apply memOk_mk | apply memOk_foldl | split
      | intro _)

theorem execInfill_memOk {team : Nat} {s : State} (h_s : s.memOk) : Keeps (execInfill team s) := by
  unfold execInfill
  with_reducible repeat' (first | assumption | apply State.infillTeam_memOk | apply next_keeps | fail_if_no_progress apply memOk_mk | split)

/-! ### Gdist -/

theorem State.noteServed_memOk {s : State} {ctx : BitVec 5} (h_s : s.memOk) : State.memOk (State.noteServed s ctx) := by
  unfold State.noteServed
  with_reducible repeat' (first | assumption | apply State.modCtx_memOk)

theorem State.admitTeam_memOk {s : State} {l : Launch} {c : NextCluster} {m : Nat × Nat} {core : Nat} (h_s : s.memOk) : State.memOk (State.admitTeam
    s l c m core) := by
  unfold State.admitTeam
  dsimp only
  with_reducible repeat' (first
      | assumption | apply State.fresh_memOk | apply State.wakeCore_memOk | (refine State.placeGroup_memOk ?_ (by assumption))
      | apply State.modGroup_memOk | apply State.dropCoherent_memOk | apply State.modLaunch_memOk | apply State.teamOver_memOk
      | fail_if_no_progress apply memOk_mk | apply memOk_foldl | split | intro _)

theorem State.admitCluster_memOk {s : State} {l : Launch} {c : NextCluster} {cores : List Nat} (h_s : s.memOk) : State.memOk (State.admitCluster s l
    c cores) := by
  unfold State.admitCluster
  dsimp only
  with_reducible repeat' (first
      | assumption | apply State.admitTeam_memOk | apply State.modLaunch_memOk | apply State.noteServed_memOk | apply State.traceAppend_memOk
      | apply memOk_foldl | split | intro _)

theorem execTeamAdmission_memOk {launch : Nat} {cores : List Nat} {s : State} (h_s : s.memOk) : Keeps (execTeamAdmission launch cores s) := by
  unfold execTeamAdmission
  dsimp only
  with_reducible repeat' (first
      | assumption | apply State.startBins_memOk | apply State.followRatio_memOk | apply State.admitCluster_memOk | apply next_keeps
      | fail_if_no_progress apply memOk_mk | apply memOk_foldl | split)

theorem State.quiesce_memOk {s : State} {t : Team} (h_s : s.memOk) : State.memOk (State.quiesce s t) := by
  unfold State.quiesce
  dsimp only
  with_reducible repeat' (first
      | assumption | apply State.runOps_memOk | apply State.writeBackTeam_memOk | apply State.flushContext_memOk | apply State.modTeam_memOk
      | apply memOk_foldl | intro _)

theorem State.removeTeam_memOk {s : State} {t : Team} (h_s : s.memOk) : State.memOk (State.removeTeam s t) := by
  unfold State.removeTeam
  dsimp only
  with_reducible repeat' (first
      | assumption | apply State.noteFree_memOk | apply State.islandsOff_memOk | apply State.followRatio_memOk | fail_if_no_progress apply memOk_mk
      | apply memOk_foldl | intro _)

theorem State.discard_memOk {s : State} {ts : List Team} (h_s : s.memOk) : State.memOk (State.discard s ts) := by
  unfold State.discard
  with_reducible repeat' (first
      | assumption | apply State.removeTeam_memOk | apply State.modLaunch_memOk | fail_if_no_progress apply memOk_mk | apply memOk_foldl | split)

theorem State.stopGroups_memOk {s : State} {ts : List Team} {stop : Bool} (h_s : s.memOk) : State.memOk (State.stopGroups s ts stop) := by
  unfold State.stopGroups
  with_reducible repeat' (first | assumption | fail_if_no_progress apply memOk_mk)

theorem State.setStates_memOk {s : State} {ts : List Team} {st : TeamState} (h_s : s.memOk) : State.memOk (State.setStates s ts st) := by
  unfold State.setStates
  with_reducible repeat' (first | assumption | apply State.modTeam_memOk | fail_if_no_progress apply memOk_mk | apply memOk_foldl | intro _)

theorem State.discardStep_memOk {s : State} {ts : List Team} (h_s : s.memOk) : State.memOk (State.discardStep s ts) := by
  unfold State.discardStep
  dsimp only
  with_reducible repeat' (first
      | assumption | apply State.quiesce_memOk | apply State.stopGroups_memOk | apply State.discard_memOk | apply State.setStates_memOk
      | apply memOk_foldl | split)

theorem State.preempt_memOk {s : State} {t : Team} (h_s : s.memOk) : State.memOk (State.preempt s t) := by
  unfold State.preempt
  dsimp only
  with_reducible repeat' (first
      | assumption | apply State.discardStep_memOk | apply State.modTeam_memOk | fail_if_no_progress apply memOk_mk | apply memOk_foldl | split
      | intro _)

theorem execPreemption_memOk {team : Nat} {ctx : Nat} {s : State} (h_s : s.memOk) : Keeps (execPreemption team ctx s) := by
  unfold execPreemption
  with_reducible repeat' (first | assumption | apply State.preempt_memOk | apply next_keeps | fail_if_no_progress apply memOk_mk | split)

theorem State.scrambleRange_memOk {s : State} {ctx : BitVec 5} {va n : Nat} (h : s.memOk) : (s.scrambleRange ctx va n).memOk := by
  refine memOk_foldl (fun t i ht => ?_) h
  split
  · exact State.ctxPut_memOk ht
  · exact ht

theorem State.countLines_memOk {s : State} {ctx : BitVec 5} {va n : Nat} (h : s.memOk)
    : (s.countLines ctx va n).memOk := (State.countLines_homeOnly s ctx va n).memOk h

theorem State.writeImage_memOk {s : State} {g : Group} {i : Nat} {f : Frame} (h_s : s.memOk) : State.memOk (State.writeImage s g i f) := by
  unfold State.writeImage
  dsimp only
  with_reducible repeat' (first | assumption | apply State.scrambleRange_memOk | apply State.countLines_memOk)

theorem State.endTeam_memOk {s : State} {t : Team} {kind : Nat} (h_s : s.memOk) : State.memOk (State.endTeam s t kind) := by
  unfold State.endTeam
  dsimp only
  with_reducible repeat' (first
      | assumption | apply State.endLanes_memOk | apply State.osEnd_memOk | apply State.exitArrivals_memOk | apply State.postCtx_memOk
      | apply State.removeTeam_memOk | apply State.modLaunch_memOk | fail_if_no_progress apply memOk_mk | apply memOk_foldl | split | intro _)

theorem State.saveTeam_memOk {s : State} {t : Team} {addr : Nat} {n : Nat} (h_s : s.memOk) : State.memOk (State.saveTeam s t addr n) := by
  unfold State.saveTeam
  dsimp only
  with_reducible repeat' (first
      | assumption | apply State.endTeam_memOk | apply State.scrambleRange_memOk | apply State.countLines_memOk | apply State.noteFree_memOk
      | apply State.modTeam_memOk | apply State.islandsOff_memOk | apply State.followRatio_memOk | fail_if_no_progress apply memOk_mk
      | apply memOk_foldl | split | intro _)

theorem State.saveCluster_memOk {s : State} {ts : List Team} (h_s : s.memOk) : State.memOk (State.saveCluster s ts) := by
  unfold State.saveCluster
  with_reducible repeat' (first
      | assumption | apply State.modTeam_memOk | apply State.stopGroups_memOk | apply State.saveTeam_memOk | fail_if_no_progress apply memOk_mk
      | apply memOk_foldl | split | intro _)

theorem execDrainLimitExpiry_memOk {team : Nat} {s : State} (h_s : s.memOk) : Keeps (execDrainLimitExpiry team s) := by
  unfold execDrainLimitExpiry
  dsimp only
  with_reducible repeat' (first
      | assumption | apply State.discardStep_memOk | apply State.quiesce_memOk | apply State.stopGroups_memOk | apply State.saveCluster_memOk
      | apply next_keeps | fail_if_no_progress apply memOk_mk | apply memOk_foldl | split)

theorem State.placeImage_memOk {s : State} {uid : Nat} {i : Nat} (h_s : s.memOk) : State.memOk (State.placeImage s uid i) := by
  unfold State.placeImage
  with_reducible repeat' (first | assumption | apply State.modGroup_memOk | apply State.writeImage_memOk | fail_if_no_progress apply memOk_mk | split)

theorem State.restoreGroup_memOk {s : State} {g : Group} {core : Nat} (h_s : s.memOk) : State.memOk (State.restoreGroup s g core) := by
  unfold State.restoreGroup
  dsimp only
  with_reducible repeat' (first
      | assumption | apply State.fresh_memOk | apply State.putGroup_memOk | apply State.modCore_memOk | apply State.placeImage_memOk
      | fail_if_no_progress apply memOk_mk | apply memOk_foldl | split | intro _)

theorem State.restoreTeam_memOk {s : State} {t : Team} {core : Nat} (h_s : s.memOk) : State.memOk (State.restoreTeam s t core) := by
  unfold State.restoreTeam
  dsimp only
  with_reducible repeat' (first
      | assumption | apply State.endTeam_memOk | apply State.flushContext_memOk | apply State.dropCoherent_memOk | apply State.wakeCore_memOk
      | apply State.modLaunch_memOk | apply State.modTeam_memOk | apply State.restoreGroup_memOk | fail_if_no_progress apply memOk_mk_dram
      | fail_if_no_progress apply memOk_mk | apply memOk_foldl | split | intro _)

theorem execTeamRestore_memOk {team : Nat} {core : Nat} {s : State} (h_s : s.memOk) : Keeps (execTeamRestore team core s) := by
  unfold execTeamRestore
  dsimp only
  with_reducible repeat' (first
      | assumption | apply State.followRatio_memOk | apply State.restoreTeam_memOk | apply State.noteServed_memOk | apply next_keeps
      | fail_if_no_progress apply memOk_mk | apply memOk_foldl | split | intro _)

theorem State.rotate_memOk {l : List Team} : ∀ {s : State} {n : Nat}, s.memOk → (s.rotate n l).memOk := by
  induction l with
  | nil => exact fun h => h
  | cons t ts ih =>
    intro s n h
    unfold State.rotate
    repeat' (first | with_reducible assumption | with_reducible apply ih | with_reducible apply State.preempt_memOk | split)

theorem execQuantumBoundary_memOk {launch : Nat} {s : State} (h_s : s.memOk) : Keeps (execQuantumBoundary launch s) := by
  unfold execQuantumBoundary
  dsimp only
  with_reducible repeat' (first | assumption | apply State.rotate_memOk | apply next_keeps | fail_if_no_progress apply memOk_mk | split)

theorem State.postStall_memOk {s : State} {l : Launch} (h_s : s.memOk) : State.memOk (State.postStall s l) := by
  unfold State.postStall
  with_reducible repeat' (first | assumption | apply State.modCtx_memOk | apply State.postCtx_memOk)

theorem execLaunchStall_memOk {launch : Nat} {s : State} (h_s : s.memOk) : Keeps (execLaunchStall launch s) := by
  unfold execLaunchStall
  dsimp only
  with_reducible repeat' (first
      | assumption | apply State.modLaunch_memOk | apply State.postStall_memOk | apply next_keeps | fail_if_no_progress apply memOk_mk | split)

theorem execSpawnStall_memOk {launch : Nat} {s : State} (h_s : s.memOk) : Keeps (execSpawnStall launch s) := by
  unfold execSpawnStall
  dsimp only
  with_reducible repeat' (first
      | assumption | apply State.modLaunch_memOk | apply State.postStall_memOk | apply next_keeps | fail_if_no_progress apply memOk_mk | split)

theorem execSpawnBinTimerExpiry_memOk {core : BitVec 7} {bin : BitVec 4} {s : State} (h_s : s.memOk) : Keeps (execSpawnBinTimerExpiry core bin s) :=
    by
  unfold execSpawnBinTimerExpiry
  dsimp only
  with_reducible repeat' (first
      | assumption | apply State.modCore_memOk | apply State.startBin_memOk | apply next_keeps | fail_if_no_progress apply memOk_mk | split)

theorem execSpawnBinHandoff_memOk {core : BitVec 7} {bin : BitVec 4} {dest : BitVec 7} {s : State} (h_s : s.memOk) : Keeps (execSpawnBinHandoff core
    bin dest s) := by
  unfold execSpawnBinHandoff
  dsimp only
  with_reducible repeat' (first
      | assumption | apply State.modCore_memOk | apply State.startBin_memOk | apply next_keeps | fail_if_no_progress apply memOk_mk | split)

theorem execArenaTimerExpiry_memOk {launch : Nat} {core : BitVec 7} {s : State} (h_s : s.memOk) : Keeps (execArenaTimerExpiry launch core s) := by
  unfold execArenaTimerExpiry
  with_reducible repeat' (first | assumption | apply State.startConsumer_memOk | apply next_keeps | fail_if_no_progress apply memOk_mk | split)

/-! ### Ladle -/

theorem State.spillFrame_memOk {s : State} {g : Group} {i : Nat} {f : Frame} (h_s : s.memOk) : State.memOk (State.spillFrame s g i f) := by
  unfold State.spillFrame
  dsimp only
  with_reducible repeat' (first
      | assumption | apply State.writeImage_memOk | apply State.modGroup_memOk | apply State.noteFree_memOk | apply State.modCtx_memOk)

theorem State.refillFrame_memOk {s : State} {g : Group} {i : Nat} {f : Frame} {bad : Option Nat} (h_s : s.memOk) : State.memOk (State.refillFrame s
    g i f bad) := by
  unfold State.refillFrame
  dsimp only
  with_reducible repeat' (first | assumption | apply State.modGroup_memOk | apply State.modCtx_memOk)

theorem State.ladlePark_memOk {s : State} {g : Group} {f : Frame} {refill : Bool} {kind : Nat} {va : Nat} (h_s : s.memOk) : State.memOk
    (State.ladlePark s g f refill kind va) := by
  unfold State.ladlePark
  with_reducible repeat' (first | assumption | apply State.addFault_memOk | apply State.modPart_memOk)

theorem State.ladleFree_memOk {s : State} {core : Nat} {part : Nat} (h_s : s.memOk) : State.memOk (State.ladleFree s core part) := by
  unfold State.ladleFree
  with_reducible repeat' (first | assumption | apply State.modPart_memOk)

theorem State.ladleTidy_memOk {s : State} {core : Nat} {part : Nat} (h_s : s.memOk) : State.memOk (State.ladleTidy s core part) := by
  unfold State.ladleTidy
  with_reducible repeat' (first | assumption | apply State.ladleFree_memOk | split)

theorem State.serve_memOk {s : State} {g : Group} (h_s : s.memOk) : State.memOk (State.serve s g) := by
  unfold State.serve
  with_reducible repeat' (first
      | assumption | apply State.modGroup_memOk | apply State.convert_memOk | apply State.ladleFree_memOk | apply State.refillFrame_memOk
      | apply State.ladlePark_memOk | fail_if_no_progress apply memOk_mk | split)

theorem execAllocationGrant_memOk {core : BitVec 7} {part : BitVec 2} {s : State} (h_s : s.memOk) : Keeps (execAllocationGrant core part s) := by
  unfold execAllocationGrant
  dsimp only
  with_reducible repeat' (first
      | assumption | apply State.ladleTidy_memOk | apply State.serve_memOk | apply next_keeps | fail_if_no_progress apply memOk_mk | split)

theorem State.exhaust_memOk {s : State} {g : Group} (h_s : s.memOk) : State.memOk (State.exhaust s g) := by
  unfold State.exhaust
  dsimp only
  with_reducible repeat' (first | assumption | apply State.modGroup_memOk)

theorem State.endWake_memOk {s : State} {core : Nat} {part : Nat} (h_s : s.memOk) : State.memOk (State.endWake s core part) := by
  unfold State.endWake
  with_reducible repeat' (first | assumption | apply State.modCore_memOk)

theorem State.keepWake_memOk {s : State} {core : Nat} {w : Wake} (h_s : s.memOk) : State.memOk (State.keepWake s core w) := by
  unfold State.keepWake
  with_reducible repeat' (first | assumption | apply State.modCore_memOk)

theorem State.passOver_memOk {s : State} {h : Group} {cause : Nat} {va : Nat} (h_s : s.memOk) : State.memOk (State.passOver s h cause va) := by
  unfold State.passOver
  with_reducible repeat' (first | assumption | apply State.modGroup_memOk)

theorem State.ladleRun_memOk {core n : Nat} : ∀ {s : State} {w : Wake}, s.memOk → (s.ladleRun core w n).memOk := by
  induction n with
  | zero => exact fun h => State.keepWake_memOk h
  | succ n ih =>
    intro s w h
    unfold State.ladleRun
    dsimp only
    repeat' (first
        | with_reducible assumption | with_reducible apply ih | with_reducible apply State.endWake_memOk | with_reducible apply State.serve_memOk
        | with_reducible apply State.exhaust_memOk | with_reducible apply State.passOver_memOk | with_reducible apply State.spillFrame_memOk
        | with_reducible apply State.ladlePark_memOk | with_reducible apply State.keepWake_memOk | split)

theorem State.spillFailed_memOk {s : State} {core part : Nat} (h_s : s.memOk) : (s.spillFailed core part).memOk := by
  unfold State.spillFailed
  with_reducible repeat' (first
      | assumption | apply State.modCore_memOk | apply State.modGroup_memOk | apply State.ladleFree_memOk | split)

theorem State.wakeLadle_memOk {s : State} {core : Nat} {part : Nat} (h_s : s.memOk) : State.memOk (State.wakeLadle s core part) := by
  unfold State.wakeLadle
  with_reducible repeat' (first | assumption | apply State.modCore_memOk | fail_if_no_progress apply memOk_mk | split)

theorem execLadleWake_memOk {core : BitVec 7} {part : BitVec 2} {s : State} (h_s : s.memOk) : Keeps (execLadleWake core part s) := by
  unfold execLadleWake
  dsimp only
  have hr := State.wakeLadle_memOk (core := core.toNat) (part := part.toNat)
    (State.spillFailed_memOk (core := core.toNat) (part := part.toNat) (State.ladleTidy_memOk (core := core.toNat) (part := part.toNat) h_s))
  refine next_keeps ?_
  split
  · exact hr
  · split
    · exact hr
    · exact State.ladleRun_memOk hr

/-! ### Completions -/

theorem State.stepOne_memOk {s : State} {uid : Nat} {sel : Group → Op → Bool} (h_s : s.memOk) : State.memOk (State.stepOne s uid sel) := by
  unfold State.stepOne
  with_reducible repeat' (first | assumption | apply State.runOp_memOk | apply State.tryExits_memOk | fail_if_no_progress apply memOk_mk | split)

theorem execLoadDataLanded_memOk {group : Nat} {s : State} (h_s : s.memOk) : Keeps (execLoadDataLanded group s) := by
  unfold execLoadDataLanded
  with_reducible repeat' (first | assumption | apply State.stepOne_memOk | apply State.reserve_memOk | apply next_keeps)

theorem execStorePerformed_memOk {group : Nat} {s : State} (h_s : s.memOk) : Keeps (execStorePerformed group s) := by
  unfold execStorePerformed
  with_reducible repeat' (first | assumption | apply State.stepOne_memOk | apply State.passFence_memOk | apply next_keeps)

theorem execAtomicAtHome_memOk {group : Nat} {s : State} (h_s : s.memOk) : Keeps (execAtomicAtHome group s) := by
  unfold execAtomicAtHome
  dsimp only
  with_reducible repeat' (first
      | assumption | apply State.runOp_memOk | apply State.settle_memOk | apply State.atomBundle_memOk | apply State.tryExits_memOk | apply next_keeps
      | fail_if_no_progress apply memOk_mk | apply memOk_foldl | split)

theorem execEngineLineLanded_memOk {group : Nat} {s : State} (h_s : s.memOk) : Keeps (execEngineLineLanded group s) := by
  unfold execEngineLineLanded
  dsimp only
  with_reducible repeat' (first
      | assumption | apply State.performWrites_memOk | apply State.runOp_memOk | apply State.tryExits_memOk | apply next_keeps
      | fail_if_no_progress apply memOk_mk | split)

theorem execMatrixOperationComplete_memOk {group : Nat} {s : State} (h_s : s.memOk) : Keeps (execMatrixOperationComplete group s) := by
  unfold execMatrixOperationComplete
  with_reducible repeat' (first | assumption | apply State.stepOne_memOk | apply next_keeps)

theorem execBoundaryTrapEntry_memOk {group : Nat} {s : State} (h_s : s.memOk) : Keeps (execBoundaryTrapEntry group s) := by
  unfold execBoundaryTrapEntry
  with_reducible repeat' (first
      | assumption | apply State.trapRow_memOk | apply State.raiseTrap_memOk | apply next_keeps | fail_if_no_progress apply memOk_mk | split)

/-! ### Rounds -/

theorem State.applyOps_memOk {uid : Nat} {l : List Op} : ∀ {s : State}, s.memOk → (s.applyOps uid l).1.memOk := by
  induction l with
  | nil => exact fun h => h
  | cons o r ih =>
    intro s h
    unfold State.applyOps
    dsimp only
    repeat' (first
        | with_reducible assumption | with_reducible apply ih | with_reducible apply State.runFully_memOk
        | with_reducible apply State.performWrites_memOk | split)

theorem State.applyGroup_memOk {s : State} {uid : Nat} (h : s.memOk) : (s.applyGroup uid).1.memOk := by
  unfold State.applyGroup
  dsimp only
  split
  · exact h
  · split
    · exact State.tryExit_memOk (State.performWrites_memOk (State.applyOps_memOk h))
    · exact State.applyOps_memOk h

theorem State.applyGroups_memOk {l : List Nat} : ∀ {s : State}, s.memOk → (s.applyGroups l).1.memOk := by
  induction l with
  | nil => exact fun h => h
  | cons u r ih =>
    intro s h
    have hu := State.applyGroup_memOk (uid := u) h
    unfold State.applyGroups
    split
    · next e => rw [e] at hu; exact ih hu
    · exact hu

theorem State.deliver_memOk {s : State} {launch : Nat} {d : Deferred} (h_s : s.memOk) : State.memOk (State.deliver s launch d) := by
  unfold State.deliver
  dsimp only
  with_reducible repeat' (first | assumption | apply State.commitRun_memOk | apply State.modLaunch_memOk | fail_if_no_progress apply memOk_mk | split)

theorem State.deliverAll_memOk {s : State} {launch : Nat} (h_s : s.memOk) : State.memOk (State.deliverAll s launch) := by
  unfold State.deliverAll
  dsimp only
  with_reducible repeat' (first
      | assumption | apply State.deliver_memOk | apply State.modLaunch_memOk | fail_if_no_progress apply memOk_mk | apply memOk_foldl | split
      | intro _)

theorem State.startLaunchBin_memOk {s : State} {launch i : Nat} (h : s.memOk) : (s.startLaunchBin launch i).memOk := by
  unfold State.startLaunchBin
  repeat' (first | exact h | split)
  next e =>
    obtain ⟨c, -, hc⟩ := Option.bind_eq_some_iff.mp e
    exact State.modLaunch_memOk (State.startWave_memOk h hc)

theorem State.startLaunchBins_memOk {s : State} {launch : Nat} (h_s : s.memOk) : State.memOk (State.startLaunchBins s launch) := by
  unfold State.startLaunchBins
  dsimp only
  with_reducible repeat' (first | assumption | apply State.startLaunchBin_memOk | apply memOk_foldl | intro _)

theorem State.startConsumers_memOk {launch : Nat} {n : Nat} : ∀ {s : State}, s.memOk → (s.startConsumers launch n).memOk := by
  induction n with
  | zero => exact fun h => h
  | succ n ih =>
    intro s h
    unfold State.startConsumers
    repeat' (first | with_reducible assumption | with_reducible apply ih | with_reducible apply State.startConsumer_memOk | split)

theorem State.grantClaims_memOk {s : State} {uid : Nat} (h_s : s.memOk) : State.memOk (State.grantClaims s uid) := by
  unfold State.grantClaims
  with_reducible repeat' (first
      | assumption | apply State.modTeam_memOk | apply State.modGroup_memOk | fail_if_no_progress apply memOk_mk | apply memOk_foldl | split | intro _)

theorem State.infillAll_memOk {s : State} {launch : Nat} (h_s : s.memOk) : State.memOk (State.infillAll s launch) := by
  unfold State.infillAll
  dsimp only
  with_reducible repeat' (first | assumption | apply State.infillTeam_memOk | apply memOk_foldl)

theorem State.phaseDev_memOk {s : State} {uid : Nat} (h_s : s.memOk) : State.memOk (State.phaseDev s uid) := by
  unfold State.phaseDev
  with_reducible repeat' (first | assumption | apply State.modGroup_memOk | apply State.release_memOk | apply State.acquire_memOk)

theorem State.endRound_memOk {s : State} {launch : Nat} (h_s : s.memOk) : State.memOk (State.endRound s launch) := by
  unfold State.endRound
  dsimp only
  with_reducible repeat' (first
      | assumption | apply State.infillAll_memOk | apply State.deliverAll_memOk | apply State.grantClaims_memOk | apply State.phaseDev_memOk
      | apply State.osTryGroups_memOk | apply State.startLaunchBins_memOk | apply State.startConsumers_memOk | apply State.modLaunch_memOk
      | fail_if_no_progress apply memOk_mk | apply memOk_foldl)

theorem execRoundBoundary_memOk {launch : Nat} {s : State} (h_s : s.memOk) : Keeps (execRoundBoundary launch s) := by
  unfold execRoundBoundary
  dsimp only
  with_reducible repeat' (first
      | assumption | apply State.applyGroups_memOk | apply State.endRound_memOk | apply State.modLaunch_memOk | apply next_keeps
      | fail_if_no_progress apply memOk_mk | split)

/-! ### Turn -/

theorem State.noteIssue_memOk {s : State} {g : Group} {k : Nat} {i : Instr} (h_s : s.memOk) : State.memOk (State.noteIssue s g k i) := by
  unfold State.noteIssue
  dsimp only
  with_reducible repeat' (first
      | assumption | apply State.debitIssue_memOk | apply State.modCtx_memOk | apply State.modPart_memOk | fail_if_no_progress apply memOk_mk | split)

theorem State.parkedTurn_memOk {s : State} {g : Group} {p : Parked} (h_s : s.memOk) : State.memOk (State.parkedTurn s g p) := by
  unfold State.parkedTurn
  with_reducible repeat' (first
      | assumption | apply State.convert_memOk | apply State.modGroup_memOk | apply State.raiseTrap_memOk | apply State.parkGroup_memOk
      | fail_if_no_progress apply memOk_mk | split)

theorem mapNext_memOk {o : Host.Outcome State Fault Refusal} {f : State → State} (ho : Keeps o) (hf : ∀ x, x.memOk → (f x).memOk) :
    Keeps (mapNext o f) := by
  unfold mapNext
  split
  · exact next_keeps (hf _ (ho _ rfl))
  · exact fault_keeps
  · exact fun _ e => by cases e

theorem State.sramTurn_memOk {s : State} {e : SramErr} (h_s : s.memOk) : State.memOk (State.sramTurn s e) := by
  unfold State.sramTurn
  with_reducible repeat' (first
      | assumption | apply State.lastingError_memOk | apply State.transientError_memOk | fail_if_no_progress apply memOk_mk | split)

theorem State.ticked_memOk {s : State} (h_s : s.memOk) : State.memOk (State.ticked s) := by
  unfold State.ticked
  with_reducible repeat' (first | assumption | fail_if_no_progress apply memOk_mk)

end Sys2Proof.Machine
end

