-- ==== Sys2Proof/Laws/Outcome.lean ====
section
/-! SUPPORT. What an instruction that changes its own group alone leaves: retirement in the words of Safety.lean, and the results of
writing one scalar or one vector operand. -/

namespace Sys2Proof.Machine

/-! ### Launches under retirement -/

theorem State.launch_modLaunch (s : State) (u v : Nat) (f : Launch → Launch) (hf : ∀ l, (f l).uid = l.uid) :
    (s.modLaunch u f).launch v = (s.launch v).map fun l => if l.uid = u then f l else l := by
  unfold State.launch State.modLaunch
  simp only
  induction s.launches with
  | nil => rfl
  | cons a r ih =>
    have e : (if a.uid = u then f a else a).uid = a.uid := by split <;> simp [hf]
    simp only [List.map_cons, List.find?_cons, e]
    by_cases ha : a.uid = v
    · simp [ha]
    · have hb : (a.uid == v) = false := by simpa using ha
      simp only [hb, ih]

/-! ### Fusing -/

theorem Group.canFuse_live {g : Group} {a b : Nat} (h : g.canFuse a b = true) : (g.row a).live = true ∧ (g.row b).live = true := by
  simp only [Group.canFuse, Bool.and_eq_true] at h
  exact ⟨h.1.1.1.1.1.1.1.1.1.1, h.1.1.1.1.1.1.1.1.1.2⟩

/-- Where one row is live nothing fuses. -/
theorem Group.fuse_single {g : Group} (h : g.single = true) : g.fuse = g := by
  have no : ∀ ab ∈ [(0, 1), (0, 2), (0, 3), (1, 2), (1, 3), (2, 3)], g.canFuse ab.1 ab.2 = false := by
    intro ab hab
    by_contra hc
    obtain ⟨ha, hb⟩ := Group.canFuse_live (Bool.eq_true_of_not_eq_false hc)
    have hs : g.liveRows.length ≤ 1 := by simpa [Group.single] using h
    simp only [List.mem_cons, List.mem_nil_iff, or_false] at hab
    revert hs
    unfold Group.liveRows
    rw [show List.range 4 = [0, 1, 2, 3] from rfl]
    obtain rfl | rfl | rfl | rfl | rfl | rfl := hab <;> simp only at ha hb <;>
      simp only [List.filter_cons, ha, hb, if_true] <;> (repeat' split) <;> simp
  unfold Group.fuse
  have step : ∀ l : List (Nat × Nat), (∀ ab ∈ l, g.canFuse ab.1 ab.2 = false) →
      l.foldl (fun h ab => if h.canFuse ab.1 ab.2 then h.fuseInto ab.1 ab.2 else h) g = g := by
    intro l
    induction l with
    | nil => intro _; rfl
    | cons ab r ih =>
      intro hl
      rw [List.foldl_cons, hl ab List.mem_cons_self]
      exact ih fun x hx => hl x (List.mem_cons_of_mem _ hx)
  exact step _ no

theorem Group.single_congr {g h : Group} (e : ∀ j, (h.row j).live = (g.row j).live) : h.single = g.single := by
  unfold Group.single Group.liveRows
  rw [show (fun k => (h.row k).live) = fun k => (g.row k).live from funext e]

/-! ### Retirement of a group that an instruction has changed -/

/-- Retirement from a state in which the group alone has changed leaves everything else as it was. -/
theorem quiet_finish_mod {s : State} {g : Group} {f : Group → Group} (hf : ∀ x, x.uid = g.uid → (f x).uid = g.uid) (k : Nat) {i : Instr}
    (hs : i.sideEffect = false) (pc : Option Pc) (fuse : Bool) : Quiet s ((s.modGroup g.uid f).finish g k i pc fuse) g.uid := by
  have launch : ∀ u l, s.launch u = some l → ∃ n x y,
      ((s.modGroup g.uid f).finish g k i pc fuse).launch u = some { l with retired := n, stallPosted := x, spawnStall := y } := by
    intro u l hl
    unfold State.finish
    simp only [hs, Bool.false_eq_true, if_false]
    generalize (Option.any (fun g : Group => g.spin.isSome) _) = b
    rw [State.launch_modLaunch (f := fun l => { l with
      retired := l.retired + 1, stallPosted := l.stallPosted && (g.spin.isNone || b), spawnStall := false }) (hf := fun _ => rfl)]
    have e : ∀ (t : State) (u v : Nat) (p : Group → Group), (t.modGroup u p).launch v = t.launch v := fun _ _ _ _ => rfl
    rw [e, e, hl]
    simp only [Option.map_some]
    split
    · exact ⟨_, _, _, rfl⟩
    · exact ⟨l.retired, l.stallPosted, l.spawnStall, rfl⟩
  have teams : ((s.modGroup g.uid f).finish g k i pc fuse).teams = s.teams := by
    unfold State.finish
    simp only [hs, Bool.false_eq_true, if_false]
    rfl
  have others : ∀ u, u ≠ g.uid → ((s.modGroup g.uid f).finish g k i pc fuse).group u = s.group u := by
    intro u h
    rw [State.finish_group_ne h, State.group_modGroup_ne h hf]
  obtain ⟨l, t, e⟩ := (s.modGroup g.uid f).finish_eq g k i pc fuse
  have rest : ∀ {α : Type} (p : State → α), (∀ s l t, p { s with launches := l, teams := t } = p s) →
      (∀ s u h, p (State.modGroup s u h) = p s) → p ((s.modGroup g.uid f).finish g k i pc fuse) = p s := by
    intro α p h1 h2
    rw [e, h1, h2]
    exact h2 _ _ _
  exact ⟨rest _ (fun _ _ _ => rfl) (fun _ _ _ => rfl), rest _ (fun _ _ _ => rfl) (fun _ _ _ => rfl),
    rest _ (fun _ _ _ => rfl) (fun _ _ _ => rfl), rest _ (fun _ _ _ => rfl) (fun _ _ _ => rfl),
    rest _ (fun _ _ _ => rfl) (fun _ _ _ => rfl), rest _ (fun _ _ _ => rfl) (fun _ _ _ => rfl),
    rest _ (fun _ _ _ => rfl) (fun _ _ _ => rfl), rest _ (fun _ _ _ => rfl) (fun _ _ _ => rfl),
    rest _ (fun _ _ _ => rfl) (fun _ _ _ => rfl), rest _ (fun _ _ _ => rfl) (fun _ _ _ => rfl),
    rest _ (fun _ _ _ => rfl) (fun _ _ _ => rfl), teams, rest _ (fun _ _ _ => rfl) (fun _ _ _ => rfl), launch, others⟩

theorem quiet_finish {s : State} {g g' : Group} (hu : g'.uid = g.uid) (k : Nat) {i : Instr} (hs : i.sideEffect = false)
    (pc : Option Pc) (fuse : Bool) : Quiet s ((s.putGroup g').finish g k i pc fuse) g.uid := by
  unfold State.putGroup
  rw [hu]
  exact quiet_finish_mod (f := fun _ => g') (fun _ _ => hu) k hs pc fuse

theorem State.modGroup_id (s : State) (u : Nat) : s.modGroup u id = s := by
  unfold State.modGroup
  have : (s.groups.map fun g => if g.uid = u then id g else g) = s.groups := by
    simp
  rw [this]

/-- Where nothing but a group has changed, memory reads as before. -/
theorem Quiet.sameMemory {s t : State} {u : Nat} (h : Quiet s t u) : SameMemory s t := by
  obtain ⟨-, -, hh, -, -, -, -, hd, -, -, -, ht, -⟩ := h
  refine ⟨fun a => ?_, fun a => ?_, fun v a => ?_⟩
  · simp [State.dramByte, hd]
  · simp [State.hostByte, hh]
  · simp [State.stashByte, State.team, ht]

/-- The group that has retired an instruction which changed it to g'. -/
theorem retired_finish_mod {s : State} {g g' : Group} {k : Nat} {i : Instr} {f : Group → Group} (hi : s.issuer = some (g, k))
    (hf : ∀ x, x.uid = g.uid → (f x).uid = g.uid) (hfg : f g = g') (hr : g'.retired = g.retired) (hl : ∀ j, (g'.row j).live = (g.row j).live) (hs : i.sideEffect = false) (pc : Pc) :
    ∃ h, RetiredTo s ((s.modGroup g.uid f).finish g k i (some pc) true) g h k { g'.row k with pc := pc, wait := .none }
      ∧ ∃ w rr sp rg, h = { g' with rows := w, retired := g.retired + 1, roundRetired := rr, spin := sp, region := rg } := by
  obtain ⟨hg, hk⟩ := State.issuer_group hi
  have lt : k < g'.rows.length := Group.row_lt (by rw [hl]; exact hk)
  have hput : (s.modGroup g.uid f).group g.uid = some g' := by rw [State.group_modGroup hg hf, hfg]
  have hfin := State.finish_group hput k i (some pc) true
  have hrow : (g'.retire g k i (some pc)).row k = { g'.row k with pc := pc, wait := .none } := by
    have h := Group.row_modRow g' k k (fun r => { r with pc := (some pc).getD r.pc, wait := .none }) lt
    rw [if_pos rfl] at h
    exact h
  have hlive : ∀ j, ((g'.retire g k i (some pc)).row j).live = (g'.row j).live := by
    intro j
    have := Group.row_modRow g' k j (fun r => { r with pc := (some pc).getD r.pc, wait := .none }) lt
    rw [show (g'.retire g k i (some pc)).row j = (g'.modRow k fun r => { r with pc := (some pc).getD r.pc, wait := .none }).row j from rfl, this]
    split
    · subst j; rfl
    · rfl
  have hc : (g'.retire g k i (some pc)).carries { g'.row k with pc := pc, wait := .none } := by
    rw [← hrow]
    exact Group.carries_self (by rw [hlive, hl]; exact hk)
  refine ⟨_, ⟨hfin, ?_, ?_, ?_, quiet_finish_mod hf k hs _ _⟩, ?_⟩
  · split
    · obtain ⟨w, e⟩ := (g'.retire g k i (some pc)).fuse_eq
      rw [e]
      exact congrArg (· + 1) hr
    · exact congrArg (· + 1) hr
  · split
    · exact Group.carries_fuse hc
    · exact hc
  · intro h1
    have : (g'.retire g k i (some pc)).single = true := by
      rw [Group.single_congr hlive, Group.single_congr hl, h1]
    split
    · rw [Group.fuse_single this, hrow]
    · exact hrow
  · split
    · obtain ⟨w, e⟩ := (g'.retire g k i (some pc)).fuse_eq
      rw [e]
      exact ⟨w, _, _, _, by rw [← hr]; rfl⟩
    · exact ⟨_, _, _, _, by rw [← hr]; rfl⟩

theorem retired_finish {s : State} {g g' : Group} {k : Nat} {i : Instr} (hi : s.issuer = some (g, k)) (hu : g'.uid = g.uid)
    (hr : g'.retired = g.retired) (hl : ∀ j, (g'.row j).live = (g.row j).live) (hs : i.sideEffect = false) (pc : Pc) :
    ∃ h, RetiredTo s ((s.putGroup g').finish g k i (some pc) true) g h k { g'.row k with pc := pc, wait := .none }
      ∧ ∃ w rr sp rg, h = { g' with rows := w, retired := g.retired + 1, roundRetired := rr, spin := sp, region := rg } := by
  have h := retired_finish_mod (f := fun _ => g') hi (fun _ _ => hu) rfl hr hl hs pc
  rw [show s.putGroup g' = s.modGroup g.uid fun _ => g' by unfold State.putGroup; rw [hu]]
  exact h

/-! ### Marks of late writes -/

@[simp] theorem unmarked_contest (vec : Bool) (l : Nat) (mask : Mask) (own : Nat → Word) (ops : List Op) :
    unmarked (contest vec l mask own ops) = unmarked ops := by
  unfold unmarked contest
  rw [List.map_map]
  apply List.map_congr_left
  intro o _
  simp only [Function.comp_apply, List.map_map]
  congr 1
  apply List.map_congr_left
  intro w _
  simp only [Function.comp_apply]
  split
  · split <;> rfl
  · rfl

theorem Group.writeAbs_unmarked (s : State) (g : Group) (k : Nat) (v : Word) : unmarked (g.writeAbs s k v).ops = unmarked g.ops := by
  unfold Group.writeAbs
  generalize (if k = 6 then v &&& statusMask else v) = w
  dsimp only
  split
  · exact (unmarked_contest false k 0 (fun _ => w) (g.sput k (ownOrLate s k 0 (g.lastLanded false k 0) w)).ops).trans rfl
  · rfl

theorem Group.writeReg_unmarked (s : State) (g : Group) (l : Nat) (mask : Mask) (f : Nat → Word) :
    unmarked (g.writeReg s l mask f).ops = unmarked g.ops := by
  have hv : ∀ v, (g.vput l v).ops = g.ops := by
    intro v
    obtain ⟨r, h, e⟩ := g.vput_eq l v
    rw [e]
  unfold Group.writeReg
  split
  · simp only [hv]
    exact (unmarked_contest true l mask f _).trans rfl
  · rw [hv]

theorem Group.vput_handler (g : Group) (l : Nat) (v : Lanes) :
    (g.vput l v).handler.map (fun x => { x with frame := [] }) = g.handler.map (fun x => { x with frame := [] }) := by
  unfold Group.vput
  split
  · cases h : g.handler <;> simp [h]
  · rfl

theorem Group.writeReg_handler (s : State) (g : Group) (l : Nat) (mask : Mask) (f : Nat → Word) :
    (g.writeReg s l mask f).handler.map (fun x => { x with frame := [] }) = g.handler.map (fun x => { x with frame := [] }) := by
  unfold Group.writeReg
  split
  · exact g.vput_handler ..
  · exact g.vput_handler ..

/-- What a write leaves in an absolute register: the value, or that of a late write that has landed (R160). -/
theorem Group.sraw_writeAbs_cases (s : State) (g : Group) (k : Nat) (v : Word) :
    (g.writeAbs s k v).sraw k = (if k = 6 then v &&& statusMask else v)
      ∨ ∃ x ∈ g.lateTo false k 0, x.landed = true ∧ (g.writeAbs s k v).sraw k = x.value := by
  unfold Group.writeAbs
  simp only
  split
  · have e : ∀ w u, ({ g.sput k w with ops := contest false k 0 u (g.sput k w).ops } : Group).sraw k = w := fun w u => g.sraw_sput_self k w
    simp only [e]
    exact ownOrLate_cases s g _ _ _ _ _
  · left
    exact g.sraw_sput_self k _

/-- What a write leaves in an active lane: the value, or that of a late write that has landed (R160). -/
theorem Group.vraw_writeReg_cases (s : State) (g : Group) {l : Nat} (hl : g.vregOk l = true) (mask : Mask) (f : Nat → Word) {i : Nat}
    (hi : i < 96) (hm : mask.getLsbD i = true) :
    laneOf ((g.writeReg s l mask f).vraw l) i = f i
      ∨ ∃ x ∈ g.lateTo true l i, x.landed = true ∧ laneOf ((g.writeReg s l mask f).vraw l) i = x.value := by
  unfold Group.writeReg
  split
  · have e : ∀ w, ({ g.vput l w with ops := contest true l mask f (g.vput l w).ops } : Group).vraw l = w := fun w => g.vraw_vput_self hl w
    simp only [e, laneOf_mergeLanes _ _ _ hi, hm, if_true]
    exact ownOrLate_cases s g _ _ _ _ _
  · left
    rw [g.vraw_vput_self hl, laneOf_mergeLanes _ _ _ hi, hm, if_pos rfl]

/-- An inactive lane keeps its contents. -/
theorem Group.vraw_writeReg_inactive (s : State) (g : Group) {l : Nat} (hl : g.vregOk l = true) (mask : Mask) (f : Nat → Word) {i : Nat}
    (hi : i < 96) (hm : mask.getLsbD i = false) : laneOf ((g.writeReg s l mask f).vraw l) i = laneOf (g.vraw l) i := by
  unfold Group.writeReg
  split
  · have e : ∀ w, ({ g.vput l w with ops := contest true l mask f (g.vput l w).ops } : Group).vraw l = w := fun w => g.vraw_vput_self hl w
    simp only [e, laneOf_mergeLanes _ _ _ hi, hm, Bool.false_eq_true, if_false]
  · rw [g.vraw_vput_self hl, laneOf_mergeLanes _ _ _ hi, hm]
    simp

/-! ### Results -/

/-- An instruction whose own part writes v to operand sd. -/
theorem scalar_result {s : State} {g : Group} {k : Nat} {i : Instr} (hi : Issues s g k i) (hs : i.sideEffect = false) (d : Nat) (v : Word)
    {body : Group → Nat → Res} (hb : body g k = keep s (g.writeS s k d v)) :
    ∃ t, issue i s body = .next t ∧ ScalarResult s t g k i d v := by
  refine ⟨_, issue_body hi.1 hi.2 body, ?_⟩
  rw [hb]
  obtain ⟨hg, hk⟩ := State.issuer_group hi.1
  have hkl := Group.row_lt hk
  have hu : (g.writeS s k d v).uid = g.uid := by
    obtain ⟨w, r, o, e⟩ := g.writeS_eq s k d v
    rw [e]
  have hr : (g.writeS s k d v).retired = g.retired := by
    obtain ⟨w, r, o, e⟩ := g.writeS_eq s k d v
    rw [e]
  have hrow : ∀ j, (g.writeS s k d v).row j = if j = k ∧ d < 3 then
      { g.row k with mask := setMaskWord (g.row k).mask d v &&& (g.row k).own } else g.row j := by
    intro j
    by_cases hd : d < 3
    · rw [g.writeS_mask s k hd, Group.row_modRow _ _ _ _ hkl]
      by_cases hj : j = k <;> simp [hj, hd]
    · rw [g.writeS_abs s k (Nat.not_lt.1 hd)]
      obtain ⟨r, o, e⟩ := Group.writeAbs_eq s g (g.sreg d) v
      rw [e]
      simp [hd, Group.row]
  have hl : ∀ j, ((g.writeS s k d v).row j).live = (g.row j).live := by
    intro j
    rw [hrow]
    split
    · rename_i h
      rw [h.1]
    · rfl
  obtain ⟨h, hret, w, rr, sp, rg, eh⟩ := retired_finish hi.1 hu hr hl hs (g.nextPc k i)
  have hsr : ∀ n, h.sraw n = (g.writeS s k d v).sraw n := by intro n; rw [eh]; rfl
  have hvr : ∀ n, h.vraw n = (g.writeS s k d v).vraw n := by intro n; rw [eh]; rfl
  refine ⟨h, ?_, ⟨?_, ?_, ?_⟩, ?_, ?_, ?_, ?_⟩
  · have e : { (g.writeS s k d v).row k with pc := g.nextPc k i, wait := .none } = ({ g.rowAfter k i with
        mask := if d < 3 then setMaskWord (g.row k).mask d v &&& (g.row k).own else (g.row k).mask } : Row) := by
      rw [hrow]
      unfold Group.rowAfter
      by_cases hd : d < 3 <;> simp [hd]
    rw [← e]
    exact hret
  · obtain ⟨w', r', o', e⟩ := g.writeS_eq s k d v
    rw [eh, e]
  · rw [eh]
    unfold Group.writeS
    split
    · rfl
    · exact g.writeAbs_unmarked ..
  · obtain ⟨w', r', o', e⟩ := g.writeS_eq s k d v
    rw [eh, e]
  · intro l
    obtain ⟨w', r', o', e⟩ := g.writeS_eq s k d v
    rw [hvr, e]
    rfl
  · intro n hn
    rw [hsr]
    by_cases hd : d < 3
    · rw [g.writeS_mask s k hd]
      rfl
    · rw [g.writeS_abs s k (Nat.not_lt.1 hd)]
      exact g.sraw_writeAbs_ne s (hn.resolve_left hd) v
  · intro hd
    rw [hsr, g.writeS_abs s k hd]
    exact g.sraw_writeAbs_cases s _ v
  · intro hd hp
    rw [hsr, g.writeS_abs s k hd]
    exact g.sraw_writeAbs s _ v hp

/-- An instruction whose own part writes the lanes of a mask of operand vd and ORs flags into STATUS. -/
theorem vector_result {s : State} {g : Group} {k : Nat} {i : Instr} (hi : Issues s g k i) (hs : i.sideEffect = false) (d : Nat)
    (hd : d ∈ i.uses.vr ++ i.uses.vw) (mask : Mask) (f : Nat → Word) (fl : BitVec 3) {g' : Group}
    (hg' : g' = (g.writeV s d mask f).orFlags fl ∨ (fl = 0 ∧ g' = g.writeV s d mask f)) {body : Group → Nat → Res}
    (hb : body g k = keep s g') : ∃ t, issue i s body = .next t ∧ VectorResult s t g k i d mask f fl := by
  refine ⟨_, issue_body hi.1 hi.2 body, ?_⟩
  rw [hb]
  have hok := precheck_vregOk hi.2 hd
  obtain ⟨hg, hk⟩ := State.issuer_group hi.1
  have key : ∃ r, g' = { g.writeV s d mask f with sregs := r } ∧ (∀ n, n ≠ 6 → g'.sraw n = g.sraw n)
      ∧ g'.sraw 6 = g.sraw 6 ||| fl.setWidth 32 := by
    obtain ⟨r, hh, o, e⟩ := g.writeV_eq s d mask f
    obtain h | ⟨h0, h⟩ := hg'
    · refine ⟨g'.sregs, ?_, ?_, ?_⟩
      · rw [h]; rfl
      · intro n hn
        rw [h]
        unfold Group.orFlags
        rw [Group.sraw_sput_ne _ hn, e]
        rfl
      · rw [h]
        unfold Group.orFlags
        rw [Group.sraw_sput_self, e]
        rfl
    · refine ⟨g'.sregs, ?_, ?_, ?_⟩
      · rw [h]
      · intro n _
        rw [h, e]
        rfl
      · rw [h, e, h0]
        change g.sraw 6 = _
        simp
  obtain ⟨r, er, hs1, hs2⟩ := key
  obtain ⟨r2, hh2, o2, e2⟩ := g.writeV_eq s d mask f
  have hu : g'.uid = g.uid := by rw [er, e2]
  have hr : g'.retired = g.retired := by rw [er, e2]
  have hrow : ∀ j, g'.row j = g.row j := by intro j; rw [er, e2]; rfl
  obtain ⟨h, hret, w, rr, sp, rg, eh⟩ := retired_finish hi.1 hu hr (fun j => by rw [hrow]) hs (g.nextPc k i)
  have hsr : ∀ n, h.sraw n = g'.sraw n := by intro n; rw [eh]; rfl
  have hvr : ∀ n, h.vraw n = (g.writeV s d mask f).vraw n := by intro n; rw [eh, er]; rfl
  refine ⟨h, ?_, ⟨?_, ?_, ?_⟩, ?_, ?_, ?_, ?_, ?_, ?_⟩
  · rw [hrow] at hret
    exact hret
  · rw [eh, er, e2]
  · rw [eh, er]
    exact g.writeReg_unmarked ..
  · rw [eh, er]
    exact g.writeReg_handler ..
  · intro l hl
    rw [hvr]
    exact g.vraw_writeReg_ne s hl mask f
  · intro n hn
    rw [hsr, hs1 n hn]
  · rw [hsr, hs2]
  · intro l hl hm
    rw [hvr]
    exact g.vraw_writeReg_inactive s hok mask f hl hm
  · intro l hl hm
    rw [hvr]
    exact g.vraw_writeReg_cases s hok mask f hl hm
  · intro hp l hl hm
    rw [hvr]
    unfold Group.writeV
    rw [g.vraw_writeReg s hok mask f hp, laneOf_mergeLanes _ _ _ hl, hm, if_pos rfl]

/-- An instruction that leaves its group as it is and goes on at an address. -/
theorem row_result {s : State} {g : Group} {k : Nat} {i : Instr} (hi : Issues s g k i) (hs : i.sideEffect = false) (pc : Pc) :
    RowResult s (s.finish g k i (some pc) true) g k { g.row k with pc := pc, wait := .none } := by
  obtain ⟨hg, hk⟩ := State.issuer_group hi.1
  obtain ⟨h, hret, w, rr, sp, rg, eh⟩ := retired_finish_mod (f := id) hi.1 (fun _ h => h) rfl rfl (fun _ => rfl) hs pc
  rw [State.modGroup_id] at hret
  simp only [id_eq] at hret eh
  refine ⟨h, hret, ⟨?_, ?_, ?_⟩, ?_, ?_⟩
  · rw [eh]
  · rw [eh]
  · rw [eh]
  · intro l; rw [eh]; rfl
  · intro n; rw [eh]; rfl

end Sys2Proof.Machine
end

