-- ==== Sys2Proof/Laws/PerInstr.lean ====
section
/-! SUPPORT. One lemma per instruction: the decoder reads from an instruction's fields that instruction (R313 to R322). The
steps without an encoding have no fields. -/

namespace Sys2Proof.Laws.FieldsDecode

-- one theorem at a time: many at once would need more memory than the check allows
set_option Elab.async false
set_option linter.unusedSimpArgs false
set_option linter.unusedTactic false
set_option linter.unreachableTactic false

/-- Where an instruction has fields, they decode to it, and its cuff is zero where C = 0. -/
def Statement (i : Instr) : Prop :=
  ∀ f, i.fields = some f → (f.c = false → f.cuff = 0) ∧ (i.wf = true → decodeFields f = .ok i)

theorem nop : Statement .nop := by
  rintro f ⟨⟩
  exact ⟨fun _ => rfl, fun _ => by simp [decodeFields, decodeRow0, fN, Fields.n, given, z]⟩
theorem add (x0 x1 x2) : Statement (.add x0 x1 x2) := by
  rintro f ⟨⟩
  refine ⟨?_, fun _ => ?_⟩
  · cases x2 <;> first | exact fun _ => rfl | (intro h; cases h)
  · simp [decodeFields, decodeRow0, s3_fS]
theorem sub (x0 x1 x2) : Statement (.sub x0 x1 x2) := by
  rintro f ⟨⟩
  refine ⟨?_, fun _ => ?_⟩
  · cases x2 <;> first | exact fun _ => rfl | (intro h; cases h)
  · simp [decodeFields, decodeRow0, s3_fS]
theorem mul (x0 x1 x2) : Statement (.mul x0 x1 x2) := by
  rintro f ⟨⟩
  refine ⟨?_, fun _ => ?_⟩
  · cases x2 <;> first | exact fun _ => rfl | (intro h; cases h)
  · simp [decodeFields, decodeRow0, s3_fS]
theorem mulh (x0 x1 x2) : Statement (.mulh x0 x1 x2) := by
  rintro f ⟨⟩
  refine ⟨?_, fun _ => ?_⟩
  · cases x2 <;> first | exact fun _ => rfl | (intro h; cases h)
  · simp [decodeFields, decodeRow0, s3_fS]
theorem mulhu (x0 x1 x2) : Statement (.mulhu x0 x1 x2) := by
  rintro f ⟨⟩
  refine ⟨?_, fun _ => ?_⟩
  · cases x2 <;> first | exact fun _ => rfl | (intro h; cases h)
  · simp [decodeFields, decodeRow0, s3_fS]
theorem div (x0 x1 x2) : Statement (.div x0 x1 x2) := by
  rintro f ⟨⟩
  refine ⟨?_, fun _ => ?_⟩
  · cases x2 <;> first | exact fun _ => rfl | (intro h; cases h)
  · simp [decodeFields, decodeRow0, s3_fS]
theorem divu (x0 x1 x2) : Statement (.divu x0 x1 x2) := by
  rintro f ⟨⟩
  refine ⟨?_, fun _ => ?_⟩
  · cases x2 <;> first | exact fun _ => rfl | (intro h; cases h)
  · simp [decodeFields, decodeRow0, s3_fS]
theorem rem (x0 x1 x2) : Statement (.rem x0 x1 x2) := by
  rintro f ⟨⟩
  refine ⟨?_, fun _ => ?_⟩
  · cases x2 <;> first | exact fun _ => rfl | (intro h; cases h)
  · simp [decodeFields, decodeRow0, s3_fS]
theorem remu (x0 x1 x2) : Statement (.remu x0 x1 x2) := by
  rintro f ⟨⟩
  refine ⟨?_, fun _ => ?_⟩
  · cases x2 <;> first | exact fun _ => rfl | (intro h; cases h)
  · simp [decodeFields, decodeRow0, s3_fS]
theorem and (x0 x1 x2) : Statement (.and x0 x1 x2) := by
  rintro f ⟨⟩
  refine ⟨?_, fun _ => ?_⟩
  · cases x2 <;> first | exact fun _ => rfl | (intro h; cases h)
  · simp [decodeFields, decodeRow0, s3_fS]
theorem or (x0 x1 x2) : Statement (.or x0 x1 x2) := by
  rintro f ⟨⟩
  refine ⟨?_, fun _ => ?_⟩
  · cases x2 <;> first | exact fun _ => rfl | (intro h; cases h)
  · simp [decodeFields, decodeRow0, s3_fS]
theorem xor (x0 x1 x2) : Statement (.xor x0 x1 x2) := by
  rintro f ⟨⟩
  refine ⟨?_, fun _ => ?_⟩
  · cases x2 <;> first | exact fun _ => rfl | (intro h; cases h)
  · simp [decodeFields, decodeRow0, s3_fS]
theorem shl (x0 x1 x2) : Statement (.shl x0 x1 x2) := by
  rintro f ⟨⟩
  refine ⟨?_, fun _ => ?_⟩
  · cases x2 <;> first | exact fun _ => rfl | (intro h; cases h)
  · simp [decodeFields, decodeRow0, s3_fS]
theorem shr (x0 x1 x2) : Statement (.shr x0 x1 x2) := by
  rintro f ⟨⟩
  refine ⟨?_, fun _ => ?_⟩
  · cases x2 <;> first | exact fun _ => rfl | (intro h; cases h)
  · simp [decodeFields, decodeRow0, s3_fS]
theorem sar (x0 x1 x2) : Statement (.sar x0 x1 x2) := by
  rintro f ⟨⟩
  refine ⟨?_, fun _ => ?_⟩
  · cases x2 <;> first | exact fun _ => rfl | (intro h; cases h)
  · simp [decodeFields, decodeRow0, s3_fS]
theorem min (x0 x1 x2) : Statement (.min x0 x1 x2) := by
  rintro f ⟨⟩
  refine ⟨?_, fun _ => ?_⟩
  · cases x2 <;> first | exact fun _ => rfl | (intro h; cases h)
  · simp [decodeFields, decodeRow0, s3_fS]
theorem max (x0 x1 x2) : Statement (.max x0 x1 x2) := by
  rintro f ⟨⟩
  refine ⟨?_, fun _ => ?_⟩
  · cases x2 <;> first | exact fun _ => rfl | (intro h; cases h)
  · simp [decodeFields, decodeRow0, s3_fS]
theorem minu (x0 x1 x2) : Statement (.minu x0 x1 x2) := by
  rintro f ⟨⟩
  refine ⟨?_, fun _ => ?_⟩
  · cases x2 <;> first | exact fun _ => rfl | (intro h; cases h)
  · simp [decodeFields, decodeRow0, s3_fS]
theorem maxu (x0 x1 x2) : Statement (.maxu x0 x1 x2) := by
  rintro f ⟨⟩
  refine ⟨?_, fun _ => ?_⟩
  · cases x2 <;> first | exact fun _ => rfl | (intro h; cases h)
  · simp [decodeFields, decodeRow0, s3_fS]
theorem seq (x0 x1 x2) : Statement (.seq x0 x1 x2) := by
  rintro f ⟨⟩
  refine ⟨?_, fun _ => ?_⟩
  · cases x2 <;> first | exact fun _ => rfl | (intro h; cases h)
  · simp [decodeFields, decodeRow0, s3_fS]
theorem sne (x0 x1 x2) : Statement (.sne x0 x1 x2) := by
  rintro f ⟨⟩
  refine ⟨?_, fun _ => ?_⟩
  · cases x2 <;> first | exact fun _ => rfl | (intro h; cases h)
  · simp [decodeFields, decodeRow0, s3_fS]
theorem slt (x0 x1 x2) : Statement (.slt x0 x1 x2) := by
  rintro f ⟨⟩
  refine ⟨?_, fun _ => ?_⟩
  · cases x2 <;> first | exact fun _ => rfl | (intro h; cases h)
  · simp [decodeFields, decodeRow0, s3_fS]
theorem sltu (x0 x1 x2) : Statement (.sltu x0 x1 x2) := by
  rintro f ⟨⟩
  refine ⟨?_, fun _ => ?_⟩
  · cases x2 <;> first | exact fun _ => rfl | (intro h; cases h)
  · simp [decodeFields, decodeRow0, s3_fS]
theorem sel (x0 x1 x2) : Statement (.sel x0 x1 x2) := by
  rintro f ⟨⟩
  refine ⟨?_, fun _ => ?_⟩
  · cases x2 <;> first | exact fun _ => rfl | (intro h; cases h)
  · simp [decodeFields, decodeRow0, s3_fS]
theorem mov (x0 x1) : Statement (.mov x0 x1) := by
  rintro f ⟨⟩
  refine ⟨?_, fun _ => ?_⟩
  · cases x1 <;> first | exact fun _ => rfl | (intro h; cases h)
  · simp [decodeFields, decodeRow0, sop_fS, given, z]
theorem popc (x0 x1) : Statement (.popc x0 x1) := by
  rintro f ⟨⟩
  exact ⟨fun _ => rfl, fun _ => by simp [decodeFields, decodeRow0, fN, Fields.n, given, z]⟩
theorem clz (x0 x1) : Statement (.clz x0 x1) := by
  rintro f ⟨⟩
  exact ⟨fun _ => rfl, fun _ => by simp [decodeFields, decodeRow0, fN, Fields.n, given, z]⟩
theorem ctz (x0 x1) : Statement (.ctz x0 x1) := by
  rintro f ⟨⟩
  exact ⟨fun _ => rfl, fun _ => by simp [decodeFields, decodeRow0, fN, Fields.n, given, z]⟩
theorem jmp (x0) : Statement (.jmp x0) := by
  rintro f ⟨⟩
  refine ⟨?_, fun hw => ?_⟩
  · first | exact fun _ => rfl | (intro h; cases h)
  · simp [decodeFields, decodeRow0, fT, Fields.t, Fields.tofs, Fields.jofs, given, z]
theorem braS (x0 x1 x2 x3 x4) : Statement (.braS x0 x1 x2 x3 x4) := by
  rintro f ⟨⟩
  refine ⟨?_, fun hw => ?_⟩
  · first | exact fun _ => rfl | (intro h; cases h)
  · simp [decodeFields, decodeRow0, fT, Fields.t, Fields.tofs, Fields.jofs, given, z]
theorem braV (x0 x1 x2 x3 x4 x5) : Statement (.braV x0 x1 x2 x3 x4 x5) := by
  rintro f ⟨⟩
  refine ⟨?_, fun hw => ?_⟩
  · first | exact fun _ => rfl | (intro h; cases h)
  · simp [decodeFields, decodeRow0, fT, Fields.t, Fields.tofs, Fields.jofs, given, z]
theorem call (x0 x1 x2) : Statement (.call x0 x1 x2) := by
  rintro f ⟨⟩
  refine ⟨?_, fun hw => ?_⟩
  · first | exact fun _ => rfl | (intro h; cases h)
  · simp [decodeFields, decodeRow0, fT, Fields.t, Fields.tofs, Fields.jofs, given, z]
theorem join : Statement .join := by
  rintro f ⟨⟩
  exact ⟨fun _ => rfl, fun _ => by simp [decodeFields, decodeRow0, fN, Fields.n, given, z]⟩
theorem loop (x0 x1 x2) : Statement (.loop x0 x1 x2) := by
  rintro f ⟨⟩
  refine ⟨(fun h => by cases h), fun hw => ?_⟩
  cases x0 <;> simp [decodeFields, decodeRow0, fT, Fields.t, Fields.tofs, Fields.jofs, given, z]
theorem lend : Statement .lend := by
  rintro f ⟨⟩
  exact ⟨fun _ => rfl, fun _ => by simp [decodeFields, decodeRow0, fN, Fields.n, given, z]⟩
theorem lendX : Statement .lendX := by
  rintro f ⟨⟩
  exact ⟨fun _ => rfl, fun _ => by simp [decodeFields, decodeRow0, fN, Fields.n, given, z]⟩
theorem ret : Statement .ret := by
  rintro f ⟨⟩
  exact ⟨fun _ => rfl, fun _ => by simp [decodeFields, decodeRow0, fN, Fields.n, given, z]⟩
theorem callr (x0 x1 x2) : Statement (.callr x0 x1 x2) := by
  rintro f ⟨⟩
  exact ⟨fun _ => rfl, fun _ => by simp [decodeFields, decodeRow0, fN, Fields.n, given, z]⟩
theorem jmpr (x0) : Statement (.jmpr x0) := by
  rintro f ⟨⟩
  exact ⟨fun _ => rfl, fun _ => by simp [decodeFields, decodeRow0, fN, Fields.n, given, z]⟩
theorem acquire (x0) : Statement (.acquire x0) := by
  rintro f ⟨⟩
  refine ⟨?_, fun _ => ?_⟩
  · cases x0 <;> first | exact fun _ => rfl | (intro h; cases h)
  · simp [decodeFields, decodeRow0, s1_fS]
theorem release (x0) : Statement (.release x0) := by
  rintro f ⟨⟩
  refine ⟨?_, fun _ => ?_⟩
  · cases x0 <;> first | exact fun _ => rfl | (intro h; cases h)
  · simp [decodeFields, decodeRow0, s1_fS]
theorem wbase (x0) : Statement (.wbase x0) := by
  rintro f ⟨⟩
  refine ⟨?_, fun _ => ?_⟩
  · cases x0 <;> first | exact fun _ => rfl | (intro h; cases h)
  · simp [decodeFields, decodeRow0, s1_fS]
theorem swin (x0) : Statement (.swin x0) := by
  rintro f ⟨⟩
  refine ⟨?_, fun _ => ?_⟩
  · cases x0 <;> first | exact fun _ => rfl | (intro h; cases h)
  · simp [decodeFields, decodeRow0, s1_fS]
theorem unwind (x0) : Statement (.unwind x0) := by
  rintro f ⟨⟩
  refine ⟨?_, fun _ => ?_⟩
  · cases x0 <;> first | exact fun _ => rfl | (intro h; cases h)
  · simp [decodeFields, decodeRow0, s1_fS]
theorem pause : Statement .pause := by
  rintro f ⟨⟩
  exact ⟨fun _ => rfl, fun _ => by simp [decodeFields, decodeRow0, fN, Fields.n, given, z]⟩
theorem exit : Statement .exit := by
  rintro f ⟨⟩
  exact ⟨fun _ => rfl, fun _ => by simp [decodeFields, decodeRow0, fN, Fields.n, given, z]⟩
theorem gets (x0 x1) : Statement (.gets x0 x1) := by
  rintro f ⟨⟩
  exact ⟨fun _ => rfl, fun _ => by simp [decodeFields, decodeRow0, fN, Fields.n, given, z]⟩
theorem sets (x0 x1) : Statement (.sets x0 x1) := by
  rintro f ⟨⟩
  exact ⟨fun _ => rfl, fun _ => by simp [decodeFields, decodeRow0, fN, Fields.n, given, z]⟩
theorem fmt (x0) : Statement (.fmt x0) := by
  rintro f ⟨⟩
  refine ⟨?_, fun _ => ?_⟩
  · cases x0 <;> first | exact fun _ => rfl | (intro h; cases h)
  · simp [decodeFields, decodeRow0, s1_fS]
theorem pclass (x0) : Statement (.pclass x0) := by
  rintro f ⟨⟩
  refine ⟨?_, fun _ => ?_⟩
  · cases x0 <;> first | exact fun _ => rfl | (intro h; cases h)
  · simp [decodeFields, decodeRow0, s1_fS]
theorem mpop (x0 x1) : Statement (.mpop x0 x1) := by
  rintro f ⟨⟩
  exact ⟨fun _ => rfl, fun _ => by simp [decodeFields, decodeRow0, fN, Fields.n, given, z]⟩
theorem mfirst (x0 x1) : Statement (.mfirst x0 x1) := by
  rintro f ⟨⟩
  exact ⟨fun _ => rfl, fun _ => by simp [decodeFields, decodeRow0, fN, Fields.n, given, z]⟩
theorem vaddInt (x0) : Statement (.vaddInt x0) := by
  rintro f ⟨⟩
  refine ⟨?_, fun _ => ?_⟩
  · obtain ⟨sb, b, a, d, c⟩ := x0
    cases c <;> first | exact fun _ => rfl | (intro h; cases h)
  · simp [decodeFields, decodeRow1, vops_fV]
theorem vsubInt (x0) : Statement (.vsubInt x0) := by
  rintro f ⟨⟩
  refine ⟨?_, fun _ => ?_⟩
  · obtain ⟨sb, b, a, d, c⟩ := x0
    cases c <;> first | exact fun _ => rfl | (intro h; cases h)
  · simp [decodeFields, decodeRow1, vops_fV]
theorem vmulInt (x0) : Statement (.vmulInt x0) := by
  rintro f ⟨⟩
  refine ⟨?_, fun _ => ?_⟩
  · obtain ⟨sb, b, a, d, c⟩ := x0
    cases c <;> first | exact fun _ => rfl | (intro h; cases h)
  · simp [decodeFields, decodeRow1, vops_fV]
theorem vmulh (x0) : Statement (.vmulh x0) := by
  rintro f ⟨⟩
  refine ⟨?_, fun _ => ?_⟩
  · obtain ⟨sb, b, a, d, c⟩ := x0
    cases c <;> first | exact fun _ => rfl | (intro h; cases h)
  · simp [decodeFields, decodeRow1, vops_fV]
theorem vmad (x0) : Statement (.vmad x0) := by
  rintro f ⟨⟩
  refine ⟨?_, fun _ => ?_⟩
  · obtain ⟨sb, b, a, d, c⟩ := x0
    cases c <;> first | exact fun _ => rfl | (intro h; cases h)
  · simp [decodeFields, decodeRow1, vops_fV]
theorem vadds (x0) : Statement (.vadds x0) := by
  rintro f ⟨⟩
  refine ⟨?_, fun _ => ?_⟩
  · obtain ⟨sb, b, a, d, c⟩ := x0
    cases c <;> first | exact fun _ => rfl | (intro h; cases h)
  · simp [decodeFields, decodeRow1, vops_fV]
theorem vsubs (x0) : Statement (.vsubs x0) := by
  rintro f ⟨⟩
  refine ⟨?_, fun _ => ?_⟩
  · obtain ⟨sb, b, a, d, c⟩ := x0
    cases c <;> first | exact fun _ => rfl | (intro h; cases h)
  · simp [decodeFields, decodeRow1, vops_fV]
theorem vand (x0) : Statement (.vand x0) := by
  rintro f ⟨⟩
  refine ⟨?_, fun _ => ?_⟩
  · obtain ⟨sb, b, a, d, c⟩ := x0
    cases c <;> first | exact fun _ => rfl | (intro h; cases h)
  · simp [decodeFields, decodeRow1, vops_fV]
theorem vor (x0) : Statement (.vor x0) := by
  rintro f ⟨⟩
  refine ⟨?_, fun _ => ?_⟩
  · obtain ⟨sb, b, a, d, c⟩ := x0
    cases c <;> first | exact fun _ => rfl | (intro h; cases h)
  · simp [decodeFields, decodeRow1, vops_fV]
theorem vxor (x0) : Statement (.vxor x0) := by
  rintro f ⟨⟩
  refine ⟨?_, fun _ => ?_⟩
  · obtain ⟨sb, b, a, d, c⟩ := x0
    cases c <;> first | exact fun _ => rfl | (intro h; cases h)
  · simp [decodeFields, decodeRow1, vops_fV]
theorem vnot (x0) : Statement (.vnot x0) := by
  rintro f ⟨⟩
  refine ⟨?_, fun _ => ?_⟩
  · obtain ⟨sb, b, a, d, c⟩ := x0
    cases c <;> first | exact fun _ => rfl | (intro h; cases h)
  · simp [decodeFields, decodeRow1, vops_fV]
theorem vshl (x0) : Statement (.vshl x0) := by
  rintro f ⟨⟩
  refine ⟨?_, fun _ => ?_⟩
  · obtain ⟨sb, b, a, d, c⟩ := x0
    cases c <;> first | exact fun _ => rfl | (intro h; cases h)
  · simp [decodeFields, decodeRow1, vops_fV]
theorem vshr (x0) : Statement (.vshr x0) := by
  rintro f ⟨⟩
  refine ⟨?_, fun _ => ?_⟩
  · obtain ⟨sb, b, a, d, c⟩ := x0
    cases c <;> first | exact fun _ => rfl | (intro h; cases h)
  · simp [decodeFields, decodeRow1, vops_fV]
theorem vsar (x0) : Statement (.vsar x0) := by
  rintro f ⟨⟩
  refine ⟨?_, fun _ => ?_⟩
  · obtain ⟨sb, b, a, d, c⟩ := x0
    cases c <;> first | exact fun _ => rfl | (intro h; cases h)
  · simp [decodeFields, decodeRow1, vops_fV]
theorem vminInt (x0) : Statement (.vminInt x0) := by
  rintro f ⟨⟩
  refine ⟨?_, fun _ => ?_⟩
  · obtain ⟨sb, b, a, d, c⟩ := x0
    cases c <;> first | exact fun _ => rfl | (intro h; cases h)
  · simp [decodeFields, decodeRow1, vops_fV]
theorem vmaxInt (x0) : Statement (.vmaxInt x0) := by
  rintro f ⟨⟩
  refine ⟨?_, fun _ => ?_⟩
  · obtain ⟨sb, b, a, d, c⟩ := x0
    cases c <;> first | exact fun _ => rfl | (intro h; cases h)
  · simp [decodeFields, decodeRow1, vops_fV]
theorem vabsInt (x0) : Statement (.vabsInt x0) := by
  rintro f ⟨⟩
  refine ⟨?_, fun _ => ?_⟩
  · obtain ⟨sb, b, a, d, c⟩ := x0
    cases c <;> first | exact fun _ => rfl | (intro h; cases h)
  · simp [decodeFields, decodeRow1, vops_fV]
theorem vcmpInt (x0) : Statement (.vcmpInt x0) := by
  rintro f ⟨⟩
  refine ⟨?_, fun _ => ?_⟩
  · obtain ⟨sb, b, a, d, c⟩ := x0
    cases c <;> first | exact fun _ => rfl | (intro h; cases h)
  · simp [decodeFields, decodeRow1, vops_fV]
theorem vsel (x0) : Statement (.vsel x0) := by
  rintro f ⟨⟩
  refine ⟨?_, fun _ => ?_⟩
  · obtain ⟨sb, b, a, d, c⟩ := x0
    cases c <;> first | exact fun _ => rfl | (intro h; cases h)
  · simp [decodeFields, decodeRow1, vops_fV]
theorem vpopc (x0) : Statement (.vpopc x0) := by
  rintro f ⟨⟩
  refine ⟨?_, fun _ => ?_⟩
  · obtain ⟨sb, b, a, d, c⟩ := x0
    cases c <;> first | exact fun _ => rfl | (intro h; cases h)
  · simp [decodeFields, decodeRow1, vops_fV]
theorem vclz (x0) : Statement (.vclz x0) := by
  rintro f ⟨⟩
  refine ⟨?_, fun _ => ?_⟩
  · obtain ⟨sb, b, a, d, c⟩ := x0
    cases c <;> first | exact fun _ => rfl | (intro h; cases h)
  · simp [decodeFields, decodeRow1, vops_fV]
theorem vmov (x0) : Statement (.vmov x0) := by
  rintro f ⟨⟩
  refine ⟨?_, fun _ => ?_⟩
  · obtain ⟨sb, b, a, d, c⟩ := x0
    cases c <;> first | exact fun _ => rfl | (intro h; cases h)
  · simp [decodeFields, decodeRow1, vops_fV]
theorem vdot4 (x0) : Statement (.vdot4 x0) := by
  rintro f ⟨⟩
  refine ⟨?_, fun _ => ?_⟩
  · obtain ⟨sb, b, a, d, c⟩ := x0
    cases c <;> first | exact fun _ => rfl | (intro h; cases h)
  · simp [decodeFields, decodeRow1, vops_fV]
theorem vbfe (x0) : Statement (.vbfe x0) := by
  rintro f ⟨⟩
  refine ⟨?_, fun _ => ?_⟩
  · obtain ⟨sb, b, a, d, c⟩ := x0
    cases c <;> first | exact fun _ => rfl | (intro h; cases h)
  · simp [decodeFields, decodeRow1, vops_fV]
theorem vbfi (x0) : Statement (.vbfi x0) := by
  rintro f ⟨⟩
  refine ⟨?_, fun _ => ?_⟩
  · obtain ⟨sb, b, a, d, c⟩ := x0
    cases c <;> first | exact fun _ => rfl | (intro h; cases h)
  · simp [decodeFields, decodeRow1, vops_fV]
theorem vaddFp (x0) : Statement (.vaddFp x0) := by
  rintro f ⟨⟩
  refine ⟨?_, fun _ => ?_⟩
  · obtain ⟨sb, b, a, d, c⟩ := x0
    cases c <;> first | exact fun _ => rfl | (intro h; cases h)
  · simp [decodeFields, decodeRow2, vops_fV]
theorem vsubFp (x0) : Statement (.vsubFp x0) := by
  rintro f ⟨⟩
  refine ⟨?_, fun _ => ?_⟩
  · obtain ⟨sb, b, a, d, c⟩ := x0
    cases c <;> first | exact fun _ => rfl | (intro h; cases h)
  · simp [decodeFields, decodeRow2, vops_fV]
theorem vmulFp (x0) : Statement (.vmulFp x0) := by
  rintro f ⟨⟩
  refine ⟨?_, fun _ => ?_⟩
  · obtain ⟨sb, b, a, d, c⟩ := x0
    cases c <;> first | exact fun _ => rfl | (intro h; cases h)
  · simp [decodeFields, decodeRow2, vops_fV]
theorem vfma (x0) : Statement (.vfma x0) := by
  rintro f ⟨⟩
  refine ⟨?_, fun _ => ?_⟩
  · obtain ⟨sb, b, a, d, c⟩ := x0
    cases c <;> first | exact fun _ => rfl | (intro h; cases h)
  · simp [decodeFields, decodeRow2, vops_fV]
theorem vminFp (x0) : Statement (.vminFp x0) := by
  rintro f ⟨⟩
  refine ⟨?_, fun _ => ?_⟩
  · obtain ⟨sb, b, a, d, c⟩ := x0
    cases c <;> first | exact fun _ => rfl | (intro h; cases h)
  · simp [decodeFields, decodeRow2, vops_fV]
theorem vmaxFp (x0) : Statement (.vmaxFp x0) := by
  rintro f ⟨⟩
  refine ⟨?_, fun _ => ?_⟩
  · obtain ⟨sb, b, a, d, c⟩ := x0
    cases c <;> first | exact fun _ => rfl | (intro h; cases h)
  · simp [decodeFields, decodeRow2, vops_fV]
theorem vcmpFp (x0) : Statement (.vcmpFp x0) := by
  rintro f ⟨⟩
  refine ⟨?_, fun _ => ?_⟩
  · obtain ⟨sb, b, a, d, c⟩ := x0
    cases c <;> first | exact fun _ => rfl | (intro h; cases h)
  · simp [decodeFields, decodeRow2, vops_fV]
theorem vabsFp (x0) : Statement (.vabsFp x0) := by
  rintro f ⟨⟩
  refine ⟨?_, fun _ => ?_⟩
  · obtain ⟨sb, b, a, d, c⟩ := x0
    cases c <;> first | exact fun _ => rfl | (intro h; cases h)
  · simp [decodeFields, decodeRow2, vops_fV]
theorem vneg (x0) : Statement (.vneg x0) := by
  rintro f ⟨⟩
  refine ⟨?_, fun _ => ?_⟩
  · obtain ⟨sb, b, a, d, c⟩ := x0
    cases c <;> first | exact fun _ => rfl | (intro h; cases h)
  · simp [decodeFields, decodeRow2, vops_fV]
theorem vclass (x0) : Statement (.vclass x0) := by
  rintro f ⟨⟩
  refine ⟨?_, fun _ => ?_⟩
  · obtain ⟨sb, b, a, d, c⟩ := x0
    cases c <;> first | exact fun _ => rfl | (intro h; cases h)
  · simp [decodeFields, decodeRow2, vops_fV]
theorem cvt (x0) : Statement (.cvt x0) := by
  rintro f ⟨⟩
  refine ⟨?_, fun _ => ?_⟩
  · obtain ⟨sb, b, a, d, c⟩ := x0
    cases c <;> first | exact fun _ => rfl | (intro h; cases h)
  · simp [decodeFields, decodeRow3, vops_fV]
theorem sxpack (x0) : Statement (.sxpack x0) := by
  rintro f ⟨⟩
  refine ⟨?_, fun _ => ?_⟩
  · obtain ⟨sb, b, a, d, c⟩ := x0
    cases c <;> first | exact fun _ => rfl | (intro h; cases h)
  · simp [decodeFields, decodeRow3, vops_fV]
theorem sxunpk (x0) : Statement (.sxunpk x0) := by
  rintro f ⟨⟩
  refine ⟨?_, fun _ => ?_⟩
  · obtain ⟨sb, b, a, d, c⟩ := x0
    cases c <;> first | exact fun _ => rfl | (intro h; cases h)
  · simp [decodeFields, decodeRow3, vops_fV]
theorem vrnd (x0) : Statement (.vrnd x0) := by
  rintro f ⟨⟩
  refine ⟨?_, fun _ => ?_⟩
  · obtain ⟨sb, b, a, d, c⟩ := x0
    cases c <;> first | exact fun _ => rfl | (intro h; cases h)
  · simp [decodeFields, decodeRow3, vops_fV]
theorem vrcp (x0) : Statement (.vrcp x0) := by
  rintro f ⟨⟩
  refine ⟨?_, fun _ => ?_⟩
  · obtain ⟨sb, b, a, d, c⟩ := x0
    cases c <;> first | exact fun _ => rfl | (intro h; cases h)
  · simp [decodeFields, decodeRow3, vops_fV]
theorem vrsq (x0) : Statement (.vrsq x0) := by
  rintro f ⟨⟩
  refine ⟨?_, fun _ => ?_⟩
  · obtain ⟨sb, b, a, d, c⟩ := x0
    cases c <;> first | exact fun _ => rfl | (intro h; cases h)
  · simp [decodeFields, decodeRow3, vops_fV]
theorem vsqrt (x0) : Statement (.vsqrt x0) := by
  rintro f ⟨⟩
  refine ⟨?_, fun _ => ?_⟩
  · obtain ⟨sb, b, a, d, c⟩ := x0
    cases c <;> first | exact fun _ => rfl | (intro h; cases h)
  · simp [decodeFields, decodeRow3, vops_fV]
theorem vexp2 (x0) : Statement (.vexp2 x0) := by
  rintro f ⟨⟩
  refine ⟨?_, fun _ => ?_⟩
  · obtain ⟨sb, b, a, d, c⟩ := x0
    cases c <;> first | exact fun _ => rfl | (intro h; cases h)
  · simp [decodeFields, decodeRow3, vops_fV]
theorem vlog2 (x0) : Statement (.vlog2 x0) := by
  rintro f ⟨⟩
  refine ⟨?_, fun _ => ?_⟩
  · obtain ⟨sb, b, a, d, c⟩ := x0
    cases c <;> first | exact fun _ => rfl | (intro h; cases h)
  · simp [decodeFields, decodeRow3, vops_fV]
theorem vsin (x0) : Statement (.vsin x0) := by
  rintro f ⟨⟩
  refine ⟨?_, fun _ => ?_⟩
  · obtain ⟨sb, b, a, d, c⟩ := x0
    cases c <;> first | exact fun _ => rfl | (intro h; cases h)
  · simp [decodeFields, decodeRow3, vops_fV]
theorem vcos (x0) : Statement (.vcos x0) := by
  rintro f ⟨⟩
  refine ⟨?_, fun _ => ?_⟩
  · obtain ⟨sb, b, a, d, c⟩ := x0
    cases c <;> first | exact fun _ => rfl | (intro h; cases h)
  · simp [decodeFields, decodeRow3, vops_fV]
theorem vtanh (x0) : Statement (.vtanh x0) := by
  rintro f ⟨⟩
  refine ⟨?_, fun _ => ?_⟩
  · obtain ⟨sb, b, a, d, c⟩ := x0
    cases c <;> first | exact fun _ => rfl | (intro h; cases h)
  · simp [decodeFields, decodeRow3, vops_fV]
theorem vdiv (x0) : Statement (.vdiv x0) := by
  rintro f ⟨⟩
  refine ⟨?_, fun _ => ?_⟩
  · obtain ⟨sb, b, a, d, c⟩ := x0
    cases c <;> first | exact fun _ => rfl | (intro h; cases h)
  · simp [decodeFields, decodeRow3, vops_fV]
theorem rand (x0) : Statement (.rand x0) := by
  rintro f ⟨⟩
  refine ⟨?_, fun _ => ?_⟩
  · obtain ⟨sb, b, a, d, c⟩ := x0
    cases c <;> first | exact fun _ => rfl | (intro h; cases h)
  · simp [decodeFields, decodeRow3, vops_fV]
theorem vperm (x0) : Statement (.vperm x0) := by
  rintro f ⟨⟩
  refine ⟨?_, fun _ => ?_⟩
  · obtain ⟨sb, b, a, d, c⟩ := x0
    cases c <;> first | exact fun _ => rfl | (intro h; cases h)
  · simp [decodeFields, decodeRow4, vops_fV]
theorem vcmpct (x0) : Statement (.vcmpct x0) := by
  rintro f ⟨⟩
  refine ⟨?_, fun _ => ?_⟩
  · obtain ⟨sb, b, a, d, c⟩ := x0
    cases c <;> first | exact fun _ => rfl | (intro h; cases h)
  · simp [decodeFields, decodeRow4, vops_fV]
theorem vexpnd (x0) : Statement (.vexpnd x0) := by
  rintro f ⟨⟩
  refine ⟨?_, fun _ => ?_⟩
  · obtain ⟨sb, b, a, d, c⟩ := x0
    cases c <;> first | exact fun _ => rfl | (intro h; cases h)
  · simp [decodeFields, decodeRow4, vops_fV]
theorem match_ (x0) : Statement (.match_ x0) := by
  rintro f ⟨⟩
  refine ⟨?_, fun _ => ?_⟩
  · obtain ⟨sb, b, a, d, c⟩ := x0
    cases c <;> first | exact fun _ => rfl | (intro h; cases h)
  · simp [decodeFields, decodeRow4, vops_fV]
theorem reduce (x0) : Statement (.reduce x0) := by
  rintro f ⟨⟩
  refine ⟨?_, fun _ => ?_⟩
  · obtain ⟨sb, b, a, d, c⟩ := x0
    cases c <;> first | exact fun _ => rfl | (intro h; cases h)
  · simp [decodeFields, decodeRow4, vops_fV]
theorem scan (x0) : Statement (.scan x0) := by
  rintro f ⟨⟩
  refine ⟨?_, fun _ => ?_⟩
  · obtain ⟨sb, b, a, d, c⟩ := x0
    cases c <;> first | exact fun _ => rfl | (intro h; cases h)
  · simp [decodeFields, decodeRow4, vops_fV]
theorem vballot (x0) : Statement (.vballot x0) := by
  rintro f ⟨⟩
  refine ⟨?_, fun _ => ?_⟩
  · obtain ⟨sb, b, a, d, c⟩ := x0
    cases c <;> first | exact fun _ => rfl | (intro h; cases h)
  · simp [decodeFields, decodeRow4, vops_fV]
theorem vlane (x0) : Statement (.vlane x0) := by
  rintro f ⟨⟩
  refine ⟨?_, fun _ => ?_⟩
  · obtain ⟨sb, b, a, d, c⟩ := x0
    cases c <;> first | exact fun _ => rfl | (intro h; cases h)
  · simp [decodeFields, decodeRow4, vops_fV]
theorem ld (x0) : Statement (.ld x0) := by
  rintro f ⟨⟩
  exact ⟨(fun h => by cases h), fun _ => by simp [decodeFields, decodeRow5, m_fM]⟩
theorem st (x0) : Statement (.st x0) := by
  rintro f ⟨⟩
  exact ⟨(fun h => by cases h), fun _ => by simp [decodeFields, decodeRow5, m_fM]⟩
theorem lds (x0) : Statement (.lds x0) := by
  rintro f ⟨⟩
  exact ⟨(fun h => by cases h), fun _ => by simp [decodeFields, decodeRow5, m_fM]⟩
theorem sts (x0) : Statement (.sts x0) := by
  rintro f ⟨⟩
  exact ⟨(fun h => by cases h), fun _ => by simp [decodeFields, decodeRow5, m_fM]⟩
theorem ldsh (x0) : Statement (.ldsh x0) := by
  rintro f ⟨⟩
  exact ⟨(fun h => by cases h), fun _ => by simp [decodeFields, decodeRow5, m_fM]⟩
theorem stsh (x0) : Statement (.stsh x0) := by
  rintro f ⟨⟩
  exact ⟨(fun h => by cases h), fun _ => by simp [decodeFields, decodeRow5, m_fM]⟩
theorem ldcl (x0) : Statement (.ldcl x0) := by
  rintro f ⟨⟩
  exact ⟨(fun h => by cases h), fun _ => by simp [decodeFields, decodeRow5, m_fM]⟩
theorem stcl (x0) : Statement (.stcl x0) := by
  rintro f ⟨⟩
  exact ⟨(fun h => by cases h), fun _ => by simp [decodeFields, decodeRow5, m_fM]⟩
theorem atom (x0) : Statement (.atom x0) := by
  rintro f ⟨⟩
  exact ⟨(fun h => by cases h), fun _ => by simp [decodeFields, decodeRow5, m_fM]⟩
theorem atomn (x0) : Statement (.atomn x0) := by
  rintro f ⟨⟩
  exact ⟨(fun h => by cases h), fun _ => by simp [decodeFields, decodeRow5, m_fM]⟩
theorem cas (x0) : Statement (.cas x0) := by
  rintro f ⟨⟩
  exact ⟨(fun h => by cases h), fun _ => by simp [decodeFields, decodeRow5, m_fM]⟩
theorem xchg (x0) : Statement (.xchg x0) := by
  rintro f ⟨⟩
  exact ⟨(fun h => by cases h), fun _ => by simp [decodeFields, decodeRow5, m_fM]⟩
theorem stashMap (x0 x1 x2) : Statement (.stashMap x0 x1 x2) := by
  rintro f ⟨⟩
  exact ⟨fun _ => rfl, fun _ => by simp [decodeFields, decodeRow5, fN, Fields.n, given, z]⟩
theorem stashUnmap (x0) : Statement (.stashUnmap x0) := by
  rintro f ⟨⟩
  exact ⟨fun _ => rfl, fun _ => by simp [decodeFields, decodeRow5, fN, Fields.n, given, z]⟩
theorem cwb (x0 x1) : Statement (.cwb x0 x1) := by
  rintro f ⟨⟩
  exact ⟨fun _ => rfl, fun _ => by simp [decodeFields, decodeRow5, fN, Fields.n, given, z]⟩
theorem cinv (x0 x1) : Statement (.cinv x0 x1) := by
  rintro f ⟨⟩
  exact ⟨fun _ => rfl, fun _ => by simp [decodeFields, decodeRow5, fN, Fields.n, given, z]⟩
theorem rel (x0) : Statement (.rel x0) := by
  rintro f ⟨⟩
  exact ⟨fun _ => rfl, fun _ => by simp [decodeFields, decodeRow5, fN, Fields.n, given, z]⟩
theorem acq (x0) : Statement (.acq x0) := by
  rintro f ⟨⟩
  exact ⟨fun _ => rfl, fun _ => by simp [decodeFields, decodeRow5, fN, Fields.n, given, z]⟩
theorem phase (x0) : Statement (.phase x0) := by
  rintro f ⟨⟩
  exact ⟨fun _ => rfl, fun _ => by simp [decodeFields, decodeRow5, fN, Fields.n, given, z]⟩
theorem wait (x0 x1 x2 x3) : Statement (.wait x0 x1 x2 x3) := by
  rintro f ⟨⟩
  exact ⟨fun _ => rfl, fun _ => by simp [decodeFields, decodeRow6, Fields.n, given]⟩
theorem waitr (x0 x1) : Statement (.waitr x0 x1) := by
  rintro f ⟨⟩
  exact ⟨fun _ => rfl, fun _ => by simp [decodeFields, decodeRow6, fN, Fields.n, given, z]⟩
theorem barJoin (x0 x1) : Statement (.barJoin x0 x1) := by
  rintro f ⟨⟩
  exact ⟨fun _ => rfl, fun _ => by simp [decodeFields, decodeRow6, fN, Fields.n, given, z]⟩
theorem barArrive (x0 x1 x2 x3) : Statement (.barArrive x0 x1 x2 x3) := by
  rintro f ⟨⟩
  exact ⟨fun _ => rfl, fun _ => by simp [decodeFields, decodeRow6, fN, Fields.n, given, z]⟩
theorem barWait (x0 x1 x2) : Statement (.barWait x0 x1 x2) := by
  rintro f ⟨⟩
  exact ⟨fun _ => rfl, fun _ => by simp [decodeFields, decodeRow6, fN, Fields.n, given, z]⟩
theorem barExpect (x0 x1 x2) : Statement (.barExpect x0 x1 x2) := by
  rintro f ⟨⟩
  exact ⟨fun _ => rfl, fun _ => by simp [decodeFields, decodeRow6, fN, Fields.n, given, z]⟩
theorem copy (x0 x1) : Statement (.copy x0 x1) := by
  rintro f ⟨⟩
  refine ⟨?_, fun hw => ?_⟩
  · first | exact fun _ => rfl | (intro h; cases h)
  · simp [decodeFields, decodeRow6, fG, Fields.g1, Fields.mod, given, z]
theorem copy2d (x0 x1) : Statement (.copy2d x0 x1) := by
  rintro f ⟨⟩
  refine ⟨?_, fun hw => ?_⟩
  · first | exact fun _ => rfl | (intro h; cases h)
  · simp [decodeFields, decodeRow6, fG, Fields.g1, Fields.mod, given, z]
theorem fill (x0 x1) : Statement (.fill x0 x1) := by
  rintro f ⟨⟩
  refine ⟨?_, fun hw => ?_⟩
  · first | exact fun _ => rfl | (intro h; cases h)
  · simp [decodeFields, decodeRow6, fG, Fields.g1, Fields.mod, given, z]
theorem spawn (x0 x1 x2) : Statement (.spawn x0 x1 x2) := by
  rintro f ⟨⟩
  refine ⟨?_, fun hw => ?_⟩
  · first | exact fun _ => rfl | (intro h; cases h)
  · simp [decodeFields, decodeRow6, fG, Fields.g1, Fields.mod, given, z]
theorem reserve (x0 x1 x2) : Statement (.reserve x0 x1 x2) := by
  rintro f ⟨⟩
  refine ⟨?_, fun hw => ?_⟩
  · first | exact fun _ => rfl | (intro h; cases h)
  · simp [decodeFields, decodeRow6, Fields.n, given, z, Fields.mod]
theorem commit (x0) : Statement (.commit x0) := by
  rintro f ⟨⟩
  exact ⟨fun _ => rfl, fun _ => by simp [decodeFields, decodeRow6, fN, Fields.n, given, z]⟩
theorem claim (x0) : Statement (.claim x0) := by
  rintro f ⟨⟩
  exact ⟨fun _ => rfl, fun _ => by simp [decodeFields, decodeRow7, fN, Fields.n, given, z]⟩
theorem releaseSlot (x0) : Statement (.releaseSlot x0) := by
  rintro f ⟨⟩
  exact ⟨fun _ => rfl, fun _ => by simp [decodeFields, decodeRow7, fN, Fields.n, given, z]⟩
theorem tload (x0 x1) : Statement (.tload x0 x1) := by
  rintro f ⟨⟩
  refine ⟨?_, fun hw => ?_⟩
  · first | exact fun _ => rfl | (intro h; cases h)
  · simp [decodeFields, decodeRow7, fG, Fields.g1, Fields.mod, given, z]
theorem mma (x0 x1 x2 x3) : Statement (.mma x0 x1 x2 x3) := by
  rintro f ⟨⟩
  refine ⟨?_, fun hw => ?_⟩
  · first | exact fun _ => rfl | (intro h; cases h)
  · simp [decodeFields, decodeRow7, fG, Fields.g1, Fields.mod, given, z]
theorem mfence : Statement .mfence := by
  rintro f ⟨⟩
  exact ⟨fun _ => rfl, fun _ => by simp [decodeFields, decodeRow7, fN, Fields.n, given, z]⟩
theorem mwait (x0) : Statement (.mwait x0) := by
  rintro f ⟨⟩
  exact ⟨fun _ => rfl, fun _ => by simp [decodeFields, decodeRow7, fN, Fields.n, given, z]⟩
theorem mwaitImm (x0) : Statement (.mwaitImm x0) := by
  rintro f ⟨⟩
  refine ⟨?_, fun hw => ?_⟩
  · first | exact fun _ => rfl | (intro h; cases h)
  · simp [decodeFields, decodeRow7, Fields.n, given, z, Fields.mod]
theorem had (x0 x1 x2) : Statement (.had x0 x1 x2) := by
  rintro f ⟨⟩
  refine ⟨?_, fun hw => ?_⟩
  · first | exact fun _ => rfl | (intro h; cases h)
  · simp [decodeFields, decodeRow7, fG, Fields.g1, Fields.mod, given, z]
theorem accrd (x0 x1 x2) : Statement (.accrd x0 x1 x2) := by
  rintro f ⟨⟩
  refine ⟨?_, fun hw => ?_⟩
  · first | exact fun _ => rfl | (intro h; cases h)
  · simp [decodeFields, decodeRow7, fG, Fields.g1, Fields.mod, given, z]
theorem accst (x0 x1) : Statement (.accst x0 x1) := by
  rintro f ⟨⟩
  refine ⟨?_, fun hw => ?_⟩
  · first | exact fun _ => rfl | (intro h; cases h)
  · simp [decodeFields, decodeRow7, fG, Fields.g1, Fields.mod, given, z]
theorem vmx (x0 x1 x2 x3 x4) : Statement (.vmx x0 x1 x2 x3 x4) := by
  rintro f ⟨⟩
  refine ⟨?_, fun hw => ?_⟩
  · first | exact fun _ => rfl | (intro h; cases h)
  · simp [decodeFields, decodeRow7, fG, Fields.g1, Fields.mod, given, z]
theorem accz (x0 x1) : Statement (.accz x0 x1) := by
  rintro f ⟨⟩
  exact ⟨fun _ => rfl, fun _ => by simp [decodeFields, decodeRow7, fN, Fields.n, given, z]⟩
theorem rast (x0 x1) : Statement (.rast x0 x1) := by
  rintro f ⟨⟩
  exact ⟨fun _ => rfl, fun _ => by simp [decodeFields, decodeRow7, fN, Fields.n, given, z]⟩
theorem sample (x0) : Statement (.sample x0) := by
  rintro f ⟨⟩
  refine ⟨?_, fun _ => ?_⟩
  · obtain ⟨sb, b, a, d, c⟩ := x0
    cases c <;> first | exact fun _ => rfl | (intro h; cases h)
  · simp [decodeFields, decodeRow7, vops_fV]
theorem trace (x0) : Statement (.trace x0) := by
  rintro f ⟨⟩
  refine ⟨?_, fun _ => ?_⟩
  · obtain ⟨sb, b, a, d, c⟩ := x0
    cases c <;> first | exact fun _ => rfl | (intro h; cases h)
  · simp [decodeFields, decodeRow7, vops_fV]
theorem traceM (x0 x1 x2 x3) : Statement (.traceM x0 x1 x2 x3) := by
  rintro f ⟨⟩
  refine ⟨?_, fun hw => ?_⟩
  · first | exact fun _ => rfl | (intro h; cases h)
  · simp [decodeFields, decodeRow7, Fields.n, given, z, Fields.mod]
theorem verdict (x0) : Statement (.verdict x0) := by
  rintro f ⟨⟩
  exact ⟨fun _ => rfl, fun _ => by simp [decodeFields, decodeRow7, fN, Fields.n, given, z]⟩
theorem bxunion (x0) : Statement (.bxunion x0) := by
  rintro f ⟨⟩
  refine ⟨?_, fun _ => ?_⟩
  · obtain ⟨sb, b, a, d, c⟩ := x0
    cases c <;> first | exact fun _ => rfl | (intro h; cases h)
  · simp [decodeFields, decodeRow7, vops_fV]
theorem sahcost (x0 x1) : Statement (.sahcost x0 x1) := by
  rintro f ⟨⟩
  exact ⟨fun _ => rfl, fun _ => by simp [decodeFields, decodeRow7, fN, Fields.n, given, z]⟩
theorem nodepack (x0 x1) : Statement (.nodepack x0 x1) := by
  rintro f ⟨⟩
  exact ⟨fun _ => rfl, fun _ => by simp [decodeFields, decodeRow7, fN, Fields.n, given, z]⟩
theorem osenter (x0 x1 x2) : Statement (.osenter x0 x1 x2) := by
  rintro f ⟨⟩
  exact ⟨fun _ => rfl, fun _ => by simp [decodeFields, decodeRow7, fN, Fields.n, given, z]⟩
theorem osleave : Statement .osleave := by
  rintro f ⟨⟩
  exact ⟨fun _ => rfl, fun _ => by simp [decodeFields, decodeRow7, fN, Fields.n, given, z]⟩
theorem osleaveDone : Statement .osleaveDone := by
  rintro f ⟨⟩
  exact ⟨fun _ => rfl, fun _ => by simp [decodeFields, decodeRow7, fN, Fields.n, given, z]⟩
theorem osabort : Statement .osabort := by
  rintro f ⟨⟩
  exact ⟨fun _ => rfl, fun _ => by simp [decodeFields, decodeRow7, fN, Fields.n, given, z]⟩
theorem tsig (x0 x1 x2) : Statement (.tsig x0 x1 x2) := by
  rintro f ⟨⟩
  refine ⟨?_, fun hw => ?_⟩
  · first | exact fun _ => rfl | (intro h; cases h)
  · simp [decodeFields, decodeRow7, fG, Fields.g1, Fields.mod, given, z]
theorem tcost (x0 x1) : Statement (.tcost x0 x1) := by
  rintro f ⟨⟩
  exact ⟨fun _ => rfl, fun _ => by simp [decodeFields, decodeRow7, fN, Fields.n, given, z]⟩
theorem tskip (x0) : Statement (.tskip x0) := by
  rintro f ⟨⟩
  exact ⟨fun _ => rfl, fun _ => by simp [decodeFields, decodeRow7, fN, Fields.n, given, z]⟩
theorem pureBegin (x0) : Statement (.pureBegin x0) := by
  rintro f ⟨⟩
  exact ⟨fun _ => rfl, fun _ => by simp [decodeFields, decodeRow7, fN, Fields.n, given, z]⟩
theorem mkey (x0) : Statement (.mkey x0) := by
  rintro f ⟨⟩
  refine ⟨?_, fun _ => ?_⟩
  · obtain ⟨sb, b, a, d, c⟩ := x0
    cases c <;> first | exact fun _ => rfl | (intro h; cases h)
  · simp [decodeFields, decodeRow7, vops_fV]
theorem pureProbe (x0 x1) : Statement (.pureProbe x0 x1) := by
  rintro f ⟨⟩
  refine ⟨?_, fun hw => ?_⟩
  · first | exact fun _ => rfl | (intro h; cases h)
  · simp [decodeFields, decodeRow7, fG, Fields.g1, Fields.mod, given, z]
theorem pureEnd : Statement .pureEnd := by
  rintro f ⟨⟩
  exact ⟨fun _ => rfl, fun _ => by simp [decodeFields, decodeRow7, fN, Fields.n, given, z]⟩
theorem memoFlush : Statement .memoFlush := by
  rintro f ⟨⟩
  exact ⟨fun _ => rfl, fun _ => by simp [decodeFields, decodeRow7, fN, Fields.n, given, z]⟩
theorem trap (x0) : Statement (.trap x0) := by
  rintro f ⟨⟩
  exact ⟨fun _ => rfl, fun _ => by simp [decodeFields, decodeRow7, fN, Fields.n, given, z]⟩
theorem brk (x0) : Statement (.brk x0) := by
  rintro f ⟨⟩
  exact ⟨fun _ => rfl, fun _ => by simp [decodeFields, decodeRow7, fN, Fields.n, given, z]⟩
theorem tret : Statement .tret := by
  rintro f ⟨⟩
  exact ⟨fun _ => rfl, fun _ => by simp [decodeFields, decodeRow7, fN, Fields.n, given, z]⟩
theorem perstNAssert : Statement .perstNAssert := fun _ h => by cases h
theorem perstNDeassert : Statement .perstNDeassert := fun _ h => by cases h
theorem firmwareLoadDone (x0 x1) : Statement (.firmwareLoadDone x0 x1) := fun _ h => by cases h
theorem channelTrainingDone (x0 x1) : Statement (.channelTrainingDone x0 x1) := fun _ h => by cases h
theorem hotReset : Statement .hotReset := fun _ h => by cases h
theorem functionLevelReset : Statement .functionLevelReset := fun _ h => by cases h
theorem powerRemoval : Statement .powerRemoval := fun _ h => by cases h
theorem powerUp : Statement .powerUp := fun _ h => by cases h
theorem linkUp : Statement .linkUp := fun _ h => by cases h
theorem correctableLinkError : Statement .correctableLinkError := fun _ h => by cases h
theorem configurationRequest : Statement .configurationRequest := fun _ h => by cases h
theorem d3hotEntry : Statement .d3hotEntry := fun _ h => by cases h
theorem d0Return : Statement .d0Return := fun _ h => by cases h
theorem uncorrectableLinkError (x0) : Statement (.uncorrectableLinkError x0) := fun _ h => by cases h
theorem thermalTrip (x0) : Statement (.thermalTrip x0) := fun _ h => by cases h
theorem regulatorAlert (x0) : Statement (.regulatorAlert x0) := fun _ h => by cases h
theorem writeTimingRecentre (x0) : Statement (.writeTimingRecentre x0) := fun _ h => by cases h
theorem refresh (x0 x1) : Statement (.refresh x0 x1) := fun _ h => by cases h
theorem selfRefreshEntry (x0) : Statement (.selfRefreshEntry x0) := fun _ h => by cases h
theorem selfRefreshExit (x0) : Statement (.selfRefreshExit x0) := fun _ h => by cases h
theorem dramReadComplete (x0 x1) : Statement (.dramReadComplete x0 x1) := fun _ h => by cases h
theorem dramReadRetry (x0 x1) : Statement (.dramReadRetry x0 x1) := fun _ h => by cases h
theorem boundaryScan (x0 x1 x2 x3) : Statement (.boundaryScan x0 x1 x2 x3) := fun _ h => by cases h
theorem apertureRead (x0 x1) : Statement (.apertureRead x0 x1) := fun _ h => by cases h
theorem apertureWrite (x0 x1) : Statement (.apertureWrite x0 x1) := fun _ h => by cases h
theorem registerWrite (x0 x1 x2) : Statement (.registerWrite x0 x1 x2) := fun _ h => by cases h
theorem acceptChannels : Statement .acceptChannels := fun _ h => by cases h
theorem capWWrite (x0) : Statement (.capWWrite x0) := fun _ h => by cases h
theorem evqHeadWrite (x0) : Statement (.evqHeadWrite x0) := fun _ h => by cases h
theorem evqEnableWrite (x0) : Statement (.evqEnableWrite x0) := fun _ h => by cases h
theorem msixTableWrite (x0 x1) : Statement (.msixTableWrite x0 x1) := fun _ h => by cases h
theorem enable (x0) : Statement (.enable x0) := fun _ h => by cases h
theorem disable (x0) : Statement (.disable x0) := fun _ h => by cases h
theorem halt (x0) : Statement (.halt x0) := fun _ h => by cases h
theorem resume (x0) : Statement (.resume x0) := fun _ h => by cases h
theorem contextEnded (x0) : Statement (.contextEnded x0) := fun _ h => by cases h
theorem faultReplay (x0 x1) : Statement (.faultReplay x0 x1) := fun _ h => by cases h
theorem faultConvertToTrap (x0 x1) : Statement (.faultConvertToTrap x0 x1) := fun _ h => by cases h
theorem queueStart (x0) : Statement (.queueStart x0) := fun _ h => by cases h
theorem queueStop (x0) : Statement (.queueStop x0) := fun _ h => by cases h
theorem qtailDoorbell (x0 x1) : Statement (.qtailDoorbell x0 x1) := fun _ h => by cases h
theorem nopPacket (x0) : Statement (.nopPacket x0) := fun _ h => by cases h
theorem launch (x0) : Statement (.launch x0) := fun _ h => by cases h
theorem launchComplete (x0) : Statement (.launchComplete x0) := fun _ h => by cases h
theorem semSignal (x0) : Statement (.semSignal x0) := fun _ h => by cases h
theorem semWait (x0) : Statement (.semWait x0) := fun _ h => by cases h
theorem semWaitPoll (x0) : Statement (.semWaitPoll x0) := fun _ h => by cases h
theorem setState (x0) : Statement (.setState x0) := fun _ h => by cases h
theorem frameMark (x0) : Statement (.frameMark x0) := fun _ h => by cases h
theorem memoFlushPacket (x0) : Statement (.memoFlushPacket x0) := fun _ h => by cases h
theorem traceRecord (x0) : Statement (.traceRecord x0) := fun _ h => by cases h
theorem traceReplay (x0) : Statement (.traceReplay x0) := fun _ h => by cases h
theorem power (x0) : Statement (.power x0) := fun _ h => by cases h
theorem governorPeriod (x0 x1) : Statement (.governorPeriod x0 x1) := fun _ h => by cases h
theorem allowanceUpdate (x0) : Statement (.allowanceUpdate x0) := fun _ h => by cases h
theorem withheldCompletely (x0 x1) : Statement (.withheldCompletely x0 x1) := fun _ h => by cases h
theorem nearThresholdWindow (x0 x1) : Statement (.nearThresholdWindow x0 x1) := fun _ h => by cases h
theorem nearThresholdExit (x0 x1) : Statement (.nearThresholdExit x0 x1) := fun _ h => by cases h
theorem teamAdmission (x0 x1) : Statement (.teamAdmission x0 x1) := fun _ h => by cases h
theorem preemption (x0 x1) : Statement (.preemption x0 x1) := fun _ h => by cases h
theorem drainLimitExpiry (x0) : Statement (.drainLimitExpiry x0) := fun _ h => by cases h
theorem teamRestore (x0 x1) : Statement (.teamRestore x0 x1) := fun _ h => by cases h
theorem quantumBoundary (x0) : Statement (.quantumBoundary x0) := fun _ h => by cases h
theorem launchStall (x0) : Statement (.launchStall x0) := fun _ h => by cases h
theorem spawnBinTimerExpiry (x0 x1) : Statement (.spawnBinTimerExpiry x0 x1) := fun _ h => by cases h
theorem spawnBinHandoff (x0 x1 x2) : Statement (.spawnBinHandoff x0 x1 x2) := fun _ h => by cases h
theorem arenaTimerExpiry (x0 x1) : Statement (.arenaTimerExpiry x0 x1) := fun _ h => by cases h
theorem spawnStall (x0) : Statement (.spawnStall x0) := fun _ h => by cases h
theorem roundBoundary (x0) : Statement (.roundBoundary x0) := fun _ h => by cases h
theorem faultEntryWalk (x0) : Statement (.faultEntryWalk x0) := fun _ h => by cases h
theorem ladleWake (x0 x1) : Statement (.ladleWake x0 x1) := fun _ h => by cases h
theorem allocationGrant (x0 x1) : Statement (.allocationGrant x0 x1) := fun _ h => by cases h
theorem boundaryTrapEntry (x0) : Statement (.boundaryTrapEntry x0) := fun _ h => by cases h
theorem loadDataLanded (x0) : Statement (.loadDataLanded x0) := fun _ h => by cases h
theorem storePerformed (x0) : Statement (.storePerformed x0) := fun _ h => by cases h
theorem atomicAtHome (x0) : Statement (.atomicAtHome x0) := fun _ h => by cases h
theorem engineLineLanded (x0) : Statement (.engineLineLanded x0) := fun _ h => by cases h
theorem matrixOperationComplete (x0) : Statement (.matrixOperationComplete x0) := fun _ h => by cases h
theorem memoLookupReturn (x0) : Statement (.memoLookupReturn x0) := fun _ h => by cases h
theorem osAdvanceAtHome : Statement .osAdvanceAtHome := fun _ h => by cases h
theorem osStall (x0 x1) : Statement (.osStall x0 x1) := fun _ h => by cases h
theorem traversalComplete (x0 x1) : Statement (.traversalComplete x0 x1) := fun _ h => by cases h
theorem infill (x0) : Statement (.infill x0) := fun _ h => by cases h

end Sys2Proof.Laws.FieldsDecode
end

