-- ==== Sys2Proof/Tests/Slice0.lean ====
section
/-! SUPPORT. Tests of the model: words written out from the spec's encodings decode, ill-formed terms are refused, one step has
the result the spec gives it, and the hypotheses of each obligation are met by a concrete state. -/

namespace Sys2Proof.Tests

-- one theorem at a time: many at once would need more memory than the check allows
set_option Elab.async false

open Machine
theorem test_words_scalar_a : ∀ p ∈ ([
     (0x004844E4, 0x00000000, .add 100 9 (.reg 33)),
     (0x80688563, 0x00000000, .sub 99 10 (.imm7 34)),
     (0xC088C5E2, 0x0113579A, .mul 98 11 (.imm32 0x89ABCD23)),
     (0x00A90661, 0x00000000, .mulh 97 12 (.reg 36)),
     (0x80C946E0, 0x00000000, .mulhu 96 13 (.imm7 37)),
     (0xC0E9875F, 0x0113579A, .div 95 14 (.imm32 0x89ABCD26)),
     (0x0109C7DE, 0x00000000, .divu 94 15 (.reg 39)),
     (0x812A085D, 0x00000000, .rem 93 16 (.imm7 40)),
     (0xC14A48DC, 0x0113579A, .remu 92 17 (.imm32 0x89ABCD29)),
     (0x016A895B, 0x00000000, .and 91 18 (.reg 42)),
     (0x818AC9DA, 0x00000000, .or 90 19 (.imm7 43)),
     (0xC1AB0A59, 0x0113579A, .xor 89 20 (.imm32 0x89ABCD2C)),
     (0x01CB4AD8, 0x00000000, .shl 88 21 (.reg 45)),
     (0x81EB8B57, 0x00000000, .shr 87 22 (.imm7 46)),
     (0xC20BCBD6, 0x0113579A, .sar 86 23 (.imm32 0x89ABCD2F)),
     (0x022C0C55, 0x00000000, .min 85 24 (.reg 48)),
     (0x824C4CD4, 0x00000000, .max 84 25 (.imm7 49)),
     (0xC26C8D53, 0x0113579A, .minu 83 26 (.imm32 0x89ABCD32)),
     (0x028CCDD2, 0x00000000, .maxu 82 27 (.reg 51)),
     (0x82AD0E51, 0x00000000, .seq 81 28 (.imm7 52))] :
    List (Nat × Nat × Instr)), decode p.1 p.2.1 = .ok p.2.2 := by decide

theorem test_words_scalar_b : ∀ p ∈ ([
     (0xC2CD4ED0, 0x0113579A, .sne 80 29 (.imm32 0x89ABCD35)),
     (0x02ED8F4F, 0x00000000, .slt 79 30 (.reg 54)),
     (0x830DCFCE, 0x00000000, .sltu 78 31 (.imm7 55)),
     (0xC32E104D, 0x0113579A, .sel 77 32 (.imm32 0x89ABCD38)),
     (0x00200000, 0x00000000, .nop),
     (0x0341404D, 0x00000000, .mov 77 (.reg 5)),
     (0x03600AB2, 0x00000000, .popc 50 21),
     (0x03800B31, 0x00000000, .clz 49 22),
     (0x03A00BB0, 0x00000000, .ctz 48 23)] :
    List (Nat × Nat × Instr)), decode p.1 p.2.1 = .ok p.2.2 := by decide

theorem test_words_control_a : ∀ p ∈ ([
     (0x44000000, 0x00008001, .jmp 0x8001),
     (0xC43FC60B, 0x00000005, .braS 0b01011 true 0x7f 12 5),
     (0x44438615, 0xFFFE0123, .braV 0b10101 false 14 12 0x0123 0xFFFE),
     (0x44600590, 0x0000FF00, .call 16 11 0xFF00),
     (0x04800000, 0x00000000, .join),
     (0xC4B54000, 0x00000007, .loop true 0x55 7),
     (0x04C00000, 0x00000000, .lend),
     (0x04C00001, 0x00000000, .lendX),
     (0x04E00000, 0x00000000, .ret),
     (0x05168187, 0x00000000, .callr 90 7 3),
     (0x05202100, 0x00000000, .jmpr 66),
     (0x85440000, 0x00000000, .acquire (.imm7 16)),
     (0x0567C000, 0x00000000, .release (.reg 31)),
     (0xC5848000, 0x00000001, .wbase (.imm32 0x92)),
     (0x85B00000, 0x00000000, .swin (.imm7 64)),
     (0x05C24000, 0x00000000, .unwind (.reg 9)),
     (0x05E00000, 0x00000000, .pause),
     (0x06000000, 0x00000000, .exit),
     (0x06200DAB, 0x00000000, .gets 0x1b 43),
     (0x0640159C, 0x00000000, .sets 0x1c 43)] :
    List (Nat × Nat × Instr)), decode p.1 p.2.1 = .ok p.2.2 := by decide

theorem test_words_control_b : ∀ p ∈ ([
     (0xC66D0000, 0x00000024, .fmt (.imm32 0x1234)),
     (0x8680C000, 0x00000000, .pclass (.imm7 3)),
     (0x06A03E88, 0x00000000, .mpop 8 125),
     (0x06C00089, 0x00000000, .mfirst 9 1)] :
    List (Nat × Nat × Instr)), decode p.1 p.2.1 = .ok p.2.2 := by decide

theorem test_words_vector_integer_a : ∀ p ∈ ([
     (0x48135BA1, 0x20060080, .vaddInt ⟨false, 77, 55, 33, some ⟨2, 0x0, 0x180, 0x80⟩⟩),
     (0x48335BA1, 0x20160481, .vsubInt ⟨false, 77, 55, 33, some ⟨2, 0x1, 0x181, 0x81⟩⟩),
     (0x48535BA1, 0x20260882, .vmulInt ⟨false, 77, 55, 33, some ⟨2, 0x2, 0x182, 0x82⟩⟩),
     (0x48735BA1, 0x20360C83, .vmulh ⟨false, 77, 55, 33, some ⟨2, 0x3, 0x183, 0x83⟩⟩),
     (0x48935BA1, 0x20461084, .vmad ⟨false, 77, 55, 33, some ⟨2, 0x4, 0x184, 0x84⟩⟩),
     (0x48B35BA1, 0x20561485, .vadds ⟨false, 77, 55, 33, some ⟨2, 0x5, 0x185, 0x85⟩⟩),
     (0x48D35BA1, 0x20061886, .vsubs ⟨false, 77, 55, 33, some ⟨2, 0x0, 0x186, 0x86⟩⟩),
     (0x88F35BA1, 0x00000000, .vand ⟨true, 77, 55, 33, none⟩),
     (0xC9135BA1, 0x00100000, .vor ⟨true, 77, 55, 33, some ⟨0, 0x1, 0x0, 0x0⟩⟩),
     (0x89335BA1, 0x00000000, .vxor ⟨true, 77, 55, 33, none⟩),
     (0x49401BA1, 0x00100260, .vnot ⟨false, 0, 55, 33, some ⟨0, 0x1, 0x0, 0x260⟩⟩),
     (0x49735BA1, 0x10500000, .vshl ⟨false, 77, 55, 33, some ⟨1, 0x5, 0x0, 0x0⟩⟩),
     (0x49935BA1, 0x10400000, .vshr ⟨false, 77, 55, 33, some ⟨1, 0x4, 0x0, 0x0⟩⟩),
     (0x49B35BA1, 0x10300000, .vsar ⟨false, 77, 55, 33, some ⟨1, 0x3, 0x0, 0x0⟩⟩),
     (0x49D35BA1, 0x10200000, .vminInt ⟨false, 77, 55, 33, some ⟨1, 0x2, 0x0, 0x0⟩⟩),
     (0x49F35BA1, 0x10100000, .vmaxInt ⟨false, 77, 55, 33, some ⟨1, 0x1, 0x0, 0x0⟩⟩),
     (0x4A001BA1, 0x00400000, .vabsInt ⟨false, 0, 55, 33, some ⟨0, 0x4, 0x0, 0x0⟩⟩),
     (0x4A335BA1, 0x02B00000, .vcmpInt ⟨false, 77, 55, 33, some ⟨0, 0x2B, 0x0, 0x0⟩⟩),
     (0x0A535BA1, 0x00000000, .vsel ⟨false, 77, 55, 33, none⟩),
     (0x4A601BA1, 0x00200000, .vpopc ⟨false, 0, 55, 33, some ⟨0, 0x2, 0x0, 0x0⟩⟩)] :
    List (Nat × Nat × Instr)), decode p.1 p.2.1 = .ok p.2.2 := by decide

theorem test_words_vector_integer_b : ∀ p ∈ ([
     (0x4A801BA1, 0x00300000, .vclz ⟨false, 0, 55, 33, some ⟨0, 0x3, 0x0, 0x0⟩⟩),
     (0x4AB34021, 0x00157C00, .vmov ⟨false, 77, 0, 33, some ⟨0, 0x1, 0x15F, 0x0⟩⟩),
     (0x4AD35BA1, 0x04500000, .vdot4 ⟨false, 77, 55, 33, some ⟨0, 0x45, 0x0, 0x0⟩⟩),
     (0x4AF35BA1, 0x00100080, .vbfe ⟨false, 77, 55, 33, some ⟨0, 0x1, 0x0, 0x80⟩⟩),
     (0x0B135BA1, 0x00000000, .vbfi ⟨false, 77, 55, 33, none⟩)] :
    List (Nat × Nat × Instr)), decode p.1 p.2.1 = .ok p.2.2 := by decide

theorem test_words_vector_floating_point : ∀ p ∈ ([
     (0x10135BA1, 0x00000000, .vaddFp ⟨false, 77, 55, 33, none⟩),
     (0xD0335BA1, 0x00500000, .vsubFp ⟨true, 77, 55, 33, some ⟨0, 0x5, 0x0, 0x0⟩⟩),
     (0x50535BA1, 0x00A00000, .vmulFp ⟨false, 77, 55, 33, some ⟨0, 0xA, 0x0, 0x0⟩⟩),
     (0x50735BA1, 0x00E00000, .vfma ⟨false, 77, 55, 33, some ⟨0, 0xE, 0x0, 0x0⟩⟩),
     (0x50935BA1, 0x00100000, .vminFp ⟨false, 77, 55, 33, some ⟨0, 0x1, 0x0, 0x0⟩⟩),
     (0x10B35BA1, 0x00000000, .vmaxFp ⟨false, 77, 55, 33, none⟩),
     (0x50D35BA1, 0x05200000, .vcmpFp ⟨false, 77, 55, 33, some ⟨0, 0x52, 0x0, 0x0⟩⟩),
     (0x10E01BA1, 0x00000000, .vabsFp ⟨false, 0, 55, 33, none⟩),
     (0x51001BA1, 0x00100000, .vneg ⟨false, 0, 55, 33, some ⟨0, 0x1, 0x0, 0x0⟩⟩),
     (0x51201BA1, 0x00200000, .vclass ⟨false, 0, 55, 33, some ⟨0, 0x2, 0x0, 0x0⟩⟩)] :
    List (Nat × Nat × Instr)), decode p.1 p.2.1 = .ok p.2.2 := by decide

theorem test_words_conversion : ∀ p ∈ ([
     (0x58001BA1, 0x00F00000, .cvt ⟨false, 0, 55, 33, some ⟨0, 0xF, 0x0, 0x0⟩⟩),
     (0x58201BA1, 0x00200000, .sxpack ⟨false, 0, 55, 33, some ⟨0, 0x2, 0x0, 0x0⟩⟩),
     (0x58401BA1, 0x00100000, .sxunpk ⟨false, 0, 55, 33, some ⟨0, 0x1, 0x0, 0x0⟩⟩),
     (0x58601BA1, 0x00900000, .vrnd ⟨false, 0, 55, 33, some ⟨0, 0x9, 0x0, 0x0⟩⟩),
     (0x58801BA1, 0x00100000, .vrcp ⟨false, 0, 55, 33, some ⟨0, 0x1, 0x0, 0x0⟩⟩),
     (0x58A01BA1, 0x00200000, .vrsq ⟨false, 0, 55, 33, some ⟨0, 0x2, 0x0, 0x0⟩⟩),
     (0x58C01BA1, 0x00400000, .vsqrt ⟨false, 0, 55, 33, some ⟨0, 0x4, 0x0, 0x0⟩⟩),
     (0x18E01BA1, 0x00000000, .vexp2 ⟨false, 0, 55, 33, none⟩),
     (0x59001BA1, 0x00100000, .vlog2 ⟨false, 0, 55, 33, some ⟨0, 0x1, 0x0, 0x0⟩⟩),
     (0x59201BA1, 0x00200000, .vsin ⟨false, 0, 55, 33, some ⟨0, 0x2, 0x0, 0x0⟩⟩),
     (0x19401BA1, 0x00000000, .vcos ⟨false, 0, 55, 33, none⟩),
     (0x59601BA1, 0x00100000, .vtanh ⟨false, 0, 55, 33, some ⟨0, 0x1, 0x0, 0x0⟩⟩),
     (0x59935BA1, 0x00C00000, .vdiv ⟨false, 77, 55, 33, some ⟨0, 0xC, 0x0, 0x0⟩⟩),
     (0x59A0007E, 0x00100000, .rand ⟨false, 0, 0, 126, some ⟨0, 0x1, 0x0, 0x0⟩⟩)] :
    List (Nat × Nat × Instr)), decode p.1 p.2.1 = .ok p.2.2 := by decide

theorem test_words_lane : ∀ p ∈ ([
     (0x60135BA1, 0x00080C00, .vperm ⟨false, 77, 55, 33, some ⟨0, 0x0, 0x203, 0x0⟩⟩),
     (0x20201BA1, 0x00000000, .vcmpct ⟨false, 0, 55, 33, none⟩),
     (0x20401BA1, 0x00000000, .vexpnd ⟨false, 0, 55, 33, none⟩),
     (0x6060050C, 0x00600000, .match_ ⟨false, 0, 10, 12, some ⟨0, 0x6, 0x0, 0x0⟩⟩),
     (0x60801B87, 0x08A00000, .reduce ⟨false, 0, 55, 7, some ⟨0, 0x8A, 0x0, 0x0⟩⟩),
     (0x60A01BA1, 0x01A00000, .scan ⟨false, 0, 55, 33, some ⟨0, 0x1A, 0x0, 0x0⟩⟩),
     (0x20C01B80, 0x00000000, .vballot ⟨false, 0, 55, 0, none⟩),
     (0x60E00021, 0x00100000, .vlane ⟨false, 0, 0, 33, some ⟨0, 0x1, 0x0, 0x0⟩⟩)] :
    List (Nat × Nat × Instr)), decode p.1 p.2.1 = .ok p.2.2 := by decide

theorem test_words_memory : ∀ p ∈ ([
     (0x6815547C, 0x06EBFFFF, .ld ⟨false, 85, 40, 124, 0, 0x6E, 2, 0x3FFFF⟩),
     (0x68355414, 0x09540002, .st ⟨false, 85, 40, 20, 0, 0x95, 1, 0x2⟩),
     (0x68401414, 0x00440001, .lds ⟨false, 0, 40, 20, 0, 0x4, 1, 0x1⟩),
     (0xE86F5414, 0x00000000, .sts ⟨true, 61, 40, 20, 0, 0x0, 0, 0x0⟩),
     (0x688F9414, 0x30300000, .ldsh ⟨false, 62, 40, 20, 3, 0x3, 0, 0x0⟩),
     (0x68BFD414, 0x00280000, .stsh ⟨false, 127, 40, 20, 0, 0x2, 2, 0x0⟩),
     (0x68C01414, 0x00140002, .ldcl ⟨false, 0, 40, 20, 0, 0x1, 1, 0x2⟩),
     (0xE8E25414, 0x00400000, .stcl ⟨true, 9, 40, 20, 0, 0x4, 0, 0x0⟩),
     (0x6904147E, 0x00F40000, .atom ⟨false, 16, 40, 126, 0, 0xF, 1, 0x0⟩),
     (0x69215414, 0x03700000, .atomn ⟨false, 5, 40, 20, 0, 0x37, 0, 0x0⟩),
     (0x6941147C, 0x01840000, .cas ⟨false, 4, 40, 124, 0, 0x18, 1, 0x0⟩),
     (0x697FD414, 0x020BFFFF, .xchg ⟨false, 127, 40, 20, 0, 0x20, 2, 0x3FFFF⟩),
     (0x29831105, 0x00000000, .stashMap 12 34 5),
     (0x29A00006, 0x00000000, .stashUnmap 6),
     (0x29C31100, 0x00000000, .cwb 12 34),
     (0x29E88600, 0x00000000, .cinv 34 12),
     (0x2A000003, 0x00000000, .rel 3),
     (0x2A200004, 0x00000000, .acq 4),
     (0x2A400001, 0x00000000, .phase 1)] :
    List (Nat × Nat × Instr)), decode p.1 p.2.1 = .ok p.2.2 := by decide

theorem test_words_synchronisation : ∀ p ∈ ([
     (0x30096A95, 0x00000000, .wait 9 6 0x2A 0x15),
     (0x30202302, 0x00000000, .waitr 70 2),
     (0x30402381, 0x00000000, .barJoin 71 true),
     (0x3060A409, 0x00000000, .barArrive true false 72 9),
     (0x30822480, 0x00000000, .barWait 8 73 false),
     (0x30A26501, 0x00000000, .barExpect 9 74 true),
     (0x70C00400, 0x06100000, .copy 8 0x61),
     (0x70E03B80, 0x00A00000, .copy2d 119 0x0A),
     (0x71003D00, 0x00100000, .fill 122 0x01),
     (0x71200A70, 0x01F00000, .spawn 20 112 0x1F),
     (0xB158007E, 0x00000000, .reserve true 96 126),
     (0x31603E00, 0x00000000, .commit 124)] :
    List (Nat × Nat × Instr)), decode p.1 p.2.1 = .ok p.2.2 := by decide

theorem test_words_matrix : ∀ p ∈ ([
     (0x38000008, 0x00000000, .claim 8),
     (0x38200480, 0x00000000, .releaseSlot 9),
     (0x78403D80, 0x04B00000, .tload 123 0x4B),
     (0x7862C50C, 0x0BF00000, .mma 12 10 11 0xBF),
     (0x38800000, 0x00000000, .mfence),
     (0x38A03180, 0x00000000, .mwait 99),
     (0xB8A34000, 0x00000000, .mwaitImm 13),
     (0x78C3C700, 0x00600000, .had 14 15 0x06),
     (0x78E00811, 0x00300000, .accrd 17 16 3),
     (0x79003C80, 0x08800000, .accst 121 0x88),
     (0xF92F3840, 0x00700000, .vmx true 64 112 60 0x07),
     (0x3944C900, 0x00000000, .accz 18 19)] :
    List (Nat × Nat × Instr)), decode p.1 p.2.1 = .ok p.2.2 := by decide

theorem test_words_graphics : ∀ p ∈ ([
     (0x3A00397A, 0x00000000, .rast 122 114),
     (0x7A3F197C, 0x21100000, .sample ⟨false, 124, 50, 124, some ⟨2, 0x11, 0x0, 0x0⟩⟩),
     (0x3A5F7C09, 0x00000000, .trace ⟨false, 125, 120, 9, none⟩),
     (0x7A623C78, 0xD0000000, .traceM 0xD 120 120 8),
     (0x3A803E80, 0x00000000, .verdict 125),
     (0x3AA07D03, 0x00000000, .bxunion ⟨false, 1, 122, 3, none⟩),
     (0x3AC03C87, 0x00000000, .sahcost 7 121),
     (0x3AE03CFC, 0x00000000, .nodepack 124 121)] :
    List (Nat × Nat × Instr)), decode p.1 p.2.1 = .ok p.2.2 := by decide

theorem test_words_sections : ∀ p ∈ ([
     (0x3B027F2C, 0x00000000, .osenter 44 126 9),
     (0x3B200000, 0x00000000, .osleave),
     (0x3B200001, 0x00000000, .osleaveDone),
     (0x3B400000, 0x00000000, .osabort)] :
    List (Nat × Nat × Instr)), decode p.1 p.2.1 = .ok p.2.2 := by decide

theorem test_words_memo : ∀ p ∈ ([
     (0x7C003C7E, 0x00200000, .tsig 126 120 2),
     (0x3C2F1E80, 0x00000000, .tcost 60 61),
     (0x3C401F00, 0x00000000, .tskip 62),
     (0x3C601F80, 0x00000000, .pureBegin 63),
     (0x7C803F00, 0x40400000, .mkey ⟨false, 0, 126, 0, some ⟨4, 0x4, 0x0, 0x0⟩⟩),
     (0x7CA00064, 0x01C00000, .pureProbe 100 0x1C),
     (0x3CC00000, 0x00000000, .pureEnd),
     (0x3CE00000, 0x00000000, .memoFlush)] :
    List (Nat × Nat × Instr)), decode p.1 p.2.1 = .ok p.2.2 := by decide

theorem test_words_system : ∀ p ∈ ([
     (0x3E00007F, 0x00000000, .trap 127),
     (0x3E200005, 0x00000000, .brk 5),
     (0x3E400000, 0x00000000, .tret)] :
    List (Nat × Nat × Instr)), decode p.1 p.2.1 = .ok p.2.2 := by decide

/-! Well-formedness: each pair is a well-formed term and the same term with one field its entry does not define. -/

/-- Every first term is accepted and every second refused. -/
def refusesSecond (ps : List (Instr × Instr)) : Bool := ps.all fun p => p.1.wf && !p.2.wf

theorem test_wf_scalar_and_control : refusesSecond [
    (.braS 0b01101 true 1 2 3, .braS 0b01110 true 1 2 3),
    (.braS 0b10000 false 1 2 3, .braS 0b10000 true 1 2 3),
    (.braV 0b10000 false 1 2 3 4, .braV 0b11000 false 1 2 3 4),
    (.call 16 16 3, .call 17 16 3),
    (.call 16 16 3, .call 16 17 3),
    (.callr 0 16 16, .callr 0 17 16),
    (.callr 0 16 16, .callr 0 16 17),
    (.loop true 0 2, .loop true 0 1),
    (.loop true 0 2, .loop true 0 0x8000),
    (.gets 0x0C 1, .gets 0x0D 1),
    (.gets 0x1C 1, .gets 0x1D 1),
    (.sets 0x15 1, .sets 0x16 1),
    (.sets 0x1C 1, .sets 0x0C 1),
    (.mpop 1 125, .mpop 1 126),
    (.mfirst 1 125, .mfirst 1 126)] = true := by decide

theorem test_wf_vector_sources : refusesSecond [
    (.vaddInt ⟨false, 20, 21, 22, some ⟨0, 0x0, 0x0, 0xDF⟩⟩, .vaddInt ⟨false, 20, 21, 22, some ⟨0, 0x0, 0x0, 0xE0⟩⟩),
    (.vaddInt ⟨false, 20, 21, 22, some ⟨0, 0x0, 0x186, 0x0⟩⟩, .vaddInt ⟨false, 20, 21, 22, some ⟨0, 0x0, 0x187, 0x0⟩⟩),
    (.vaddInt ⟨false, 20, 21, 22, some ⟨0, 0x0, 0x230, 0x0⟩⟩, .vaddInt ⟨false, 20, 21, 22, some ⟨0, 0x0, 0x205, 0x0⟩⟩),
    (.vaddInt ⟨false, 20, 21, 22, some ⟨0, 0x0, 0x0, 0x0⟩⟩, .vaddInt ⟨false, 20, 21, 22, some ⟨0, 0x0, 0x0, 0x1⟩⟩),
    (.vaddInt ⟨false, 20, 21, 22, some ⟨0, 0x0, 0x0, 0x0⟩⟩, .vaddInt ⟨false, 20, 21, 22, some ⟨0, 0x0, 0x0, 0x280⟩⟩),
    (.vaddInt ⟨false, 20, 21, 22, some ⟨3, 0x0, 0x0, 0x0⟩⟩, .vaddInt ⟨false, 20, 21, 22, some ⟨7, 0x0, 0x0, 0x0⟩⟩),
    (.vaddInt ⟨true, 20, 21, 22, some ⟨0, 0x0, 0x0, 0x0⟩⟩, .vaddInt ⟨true, 20, 21, 22, some ⟨0, 0x0, 0x81, 0x0⟩⟩),
    (.vnot ⟨false, 0, 21, 22, some ⟨0, 0x0, 0x0, 0x0⟩⟩, .vnot ⟨false, 1, 21, 22, some ⟨0, 0x0, 0x0, 0x0⟩⟩),
    (.vnot ⟨false, 0, 21, 22, some ⟨0, 0x0, 0x0, 0x0⟩⟩, .vnot ⟨true, 0, 21, 22, some ⟨0, 0x0, 0x0, 0x0⟩⟩),
    (.vnot ⟨false, 0, 21, 22, some ⟨0, 0x0, 0x0, 0x0⟩⟩, .vnot ⟨false, 0, 21, 22, some ⟨2, 0x0, 0x0, 0x0⟩⟩),
    (.vmov ⟨false, 20, 0, 22, some ⟨0, 0x0, 0x0, 0x0⟩⟩, .vmov ⟨false, 20, 1, 22, some ⟨0, 0x0, 0x0, 0x0⟩⟩),
    (.vmov ⟨false, 20, 0, 22, some ⟨0, 0x0, 0x0, 0x0⟩⟩, .vmov ⟨false, 20, 0, 22, some ⟨1, 0x0, 0x0, 0x0⟩⟩)] = true := by decide

theorem test_wf_vector_types : refusesSecond [
    (.vaddInt ⟨false, 20, 21, 22, some ⟨0, 0x5, 0x0, 0x0⟩⟩, .vaddInt ⟨false, 20, 21, 22, some ⟨0, 0x6, 0x0, 0x0⟩⟩),
    (.vsubInt ⟨false, 20, 21, 22, some ⟨0, 0x5, 0x0, 0x0⟩⟩, .vsubInt ⟨false, 20, 21, 22, some ⟨0, 0x6, 0x0, 0x0⟩⟩),
    (.vmulInt ⟨false, 20, 21, 22, some ⟨0, 0x5, 0x0, 0x0⟩⟩, .vmulInt ⟨false, 20, 21, 22, some ⟨0, 0x6, 0x0, 0x0⟩⟩),
    (.vmulh ⟨false, 20, 21, 22, some ⟨0, 0x5, 0x0, 0x0⟩⟩, .vmulh ⟨false, 20, 21, 22, some ⟨0, 0x6, 0x0, 0x0⟩⟩),
    (.vmad ⟨false, 20, 21, 22, some ⟨0, 0x5, 0x0, 0x0⟩⟩, .vmad ⟨false, 20, 21, 22, some ⟨0, 0x6, 0x0, 0x0⟩⟩),
    (.vadds ⟨false, 20, 21, 22, some ⟨0, 0x5, 0x0, 0x0⟩⟩, .vadds ⟨false, 20, 21, 22, some ⟨0, 0x6, 0x0, 0x0⟩⟩),
    (.vsubs ⟨false, 20, 21, 22, some ⟨0, 0x5, 0x0, 0x0⟩⟩, .vsubs ⟨false, 20, 21, 22, some ⟨0, 0x6, 0x0, 0x0⟩⟩),
    (.vshl ⟨false, 20, 21, 22, some ⟨0, 0x5, 0x0, 0x0⟩⟩, .vshl ⟨false, 20, 21, 22, some ⟨0, 0x6, 0x0, 0x0⟩⟩),
    (.vshr ⟨false, 20, 21, 22, some ⟨0, 0x5, 0x0, 0x0⟩⟩, .vshr ⟨false, 20, 21, 22, some ⟨0, 0x6, 0x0, 0x0⟩⟩),
    (.vsar ⟨false, 20, 21, 22, some ⟨0, 0x5, 0x0, 0x0⟩⟩, .vsar ⟨false, 20, 21, 22, some ⟨0, 0x6, 0x0, 0x0⟩⟩),
    (.vminInt ⟨false, 20, 21, 22, some ⟨0, 0x5, 0x0, 0x0⟩⟩, .vminInt ⟨false, 20, 21, 22, some ⟨0, 0x6, 0x0, 0x0⟩⟩),
    (.vmaxInt ⟨false, 20, 21, 22, some ⟨0, 0x5, 0x0, 0x0⟩⟩, .vmaxInt ⟨false, 20, 21, 22, some ⟨0, 0x6, 0x0, 0x0⟩⟩),
    (.vsel ⟨false, 20, 21, 22, some ⟨0, 0x5, 0x0, 0x0⟩⟩, .vsel ⟨false, 20, 21, 22, some ⟨0, 0x6, 0x0, 0x0⟩⟩),
    (.vand ⟨false, 20, 21, 22, some ⟨0, 0x1, 0x0, 0x0⟩⟩, .vand ⟨false, 20, 21, 22, some ⟨0, 0x2, 0x0, 0x0⟩⟩),
    (.vor ⟨false, 20, 21, 22, some ⟨0, 0x1, 0x0, 0x0⟩⟩, .vor ⟨false, 20, 21, 22, some ⟨0, 0x2, 0x0, 0x0⟩⟩),
    (.vxor ⟨false, 20, 21, 22, some ⟨0, 0x1, 0x0, 0x0⟩⟩, .vxor ⟨false, 20, 21, 22, some ⟨0, 0x2, 0x0, 0x0⟩⟩),
    (.vbfe ⟨false, 20, 21, 22, some ⟨0, 0x1, 0x0, 0x0⟩⟩, .vbfe ⟨false, 20, 21, 22, some ⟨0, 0x2, 0x0, 0x0⟩⟩),
    (.vbfi ⟨false, 20, 21, 22, some ⟨0, 0x1, 0x0, 0x0⟩⟩, .vbfi ⟨false, 20, 21, 22, some ⟨0, 0x2, 0x0, 0x0⟩⟩),
    (.vnot ⟨false, 0, 21, 22, some ⟨0, 0x1, 0x0, 0x0⟩⟩, .vnot ⟨false, 0, 21, 22, some ⟨0, 0x2, 0x0, 0x0⟩⟩),
    (.vabsInt ⟨false, 0, 21, 22, some ⟨0, 0x4, 0x0, 0x0⟩⟩, .vabsInt ⟨false, 0, 21, 22, some ⟨0, 0x5, 0x0, 0x0⟩⟩),
    (.vpopc ⟨false, 0, 21, 22, some ⟨0, 0x5, 0x0, 0x0⟩⟩, .vpopc ⟨false, 0, 21, 22, some ⟨0, 0x8, 0x0, 0x0⟩⟩),
    (.vclz ⟨false, 0, 21, 22, some ⟨0, 0x5, 0x0, 0x0⟩⟩, .vclz ⟨false, 0, 21, 22, some ⟨0, 0x6, 0x0, 0x0⟩⟩),
    (.vmov ⟨false, 20, 0, 22, some ⟨0, 0x1, 0x0, 0x0⟩⟩, .vmov ⟨false, 20, 0, 22, some ⟨0, 0x2, 0x0, 0x0⟩⟩),
    (.vcmpInt ⟨false, 20, 21, 22, some ⟨0, 0x2D, 0x0, 0x0⟩⟩, .vcmpInt ⟨false, 20, 21, 22, some ⟨0, 0x35, 0x0, 0x0⟩⟩),
    (.vcmpInt ⟨false, 20, 21, 22, some ⟨0, 0x0, 0x0, 0x0⟩⟩, .vcmpInt ⟨false, 20, 21, 22, some ⟨0, 0x40, 0x0, 0x0⟩⟩),
    (.vdot4 ⟨false, 20, 21, 22, some ⟨0, 0x45, 0x0, 0x0⟩⟩, .vdot4 ⟨false, 20, 21, 22, some ⟨0, 0x43, 0x0, 0x0⟩⟩),
    (.vdot4 ⟨false, 20, 21, 22, some ⟨0, 0x4, 0x0, 0x0⟩⟩, .vdot4 ⟨false, 20, 21, 22, some ⟨0, 0x84, 0x0, 0x0⟩⟩),
    (.vdot4 ⟨false, 20, 21, 22, some ⟨0, 0x4, 0x0, 0x0⟩⟩, .vdot4 ⟨false, 20, 21, 22, some ⟨0, 0xC, 0x0, 0x0⟩⟩)] = true := by decide

theorem test_wf_floating_and_conversion : refusesSecond [
    (.vaddFp ⟨false, 20, 21, 22, some ⟨0, 0xE, 0x0, 0x0⟩⟩, .vaddFp ⟨false, 20, 21, 22, some ⟨0, 0xF, 0x0, 0x0⟩⟩),
    (.vaddFp ⟨false, 20, 21, 22, some ⟨0, 0xE, 0x0, 0x0⟩⟩, .vaddFp ⟨false, 20, 21, 22, some ⟨0, 0x1E, 0x0, 0x0⟩⟩),
    (.vsubFp ⟨false, 20, 21, 22, some ⟨0, 0xE, 0x0, 0x0⟩⟩, .vsubFp ⟨false, 20, 21, 22, some ⟨0, 0xF, 0x0, 0x0⟩⟩),
    (.vsubFp ⟨false, 20, 21, 22, some ⟨0, 0xE, 0x0, 0x0⟩⟩, .vsubFp ⟨false, 20, 21, 22, some ⟨0, 0x1E, 0x0, 0x0⟩⟩),
    (.vmulFp ⟨false, 20, 21, 22, some ⟨0, 0xE, 0x0, 0x0⟩⟩, .vmulFp ⟨false, 20, 21, 22, some ⟨0, 0xF, 0x0, 0x0⟩⟩),
    (.vmulFp ⟨false, 20, 21, 22, some ⟨0, 0xE, 0x0, 0x0⟩⟩, .vmulFp ⟨false, 20, 21, 22, some ⟨0, 0x1E, 0x0, 0x0⟩⟩),
    (.vdiv ⟨false, 20, 21, 22, some ⟨0, 0xE, 0x0, 0x0⟩⟩, .vdiv ⟨false, 20, 21, 22, some ⟨0, 0xF, 0x0, 0x0⟩⟩),
    (.vdiv ⟨false, 20, 21, 22, some ⟨0, 0xE, 0x0, 0x0⟩⟩, .vdiv ⟨false, 20, 21, 22, some ⟨0, 0x1E, 0x0, 0x0⟩⟩),
    (.vfma ⟨false, 20, 21, 22, some ⟨0, 0x3E, 0x0, 0x0⟩⟩, .vfma ⟨false, 20, 21, 22, some ⟨0, 0x4E, 0x0, 0x0⟩⟩),
    (.vminFp ⟨false, 20, 21, 22, some ⟨0, 0x2, 0x0, 0x0⟩⟩, .vminFp ⟨false, 20, 21, 22, some ⟨0, 0x4, 0x0, 0x0⟩⟩),
    (.vmaxFp ⟨false, 20, 21, 22, some ⟨0, 0x2, 0x0, 0x0⟩⟩, .vmaxFp ⟨false, 20, 21, 22, some ⟨0, 0x4, 0x0, 0x0⟩⟩),
    (.vabsFp ⟨false, 0, 21, 22, some ⟨0, 0x2, 0x0, 0x0⟩⟩, .vabsFp ⟨false, 0, 21, 22, some ⟨0, 0x3, 0x0, 0x0⟩⟩),
    (.vneg ⟨false, 0, 21, 22, some ⟨0, 0x2, 0x0, 0x0⟩⟩, .vneg ⟨false, 0, 21, 22, some ⟨0, 0x3, 0x0, 0x0⟩⟩),
    (.vclass ⟨false, 0, 21, 22, some ⟨0, 0x2, 0x0, 0x0⟩⟩, .vclass ⟨false, 0, 21, 22, some ⟨0, 0x3, 0x0, 0x0⟩⟩),
    (.vrcp ⟨false, 0, 21, 22, some ⟨0, 0x2, 0x0, 0x0⟩⟩, .vrcp ⟨false, 0, 21, 22, some ⟨0, 0x3, 0x0, 0x0⟩⟩),
    (.vrsq ⟨false, 0, 21, 22, some ⟨0, 0x2, 0x0, 0x0⟩⟩, .vrsq ⟨false, 0, 21, 22, some ⟨0, 0x3, 0x0, 0x0⟩⟩),
    (.vexp2 ⟨false, 0, 21, 22, some ⟨0, 0x2, 0x0, 0x0⟩⟩, .vexp2 ⟨false, 0, 21, 22, some ⟨0, 0x3, 0x0, 0x0⟩⟩),
    (.vlog2 ⟨false, 0, 21, 22, some ⟨0, 0x2, 0x0, 0x0⟩⟩, .vlog2 ⟨false, 0, 21, 22, some ⟨0, 0x3, 0x0, 0x0⟩⟩),
    (.vsin ⟨false, 0, 21, 22, some ⟨0, 0x2, 0x0, 0x0⟩⟩, .vsin ⟨false, 0, 21, 22, some ⟨0, 0x3, 0x0, 0x0⟩⟩),
    (.vcos ⟨false, 0, 21, 22, some ⟨0, 0x2, 0x0, 0x0⟩⟩, .vcos ⟨false, 0, 21, 22, some ⟨0, 0x3, 0x0, 0x0⟩⟩),
    (.vtanh ⟨false, 0, 21, 22, some ⟨0, 0x2, 0x0, 0x0⟩⟩, .vtanh ⟨false, 0, 21, 22, some ⟨0, 0x3, 0x0, 0x0⟩⟩),
    (.sxpack ⟨false, 0, 21, 22, some ⟨0, 0x2, 0x0, 0x0⟩⟩, .sxpack ⟨false, 0, 21, 22, some ⟨0, 0x3, 0x0, 0x0⟩⟩),
    (.sxunpk ⟨false, 0, 21, 22, some ⟨0, 0x2, 0x0, 0x0⟩⟩, .sxunpk ⟨false, 0, 21, 22, some ⟨0, 0x3, 0x0, 0x0⟩⟩),
    (.vcmpFp ⟨false, 20, 21, 22, some ⟨0, 0x52, 0x0, 0x0⟩⟩, .vcmpFp ⟨false, 20, 21, 22, some ⟨0, 0x62, 0x0, 0x0⟩⟩),
    (.vcmpFp ⟨false, 20, 21, 22, some ⟨0, 0x52, 0x0, 0x0⟩⟩, .vcmpFp ⟨false, 20, 21, 22, some ⟨0, 0x56, 0x0, 0x0⟩⟩),
    (.vcmpFp ⟨false, 20, 21, 22, some ⟨0, 0x52, 0x0, 0x0⟩⟩, .vcmpFp ⟨false, 20, 21, 22, some ⟨0, 0xD2, 0x0, 0x0⟩⟩),
    (.vrnd ⟨false, 0, 21, 22, some ⟨0, 0xE, 0x0, 0x0⟩⟩, .vrnd ⟨false, 0, 21, 22, some ⟨0, 0x10, 0x0, 0x0⟩⟩),
    (.vsqrt ⟨false, 0, 21, 22, some ⟨0, 0xE, 0x0, 0x0⟩⟩, .vsqrt ⟨false, 0, 21, 22, some ⟨0, 0x10, 0x0, 0x0⟩⟩),
    (.cvt ⟨false, 0, 21, 22, some ⟨0, 0xF, 0x0, 0x0⟩⟩, .cvt ⟨false, 0, 21, 22, some ⟨0, 0x10, 0x0, 0x0⟩⟩),
    (.rand ⟨false, 0, 0, 126, some ⟨0, 0x1, 0x0, 0x0⟩⟩, .rand ⟨false, 0, 0, 127, some ⟨0, 0x1, 0x0, 0x0⟩⟩),
    (.rand ⟨false, 0, 0, 22, some ⟨0, 0x1, 0x0, 0x0⟩⟩, .rand ⟨false, 0, 0, 22, some ⟨0, 0x2, 0x0, 0x0⟩⟩)] = true := by decide

theorem test_wf_lane : refusesSecond [
    (.vperm ⟨false, 20, 21, 22, some ⟨0, 0x0, 0x0, 0x0⟩⟩, .vperm ⟨false, 20, 21, 22, some ⟨0, 0x1, 0x0, 0x0⟩⟩),
    (.vcmpct ⟨false, 0, 21, 22, some ⟨0, 0x0, 0x0, 0x0⟩⟩, .vcmpct ⟨false, 0, 21, 22, some ⟨0, 0x1, 0x0, 0x0⟩⟩),
    (.vexpnd ⟨false, 0, 21, 22, some ⟨0, 0x0, 0x0, 0x0⟩⟩, .vexpnd ⟨false, 0, 21, 22, some ⟨0, 0x1, 0x0, 0x0⟩⟩),
    (.match_ ⟨false, 0, 126, 126, some ⟨0, 0x6, 0x0, 0x0⟩⟩, .match_ ⟨false, 0, 127, 126, some ⟨0, 0x6, 0x0, 0x0⟩⟩),
    (.match_ ⟨false, 0, 126, 126, some ⟨0, 0x6, 0x0, 0x0⟩⟩, .match_ ⟨false, 0, 126, 127, some ⟨0, 0x6, 0x0, 0x0⟩⟩),
    (.match_ ⟨false, 0, 21, 22, some ⟨0, 0x2, 0x0, 0x0⟩⟩, .match_ ⟨false, 0, 21, 22, some ⟨0, 0x3, 0x0, 0x0⟩⟩),
    (.reduce ⟨false, 0, 21, 7, some ⟨0, 0x8A, 0x0, 0x0⟩⟩, .reduce ⟨false, 0, 21, 6, some ⟨0, 0x8A, 0x0, 0x0⟩⟩),
    (.reduce ⟨false, 0, 21, 7, some ⟨0, 0x8A, 0x0, 0x0⟩⟩, .reduce ⟨false, 0, 21, 7, some ⟨0, 0x8B, 0x0, 0x0⟩⟩),
    (.reduce ⟨false, 0, 21, 7, some ⟨0, 0x8A, 0x0, 0x0⟩⟩, .reduce ⟨false, 0, 21, 7, some ⟨0, 0x9A, 0x0, 0x0⟩⟩),
    (.scan ⟨false, 0, 21, 22, some ⟨0, 0x1A, 0x0, 0x0⟩⟩, .scan ⟨false, 0, 21, 22, some ⟨0, 0x1B, 0x0, 0x0⟩⟩),
    (.scan ⟨false, 0, 21, 22, some ⟨0, 0x1A, 0x0, 0x0⟩⟩, .scan ⟨false, 0, 21, 22, some ⟨0, 0x2A, 0x0, 0x0⟩⟩),
    (.vballot ⟨false, 0, 21, 125, some ⟨0, 0x0, 0x0, 0x0⟩⟩, .vballot ⟨false, 0, 21, 4, some ⟨0, 0x0, 0x0, 0x0⟩⟩),
    (.vballot ⟨false, 0, 21, 125, some ⟨0, 0x0, 0x0, 0x0⟩⟩, .vballot ⟨false, 0, 21, 5, some ⟨0, 0x0, 0x0, 0x0⟩⟩),
    (.vballot ⟨false, 0, 21, 125, some ⟨0, 0x0, 0x0, 0x0⟩⟩, .vballot ⟨false, 0, 21, 6, some ⟨0, 0x0, 0x0, 0x0⟩⟩),
    (.vballot ⟨false, 0, 21, 125, some ⟨0, 0x0, 0x0, 0x0⟩⟩, .vballot ⟨false, 0, 21, 126, some ⟨0, 0x0, 0x0, 0x0⟩⟩),
    (.vballot ⟨false, 0, 21, 125, some ⟨0, 0x0, 0x0, 0x0⟩⟩, .vballot ⟨false, 0, 21, 127, some ⟨0, 0x0, 0x0, 0x0⟩⟩),
    (.vlane ⟨false, 0, 0, 22, some ⟨0, 0x1, 0x0, 0x0⟩⟩, .vlane ⟨false, 0, 0, 22, some ⟨0, 0x2, 0x0, 0x0⟩⟩)] = true := by decide

theorem test_wf_memory : refusesSecond [
    (.ld ⟨false, 20, 22, 24, 0, 0x4, 1, 0⟩, .ld ⟨false, 20, 22, 24, 0, 0x4, 3, 0⟩),
    (.ld ⟨false, 20, 22, 24, 0, 0x4, 0, 0⟩, .ld ⟨false, 20, 22, 24, 0, 0x4, 0, 1⟩),
    (.ld ⟨false, 20, 22, 24, 0, 0x4, 1, 0⟩, .ld ⟨true, 20, 22, 24, 0, 0x4, 1, 0⟩),
    (.ld ⟨false, 20, 22, 24, 3, 0x4, 0, 0⟩, .ld ⟨false, 20, 22, 24, 4, 0x4, 0, 0⟩),
    (.ld ⟨false, 20, 22, 24, 1, 0x4, 1, 0⟩, .ld ⟨false, 20, 22, 24, 2, 0x4, 1, 0⟩),
    (.ld ⟨false, 20, 126, 24, 0, 0x4, 0, 0⟩, .ld ⟨false, 20, 127, 24, 0, 0x4, 0, 0⟩),
    (.ld ⟨false, 20, 22, 124, 0, 0x6, 0, 0⟩, .ld ⟨false, 20, 22, 125, 0, 0x6, 0, 0⟩),
    (.ld ⟨false, 20, 22, 24, 0, 0xC, 0, 0⟩, .ld ⟨false, 20, 22, 24, 0, 0x14, 0, 0⟩),
    (.ld ⟨false, 20, 22, 24, 0, 0x8C, 0, 0⟩, .ld ⟨false, 20, 22, 24, 0, 0xAC, 0, 0⟩),
    (.ld ⟨false, 20, 22, 24, 0, 0x2C, 0, 0⟩, .ld ⟨false, 20, 22, 24, 0, 0x24, 0, 0⟩),
    (.st ⟨false, 20, 22, 126, 0, 0x5, 0, 0⟩, .st ⟨false, 20, 22, 127, 0, 0x5, 0, 0⟩),
    (.st ⟨false, 20, 22, 24, 0, 0x2, 0, 0⟩, .st ⟨false, 20, 22, 24, 0, 0x1, 0, 0⟩),
    (.st ⟨false, 20, 22, 24, 0, 0x14, 0, 0⟩, .st ⟨false, 20, 22, 24, 0, 0xC, 0, 0⟩),
    (.lds ⟨false, 20, 22, 24, 0, 0x4, 1, 0⟩, .lds ⟨false, 20, 22, 24, 0, 0x4, 2, 0⟩),
    (.lds ⟨true, 20, 22, 24, 0, 0x4, 0, 0⟩, .lds ⟨false, 20, 22, 24, 0, 0x4, 0, 0⟩),
    (.lds ⟨false, 20, 22, 8, 0, 0x4, 1, 0⟩, .lds ⟨false, 20, 22, 7, 0, 0x4, 1, 0⟩),
    (.sts ⟨false, 20, 22, 24, 0, 0x4, 1, 0⟩, .sts ⟨false, 20, 22, 24, 0, 0x4, 0, 0⟩),
    (.ldsh ⟨false, 20, 127, 24, 0, 0x4, 0, 0⟩, .ldsh ⟨false, 20, 22, 24, 0, 0x7, 0, 0⟩),
    (.ldcl ⟨false, 20, 127, 24, 0, 0x4, 0, 0⟩, .ldcl ⟨false, 20, 22, 24, 0, 0x7, 0, 0⟩),
    (.stsh ⟨false, 20, 127, 24, 0, 0x4, 0, 0⟩, .stsh ⟨false, 20, 22, 24, 0, 0x3, 0, 0⟩),
    (.stcl ⟨false, 20, 127, 24, 0, 0x4, 0, 0⟩, .stcl ⟨false, 20, 22, 24, 0, 0x3, 0, 0⟩),
    (.atom ⟨false, 20, 22, 126, 0, 0x8, 0, 0⟩, .atom ⟨false, 20, 22, 127, 0, 0x8, 0, 0⟩),
    (.atomn ⟨false, 20, 22, 126, 0, 0x8, 0, 0⟩, .atomn ⟨false, 20, 22, 127, 0, 0x8, 0, 0⟩),
    (.cas ⟨false, 20, 22, 124, 0, 0x8, 0, 0⟩, .cas ⟨false, 20, 22, 125, 0, 0x8, 0, 0⟩),
    (.cas ⟨false, 20, 22, 126, 0, 0x0, 0, 0⟩, .cas ⟨false, 20, 22, 127, 0, 0x0, 0, 0⟩),
    (.cas ⟨false, 20, 22, 24, 0, 0x8, 0, 0⟩, .cas ⟨false, 20, 22, 24, 0, 0x9, 0, 0⟩),
    (.xchg ⟨false, 20, 22, 126, 0, 0x8, 0, 0⟩, .xchg ⟨false, 20, 22, 127, 0, 0x8, 0, 0⟩),
    (.xchg ⟨false, 20, 22, 24, 0, 0x8, 0, 0⟩, .xchg ⟨false, 20, 22, 24, 0, 0xC, 0, 0⟩),
    (.stashMap 126 126 0, .stashMap 127 126 0),
    (.stashMap 126 126 0, .stashMap 126 127 0),
    (.cwb 1 126, .cwb 1 127),
    (.cinv 1 126, .cinv 1 127),
    (.rel 4, .rel 5),
    (.acq 4, .acq 5),
    (.phase 4, .phase 5)] = true := by decide

theorem test_wf_synchronisation : refusesSecond [
    (.barArrive true true 1 8, .barArrive true true 1 7),
    (.copy 122 0, .copy 123 0),
    (.copy 8 0, .copy 7 0),
    (.copy 8 0, .copy 8 3),
    (.copy 8 0x60, .copy 8 0x20),
    (.copy 8 0, .copy 8 0x10),
    (.copy 8 0, .copy 8 0x80),
    (.copy2d 119 0, .copy2d 120 0),
    (.copy2d 8 0, .copy2d 7 0),
    (.copy2d 8 0, .copy2d 8 3),
    (.copy2d 8 0x60, .copy2d 8 0x20),
    (.copy2d 8 0, .copy2d 8 0x10),
    (.copy2d 8 0, .copy2d 8 0x80),
    (.fill 122 0, .fill 123 0),
    (.fill 8 0, .fill 7 0),
    (.fill 8 0, .fill 8 3),
    (.fill 8 0x60, .fill 8 0x20),
    (.fill 8 0, .fill 8 0x10),
    (.fill 8 0, .fill 8 0x80),
    (.copy 8 8, .copy 8 12),
    (.fill 8 0, .fill 8 4),
    (.spawn 126 112 15, .spawn 127 112 15),
    (.spawn 126 112 15, .spawn 126 113 15),
    (.spawn 126 112 15, .spawn 126 112 0x2F),
    (.reserve true 0 8, .reserve true 0 7),
    (.reserve true 0 126, .reserve true 0 127),
    (.commit 8, .commit 7),
    (.commit 124, .commit 125)] = true := by decide

theorem test_wf_matrix : refusesSecond [
    (.claim 8, .claim 7),
    (.tload 123 0x4B, .tload 124 0x4B),
    (.tload 8 0x4B, .tload 7 0x4B),
    (.tload 8 0x4B, .tload 8 0x4C),
    (.tload 8 0x44, .tload 8 0x45),
    (.tload 8 4, .tload 8 0x14),
    (.tload 8 4, .tload 8 0x84),
    (.mma 1 2 3 0xBF, .mma 1 2 3 0xFF),
    (.mma 1 2 3 0x81, .mma 1 2 3 0x80),
    (.had 1 2 6, .had 1 2 7),
    (.had 1 2 6, .had 1 2 14),
    (.accrd 1 2 3, .accrd 1 2 2),
    (.accrd 1 2 3, .accrd 1 2 7),
    (.accst 121 0x88, .accst 122 0x88),
    (.accst 8 0x88, .accst 7 0x88),
    (.accst 8 0x88, .accst 8 0x89),
    (.accst 8 0xB0, .accst 8 0xB8),
    (.vmx true 64 112 126 3, .vmx true 65 112 126 3),
    (.vmx true 64 112 126 3, .vmx true 64 113 126 3),
    (.vmx true 64 112 126 3, .vmx true 64 112 127 3),
    (.vmx true 64 112 126 3, .vmx true 64 112 126 11)] = true := by decide

theorem test_wf_graphics_memo : refusesSecond [
    (.rast 122 114, .rast 123 114),
    (.rast 122 114, .rast 122 115),
    (.rast 122 8, .rast 122 7),
    (.sample ⟨false, 124, 124, 124, some ⟨3, 0x11, 0x0, 0x0⟩⟩, .sample ⟨false, 124, 124, 124, some ⟨3, 0x31, 0x0, 0x0⟩⟩),
    (.sample ⟨false, 124, 124, 124, some ⟨3, 0x11, 0x0, 0x0⟩⟩, .sample ⟨false, 124, 124, 124, some ⟨3, 0x15, 0x0, 0x0⟩⟩),
    (.sample ⟨false, 124, 124, 124, some ⟨3, 0x11, 0x0, 0x0⟩⟩, .sample ⟨false, 124, 124, 124, some ⟨3, 0x19, 0x0, 0x0⟩⟩),
    (.sample ⟨false, 124, 124, 124, some ⟨3, 0x11, 0x0, 0x0⟩⟩, .sample ⟨false, 124, 124, 124, some ⟨3, 0x13, 0x0, 0x0⟩⟩),
    (.sample ⟨false, 124, 124, 124, some ⟨3, 0x11, 0x0, 0x0⟩⟩, .sample ⟨false, 124, 125, 124, some ⟨3, 0x11, 0x0, 0x0⟩⟩),
    (.sample ⟨false, 124, 124, 124, some ⟨3, 0x11, 0x0, 0x0⟩⟩, .sample ⟨false, 125, 124, 124, some ⟨3, 0x11, 0x0, 0x0⟩⟩),
    (.sample ⟨false, 124, 124, 124, some ⟨3, 0x11, 0x0, 0x0⟩⟩, .sample ⟨false, 7, 124, 124, some ⟨3, 0x11, 0x0, 0x0⟩⟩),
    (.sample ⟨false, 124, 124, 124, some ⟨3, 0x11, 0x0, 0x0⟩⟩, .sample ⟨false, 124, 124, 125, some ⟨3, 0x11, 0x0, 0x0⟩⟩),
    (.sample ⟨false, 124, 124, 124, some ⟨3, 0x11, 0x0, 0x0⟩⟩, .sample ⟨true, 124, 124, 124, some ⟨3, 0x11, 0x0, 0x0⟩⟩),
    (.sample ⟨false, 124, 124, 124, some ⟨3, 0x11, 0x0, 0x0⟩⟩, .sample ⟨false, 124, 124, 124, some ⟨4, 0x11, 0x0, 0x0⟩⟩),
    (.sample ⟨false, 124, 124, 124, some ⟨3, 0x11, 0x0, 0x0⟩⟩, .sample ⟨false, 124, 124, 124, some ⟨3, 0x11, 0x0, 0x81⟩⟩),
    (.trace ⟨false, 125, 120, 120, some ⟨0, 0x0, 0x0, 0x0⟩⟩, .trace ⟨false, 125, 120, 120, some ⟨0, 0x1, 0x0, 0x0⟩⟩),
    (.trace ⟨false, 125, 120, 120, some ⟨0, 0x0, 0x0, 0x0⟩⟩, .trace ⟨false, 125, 121, 120, some ⟨0, 0x0, 0x0, 0x0⟩⟩),
    (.trace ⟨false, 125, 120, 120, some ⟨0, 0x0, 0x0, 0x0⟩⟩, .trace ⟨false, 126, 120, 120, some ⟨0, 0x0, 0x0, 0x0⟩⟩),
    (.trace ⟨false, 125, 120, 120, some ⟨0, 0x0, 0x0, 0x0⟩⟩, .trace ⟨false, 7, 120, 120, some ⟨0, 0x0, 0x0, 0x0⟩⟩),
    (.trace ⟨false, 125, 120, 120, some ⟨0, 0x0, 0x0, 0x0⟩⟩, .trace ⟨false, 125, 120, 121, some ⟨0, 0x0, 0x0, 0x0⟩⟩),
    (.trace ⟨false, 125, 120, 120, some ⟨0, 0x0, 0x0, 0x0⟩⟩, .trace ⟨true, 125, 120, 120, some ⟨0, 0x0, 0x0, 0x0⟩⟩),
    (.trace ⟨false, 125, 120, 120, some ⟨0, 0x0, 0x0, 0x0⟩⟩, .trace ⟨false, 125, 120, 120, some ⟨0, 0x0, 0x81, 0x0⟩⟩),
    (.traceM 15 120 120 125, .traceM 15 121 120 125),
    (.traceM 15 120 120 125, .traceM 15 120 121 125),
    (.traceM 15 120 120 125, .traceM 15 120 120 126),
    (.verdict 125, .verdict 126),
    (.bxunion ⟨false, 122, 122, 122, some ⟨0, 0x0, 0x0, 0x0⟩⟩, .bxunion ⟨false, 122, 122, 122, some ⟨0, 0x1, 0x0, 0x0⟩⟩),
    (.bxunion ⟨false, 122, 122, 122, some ⟨0, 0x0, 0x0, 0x0⟩⟩, .bxunion ⟨false, 0, 122, 122, some ⟨0, 0x2, 0x0, 0x0⟩⟩),
    (.bxunion ⟨false, 122, 122, 122, some ⟨0, 0x0, 0x0, 0x0⟩⟩, .bxunion ⟨false, 122, 123, 122, some ⟨0, 0x0, 0x0, 0x0⟩⟩),
    (.bxunion ⟨false, 122, 122, 122, some ⟨0, 0x0, 0x0, 0x0⟩⟩, .bxunion ⟨false, 123, 122, 122, some ⟨0, 0x0, 0x0, 0x0⟩⟩),
    (.bxunion ⟨false, 122, 122, 122, some ⟨0, 0x0, 0x0, 0x0⟩⟩, .bxunion ⟨false, 122, 122, 123, some ⟨0, 0x0, 0x0, 0x0⟩⟩),
    (.bxunion ⟨false, 122, 122, 122, some ⟨0, 0x0, 0x0, 0x0⟩⟩, .bxunion ⟨false, 122, 122, 122, some ⟨1, 0x0, 0x0, 0x0⟩⟩),
    (.bxunion ⟨false, 122, 122, 122, some ⟨0, 0x0, 0x0, 0x0⟩⟩, .bxunion ⟨false, 122, 122, 122, some ⟨2, 0x0, 0x0, 0x0⟩⟩),
    (.sahcost 1 121, .sahcost 1 122),
    (.nodepack 124 121, .nodepack 125 121),
    (.nodepack 124 121, .nodepack 124 122),
    (.osenter 1 126 2, .osenter 1 127 2),
    (.tsig 126 120 2, .tsig 127 120 2),
    (.tsig 126 120 2, .tsig 126 121 2),
    (.tsig 126 120 2, .tsig 126 120 3),
    (.tsig 8 8 2, .tsig 7 8 2),
    (.tsig 8 8 2, .tsig 8 7 2),
    (.mkey ⟨false, 0, 126, 0, some ⟨5, 0x4, 0x0, 0x0⟩⟩, .mkey ⟨false, 0, 126, 0, some ⟨5, 0x5, 0x0, 0x0⟩⟩),
    (.mkey ⟨false, 0, 126, 0, some ⟨5, 0x4, 0x0, 0x0⟩⟩, .mkey ⟨false, 0, 127, 0, some ⟨5, 0x4, 0x0, 0x0⟩⟩),
    (.mkey ⟨false, 0, 126, 0, some ⟨5, 0x4, 0x0, 0x0⟩⟩, .mkey ⟨false, 1, 126, 0, some ⟨5, 0x4, 0x0, 0x0⟩⟩),
    (.mkey ⟨false, 0, 126, 0, some ⟨5, 0x4, 0x0, 0x0⟩⟩, .mkey ⟨false, 0, 126, 1, some ⟨5, 0x4, 0x0, 0x0⟩⟩),
    (.mkey ⟨false, 0, 126, 0, some ⟨5, 0x4, 0x0, 0x0⟩⟩, .mkey ⟨false, 0, 126, 0, some ⟨7, 0x4, 0x0, 0x0⟩⟩),
    (.mkey ⟨false, 0, 126, 0, some ⟨5, 0x4, 0x0, 0x0⟩⟩, .mkey ⟨false, 0, 126, 0, some ⟨5, 0x4, 0x0, 0x81⟩⟩),
    (.mkey ⟨false, 0, 126, 0, some ⟨5, 0x4, 0x0, 0x0⟩⟩, .mkey ⟨false, 0, 126, 0, some ⟨5, 0x4, 0x81, 0x0⟩⟩),
    (.mkey ⟨true, 126, 0, 0, some ⟨6, 0x4, 0x0, 0x0⟩⟩, .mkey ⟨true, 126, 1, 0, some ⟨6, 0x4, 0x0, 0x0⟩⟩),
    (.mkey ⟨true, 126, 0, 0, some ⟨6, 0x4, 0x0, 0x0⟩⟩, .mkey ⟨true, 127, 0, 0, some ⟨6, 0x4, 0x0, 0x0⟩⟩),
    (.mkey ⟨true, 126, 0, 0, some ⟨6, 0x4, 0x0, 0x0⟩⟩, .mkey ⟨true, 126, 0, 0, some ⟨7, 0x4, 0x0, 0x0⟩⟩),
    (.pureProbe 100 0x1C, .pureProbe 101 0x1C),
    (.pureProbe 8 0x1C, .pureProbe 8 0x1D),
    (.pureProbe 8 1, .pureProbe 8 0),
    (.pureProbe 8 1, .pureProbe 8 0x41)] = true := by decide

/-! ### Small states -/

/-- The placed group holds the turn: one group of 96 lanes with eight base blocks, every register zero. -/
def s0 : State := { State.reset.placed 0 with sched := { State.reset.sched with cur := some (2, 0), nextUid := 3 } }
/-- Its group. -/
def g0 : Group := placedGroup
/-- The same with the group changed. -/
def on (f : Group → Group) : State := s0.modGroup 2 f
/-- The same with the descriptor in force for its context and launch changed. -/
def under (d : Desc → Desc) (s : State) : State :=
  (s.modCtx 0 fun c => { c with desc := d c.desc }).modLaunch 0 fun l => { l with desc := d l.desc }
/-- The state after an instruction, where it has one. -/
def after (i : Instr) (s : State) : Option State :=
  match exec i s with
  | .next t => some t
  | _ => none
/-- The group after an instruction. -/
def then_ (i : Instr) (s : State) : Option Group := (after i s).bind fun t => t.group 2
/-- Scalar register n is v. -/
def sr (n : Nat) (v : Word) (g : Group) : Group := { g with sregs := sset 0 n v g.sregs }
/-- Every lane of vector register n is v. -/
def vr (n : Nat) (v : Word) (g : Group) : Group := { g with vregs := sset zeroLanes n (List.replicate 96 v) g.vregs }
/-- Row 0 changed. -/
def row0 (f : Row → Row) (g : Group) : Group := g.modRow 0 f
/-- A second live row: lanes 48 to 95 stand in row 1. -/
def splitIn2 (parent : Nat) (g : Group) : Group :=
  let hi : Mask := BitVec.ofNat 96 (2 ^ 96 - 2 ^ 48)
  { g with rows := [{ g.row 0 with mask := ~~~hi, own := ~~~hi, parent := parent },
      { g.row 0 with mask := hi, own := hi, parent := parent }, Row.free, Row.free] }

theorem issues_of {s : State} {g : Group} {l : List Instr} (h : s.issuer = some (g, 0))
    (p : (l.all fun i => (s.precheck g 0 i).isNone) = true) : ∀ i ∈ l, Issues s g 0 i := by
  intro i hi
  exact ⟨h, by simpa using List.all_eq_true.1 p i hi⟩
/-! ### The hypotheses of the obligations are met: one theorem per obligation with hypotheses, named after it -/

/-- Words of the spec's own examples (R315, R316). -/
theorem test_meets_DecodeInvertsEncode :
    (Instr.add 10 10 (.imm32 0x12345678)).wf = true ∧ encode (.add 10 10 (.imm32 0x12345678)) = 0xC05E050A :: [0x002468AC]
    ∧ (Instr.vaddInt ⟨true, 7, 5, 6, none⟩).wf = true ∧ encode (.vaddInt ⟨true, 7, 5, 6, none⟩) = 0x8801C286 :: [] := by decide

theorem test_meets_EncodeInvertsDecode :
    decode 0x8041050A 0xFFFFFFFF = .ok (.add 10 10 (.imm7 4)) ∧ (0x8041050A : Word).getLsbD 30 = false
    ∧ decode 0xC05E050A 0x002468AC = .ok (.add 10 10 (.imm32 0x12345678)) ∧ (0xC05E050A : Word).getLsbD 30 = true := by decide

/-- The points next to each range of R321. -/
theorem test_meets_ReservedPointsAndSizes :
    (∀ op ∈ [0x000, 0x01E, 0x01F, 0x037, 0x03F, 0x059, 0x07F, 0x08A, 0x0BF, 0x0CE, 0x0FF, 0x108, 0x13F, 0x153, 0x17F, 0x18C, 0x1BF,
        0x1CB, 0x1CF, 0x1DB, 0x1DF, 0x1E8, 0x1EF, 0x1F3, 0x1FF], decode (BitVec.ofNat 32 (op * 2 ^ 21)) 0 = .error .reservedPoint)
    ∧ ∀ op ∈ [0x001, 0x01D, 0x020, 0x036, 0x040, 0x058, 0x080, 0x089, 0x0C0, 0x0CD, 0x100, 0x107, 0x140, 0x152, 0x180, 0x18B, 0x1C0,
        0x1CA, 0x1D0, 0x1DA, 0x1E0, 0x1E7, 0x1F0, 0x1F2], decode (BitVec.ofNat 32 (op * 2 ^ 21)) 0 ≠ .error .reservedPoint := by decide

/-- ADD s10, s10, 4 is placed and has its turn; and an event has its turn. -/
theorem test_meets_StepRunsDecodedInstruction :
    (let s := State.reset.placed 0x8041050A
     let s1 : State := { s.ticked with sched := { s.ticked.sched with agenda := [] } }
     s.sched.agenda = .issue g0.uid 0 :: [] ∧ s.group g0.uid = some g0 ∧ s1.running = true ∧ s1.onCore g0 = true ∧ g0.canIssue 0 = true
     ∧ g0.parked = none ∧ g0.dueAt 0 = none ∧ (g0.handler.isNone && g0.spilled) = false ∧ s1.roundOver g0 = false
     ∧ s1.ownHeld g0.ctx (g0.row 0).pc.toNat 8 = false
     ∧ s1.fetch g0 (g0.row 0).pc = .words 0x8041050A 0 ∧ decode 0x8041050A 0 = .ok (.add 10 10 (.imm7 4)) ∧ g0.again 0 = false
     ∧ (let s2 := s1.noteFetched g0 (g0.row 0).pc false
        s2.fenced g0 (.add 10 10 (.imm7 4)) = false ∧ s2.withheld g0 0 (.add 10 10 (.imm7 4)) = false ∧ s2.rotates g0 0 (.add 10 10 (.imm7 4)) = true))
    ∧ (let s : State := { State.reset with sched := { State.reset.sched with agenda := [.event .perstNDeassert] } }
       s.sched.agenda = .event .perstNDeassert :: [] ∧ Instr.fields .perstNDeassert = none) := by decide

theorem test_meets_EveryStepAnswers :
    (Instr.nop.fields.isSome = true ∧ s0.issuer.isSome = true) ∧ Instr.perstNAssert.fields = none
    ∧ (Instr.nop.fields.isSome = true ∧ State.reset.issuer = none) := by decide

theorem test_meets_EveryStepKeepsMemoryForm :
    ((State.reset.withFetchWord 32 0x8041050A).memOk ∧ ∃ t, step (State.reset.withFetchWord 32 0x8041050A) = .next t) ∧ s0.memOk
    ∧ ∃ t, exec .nop s0 = .next t := by
  refine ⟨⟨by unfold State.memOk; decide, _, rfl⟩, by unfold State.memOk; decide, _, rfl⟩

/-- A load to v4 is in flight. -/
def loading (g : Group) : Group :=
  { g with ops := [{ uid := 7, cls := some .ld, body := .load none, dests := [(true, g.vreg 4)], late := [], perf := false, done := false,
                     deferred := false, batch := none, paused := none, buf := [], ord := 0, flags := 0, acq := 0, err := none }] }

/-- Each check fails somewhere: an undefined value, an illegal operand, a register outside the frame, a pending register; and a
word that decodes to nothing is placed. -/
theorem test_meets_ChecksComeFirst :
    (Instr.mpop 1 126).wf = false
    ∧ ((Instr.fmt (.imm32 0xFFFFFFFF)).wf = true ∧ (Instr.fmt (.imm32 0xFFFFFFFF)).legalNow s0 g0 0 = false)
    ∧ (let g : Group := { g0 with blockMap := blockMapOf [0], frames := [baseFrame 1 0] }
       let i := Instr.vmov ⟨false, 16, 0, 15, none⟩
       i.wf = true ∧ i.legalNow s0 g 0 = true ∧ ∃ n ∈ i.uses.vr ++ i.uses.vw, g.vregOk (g.vreg n) = false)
    ∧ (let s := under (fun d => { d with hazardCheck := true }) (on loading)
       let g := loading g0
       let i := Instr.vmov ⟨false, 4, 0, 3, none⟩
       s.issuer = some (g, 0) ∧ i.wf = true ∧ i.legalNow s g 0 = true ∧ (∀ n ∈ i.uses.vr ++ i.uses.vw, g.vregOk (g.vreg n) = true)
       ∧ (s.descOf g).hazardCheck = true ∧ ∃ n ∈ i.uses.vr ++ i.uses.vw, g.isPending true (g.vreg n) = true)
    ∧ (let s := State.reset.placed 0
       let s1 : State := { s.ticked with sched := { s.ticked.sched with agenda := [] } }
       s1.ownHeld g0.ctx (g0.row 0).pc.toNat 8 = false ∧ s1.fetch g0 (g0.row 0).pc = .words 0 0 ∧ decode 0 0 = .error .reservedPoint ∧ s1.roundOver g0 = false) := by decide

/-- MASK, STATUS, a plain register and the top of the window as destinations. -/
theorem test_meets_ScalarArithmeticResults :
    ∀ d ∈ ([0, 2, 6, 20, 127] : List R7), ∀ p ∈ Claims.scalarTable, Issues s0 g0 0 (p.1 d 21 (.imm32 0x80000000)) := by
  unfold Issues; decide

theorem test_meets_DivisionResults :
    ∀ b ∈ [SOp.reg 22, .imm7 0, .imm32 0xFFFFFFFF], ∀ p ∈ Claims.divisionTable, Issues s0 g0 0 (p.1 20 21 b) := by
  unfold Issues; decide

theorem test_meets_SelectionCountAndNopResults :
    (∀ i ∈ [Instr.sel 20 21 (.reg 22), .mov 20 (.imm7 127), .popc 20 21, .clz 20 21, .ctz 20 21, .mpop 20 125, .mfirst 20 0, .nop, .pause],
      Issues s0 g0 0 i)
    ∧ (∀ j, j < 32 → (0 : Nat).testBit j = false)
    ∧ (5 < 32 ∧ (0x60 : Nat).testBit 5 = true ∧ (∀ i, i < 5 → (0x60 : Nat).testBit i = false))
    ∧ (6 < 32 ∧ (0x60 : Nat).testBit 6 = true ∧ ∀ i, i < 32 → 6 < i → (0x60 : Nat).testBit i = false) := by
  unfold Issues; decide

/-- Operands of one lane source with the type of MOD. -/
def vops (mod : BitVec 8) : VOps := ⟨false, 0, 0, 33, some ⟨0, mod, 0, 0⟩⟩

theorem test_meets_VectorIntegerResults :
    (∀ v ∈ [⟨false, 0, 0, 33, none⟩, vops 4], ∀ p ∈ Claims.elementTable, Issues s0 g0 0 (p.1 v))
    ∧ ∀ p ∈ Claims.laneTable, ∃ v ∈ [vops 0, vops 4], Issues s0 g0 0 (p.1 v) := by
  unfold Issues; decide

/-- A field past the top of the register, an empty one and a full one. -/
theorem test_meets_ElementsAndBitFields :
    (let b : Word := 0x3F1F; b.toNat % 32 = 31 ∧ min (b.toNat / 2 ^ 8 % 64) (32 - b.toNat % 32) = 1)
    ∧ bfe false 0x80000001 0x3F1F = 1 ∧ bfe true 0x80000001 0x3F1F = 0xFFFFFFFF ∧ bfe true 0xFFFFFFFF 0x0003 = 0
    ∧ bfi 0xAB 0x0804 0xFFFFFFFF = 0xFFFFFABF ∧ dot4 false false 0xFFFFFFFF 0xFFFFFFFF 1 = 0x3F805
    ∧ dot4 true false 0xFFFFFFFF 0x01010101 0 = 0xFFFFFFFC := by decide

theorem test_meets_VectorFloatResults :
    ∀ m ∈ ([0, 1, 2] : List (BitVec 8)), ∀ p ∈ Claims.floatTable, Issues s0 g0 0 (p.1 (vops m)) := by
  unfold Issues; decide

/-- 1/3 in FP16 lies strictly between two values; the largest value below infinity rounds to itself. -/
theorem test_meets_RoundingFollowsItsMode :
    (0x7BFF < 2 ^ fp16.width ∧ (fp16.dec 0x7BFF).isNan = false)
    ∧ fp16.mag (fp16.roundTo .rz false 1 3).1 = 0x3555 ∧ fp16.dec 0x3555 = .fin false 1365 4096 ∧ fp16.dec 0x3556 = .fin false 1366 4096
    ∧ 0x3555 + 1 < fp16.infBits ∧ (1365 * 3 ≤ 1 * 4096 ∧ 1 * 4096 < 1366 * 3) := by decide

/-- FP32 to FP16 under the reset format, and all three SX widths. -/
theorem test_meets_ConversionResults :
    (let f := row0 fun r => { r with fmt := 0x00002001 }
     (∃ src, elemOf (fmtA ((f g0).row 0).fmt) = some src) ∧ (∃ dst, elemOf (fmtD ((f g0).row 0).fmt) = some dst)
     ∧ Issues (on f) (f g0) 0 (.cvt (vops 0)))
    ∧ (∀ m ∈ ([0, 1, 2] : List (BitVec 8)), Issues s0 g0 0 (.sxpack (vops m)) ∧ Issues s0 g0 0 (.sxunpk (vops m)))
    ∧ ∀ l, l < 96 → (BitVec.allOnes 96).getLsbD l = (List.range 16).any fun j => (g0.row 0).mask.getLsbD (16 * (l / 16) + j) := by
  refine ⟨⟨⟨_, rfl⟩, ⟨_, rfl⟩, ?_⟩, ?_, ?_⟩
  · unfold Issues; decide
  · unfold Issues; decide
  · decide

theorem test_meets_RandomResults :
    g0.wb < 1024 ∧ (∀ m ∈ ([0, 1] : List (BitVec 8)), Issues s0 g0 0 (.rand (vops m))) ∧ g0.isPending true (g0.vreg 33) = false
    ∧ g0.isPending true (g0.vreg 34) = false := by unfold Issues; decide

theorem test_meets_CrossLaneResults_movement :
    (∀ i ∈ [Instr.vperm (vops 0), .vcmpct (vops 0), .vexpnd (vops 0), .vlane (vops 0), .vlane (vops 1)], Issues s0 g0 0 i)
    ∧ ∀ l, l < 96 → (BitVec.allOnes 96).getLsbD l = decide (l < (lanesOf (g0.row 0).mask).length) := by
  unfold Issues; decide +kernel

theorem test_meets_CrossLaneResults_reductions :
    ∀ i ∈ [Instr.match_ (vops 0), .match_ (vops 5), .match_ (vops 6), .reduce (vops 0), .reduce (vops 0x8A), .scan (vops 1), .scan (vops 0x1A),
      .vballot (vops 0)], Issues s0 g0 0 i := by unfold Issues; decide

theorem test_meets_ReductionsCombineAllLanes : ([1, 0xFFFFFFFF] : List Word).Perm [0xFFFFFFFF, 1] ∧ combine 2 [1, 0xFFFFFFFF] = (0xFFFFFFFF, 0)
    ∧ combine 4 [1, 0xFFFFFFFF] = (1, 0) ∧ combine 1 [0x3F800000, 0x40000000] = (0x40400000, 0) := by decide

/-- A sum that is not zero, one that cancels, and one of negative zeros. -/
theorem test_meets_SumsAndProductsAreExact :
    let xs := [FVal.fin false 3 2, .fin true 1 2]
    let ys := [FVal.fin false 1 1, .fin true 1 1]
    let zs := [FVal.fin true 0 1, .fin true 0 2]
    (∀ l ∈ [xs, ys, zs], ∀ x ∈ l, Claims.finite x = true)
    ∧ (xs.map Claims.value).sum ≠ 0 ∧ (ys.map Claims.value).sum = 0 ∧ (zs ≠ [] ∧ ∀ x ∈ zs, x.isZero = true ∧ x.neg = true)
    ∧ (1 : ℚ) * (Claims.value (.fin false 3 1) * Claims.value (.fin false 1 2)) + 1 * Claims.value (.fin true 1 1) ≠ 0 := by
  refine ⟨by decide, ?_, ?_, by decide, ?_⟩ <;> norm_num [Claims.value]

/-- The values of R318 that no row defines, at their bounds. -/
theorem test_meets_PermutationFields :
    s0.issuer = some (g0, 0) ∧ (∀ p ∈ ([1, 0xE0, 0x160, 0x187, 0x201, 0x280, 0x3FF] : List (BitVec 10)), Claims.permTable p 0 = none)
    ∧ (∀ x ∈ [((0x0DF : BitVec 10), 94), (0x15F, 95), (0x186, 31), (0x230, 48), (0x202, 94)], Claims.permTable x.1 95 = some x.2) := by decide
/-- Lane l of vector register n is f l. -/
def vrl (n : Nat) (f : Nat → Word) (g : Group) : Group := { g with vregs := sset zeroLanes n ((List.range 96).map f) g.vregs }

theorem test_meets_SpecialRegisterResults :
    (∀ i ∈ (Claims.selectorReads g0 0).map (fun p => Instr.gets p.1 20), Issues s0 g0 0 i)
    ∧ (∀ i ∈ ([0x09, 0x0B, 0x15, 0x16, 0x17] : List (BitVec 8)).map (fun c => Instr.gets c 20), Issues s0 g0 0 i)
    ∧ (∀ i ∈ (Claims.selectorWrites g0 0 (g0.readS s0 0 21)).map (fun p => Instr.sets p.1 21), Issues s0 g0 0 i)
    ∧ ∀ i ∈ [Instr.fmt (.imm32 0x00800A21), .pclass (.imm7 3)], Issues s0 g0 0 i :=
  ⟨issues_of rfl (by decide), issues_of rfl (by decide), issues_of rfl (by decide), issues_of rfl (by decide)⟩

/-- Targets in the code range and below it; an aligned address and one that is not. -/
theorem test_meets_JumpResults :
    (Issues s0 g0 0 (.jmp 4) ∧ Claims.inRange s0 g0 (Claims.targetOf g0 0 4))
    ∧ (Issues s0 g0 0 (.jmp 0x8000) ∧ ¬ Claims.inRange s0 g0 (Claims.targetOf g0 0 0x8000))
    ∧ (Issues s0 g0 0 (.jmpr 21) ∧ (g0.readS s0 0 21).toNat % 4 = 0)
    ∧ (Issues (on (sr 21 2)) (sr 21 2 g0) 0 (.jmpr 21) ∧ ((sr 21 2 g0).readS (on (sr 21 2)) 0 21).toNat % 4 ≠ 0)
    ∧ (Issues s0 g0 0 (.braS 0 true 0 21 4) ∧ Claims.condition 0 (g0.readS s0 0 21) 0 = true)
    ∧ (Issues s0 g0 0 (.braS 2 true 0 21 4) ∧ Claims.condition 2 (g0.readS s0 0 21) 0 = false)
    ∧ Issues s0 g0 0 (.braS 2 true 0 21 0x8000) := by
  unfold Issues Claims.inRange; and_intros <;> decide

/-- Lanes 0 to 47 of v5 are zero, the others one. -/
def half (g : Group) : Group := vrl 5 (fun l => if l < 48 then 0 else 1) g
/-- The lanes below 48. -/
def low48 : Mask := BitVec.ofNat 96 (2 ^ 48 - 1)
/-- Row 1 to row 3 live, with no lanes in common. -/
def allRows (g : Group) : Group :=
  { g with rows := (List.range 4).map fun n => { g.row 0 with mask := BitVec.ofNat 96 ((2 ^ 24 - 1) * 2 ^ (24 * n)), own := BitVec.ofNat 96 ((2 ^ 24 - 1) * 2 ^ (24 * n)) } }
/-- n serial records of row 0. -/
def serials (n : Nat) (g : Group) : Group :=
  { g with serials := List.replicate n { owner := 0, dmask := low48, down := low48, dpc := 0x10100, jpc := 0x10000, phase := false, smask := 0, sown := 0 } }

/-- The lanes taken by a branch on v5 = 0 or on an unsigned v5 < 0. -/
theorem test_meets_DivergentBranchResults :
    (∀ g ∈ [half g0, serials 7 { half g0 with forceSerial := true }, serials 8 { half g0 with forceSerial := true }],
      (s0.modGroup 2 fun _ => g).issuer = some (g, 0) ∧ (s0.precheck g 0 (.braV 0 false 6 5 8 16)) = none
      ∧ (∀ l, l < 96 → low48.getLsbD l = ((g.row 0).mask.getLsbD l && Claims.condition 0 (laneOf (g.readV s0 5) l) (laneOf (g.readV s0 6) l))))
    ∧ (∀ l, l < 96 → (0 : Mask).getLsbD l = ((g0.row 0).mask.getLsbD l && Claims.condition 0x0A (laneOf (g0.readV s0 5) l) (laneOf (g0.readV s0 6) l)))
    ∧ (∀ l, l < 96 → (g0.row 0).mask.getLsbD l = ((g0.row 0).mask.getLsbD l && Claims.condition 0 (laneOf (g0.readV s0 5) l) (laneOf (g0.readV s0 6) l))) := by
  decide +kernel

theorem test_meets_DivergentBranchResults_targets :
    Claims.inRange s0 g0 (Claims.targetOf g0 0 8) ∧ ¬ Claims.inRange s0 g0 (Claims.targetOf g0 0 0x8001)
    ∧ low48 ≠ 0 ∧ low48 ≠ ((half g0).row 0).mask ∧ (half g0).freeRow = some 1 ∧ (half g0).freeFam = some 0 ∧ (half g0).forceSerial = false
    ∧ (allRows g0).freeRow = none ∧ (serials 7 g0).serials.length < 8 ∧ 8 ≤ (serials 8 g0).serials.length
    ∧ Issues (s0.modGroup 2 allRows) (allRows g0) 0 (.braV 0 false 6 5 8 16) := by
  unfold Issues Claims.inRange; and_intros <;> decide

/-- Row 0, and row 1 where the group is split, belong to family 0, whose lanes join at the row's PC. -/
def inFamily (g : Group) : Group :=
  { g with fams := [{ used := true, jpc := 0x10000, up := 7, sfmt := 0 }, Family.free, Family.free] }

theorem test_meets_JoinResults :
    (Issues s0 g0 0 .join ∧ g0.serials = [] ∧ ¬ (g0.row 0).parent < 3)
    ∧ (let g := serials 2 g0
       Issues (on (serials 2)) g 0 .join ∧ ∃ x rest, g.serials = x :: rest ∧ x.owner = 0 ∧ x.jpc = (g.row 0).pc ∧ x.phase = false)
    ∧ (let f := fun g => { inFamily (row0 (fun r => { r with parent := 0 }) g) with serials := [{ owner := 0, dmask := 1, down := 1, dpc := 0, jpc := 0x10004, phase := false, smask := 0, sown := 0 }] }
       let g := f g0
       Issues (on f) g 0 .join ∧ ((g.row 0).parent < 3 ∧ (g.fam (g.row 0).parent).jpc = (g.row 0).pc) ∧ g.ownsSerial 0 = true)
    ∧ (let f := fun g => inFamily (splitIn2 0 g)
       let g := f g0
       Issues (on f) g 0 .join ∧ ((g.row 0).parent < 3 ∧ (g.fam (g.row 0).parent).jpc = (g.row 0).pc) ∧ g.ownsSerial 0 = false
       ∧ g.joiners 0 (g.row 0).pc (g.row 0).parent = [] ∧ ∃ j, j < 4 ∧ j ≠ 0 ∧ (g.row j).live = true ∧ (g.row j).parent = (g.row 0).parent)
    ∧ (let f := fun g => inFamily (row0 (fun r => { r with parent := 0 }) g)
       let g := f g0
       Issues (on f) g 0 .join ∧ ((g.row 0).parent < 3 ∧ (g.fam (g.row 0).parent).jpc = (g.row 0).pc) ∧ g.ownsSerial 0 = false
       ∧ (∀ j, j < 4 → j ≠ 0 → (g.row j).live = false) ∧ ¬ (g.fam (g.row 0).parent).up < 3) := by
  refine ⟨⟨⟨rfl, by decide⟩, rfl, by decide⟩, ⟨⟨rfl, by decide⟩, _, _, rfl, rfl, rfl, rfl⟩, ⟨⟨rfl, by decide⟩, by decide, by decide⟩, ?_,
    ⟨rfl, by decide⟩, by decide, by decide, by decide, by decide⟩
  exact ⟨⟨rfl, by decide⟩, by decide, by decide, by decide, 1, by decide, by decide, by decide, by decide⟩

/-- One open loop that ends at the row's PC, with count n. -/
def looping (n : Word) (g : Group) : Group :=
  { g with loops := [{ start := 0x0FF00, stop := 0x10000, sdepth := 0 }], lc := [n, 0, 0] }

theorem test_meets_LoopResults :
    (Issues s0 g0 0 (.loop true 0 2) ∧ g0.single = true ∧ Claims.inRange s0 g0 (Claims.targetOf g0 0 2) ∧ g0.loops.length < 3)
    ∧ (Issues s0 g0 0 (.loop true 127 2) ∧ (127 : R7).setWidth 32 ≠ (0 : Word))
    ∧ (Issues (on (splitIn2 7)) (splitIn2 7 g0) 0 (.loop true 1 2) ∧ (splitIn2 7 g0).single = false)
    ∧ (let f := fun g : Group => { g with codeHi := 0, rows := [{ g.row 0 with pc := 0xFFFFFFF8 }, Row.free, Row.free, Row.free] }
       Issues (on f) (f g0) 0 (.loop true 1 2) ∧ ¬ Claims.inRange (on f) (f g0) (Claims.targetOf (f g0) 0 2))
    ∧ (let f := fun g : Group => { g with loops := List.replicate 3 { start := 0, stop := 0, sdepth := 0 } }
       Issues (on f) (f g0) 0 (.loop true 1 2) ∧ 3 ≤ (f g0).loops.length)
    ∧ (g0.loops = [] ∧ Issues s0 g0 0 .lend ∧ Issues s0 g0 0 .lendX)
    ∧ (Issues (on (looping 0)) (looping 0 g0) 0 .lend ∧ Issues (on (looping 1)) (looping 1 g0) 0 .lend ∧ Issues (on (looping 2)) (looping 2 g0) 0 .lend
        ∧ Issues (on (looping 2)) (looping 2 g0) 0 .lendX ∧ ((looping 2 g0).row 0).pc = 0x10000 ∧ (looping 2 g0).single = true
        ∧ (looping 2 g0).serials.length = 0 ∧ (looping 2 g0).lc.getD 0 0 = 2)
    ∧ (let f := fun g => splitIn2 7 (looping 2 g)
       Issues (on f) (f g0) 0 .lend ∧ Issues (on f) (f g0) 0 .lendX ∧ (f g0).single = false) := by
  unfold Issues Claims.inRange; and_intros <;> decide

theorem test_meets_ExitResults :
    (let f := fun g : Group => { g with held := [[{ lane := 3, key := 5, seq := 1, poison := false }]] }
     Issues (on f) (f g0) 0 .exit ∧ (f g0).held ≠ [])
    ∧ (let g := splitIn2 7 g0
       Issues (on (splitIn2 7)) g 0 .exit ∧ g.held = [] ∧ g.handler = none ∧ g.ownsSerial 0 = false ∧ (1 < 4 ∧ 1 ≠ 0 ∧ (g.row 1).live = true))
    ∧ (Issues s0 g0 0 .exit ∧ g0.held = [] ∧ g0.handler = none ∧ g0.serials = [] ∧ g0.ops = [] ∧ (s0.descOf g0).det = false
       ∧ ∀ j, j < 4 → j ≠ 0 → (g0.row j).live = false) := by
  unfold Issues; and_intros <;> decide

/-- A trap that TRAP 5 would raise. -/
def trap5 : Pending := { cause := 2, detail := 5, va := 0x1_2345_6789, lanes := low48, row := none, insn := 0x3E000005, elected := 0 }
/-- The state in the handler of that trap, and its group. -/
def sH : State := s0.raiseTrap g0 0 trap5
/-- The group in its handler. -/
def gH : Group := (sH.group 2).getD g0

/-- n frames of no blocks above the base frame. -/
def deep (n : Nat) (g : Group) : Group :=
  { g with frames := List.replicate n { Frame.empty with first := 8, rpc := 0x10200 } ++ g.frames }

/-- The largest call that fits, and each check at its bound. -/
theorem test_meets_CallResults :
    (∀ d ∈ ([0, 8] : List (BitVec 5)), Issues s0 g0 0 (.call d 16 4) ∧ Claims.mayCall s0 g0 d.toNat 16
      ∧ Claims.inRange s0 g0 (Claims.targetOf g0 0 4) ∧ Issues s0 g0 0 (.callr 21 d 16) ∧ (g0.readS s0 0 21).toNat % 4 = 0)
    ∧ (∀ i ∈ [Instr.call 1 1 4, .callr 21 1 1], Issues (on (splitIn2 7)) (splitIn2 7 g0) 0 i ∧ (splitIn2 7 g0).single = false)
    ∧ (∀ i ∈ [Instr.call 1 1 4, .callr 21 1 1], Issues sH gH 0 i ∧ gH.single = true ∧ gH.handler ≠ none)
    ∧ (Issues s0 g0 0 (.call 1 1 0x8000) ∧ ¬ Claims.inRange s0 g0 (Claims.targetOf g0 0 0x8000))
    ∧ (Issues (on (sr 21 1)) (sr 21 1 g0) 0 (.callr 21 1 1) ∧ ((sr 21 1 g0).readS (on (sr 21 1)) 0 21).toNat % 4 ≠ 0)
    ∧ (∀ i ∈ [Instr.call 1 1 4, .callr 21 1 1], Issues (on (deep 15)) (deep 15 g0) 0 i ∧ (deep 15 g0).depth = 16)
    ∧ (∀ i ∈ [Instr.call 0 1 4, .callr 21 0 1], Issues (on (deep 1)) (deep 1 g0) 0 i ∧ (deep 1 g0).depth ≠ 16 ∧ 16 * (deep 1 g0).cur.blks < 1)
    ∧ (∀ i ∈ [Instr.call 9 16 4, .callr 21 9 16], Issues s0 g0 0 i ∧ g0.depth ≠ 16 ∧ 16 ≤ 16 * g0.cur.blks ∧ s0.frameMax g0 < g0.heldBlocks + 9) := by
  unfold Issues Claims.inRange Claims.mayCall; and_intros <;> decide

theorem test_meets_ReturnAndUnwindResults :
    (Issues (on (deep 1)) (deep 1 g0) 0 .ret ∧ (deep 1 g0).single = true ∧ (deep 1 g0).handler = none ∧ 1 < (deep 1 g0).depth
      ∧ ((deep 1 g0).readS (on (deep 1)) 0 3).toNat % 4 = 0 ∧ (deep 1 g0).lateIn (deep 1 g0).cur.first (deep 1 g0).heldBlocks = false)
    ∧ (let f := fun g => sr 3 2 (deep 1 g)
       Issues (on f) (f g0) 0 .ret ∧ ((f g0).readS (on f) 0 3).toNat % 4 ≠ 0)
    ∧ (Issues s0 g0 0 .ret ∧ g0.depth ≤ 1)
    ∧ (Issues (on (splitIn2 7)) (splitIn2 7 g0) 0 .ret ∧ (splitIn2 7 g0).single = false)
    ∧ (Issues sH gH 0 .ret ∧ gH.single = true ∧ gH.handler ≠ none)
    ∧ (∀ n ∈ ([1, 15] : List R7), Issues (on (deep 15)) (deep 15 g0) 0 (.unwind (.imm7 n)) ∧ n.toNat < (deep 15 g0).depth
        ∧ (deep 15 g0).lateIn ((deep 15 g0).frames.getD (n.toNat - 1) Frame.empty).first (deep 15 g0).heldBlocks = false)
    ∧ (∀ n ∈ ([0, 16, 2] : List R7), Issues (on (deep 1)) (deep 1 g0) 0 (.unwind (.imm7 n)) ∧ (n.toNat = 0 ∨ 15 < n.toNat ∨ (deep 1 g0).depth ≤ n.toNat))
    ∧ Issues (on (splitIn2 7)) (splitIn2 7 g0) 0 (.unwind (.imm7 1)) := by
  unfold Issues; and_intros <;> decide

/-- The base frame has grown by two blocks. -/
def grown (g : Group) : Group := { g with frames := [{ baseFrame 10 0 with init := 8 }], blockMap := blockMapOf (List.range 10) }

theorem test_meets_FrameSizeAndWindowResults :
    ((splitIn2 7 g0).single = false ∧ ∀ i ∈ [Instr.acquire (.imm7 1), .release (.imm7 1), .wbase (.imm7 1), .swin (.imm7 8)],
      Issues (on (splitIn2 7)) (splitIn2 7 g0) 0 i)
    ∧ (∀ n ∈ ([0, 17] : List R7), Issues s0 g0 0 (.acquire (.imm7 n)) ∧ Issues s0 g0 0 (.release (.imm7 n)))
    ∧ (gH.handler ≠ none ∧ Issues sH gH 0 (.acquire (.imm7 1)) ∧ Issues sH gH 0 (.release (.imm7 1)))
    ∧ (g0.single = true ∧ g0.handler = none ∧ Issues s0 g0 0 (.acquire (.imm7 9)) ∧ s0.frameMax g0 < g0.heldBlocks + 9)
    ∧ (∀ n ∈ ([1, 8] : List R7), Issues s0 g0 0 (.acquire (.imm7 n)) ∧ g0.heldBlocks + n.toNat ≤ s0.frameMax g0 ∧ g0.alloc = none
        ∧ s0.canGrant g0 n.toNat = true ∧ g0.frames ≠ [])
    ∧ (Issues s0 g0 0 (.release (.imm7 1)) ∧ g0.cur.blks < g0.cur.init + 1)
    ∧ (Issues (on grown) (grown g0) 0 (.release (.imm7 2)) ∧ (grown g0).cur.init + 2 ≤ (grown g0).cur.blks
        ∧ (grown g0).lateIn ((grown g0).heldBlocks - 2) (grown g0).heldBlocks = false ∧ (grown g0).frames ≠ [])
    ∧ (∀ n ∈ ([0, 127] : List R7), Issues s0 g0 0 (.wbase (.imm7 n)) ∧ 16 * g0.cur.first - g0.cur.args ≤ n.toNat ∧ n.toNat < 16 * g0.heldBlocks)
    ∧ (Issues s0 g0 0 (.wbase (.imm32 128)) ∧ 16 * g0.heldBlocks ≤ 128)
    ∧ (Issues (on (deep 1)) (deep 1 g0) 0 (.wbase (.imm7 127)) ∧ 127 < 16 * (deep 1 g0).cur.first - (deep 1 g0).cur.args)
    ∧ Issues s0 g0 0 (.swin (.imm32 0)) ∧ Issues s0 g0 0 (.swin (.imm32 12)) ∧ Issues s0 g0 0 (.swin (.imm32 912))
    ∧ Issues s0 g0 0 (.swin (.imm32 8)) ∧ Issues s0 g0 0 (.swin (.imm32 904)) := by
  unfold Issues; and_intros <;> decide

/-- Context 1 last held every block of the partition. -/
def foreignPool : State := s0.modPart 0 0 fun p => { p with holders := List.replicate 30 (some 1) }

theorem test_meets_FrameSizeAndWindowResults_foreign :
    Issues foreignPool g0 0 (.acquire (.imm7 2)) ∧ g0.ctx = 0
    ∧ ∀ b, (foreignPool.unheldBlocks g0.core g0.part).contains b = true → foreignPool.foreign g0 b = true := by
  refine ⟨by unfold Issues; decide, rfl, fun b hb => ?_⟩
  exact (by decide : ∀ b ∈ foreignPool.unheldBlocks g0.core g0.part, foreignPool.foreign g0 b = true) b (List.contains_iff_mem.mp hb)

/-- The first new register reads 0 there (R139). -/
theorem test_acquire_foreign_block_zeroed :
    (match exec (.acquire (.imm7 2)) foreignPool with
     | .next t => (t.group g0.uid).map fun g => (g.vraw 128 == zeroLanes, g.heldBlocks)
     | _ => none) = some (true, 10) := by decide

theorem test_meets_TrapEntryRecord :
    s0.group g0.uid = some g0 ∧ (g0.row 0).live = true ∧ g0.handler = none ∧ (s0.descOf g0).trapEntry ≠ 0 ∧ s0.trapFrames g0.core g0.part < 2 := by
  decide

theorem test_meets_TrapAndBreakTrapAfterThemselves :
    (∀ i ∈ [Instr.trap 127, .brk 127], Issues s0 g0 0 i ∧ Issues sH gH 0 i
      ∧ Issues (under (fun d => { d with trapEntry := 0 }) s0) g0 0 i)
    ∧ g0.handler = none ∧ (s0.descOf g0).trapEntry ≠ 0 ∧ gH.handler ≠ none ∧ ((under (fun d => { d with trapEntry := 0 }) s0).descOf g0).trapEntry = 0 := by
  unfold Issues; and_intros <;> decide

/-- The record's lanes changed by the handler. -/
def record (n : Nat) (v : Word) (g : Group) : Group := g.writeV s0 0 (BitVec.ofNat 96 (2 ^ n)) fun _ => v

theorem test_meets_ReturnFromTrapResults :
    (Issues s0 g0 0 .tret ∧ g0.handler = none)
    ∧ (∃ x, gH.handler = some x ∧ Issues sH gH 0 .tret ∧ gH.reconverged x 0 = true ∧ gH.lateToFrame = false ∧ gH.recEpc.toNat % 4 = 0
        ∧ gH.recEpc.toNat / 2 ^ 32 = gH.codeHi.toNat ∧ gH.recSwb % 8 = 0 ∧ 8 ≤ gH.recSwb ∧ gH.recSwb ≤ 904)
    ∧ ((record 1 2 gH).recEpc.toNat % 4 ≠ 0 ∧ (record 2 1 gH).recEpc.toNat / 2 ^ 32 ≠ (record 2 1 gH).codeHi.toNat ∧ (record 15 4 gH).recSwb < 8
        ∧ ∀ f ∈ [record 1 2, record 2 1, record 15 4], Issues (sH.modGroup 2 f) (f gH) 0 .tret)
    ∧ (let f := fun g : Group => { g with rows := [g.row 0, { g.row 0 with mask := 1, own := 1 }, Row.free, Row.free] }
       Issues (sH.modGroup 2 f) (f gH) 0 .tret ∧ ∃ x, (f gH).handler = some x ∧ (f gH).reconverged x 0 = false) := by
  refine ⟨?_, ⟨_, rfl, ?_⟩, ?_, ?_, _, rfl, ?_⟩ <;> (try unfold Issues) <;> decide

theorem test_meets_MaskWritesAndReads : 2 < 3 ∧ 0 < g0.rows.length := by decide
/-- Two active lanes, 3 and 5. -/
def two (g : Group) : Group := row0 (fun r => { r with mask := 0x28 }) g
/-- A team with 1 KiB of stash, four slots of which the first two are claimed, and 256 accumulator rows. -/
def equip (t : Team) : Team :=
  { t with stashBytes := 1024, slots := [{ st := .claimed, data := [] }, { st := .claimed, data := [] }, Slot.empty, Slot.empty], accRows := 256 }
/-- The small state with that team, two active lanes, and the second GiB of addresses mapped to the host window. -/
def s1 : State :=
  let s := (on two).modTeam 1 equip
  { s with dram := { s.dram with mem := s.dram.mem.load 0x2008 (Config.hostWindow + 0x22F) 8 } }
/-- Its group. -/
def g1 : Group := two g0
/-- The same with the group changed. -/
def on1 (f : Group → Group) : State := s1.modGroup 2 f
/-- Operands of a memory instruction: address form 1, base s20, offset in the low bits. -/
def mo (mod : BitVec 8) (ofs : R7 := 0) (d : R7 := 40) : MOps := ⟨false, ofs, 20, d, 0, mod, 1, 0⟩

theorem test_meets_LoadResults :
    (∀ p ∈ Claims.loads, ∀ m ∈ [mo 4, mo 6 0 124, mo 1 1 8],
      let n := szBytes m.sz
      let as := accAddrs s1 g1 0 m p.2.1 p.2.2
      let ls := oksOf (s1.locate g1 p.2.1 .read as)
      s1.precheck g1 0 (p.1 m) = none ∧ s1.addrTrap g1 p.2.1 n n as = none ∧ faultsOf (s1.locate g1 p.2.1 .read as) = []
      ∧ errsOf (s1.locate g1 p.2.1 .read as) = [] ∧ (oksOf (s1.locate g1 p.2.1 .read as)).all (fun l => !s1.locWaits l.2) = true
      ∧ s1.anyHeld ls = false ∧ (∀ l ∈ ls, l.2.attr.near = false) ∧ ∀ l ∈ ls, (s1.loadNat g1 l.2 (!isOff l.2.va) n).isSome = true)
    ∧ s1.issuer = some (g1, 0) ∧ g1.acqPending = false ∧ g1.full .ld = false ∧ (s1.descOf g1).purityCheck = false ∧ (s1.descOf g1).raceMode = 0
    ∧ g1.ops = [] ∧ (∀ t ∈ s1.teams, ∀ m ∈ t.maps, m = none) ∧ ∀ e ∈ (s1.core g1.core).l1, e.2.ctx = g1.ctx := by
  refine ⟨by decide, ?_⟩; and_intros <;> decide

/-- Addresses past the address space, not aligned and not mapped; offsets past the stash and not aligned. -/
theorem test_meets_AccessTraps :
    (let f := sr 21 0x20000
     let as := accAddrs (on1 f) (f g1) 0 (mo 4) .virt false
     ∃ b r, (as.filter fun a => decide (2 ^ 49 ≤ a.2)) = b :: r)
    ∧ (let as := accAddrs s1 g1 0 (mo 4 2) .virt false
       (as.filter fun a => decide (2 ^ 49 ≤ a.2)) = [] ∧ ∃ b r, (as.filter fun a => decide (a.2 % 4 ≠ 0)) = b :: r)
    ∧ (let f := sr 20 0x80000000
       let as := accAddrs (on1 f) (f g1) 0 (mo 4) .virt false
       (as.filter fun a => decide (a.2 % 4 ≠ 0)) = [] ∧ ∃ b r, faultsOf ((on1 f).locate (f g1) .virt .read as) = b :: r)
    ∧ (let f := sr 20 1021
       let as := accAddrs (on1 f) (f g1) 0 (mo 4) .stash false
       ∃ a, as.find? (fun a => ((on1 f).stashLoc (f g1) .stash a.2 4).isNone) = some a)
    ∧ (let as := accAddrs s1 g1 0 (mo 4 2) .stash false
       as.find? (fun a => (s1.stashLoc g1 .stash a.2 4).isNone) = none ∧ ∃ b r, (as.filter fun a => decide (a.2 % 4 ≠ 0)) = b :: r)
    ∧ ∀ i ∈ [Instr.ld (mo 4), .lds (mo 4), .st (mo 4), .sts (mo 4), .atom (mo 0), .atomn (mo 8), .cas (mo 0), .xchg (mo 8), .ldsh (mo 4), .stsh (mo 4),
        .ldcl (mo 4 2), .stcl (mo 4 2)], Issues (on1 (sr 20 1021)) (sr 20 1021 g1) 0 i := by
  refine ⟨⟨_, _, rfl⟩, ⟨by decide, _, _, rfl⟩, ⟨by decide, _, _, rfl⟩, ⟨_, rfl⟩, ⟨by decide, _, _, rfl⟩, issues_of rfl (by decide)⟩

theorem test_meets_StoreResults :
    (∀ p ∈ Claims.stores, ∀ m ∈ [mo 4, mo 6 0 124, mo 0 1, mo 0x14],
      let n := szBytes m.sz
      let as := accAddrs s1 g1 0 m p.2.1 p.2.2
      s1.precheck g1 0 (p.1 m) = none ∧ s1.addrTrap g1 p.2.1 n n as = none ∧ faultsOf (s1.locate g1 p.2.1 .write as) = []
      ∧ errsOf (s1.locate g1 p.2.1 .write as) = [] ∧ (oksOf (s1.locate g1 p.2.1 .write as)).all (fun l => !s1.locWaits l.2) = true)
    ∧ s1.issuer = some (g1, 0) ∧ g1.full .st = false ∧ g1.ops = [] := by
  refine ⟨by decide, ?_⟩; and_intros <;> decide

/-- In DRAM, and with a base in the host window. -/
theorem test_meets_AtomicResults :
    (∀ p ∈ Claims.atomics, ∀ m ∈ [mo 8 8, mo 0x10],
      let w := if atomW64 m then 64 else 32
      let as := accAddrs s1 g1 0 m .virt false
      s1.precheck g1 0 (p.1 m) = none ∧ s1.addrTrap g1 .virt (w / 8) (w / 8) as = none ∧ faultsOf (s1.locate g1 .virt .write as) = []
      ∧ errsOf (s1.locate g1 .virt .write as) = [] ∧ (oksOf (s1.locate g1 .virt .write as)).all (fun l => !s1.locWaits l.2) = true
      ∧ hostLanes (oksOf (s1.locate g1 .virt .write as)) = [])
    ∧ (let f := sr 20 0x40000000
       let ls := oksOf ((on1 f).locate (f g1) .virt .write (accAddrs (on1 f) (f g1) 0 (mo 0) .virt false))
       (on1 f).precheck (f g1) 0 (.atom (mo 0)) = none ∧ ∃ b r, hostLanes ls = b :: r)
    ∧ g1.acqPending = false ∧ g1.full .ld = false ∧ g1.full .st = false ∧ g1.ops = [] := by
  refine ⟨by decide, ⟨by decide, List.exists_cons_of_ne_nil (by decide)⟩, ?_⟩; and_intros <;> decide

/-- One operation of the group in flight. -/
def flying (c : Option Cls) (b : OpBody) (d : List (Bool × Nat)) (late : List LateWrite) : Op :=
  { uid := 9, cls := c, body := b, dests := d, late := late, perf := false, done := false, deferred := false, batch := none, paused := none, buf := [], ord := 0,
    flags := 0, acq := 0, err := none }
/-- The state with it. -/
def fly (o : Op) (g : Group) : Group := { g with ops := [o] }
/-- A word to v40 of lane 3 and one to s41. -/
def loadOp : Op := flying (some .ld) (.load none) [(true, 40)]
  [{ vec := true, reg := 40, lane := 3, value := 7, contested := false, landed := false, prev := 0 },
   { vec := false, reg := 41, lane := 0, value := 8, contested := false, landed := false, prev := 0 }]
/-- A COHERENT, cacheable byte's attributes. -/
def plain : Attr := { coh := 2, cache := 0, track := false, memo := false, near := false }
/-- Two bytes at the bottom and near the top of what a store may reach. -/
def storeOp : Op := flying (some .st) (.store [{ va := 0, place := .phys 0, attr := plain, val := 0xAA },
  { va := 0x1FFF7FFFFF, place := .phys 0x1FFF7FFFFF, attr := plain, val := 0xBB }] none) [] []
/-- An exchange of two words by lane 5. -/
def xchgOp : Op := flying (some .ld) (.atomic 8 true (run 40 2) [{ lane := 5, va := 0x40000, place := .phys 0x40000, attr := plain, a := 2 ^ 64 - 1, b := 0 }])
  [(true, 40), (true, 41)] []

theorem only_fly {o : Op} (h : o.perf = false ∧ o.done = false ∧ o.deferred = false ∧ o.paused = none ∧ o.flags = 0) :
    Claims.only (on1 (fly o)) (fly o g1) o := by
  refine ⟨rfl, rfl, h.1, h.2.1, h.2.2.1, h.2.2.2.1, h.2.2.2.2, ?_⟩
  show ∀ h ∈ [fly o g1], h.exiting = false
  simp [fly]; rfl

theorem length_vraw (r : Nat) : (g1.vraw r).length = 96 := by
  simp [Group.vraw, g1, two, row0, g0, placedGroup, Group.start, Group.modRow, sget]; rfl

theorem test_meets_InFlightOperationsComplete :
    (Claims.only (on1 (fly loadOp)) (fly loadOp g1) loadOp
      ∧ (∀ w ∈ loadOp.late, w.contested = false ∧ if w.vec then w.lane < 96 ∧ (1024 ≤ w.reg → (fly loadOp g1).handler ≠ none) else w.lane = 0)
      ∧ (loadOp.late.map fun w => (w.vec, w.reg, w.lane)).Nodup)
    ∧ (Claims.only (on1 (fly storeOp)) (fly storeOp g1) storeOp ∧ ∃ ws, storeOp.body = .store ws none ∧ Claims.plainWrites (on1 (fly storeOp)) ws)
    ∧ (Claims.only (on1 (fly xchgOp)) (fly xchgOp g1) xchgOp ∧ inDram 0x40000 = true ∧ inGen 0x40000 = false ∧ 0x40000 % 8 = 0
      ∧ (on1 (fly xchgOp)).lineBad 0x40000 = false ∧ ((on1 (fly xchgOp)).physNat 0x40000 8).isSome = true)
    ∧ (∀ r, (g1.vraw r).length = 96) ∧ ∀ t ∈ s1.teams, ∀ m ∈ t.maps, m = none := by
  refine ⟨⟨only_fly (by decide), by decide, by decide⟩, ⟨only_fly (by decide), _, rfl, ?_, by decide, by decide⟩,
    ⟨only_fly (by decide), by decide, by decide, by decide, by decide, by decide⟩, length_vraw, by decide⟩
  intro w hw
  simp only [List.mem_cons, List.not_mem_nil, or_false] at hw
  rcases hw with rfl | rfl
  · exact ⟨0, rfl, by decide, by decide, by decide⟩
  · exact ⟨0x1FFF7FFFFF, rfl, by decide, by decide, by decide⟩

/-- A mapping of the last 128 bytes, one past the stash, one that is used, and ranges that CWB and CINV refuse. -/
theorem test_meets_StashAndCacheResults :
    (∃ tm, s1.team g1.team = some tm ∧ tm.stashBytes = 1024 ∧ s1.mapUsed tm 7 = false ∧ s1.mapClash tm false 0 896 128 = false
      ∧ s1.walksHeld g1.ctx ((pagesOf 0 128).map fun p => (0, p)) = false ∧ s1.pageFaultIn g1 true (pagesOf 0 128) = none ∧ s1.pageErrIn g1 (pagesOf 0 128) = none ∧ s1.unmapping tm.uid 7 = false
      ∧ s1.mapClash tm true 0 896 128 = false ∧ s1.det g1 = false ∧ tm.maps.length = 8 ∧ tm.maps.getD 0 none = none)
    ∧ (let f := fun g => sr 24 896 (sr 25 128 g)
       Issues (on1 f) (f g1) 0 (.stashMap 24 20 7) ∧ (f g1).spair (on1 f) 0 20 = 0 ∧ ((f g1).readS (on1 f) 0 24).toNat + ((f g1).readS (on1 f) 0 25).toNat = 1024)
    ∧ (let s := s1.modTeam 1 fun t => { t with maps := t.maps.set 0 (some { va := 0, off := 0, len := 128, filled := [], dirty := [], spoiled := [] }) }
       Issues s g1 0 (.stashMap 24 20 0) ∧ Issues s g1 0 (.stashUnmap 0) ∧ ∃ tm, s.team g1.team = some tm ∧ s.mapUsed tm 0 = true
         ∧ s.mapClash tm false 0 0 128 = true ∧ tm.maps.getD 0 none ≠ none ∧ s.unmapping tm.uid 0 = false)
    ∧ (g1.full .st = false ∧ Issues s1 g1 0 (.stashUnmap 0) ∧ Issues s1 g1 0 (.cwb 24 20) ∧ Issues s1 g1 0 (.cinv 24 20))
    ∧ (let f := sr 24 0x1000001
       Issues (on1 f) (f g1) 0 (.cwb 24 20) ∧ 2 ^ 24 < ((f g1).readS (on1 f) 0 24).toNat)
    ∧ (let f := sr 21 0x20000
       Issues (on1 f) (f g1) 0 (.cinv 24 20) ∧ 2 ^ 49 ≤ (f g1).spair (on1 f) 0 20) := by
  refine ⟨⟨_, rfl, ?_⟩, ⟨⟨rfl, by decide⟩, by decide, by decide⟩, ⟨⟨rfl, by decide⟩, ⟨rfl, by decide⟩, _, rfl, ?_⟩, ⟨by decide, ⟨rfl, by decide⟩, ⟨rfl, by decide⟩, rfl, by decide⟩,
    ⟨⟨rfl, by decide⟩, by decide⟩, ⟨rfl, by decide⟩, by decide⟩ <;> and_intros <;> decide

theorem test_meets_ReleaseAcquireAndWaitResults :
    (∀ i ∈ [Instr.rel 0, .rel 4, .phase 4, .acq 4, .wait 15 15 63 63, .waitr 20 3], Issues s1 g1 0 i) ∧ g1.ops = [] ∧ g1.acqPending = false
    ∧ (Claims.only (on1 (fly storeOp)) (fly storeOp g1) storeOp ∧ Issues (on1 (fly storeOp)) (fly storeOp g1) 0 (.rel 4)
      ∧ (on1 (fly storeOp)).det (fly storeOp g1) = false)
    ∧ (Issues (on1 (fly storeOp)) (fly storeOp g1) 0 (.wait 15 15 0 63) ∧ 0 < (fly storeOp g1).count .st ∧ 0 < Cls.st.max)
    ∧ (Issues (on1 (fly storeOp)) (fly storeOp g1) 0 (.wait 15 15 1 63) ∧ (fly storeOp g1).count .st ≤ 1) :=
  ⟨issues_of rfl (by decide), rfl, rfl, ⟨only_fly (by decide), ⟨rfl, by decide⟩, rfl⟩, ⟨⟨rfl, by decide⟩, by decide, by decide⟩, ⟨rfl, by decide⟩, by decide⟩

/-- The group is registered at the barrier at offset 0, which expects one arrival. -/
def registered (g : Group) : Group := { g with bars := [{ team := 1, off := 0, last := none }] }
/-- The stash word of that barrier. -/
def barrier (n : Nat) (t : Team) : Team := t.putStashWord 0 (n * 2 ^ 16)

theorem test_meets_BarrierResults :
    (let f := sr 20 8
     (on1 f).barLoc (f g1) false ((f g1).readS (on1 f) 0 20) = none
     ∧ ∀ i ∈ [Instr.barJoin 20 false, .barExpect 24 20 false, .barArrive true false 20 40, .barWait 24 20 false], Issues (on1 f) (f g1) 0 i)
    ∧ (s1.barLoc g1 false (g1.readS s1 0 20) = some (1, 0) ∧ (s1.team 1).isSome = true ∧ g1.barReg (1, 0) = none ∧ g1.bars.length < 8
      ∧ g1.full .st = false ∧ g1.answerAt (g1.row 0).pc.toNat = none ∧ g1.ops = [] ∧ s1.det g1 = false
      ∧ ∀ i ∈ [Instr.barJoin 20 false, .barJoin 20 true, .barExpect 24 20 false, .barArrive true false 20 40, .barWait 24 20 false], Issues s1 g1 0 i)
    ∧ (let f := fun g : Group => { g with bars := List.replicate 8 { team := 1, off := 16, last := none } }
       8 ≤ (f g1).bars.length ∧ Issues (on1 f) (f g1) 0 (.barJoin 20 false))
    ∧ (let s := (on1 registered).modTeam 1 (barrier 1)
       let g := registered g1
       Issues s g 0 (.barArrive false false 20 40) ∧ Issues s g 0 (.barJoin 20 false) ∧ (g.barReg (1, 0)).isSome = true
       ∧ ∃ tm, s.team 1 = some tm ∧ (tm.bar 0).arrived + 1 = (tm.bar 0).expected ∧ (tm.bar 0).balCur = 0
          ∧ ((g.barReg (1, 0)).any fun r => r.last == some (BitVec.ofNat 16 (tm.bar 0).phase)) = false)
    ∧ (let s := (on1 registered).modTeam 1 (barrier 2)
       Issues s (registered g1) 0 (.barArrive true false 20 40) ∧ ∃ tm, s.team 1 = some tm ∧ (tm.bar 0).arrived + 1 ≠ (tm.bar 0).expected)
    ∧ (let f := sr 24 1
       Issues (on1 f) (f g1) 0 (.barWait 24 20 false) ∧ ∃ tm, s1.team 1 = some tm ∧ (tm.bar 0).phase ≠ ((f g1).readS (on1 f) 0 24).toNat % 65536
          ∧ (tm.bar 0).phase = (g1.readS s1 0 24).toNat % 65536) := by
  refine ⟨⟨by decide, issues_of rfl (by decide)⟩, ⟨by decide, by decide, by decide, by decide, by decide, by decide, by decide, by decide, issues_of rfl (by decide)⟩,
    ⟨by decide, rfl, by decide⟩, ⟨⟨rfl, by decide⟩, ⟨rfl, by decide⟩, by decide, _, rfl, by decide, by decide, by decide⟩,
    ⟨⟨rfl, by decide⟩, _, rfl, by decide⟩, ⟨rfl, by decide⟩, _, rfl, by decide, by decide⟩

/-- A copy of 256 bytes from 0x50000 to 0x40040. -/
def copyRegs : List Word := [0x40040, 0, 0x50000, 0, 256, 0]
/-- The registers s20 on hold a list. -/
def block (n : Nat) (ws : List Word) (g : Group) : Group := ws.zipIdx.foldl (fun g w => sr (n + w.2) w.1 g) g
/-- The copy, with its first line to land. -/
def copyOp : Op := flying (some .cp) (.engine (.copy copyRegs false false 0) 0) [] []

theorem test_meets_CopyResults :
    (∀ p ∈ Claims.copies, Issues (on1 (block 20 copyRegs)) (block 20 copyRegs g1) 0 (p.1 20 0))
    ∧ (let f := block 20 [0x40040, 0, 0x50000, 0, 256, 0, 2, 64, 0xFFFFFF00]
       Issues (on1 f) (f g1) 0 (.copy2d 20 0)
       ∧ (on1 f).copyTrap (f g1) (copyOps ((f g1).sblock (on1 f) 0 20 9) true false 0) true = none)
    ∧ ((copyOps copyRegs false false 0).countsOk false = true ∧ (copyOps (copyRegs.set 4 258) false false 0).countsOk false = false
      ∧ (copyOps (copyRegs.set 0 0x40042) false false 0).dst % 4 ≠ 0 ∧ (copyOps (copyRegs.set 2 0x50001) false false 0).src % 4 ≠ 0)
    ∧ (let s := on1 (fly copyOp)
       let g := fly copyOp g1
       Claims.only s g copyOp ∧ ∃ p tr, pieceAt (2 ^ 64) 0x40040 0 256 1 0 = some p ∧ s.translate g.ctx p.addr .write = .ok tr ∧ p.n = 64
         ∧ inDram tr.pa = true ∧ inGen tr.pa = false ∧ s.lineBad tr.pa = false ∧ tr.pa % 128 = p.addr % 128 ∧ tr.attr.track = false
         ∧ tr.attr.near = false ∧ ∀ j ∈ [0, 63], ∃ u, s.resolve g (rowAddr (2 ^ 64) 0x50000 0 p.row + p.off + j) .read = .ok u ∧ u.attr.near = false
             ∧ s.loadByte { g with ops := [] } u true = some 0 ∧ inRows (2 ^ 66) 0x50000 0 256 1 (p.addr + j) = false) := by
  refine ⟨by unfold Issues; decide, ⟨⟨rfl, by decide⟩, by decide⟩, by decide, only_fly (by decide), _, _, rfl, rfl, by decide, by decide, by decide, by decide, by decide,
    by decide, by decide, ?_⟩
  intro j hj
  simp only [List.mem_cons, List.not_mem_nil, or_false] at hj
  rcases hj with rfl | rfl <;> exact ⟨_, rfl, by decide, by decide, by decide⟩
/-- A reserve of three cells for s40 and s41. -/
def reserveOp : Op := flying (some .ld) (.reserve 40 3) [(false, 40), (false, 41)] []
/-- The launch with an arena of 64 cells, of which the group has reserved cells 2 to 4. -/
def arena (l : Launch) : Launch :=
  { l with ld := { l.ld with arenaBase := 0x100000, arenaSize := 64 * 64 + 4096 }, arena := [{ cell := 2, n := 3, st := .reserved 2 }] }

theorem test_meets_SpawnReserveCommitResults :
    (Issues s1 g1 0 (.spawn 20 40 0x0F) ∧ g1.spair s1 0 20 = 0 ∧ s1.det g1 = false ∧ g1.answerAt (g1.row 0).pc.toNat = none ∧ g1.core < s1.cores.length
      ∧ (s1.core g1.core).bins = [] ∧ lanesOf (g1.row 0).mask ≠ [] ∧ (lanesOf (g1.row 0).mask).length < 96)
    ∧ (let s := under (fun d => { d with det := true }) s1
       Issues s g1 0 (.spawn 20 40 0) ∧ s.det g1 = true ∧ (s.launch g1.launch).isSome = true)
    ∧ (let f := sr 21 0x20000
       Issues (on1 f) (f g1) 0 (.spawn 20 40 0) ∧ 2 ^ 49 ≤ (f g1).spair (on1 f) 0 20)
    ∧ (let f := sr 20 2
       Issues (on1 f) (f g1) 0 (.spawn 20 40 0) ∧ (f g1).spair (on1 f) 0 20 % 4 ≠ 0)
    ∧ (∀ i ∈ [Instr.reserve true 0 40, .reserve true 1 40, .reserve true 96 40, .reserve true 97 126, .reserve false 24 40], Issues s1 g1 0 i)
    ∧ g1.full .ld = false
    ∧ (Claims.only (on1 (fly reserveOp)) (fly reserveOp g1) reserveOp ∧ (on1 (fly reserveOp)).launch 0 = some { Launch.start 0 0 0 0 false LDesc.single placedDesc none with nextTeam := 1 }
      ∧ (arena (Launch.start 0 0 0 0 false LDesc.single placedDesc none)).freeRun 3 ≠ none ∧ (Launch.start 0 0 0 0 false LDesc.single placedDesc none).freeRun 3 = none)
    ∧ (let f := sr 20 0x101080
       let s := (on1 f).modLaunch 0 arena
       Issues s (f g1) 0 (.commit 20) ∧ (f g1).spair s 0 20 = 0x101080 ∧ (f g1).spair s 0 22 % 4 = 0
       ∧ ∃ l, s.launch (f g1).launch = some l ∧ ∃ r, l.reservedAt 0x101080 = some r ∧ l.committing r.cell = false ∧ (l.arena.map (·.n)).sum < 96
          ∧ l.reservedAt 0 = none)
    ∧ (let f := sr 22 2
       Issues (on1 f) (f g1) 0 (.commit 20) ∧ (f g1).spair (on1 f) 0 22 % 4 ≠ 0) := by
  refine ⟨?_, ?_, ?_, ?_, issues_of rfl (by decide), by decide, ⟨only_fly (by decide), rfl, by decide, by decide⟩, ⟨⟨rfl, by decide⟩, by decide, by decide, _, rfl, { cell := 2, n := 3, st := .reserved 2 }, by decide, ?_⟩, ?_⟩
  · unfold Issues; and_intros <;> decide
  · unfold Issues; and_intros <;> decide
  · unfold Issues; and_intros <;> decide
  · unfold Issues; and_intros <;> decide
  · and_intros <;> decide
  · unfold Issues; and_intros <;> decide

/-- An accumulator operation of batch n. -/
def streamOp (n : Option Nat) (done : Bool) : Op := { flying none (.stream (.accz 0 1)) [] [] with batch := n, perf := done, done := done }
/-- The group has closed two batches; the operation of the second is not complete. -/
def batches (g : Group) : Group := { g with nb := 2, ops := [streamOp (some 2) false] }

theorem test_meets_SlotAndBatchResults :
    (∃ t, s1.team g1.team = some t ∧ t.slots ≠ [] ∧ 2 < t.slots.length ∧ (t.slot 2).st = .unclaimed ∧ (∀ m, m < 2 → (t.slot m).st ≠ .unclaimed)
      ∧ (t.slot 0).st = .claimed ∧ (t.slot 3).st ≠ .claimed ∧ t.slots.length ≤ 4)
    ∧ (g1.answerAt (g1.row 0).pc.toNat = none ∧ s1.det g1 = false ∧ ∀ x ∈ s1.groups, x.team = g1.team → ∀ o ∈ x.ops, 0 ∉ o.slots)
    ∧ (∀ i ∈ [Instr.claim 8, .claim 127, .releaseSlot 20, .mfence, .mwait 20, .mwaitImm 15], Issues s1 g1 0 i)
    ∧ (∃ t, s0.team g0.team = some t ∧ t.slots = [] ∧ Issues s0 g0 0 (.claim 8))
    ∧ (let s := s1.modTeam 1 fun t => { t with slots := t.slots.take 2 }
       Issues s g1 0 (.claim 8) ∧ ∃ t, s.team g1.team = some t ∧ ∀ n, n < t.slots.length → (t.slot n).st ≠ .unclaimed)
    ∧ (Issues (on1 (sr 20 3)) (sr 20 3 g1) 0 (.releaseSlot 20) ∧ Issues (on1 (sr 20 4)) (sr 20 4 g1) 0 (.releaseSlot 20))
    ∧ (let f := fun g : Group => { g with nb := 15, ops := [streamOp (some 1) false] }
       Issues (on1 f) (f g1) 0 .mfence ∧ 15 ≤ ((List.range ((f g1).nb + 1)).filter fun t => (f g1).ops.any fun o => match o.batch with
          | some b => decide (b ≤ t) && !o.done
          | none => false).length)
    ∧ ((.mwaitImm 2, 2) ∈ Claims.mwaits (on1 batches) (batches g1) 0 ∧ Issues (on1 batches) (batches g1) 0 (.mwaitImm 2)
      ∧ Issues (on1 batches) (batches g1) 0 (.mwaitImm 3) ∧ ∀ b, b ≤ (batches g1).nb → b % 16 ≠ 3) := by
  refine ⟨⟨_, rfl, ?_⟩, ⟨by decide, by decide, by decide⟩, issues_of rfl (by decide), ⟨_, rfl, rfl, rfl, by decide⟩, ⟨⟨rfl, by decide⟩, _, rfl, by decide⟩,
    ⟨⟨rfl, by decide⟩, rfl, by decide⟩, ⟨⟨rfl, by decide⟩, by decide⟩, List.mem_append_right _ (List.mem_map.2 ⟨2, by decide, rfl⟩), ⟨rfl, by decide⟩, ⟨rfl, by decide⟩, by decide⟩
  and_intros <;> decide

/-- FP16 operands and an FP32 result. -/
def fp16Fmt (g : Group) : Group := row0 (fun r => { r with fmt := 0x00000011 }) g

/-- The smallest operation of each kind, and each check failing. -/
theorem test_meets_MatrixIssueResults :
    (let f := fun g => fp16Fmt (block 20 [0x40000, 0, 64, 0, 1] g)
     Issues (on1 f) (f g1) 0 (.tload 20 0) ∧ tileSlots (fmtA ((f g1).row 0).fmt) 1 = 1
     ∧ rowAddr (2 ^ 64) 0x40000 64 0 + tloadSrcBytes (fmtA ((f g1).row 0).fmt) 0 ≤ 2 ^ 49 ∧ (f g1).full .tl = false)
    ∧ (let f := fun g => fp16Fmt (block 20 [0x40000, 0, 64, 2, 129] g)
       Issues (on1 f) (f g1) 0 (.tload 20 0) ∧ Issues (on1 f) (f g1) 0 (.tload 20 0x40))
    ∧ (∃ t, s1.team g1.team = some t ∧ Claims.allClaimed t [0] ∧ Claims.allClaimed t [0, 1] ∧ Claims.streamRoom g1 ∧ t.accRows = 256
      ∧ ([2].find? fun n => !((t.slot n).st == .claimed)) = some 2 ∧ ([4].find? fun n => decide (t.slots.length ≤ n)) = some 4)
    ∧ (let f := fun g => fp16Fmt (block 20 [0, 0, 1] g)
       Issues (on1 f) (f g1) 0 (.mma 20 21 22 0x01) ∧ Issues (on1 f) (f g1) 0 (.had 20 22 0) ∧ Issues (on1 f) (f g1) 0 (.accz 20 22) ∧ Issues (on1 f) (f g1) 0 (.accrd 40 20 0)
       ∧ Issues (on1 f) (f g1) 0 (.accz 20 21))
    ∧ (let f := fun g => fp16Fmt (block 20 [251, 0, 6] g)
       Issues (on1 f) (f g1) 0 (.accrd 40 20 0) ∧ 256 < 251 + 6 ∧ Issues (on1 f) (f g1) 0 (.accz 20 22))
    ∧ (let f := fun g => fp16Fmt (block 20 [0x40000, 0, 64, 0, 1, 1, 0] g)
       Issues (on1 f) (f g1) 0 (.accst 20 0) ∧ 0x40000 % drainUnit (fmtD ((f g1).row 0).fmt) = 0
       ∧ rowAddr (2 ^ 64) 0x40000 64 0 + drainRowBytes (fmtD ((f g1).row 0).fmt) 1 ≤ 2 ^ 49
       ∧ Issues (on1 f) (f g1) 0 (.accst 20 0x40) ∧ ((on1 f).barLoc (f g1) true (((f g1).sblock (on1 f) 0 20 7).getD 6 0)).isSome = true) := by
  refine ⟨?_, ?_, ⟨_, rfl, ?_⟩, ?_, ?_, ?_⟩
  · unfold Issues; and_intros <;> decide
  · unfold Issues; and_intros <;> decide
  · unfold Claims.allClaimed Claims.streamRoom; and_intros <;> decide
  · unfold Issues; and_intros <;> decide
  · unfold Issues; and_intros <;> decide
  · unfold Issues; and_intros <;> decide

/-- The operations of the stream, each alone in flight; VMX on aligned and on unaligned strips. -/
theorem test_meets_MatrixOperationResults :
    (∀ m ∈ [Stream.accz 0 256, .mma 0 0 1 1 0x11, .mma 0 0 1 1 0x33, .had 0 1 0 0x11, .accrd 40 0 0x28 0 0],
      let o := flying none (.stream m) [] []
      Claims.only (on1 (fly o)) (fly o g1) o ∧ o.late = [] ∧ ∃ t, (on1 (fly o)).team (fly o g1).team = some t ∧ t.uid = (fly o g1).team)
    ∧ (let f := fun g => row0 (fun r => { r with fmt := 0x33, mask := 8 }) (sr 20 0x40000 g)
       let as := (List.range 16).map fun c => (3, 0x40000 + 64 * c)
       let ls := oksOf ((on1 f).locate (f g1) .virt .read as)
       Issues (on1 f) (f g1) 0 (.vmx true 40 60 20 0) ∧ (on1 f).addrTrap (f g1) .virt 64 64 as = none ∧ faultsOf ((on1 f).locate (f g1) .virt .read as) = []
       ∧ errsOf ((on1 f).locate (f g1) .virt .read as) = [] ∧ ls.all (fun l => !(on1 f).locWaits l.2) = true ∧ (on1 f).anyHeld ls = false
       ∧ (∀ l ∈ ls, ((on1 f).loadNat (f g1) l.2 (!isOff l.2.va) 64).isSome = true) ∧ ((run 40 16).map (f g1).vreg).Nodup)
    ∧ (let f := fun g => row0 (fun r => { r with fmt := 0x33 }) (sr 20 0x40020 g)
       Issues (on1 f) (f g1) 0 (.vmx true 40 60 20 0) ∧ 0x40020 % 64 ≠ 0) := by
  refine ⟨?_, ?_, ?_⟩
  · intro m _
    exact ⟨only_fly (by simp [flying]), rfl, _, rfl, rfl⟩
  · unfold Issues; and_intros <;> decide
  · unfold Issues; and_intros <;> decide

/-- A triangle over the two quads at the origin, and a second one that shares its edge 2; and each offset that R282 bounds. -/
theorem test_meets_RasterResults :
    (Issues s1 g1 0 (.rast 122 20) ∧ ∀ n, n < 14 → triBad (g1.sblock s1 0 20 14) n = false)
    ∧ (∀ n ∈ [0, 1, 4, 5, 8, 9], (List.range 14).find? (triBad ((List.replicate 14 0).set n 0x00800000)) = some n)
    ∧ ((List.range 14).find? (triBad ((List.replicate 14 0).set 12 1)) = some 12 ∧ (List.range 14).find? (triBad ((List.replicate 14 0).set 13 0x00300000)) = some 13)
    ∧ (let tri := fun (x2 y2 : Word) => triOf [0, 0, 0, 0, 256, 0, 0, 0, x2, y2, 0, 0, 0, 0]
       Claims.shareEdge (tri 0 256) (tri 0 0xFFFFFF00) 2 2 ∧ (tri 0 256).edge 2 128 0 = 0) := by
  unfold Issues Claims.shareEdge; and_intros <;> decide

theorem test_meets_BoxResults :
    (∀ i ∈ [Instr.bxunion ⟨false, 60, 40, 50, none⟩, .bxunion ⟨false, 0, 40, 50, some ⟨0, 1, 0, 0⟩⟩, .sahcost 40 50, .nodepack 40 50], Issues s1 g1 0 i)
    ∧ (let inf : Word := 0x7F800000
       let nan : Word := 0x7FC00000
       (∀ b ∈ [[nan, 0, 0, 0, 0, 0], [0, inf, 0, 0, inf, 0], [0x3F800000, 0, 0, 0, 0, 0], [0, 0, 0, inf, 0, 0], [0, 0, 0, 0x3F800000, 0, 0]], b.length = 6)
       ∧ (fp32.dec nan.toNat).isNan = true ∧ (fp32.dec inf.toNat).isInf = true ∧ (fp32.dec 0).lt (fp32.dec 0x3F800000) = true
       ∧ Claims.finite (fp32.dec 0x3F800000) = true)
    ∧ (let f := vr 50 0x7F800000
       Issues (on1 f) (f g1) 0 (.nodepack 40 50) ∧ (3 < 96 ∧ ((f g1).row 0).mask.getLsbD 3 = true ∧ (laneOf ((f g1).readV (on1 f) 50) 3).extractLsb' 23 8 = 0xFF))
    ∧ (∀ l, l < 96 → (g1.row 0).mask.getLsbD l = true → ∀ n, n < 6 → (laneOf (g1.readV s1 (50 + n)) l).extractLsb' 23 8 ≠ 0xFF) := by
  refine ⟨issues_of rfl (by decide), by decide, by unfold Issues; decide, by decide⟩

/-- A ray in the table of core 0 that awaits a verdict on a triangle's hit at t = 1. -/
def hit1 : Hit := { t := 0x3F800000, b1 := 0, b2 := 0, prim := 0, geom := 0, kind := 0, front := true, instId := 0, shader := 0, hitKind := 0 }
def ray1 (isect : Bool) (commit : Option Hit) : Ray :=
  { entry := 5, gen := 1, ctx := 0, launch := 0, group := 2, op := 9, lane := 3, ray := [0, 0, 0, 0, 0, 0x3F800000, 0, 0x7F800000], flags := 0, work := [],
    commit := commit, phase := .awaiting hit1 isect, called := true, key := none, verify := none, since := 0 }
/-- That ray's verdict with a code and a distance is in lane 3 of v40 to v42. -/
def judging (code t : Word) (g : Group) : Group :=
  row0 (fun r => { r with mask := 8 }) (vr 40 ((ray1 false none).handle 0) (vr 41 code (vr 42 t g)))
def withRay (r : Ray) (s : State) : State := s.modCore 0 fun c => { c with rays := [r] }

theorem test_meets_SampleAndTraceResults :
    (let i := Instr.sample ⟨false, 24, 40, 60, none⟩
     Issues s1 g1 0 i ∧ Issues (on1 (sr 25 0x20000)) (sr 25 0x20000 g1) 0 i ∧ Issues (on1 (sr 27 0x20000)) (sr 27 0x20000 g1) 0 i
     ∧ Issues (on1 (sr 24 16)) (sr 24 16 g1) 0 i ∧ Issues (on1 (sr 26 8)) (sr 26 8 g1) 0 i)
    ∧ (s1.readDesc g1 0 32 = .ok 0 ∧ s1.readDesc g1 0 16 = .ok 0 ∧ texOk 0 0 = true ∧ texOk 0 1 = false ∧ sampOk 0 (s1.legacyLaunch g1) = true ∧ sampOk 1 true = false)
    ∧ (∀ i ∈ [Instr.trace ⟨false, 24, 40, 60, none⟩, .traceM 0 60 40 24], Issues s1 g1 0 i)
    ∧ (Claims.traceFits s1 g1 (g1.readS s1 0 24) (g1.spair s1 0 25) ∧ g1.acqPending = false ∧ g1.full .ld = false ∧ g1.core < s1.cores.length
      ∧ (s1.core g1.core).rays.length + (lanesOf (g1.row 0).mask).length ≤ 2048 ∧ Claims.quietOps g1)
    ∧ ((s1.modTeam 1 fun t => { t with callback := true }).team 1).any (·.callback) = true
    ∧ (0x20 &&& 0xFFFF00E0 : Word) ≠ 0
    ∧ (∃ gen at_ pa, s1.genRead g1 0 = .ok gen at_ pa)
    ∧ (Issues (withRay (ray1 false none) (on1 (judging 0 0))) (judging 0 0 g1) 0 (.verdict 40)
      ∧ Issues (withRay (ray1 false none) (on1 (judging 1 0))) (judging 1 0 g1) 0 (.verdict 40)
      ∧ Issues (withRay (ray1 false none) (on1 (judging 2 0))) (judging 2 0 g1) 0 (.verdict 40)
      ∧ Issues (withRay (ray1 false none) (on1 (judging 3 0))) (judging 3 0 g1) 0 (.verdict 40))
    ∧ (let g := judging 1 0x3F000000 g1
       let s := withRay (ray1 true (some hit1)) (on1 (judging 1 0x3F000000))
       Issues s g 0 (.verdict 40) ∧ g.ops = [] ∧ lanesOf (g.row 0).mask = [3] ∧ ray1 true (some hit1) ∈ (s.core 0).rays ∧ laneOf (g.readV s 40) 3 = (ray1 true (some hit1)).handle 0
       ∧ closer { hit1 with t := 0x3F000000, hitKind := 0 } (some hit1) = true ∧ (fp32.dec 0x3F000000).isNan = false
       ∧ (fp32.dec 0x3F000000).lt (fp32.dec 0) = false ∧ (fp32.dec 0x3F800000).lt (fp32.dec 0x3F000000) = false ∧ closer hit1 none = true ∧ closer hit1 (some hit1) = false) := by
  refine ⟨by unfold Issues; and_intros <;> decide, ⟨rfl, rfl, rfl, rfl, rfl, rfl⟩, issues_of rfl (by decide), ?_, rfl, by decide, ⟨_, _, _, rfl⟩, ?_, ?_⟩
  · unfold Claims.traceFits Claims.quietOps; and_intros <;> decide
  · unfold Issues; and_intros <;> decide
  · unfold Issues; and_intros <;> decide

/-- A memo entry for the ray of zeros in lane 3 under a tracked MEMO leaf: what TRACE.M would ask for. -/
def memoPage : Attr := { coh := 2, cache := 0, track := true, memo := true, near := false }
def rayKey : Dword × Word := (raySig true true 0 0 0 memoPage 0 (List.replicate 8 0)).fin
def rayEntry : MemoEntry := { sig := rayKey.1, chk := rayKey.2, ctx := 0, kind := 3, tol := 0, cost := 20, payload := List.replicate 8 7 }
def sMemo : State :=
  let s := (under (fun d => { d with memo := true }) (on (row0 fun r => { r with mask := 8 }))).modLaunch 0 fun l => { l with code := some (1, 2) }
  ({ s with dram := { s.dram with mem := s.dram.mem.load 0x2000 0x4AF 8 } }).memoStore rayEntry

theorem test_meets_SampleAndTraceResults_memo :
    sMemo.memoFind 0 3 rayKey = some 0 ∧ sMemo.memoWay (memoSet 0 rayKey.1) 0 = some rayEntry ∧ sMemo.genRead g0 0 = .ok 0 memoPage 0
      ∧ (sMemo.descOf g0).memo = true ∧ (sMemo.codeId g0).isSome = true := ⟨by decide, by decide, rfl, rfl, rfl⟩

/-- Keys 5 and 6 in lanes 3 and 5, number 0. -/
def keys (g : Group) : Group := vrl 40 (fun l => BitVec.ofNat 32 (if l = 3 then 5 else 6)) g
def held1 (n : Nat) (g : Group) : Group := { g with held := List.replicate n [{ lane := 3, key := 5, seq := 0, poison := false }] }

theorem test_meets_SectionResults :
    (let ask := Claims.asked (on1 keys) (keys g1) 0 40 50
     Issues (on1 keys) (keys g1) 0 (.osenter 60 40 50) ∧ (keys g1).enteringAt 0 ((keys g1).row 0).pc = none ∧ ask.map (fun h => h.key) = [5, 6]
     ∧ (ask.map fun h => h.key).Nodup ∧ (∀ h ∈ ask, h.key ∉ (keys g1).held.flatten.map (fun x => x.key)) ∧ (keys g1).held.length < 8 ∧ (on1 keys).slices.osHomes = []
     ∧ ((on1 keys).osCoreKeys 0).length + 96 ≤ 512 ∧ (on1 keys).group 2 = some (keys g1) ∧ (on1 keys).slices.osMsgs = [])
    ∧ (∀ h ∈ Claims.asked (on1 keys) (keys g1) 0 40 50, Claims.homeReady (on1 keys) 0 h)
    ∧ (let f := fun g => vr 50 1 (keys g)
       Issues (on1 f) (f g1) 0 (.osenter 60 40 50) ∧ ∃ h ∈ Claims.asked (on1 f) (f g1) 0 40 50, ¬ Claims.homeReady (on1 f) 0 h)
    ∧ (Issues s1 g1 0 (.osenter 60 40 50) ∧ (Claims.asked s1 g1 0 40 50).map (fun h => h.key) = [0, 0])
    ∧ (let f := fun g => held1 8 (vr 40 9 (row0 (fun r => { r with mask := 8 }) g))
       Issues (on1 f) (f g1) 0 (.osenter 60 40 50) ∧ 8 ≤ (f g1).held.length ∧ ∀ h ∈ Claims.asked (on1 f) (f g1) 0 40 50, h.key ∉ (f g1).held.flatten.map (fun x => x.key))
    ∧ (∀ n ∈ [0, 1], ∀ i ∈ [Instr.osleave, .osleaveDone, .osabort], Issues (on1 (held1 n)) (held1 n g1) 0 i)
    ∧ (let s := { State.reset with slices := { Slices.reset with osMsgs := [{ ctx := 0, key := 5, next := 1, poison := false, free := false }], osHomes := [OsEntry.fresh 0 5] } }
       s.slices.osMsgs ≠ [] ∧ (∀ g ∈ s.groups, g.entering = []) ∧ (s.osEntry 0 5).isSome = true)
    ∧ (let f := fun g : Group => { g with entering := [{ row := 0, pc := 0x10000, lanes := [], waiting := [{ lane := 3, key := 5, seq := 1, poison := false }] }] }
       (on1 f).osWaits 0 5 = true ∧ ((0 : BitVec 5), (5 : Dword)) ∉ (on1 f).slices.osStalled ∧ (0 : BitVec 5).toNat < (on1 f).ctxs.length) := by
  refine ⟨by unfold Issues; and_intros <;> decide, ?_, ⟨⟨rfl, by decide⟩, _, List.mem_cons_self .., ?_⟩, by unfold Issues; and_intros <;> decide,
    by unfold Issues; and_intros <;> decide, by unfold Issues; decide, by and_intros <;> decide, by and_intros <;> decide⟩
  · intro h hh
    have : h.seq = 0 := by revert h hh; decide
    exact this
  · show ¬ ((1 : Word) = 0)
    decide

/-- The region is open over every lane, with a fresh eligible signature. -/
def opened (st : RegionState) (g : Group) : Group :=
  { g with region := { Region.fresh with st := st, rset := BitVec.allOnes 96, sigs := List.replicate 96 (sigBegin 0 true), ltol := List.replicate 96 0, preg := 60, pw := 2 } }
/-- A memo entry for that signature. -/
def pureEntry : MemoEntry :=
  { sig := (sigBegin 0 true).fin.1, chk := (sigBegin 0 true).fin.2, ctx := 0, kind := 2, tol := 0, cost := 9, payload := [1, 2] }

theorem test_meets_MemoRegionResults :
    (g1.region.st = .closed ∧ g1.single = true ∧ Issues s1 g1 0 (.pureBegin 20) ∧ Issues s1 g1 0 .pureEnd ∧ Issues s1 g1 0 .memoFlush)
    ∧ (let f := opened .opened
       Issues (on1 f) (f g1) 0 (.pureBegin 20) ∧ Issues (on1 f) (f g1) 0 (.mkey ⟨false, 0, 40, 0, none⟩) ∧ Issues (on1 f) (f g1) 0 (.mkey ⟨true, 20, 0, 0, some ⟨0, 3, 0, 0⟩⟩)
       ∧ Issues (on1 f) (f g1) 0 (.pureProbe 60 2) ∧ (f g1).region.st = .opened ∧ (f g1).region.sigs.length = 96 ∧ (f g1).region.ltol.length = 96
       ∧ (f g1).answerAt ((f g1).row 0).pc.toNat = none)
    ∧ (let f := fun g : Group => row0 (fun r => { r with mask := 8 }) { opened .opened g with answers := [(0x10000, [])] }
       let s := (on1 f).memoStore pureEntry
       Issues s (f g1) 0 (.pureProbe 60 2) ∧ ((f g1).answerAt ((f g1).row 0).pc.toNat).isSome = true ∧ ((f g1).region.sig 3).eligible = true
       ∧ (∀ x, x < 96 → (((f g1).row 0).mask &&& (f g1).region.rset).getLsbD x = decide (x = 3)) ∧ s.memoFind 0 2 ((f g1).region.sig 3).fin = some 0
       ∧ s.memoWay (memoSet 0 ((f g1).region.sig 3).fin.1) 0 = some pureEntry ∧ (on1 f).memoFind 0 2 ((f g1).region.sig 3).fin = none)
    ∧ (let f := fun g => opened .probed (row0 (fun r => { r with mask := 8 }) g)
       Issues (on1 f) (f g1) 0 .pureEnd ∧ (f g1).region.st = .probed ∧ (∀ n, n < 2 → (f g1).vregOk (60 + n) = true ∧ (f g1).isPending true (60 + n) = false)
       ∧ swf MemoEntry.none (on1 f).slices.memo = true)
    ∧ (let f := fun g => splitIn2 7 (opened .opened g)
       (f g1).single = false ∧ Issues (on1 f) (f g1) 0 (.pureBegin 20) ∧ Issues (on1 f) (f g1) 0 (.pureProbe 60 2) ∧ Issues (on1 f) (f g1) 0 .pureEnd) := by
  unfold Issues; and_intros <;> decide

/-- The launch holds a frame of two tiles, whose table is at 0x80000. -/
def framed (l : Launch) : Launch := { l with frame := some { frame := 3, cur := 0x80000, prev := 0, bytes := 64 } }
/-- The attributes of the small state's pages. -/
def page : Attr := { coh := 2, cache := 0, track := false, memo := false, near := false }

theorem test_meets_TileResults_entry : Claims.entryAt (s1.modLaunch 0 framed) g1 0x80020 0x80020 :=
  ⟨page, by decide, by decide, by decide, by decide, by decide, by decide⟩

theorem test_meets_TileResults :
    (∀ i ∈ [Instr.tcost 24 20, .tskip 20, .tsig 40 20 0], Issues s1 g1 0 i)
    ∧ Claims.plainTile (s1.modLaunch 0 framed) g1 0
    ∧ (s1.launch g1.launch).bind (·.frame) = none
    ∧ (let s := (on1 (sr 20 1)).modLaunch 0 framed
       (∀ i ∈ [Instr.tcost 24 20, .tskip 20, .tsig 40 20 0], Issues s (sr 20 1 g1) 0 i)
       ∧ ∃ f, (s.launch g1.launch).bind (·.frame) = some f ∧ 32 * (((sr 20 1 g1).readS s 0 20).toNat + 1) ≤ f.bytes.toNat ∧ f.bytes.toNat < 32 * (2 + 1)
          ∧ Claims.dramNat s (0x80020 + 12) 4 ≠ f.frame.toNat ∧ (f.prev = 0))
    ∧ (∀ j, j < 16 → Claims.Reads s1 g1 (8 * j) 8 0 false)
    ∧ (let s := { s1 with dram := { s1.dram with mem := (s1.dram.mem.load 0x8002C 3 4).load 0x80034 2 1 } }
       Claims.dramNat s (0x80020 + 12) 4 = 3 ∧ (s.dramByte (0x80020 + 20)).getLsbD 1 = true ∧ (s.dramByte (0x80020 + 20)).getLsbD 3 = false) := by
  refine ⟨issues_of rfl (by decide), ?_, rfl, ⟨issues_of rfl (by decide), _, rfl, by decide, by decide, by decide, rfl⟩, ?_, by and_intros <;> decide⟩
  · unfold Claims.plainTile; and_intros <;> decide
  · intro j hj
    have : ∀ j, j < 16 → s1.resolve g1 (8 * j) .read = .ok ⟨8 * j, .phys (8 * j), page⟩ ∧ s1.paHeld (8 * j) = false ∧ s1.loadNat g1 ⟨8 * j, .phys (8 * j), page⟩ true 8 = some 0 := by decide
    exact ⟨_, page, (this j hj).1, rfl, rfl, (this j hj).2.1, (this j hj).2.2⟩
/-! ### O56: resets, boot, link, channels, pins -/

/-- The part in a phase, its link up. -/
def inPhase (p : BootPhase) : State := { State.reset with boot := { Boot.reset with phase := p, linkUp := true } }
/-- The small state after one line of DRAM has failed. -/
def badLine (n : Nat) : State := { s0 with dram := { s0.dram with bad := [{ line := n, retrying := false, lasting := true }] } }

theorem test_meets_ResetBootAndLinkResults :
    ((inPhase .rom).awake = true ∧ (inPhase .training).awake = true ∧ (inPhase .bootFailed).awake = true ∧ (inPhase .trained).awake = true
      ∧ (inPhase .rom).boot.linkUp = true ∧ (inPhase .rom).boot.phase ≠ .off ∧ (inPhase .rom).boot.phase ≠ .perstLow ∧ (inPhase .rom).boot.phase ≠ .tripped)
    ∧ (inPhase .perstLow).boot.phase ≠ .off ∧ (inPhase .perstLow).boot.phase = .perstLow ∧ (inPhase .off).boot.phase = .off ∧ (inPhase .tripped).boot.phase = .tripped
    ∧ (Claims.resets.map (·.1) = [.perstNAssert, .hotReset, .functionLevelReset] ∧ (31 : BitVec 8).toNat < 32 ∧ (Claims.restarts 31 0).length = 10)
    ∧ (inPhase .rom).boot.phase = .rom ∧ (inPhase .bootFailed).boot.phase = .bootFailed
    ∧ ((inPhase .training).boot.phase = .training ∧ (5 : BitVec 8).toNat ≤ 5 ∧ (5 : BitVec 8) ≠ 0 ∧ (0x80000001 : Word) ≠ 0 ∧ (inPhase .training).dev.errLasting = 0)
    ∧ (s0.served = true ∧ s0.dev.bootErr ≠ 4 ∧ { s0 with dev := { s0.dev with bootErr := 4 } }.served = true)
    ∧ (s0.awake = true ∧ s0.boot.linkUp = true ∧ s0.configured = true ∧ { s0 with boot := { s0.boot with d3hot := true } }.boot.d3hot = true)
    ∧ ((inPhase .training).boot.asks.headD .other = .other
        ∧ { s0 with boot := { s0.boot with asks := [.resize 37, .other] } }.boot.asks.head? = some (CfgReq.resize 37))
    ∧ (s0.boot.phase = .trained ∧ s0.group 2 = some g0 ∧ (s0.queue 63).st = .off)
    ∧ (s0.boot.tap.st = .testLogicReset ∧ s0.boot.tap.tck = false)
    ∧ (s0.dram.chans[(31 : BitVec 5).toNat]?).isSome = true
    ∧ ((0x3FFFFFFFF : BitVec 48).toNat < Config.dramBytes ∧ (badLine 1).dram.bad.map (·.line) = [1] ∧ 1 ≠ (0x3FFFFFFFF : BitVec 48).toNat / 128) := by
  and_intros <;> decide

/-! ### O57: what the host reaches -/

/-- The registers' values at the ends of their ranges meet the premises of the writes. -/
def evFull : State := { s0 with dev := { s0.dev with evqEnable := true }, fcp := { s0.fcp with evStore := [{ type := 1, code := 0, queue := 0, ctx := 0, d0 := 0, d1 := 0, d2 := 0 }] } }

theorem test_meets_HostAccessResults_registers :
    s0.served = true ∧ (Claims.writesAs s0 31 63 0x80000006).length = 5 ∧ (Claims.writesAs s0 0 0 1).length = 6 ∧ (Claims.writesAs s0 0 0 0x8000000C).length = 5
    ∧ (2 : BitVec 26).toNat % 4 ≠ 0 ∧ (4 : BitVec 26).toNat % 8 ≠ 0 ∧ (0x12000 ≤ (0x12000 : BitVec 26).toNat) ∧ (0x3FFFFFC : BitVec 26).toNat % 4 = 0
    ∧ ((0x2001 : Dword).toNat % 2 ^ 48 / 8192 * 8192 ≠ s0.dev.ctxTable.toNat) ∧ (∃ x ∈ s0.ctxs, x.st ≠ .off) ∧ (inPhase .trained).served = true
    ∧ (∀ x ∈ (inPhase .trained).ctxs, x.st = .off)
    ∧ (2 ^ s0.dev.evqLog2.toNat ≤ (64 : BitVec 16).toNat ∧ (63 : BitVec 16).toNat < 2 ^ s0.dev.evqLog2.toNat)
    ∧ (evFull.fcp.evStore ≠ [] ∧ evFull.hostReachable = true ∧ evFull.dev.evqLog2.toNat ≤ 16)
    ∧ ((1020 : BitVec 16).toNat % 4 = 0 ∧ (s0.dev.msix[(1020 : BitVec 16).toNat / 16]?).isSome = true) := by
  refine ⟨by decide, by decide, by decide, by decide, by decide, by decide, by decide, by decide, by decide, ⟨s0.ctx 0, by decide, by decide⟩, by decide, by decide, by decide, by decide, by decide⟩

/-- A directory with no entry names no owner. -/
theorem noOwners_of {s : State} (h : s.slices.dir = []) : Claims.NoOwners s := by
  intro line; simp only [State.dirOf, h]; rfl

theorem test_meets_HostAccessResults_owners :
    Claims.NoOwners s0 ∧ Claims.NoOwners State.reset := ⟨noOwners_of rfl, noOwners_of rfl⟩

theorem test_meets_HostAccessResults_aperture :
    (s0.dev.ready = true ∧ (inPhase .trained).dev.ready = false ∧ (1 : BitVec 8) ≠ 0 ∧ [(7 : Byte)].length = (1 : BitVec 8).toNat)
    ∧ (∀ o ∈ [0, 0xFFFFFFF], o + 1 ≤ 2 ^ s0.dev.bar2Log2 ∧ Claims.apertureAt s0 o o)
    ∧ (let s := { s0 with dev := { s0.dev with apertureBase := 0x1F0FFFFFFF } }
       Claims.apertureAt s 0 0x1F00000000) := by
  unfold Claims.apertureAt; and_intros <;> decide

/-- Context 0 in a state of its own. -/
def ctxIn (st : CtxState) : State := s0.modCtx 0 fun c => { c with st := st }
/-- A descriptor for context 1 in the table, which ENABLE accepts: ROUND_Q 16, CMDWIN_SIZE and EV_VECTOR above 0. -/
def withTable (ev : Nat) : State :=
  { s0 with dram := { s0.dram with mem := ((s0.dram.mem.load 0x138 1 8).load 0x158 (ev * 2 ^ 32) 8).load 0x160 (16 * 2 ^ 17) 8 } }

set_option maxRecDepth 8000 in
theorem test_meets_HostAccessResults_contexts :
    ((s0.ctx 0).st = .active ∧ ((ctxIn .off).ctx 0).st = .off ∧ ((ctxIn .halted).ctx 0).st = .halted ∧ ((ctxIn .ending).ctx 0).st = .ending)
    ∧ ((s0.ctx 1).st = .off ∧ s0.dev.ready = true ∧ (0 : BitVec 5).toNat < s0.ctxs.length ∧ (31 : BitVec 5).toNat < s0.ctxs.length)
    ∧ ((withTable 1).enableRefusal 1 ((withTable 1).physNat (0 + 256 * 1) 256) = 0 ∧ (withTable 0).enableRefusal 1 ((withTable 0).physNat (0 + 256 * 1) 256) = 2)
    ∧ ((s0.groups.map (·.uid)).Nodup ∧ ∀ g ∈ s0.groups, g.ctx = 0 → g.ops = [])
    ∧ (((badLine 3).physByte 0x180).isNone = true ∧ (s0.ctx (queueCtx 0)).st = .active ∧ (s0.queue 0).unread = 0 ∧ (s0.ctx (queueCtx 63)).st ≠ .active ∧ (63 : BitVec 6).toNat < s0.queues.length) := by
  and_intros <;> decide

/-- A fault entry with number 5 whose page the tables map; at 2^39 they map nothing. -/
def entry5 (va : Pc) (posted : Bool) : FaultEntry :=
  { id := 5, ctx := 0, page := va.toNat / 8192, kind := 1, write := false, agent := 0, core := 0, va := va, queue := 0, posted := posted }
/-- The group is parked at it. -/
def parkedAt (va : Pc) (posted : Bool) : State :=
  let s := on fun g => { g with parked := some { kind := 1, agent := 0, write := false, va := va.toNat, lanes := 1, row := 0, fetch := false, entry := some 5, convert := false } }
  { s with fcp := { s.fcp with faults := [entry5 va posted] } }

/-- FaultsEntered, from what a list of groups and of cores shows. -/
theorem faultsEntered_of {s : State} (h : (s.groups.all fun g => g.parked.all (fun p => p.entry.isSome || p.convert) && g.ops.isEmpty) = true)
    (c : (s.cores.all fun c => c.rays.isEmpty && c.parts.all fun p => p.ladleFault.isNone) = true) : Claims.FaultsEntered s := by
  refine ⟨fun g hg => ?_, fun k hk => ?_⟩
  · have x := List.all_eq_true.1 h g hg
    simp only [Bool.and_eq_true, List.isEmpty_iff] at x
    refine ⟨fun p hp => ?_, by simp [x.2]⟩
    simpa [hp, Option.isSome_iff_ne_none] using x.1
  · have x := List.all_eq_true.1 c k hk
    simp only [Bool.and_eq_true, List.isEmpty_iff, List.all_eq_true, Option.isNone_iff_eq_none] at x
    exact ⟨by simp [x.1], x.2⟩

theorem test_meets_HostAccessResults_faults :
    (∀ v ∈ [true, false], Claims.FaultsEntered (parkedAt 0x80000 v)) ∧ Claims.FaultsEntered (parkedAt 0x8000000000 false)
    ∧ (∃ e ∈ (parkedAt 0x80000 true).fcp.faults, e.ctx = 0 ∧ e.id = 5 ∧ e.posted = true) ∧ (((parkedAt 0x80000 true).group 2).bind (·.parked)).isSome = true
    ∧ (∀ e ∈ (parkedAt 0x80000 true).fcp.faults, ¬ (e.ctx = 0 ∧ e.id = 6 ∧ e.posted = true))
    ∧ (parkedAt 0x80000 false).walkHelps (entry5 0x80000 false) = true
    ∧ (parkedAt 0x8000000000 false).walkHelps (entry5 0x8000000000 false) = false := by
  refine ⟨?_, faultsEntered_of (by decide) (by decide), ⟨_, List.mem_singleton.2 rfl, by decide⟩, by decide, by decide, by decide, by decide⟩
  intro v hv
  simp only [List.mem_cons, List.not_mem_nil, or_false] at hv
  rcases hv with rfl | rfl <;> exact faultsEntered_of (by decide) (by decide)
/-! ### O58: queues and packets -/

/-- The bytes of words from an address on. -/
def words : Nat → List Nat → Memory → Memory
  | _, [], m => m
  | a, w :: r, m => words (a + 8) r (m.load a w 8)
/-- Queue 0 runs at 0x60000 with the words of one packet from an offset on, the whole of the first 4 GiB in the command window. -/
def queued (off : Nat) (ws : List Nat) : State :=
  let s := (under (fun d => { d with cmdWinSize := 0x100000000 }) s0)
  { s with queues := s.queues.modify 0 fun k => { k with base := 0x60000, enable := true, st := .running, head := BitVec.ofNat 20 off, tail := BitVec.ofNat 20 ((off + 8 * ws.length) % 4096) }, dram := { s.dram with mem := words (0x60000 + off) ws s.dram.mem } }
/-- NOP with its fence, while another packet runs; and with the urgent queue's NOP ready. -/
def fenced : State :=
  let s := queued 0 [0x10100]
  { s with queues := s.queues.modify 0 fun k => { k with running := [{ off := 0x40, tag := 0, notify := false, what := .power }] } }
def urgent : State :=
  let s := queued 0 [0x100]
  { s with queues := s.queues.modify 1 fun k => { k with base := 0x60000, enable := true, st := .running, tail := 8 } }
/-- A queue waits for 8 bytes at 0x70000 to be v. -/
def semaphore (v : Dword) : State :=
  let s := queued 0 []
  { s with queues := s.queues.modify 0 fun k => { k with sem := some { off := 0, tag := 0, notify := false, cond := 0, addr := 0x70000, value := v, mask := BitVec.allOnes 64 } } }
/-- A launch that has nothing left. -/
def finished : State :=
  { s0 with teams := [], groups := [], launches := s0.launches.map fun l => { l with exited := 1 } }

theorem test_meets_QueueAndPacketResults_heads :
    (let s := queued 4088 [0x200]
     s.mayRead 0 = true ∧ 2 ^ (s.queue 0).log2.toNat < (s.queue 0).head.toNat + 8 * 2)
    ∧ ((queued 0 [0x200]).mayRead 0 = true ∧ ((queued 0 [0x200]).queue 0).unread < 8 * 2)
    ∧ ((queued 0 [0x10A]).mayRead 0 = true ∧ ¬ ((queued 0 [0x10A]).queue 0).unread < 8 ∧ 9 < 0x10A % 2 ^ 8)
    ∧ (fenced.headOf 0 = .packet 0x10100 ∧ (fenced.queue 0).running ≠ [])
    ∧ (urgent.headOf 0 = .packet 0x100 ∧ urgent.headOf 1 = .packet 0x100 ∧ (urgent.queue 1).running = [])
    ∧ ((semaphore 0).queue 0).st = .running ∧ ((semaphore 0).queue 0).sem.isSome = true ∧ (∀ t ∈ (semaphore 0).teams, ∀ m ∈ t.maps, m = none)
    ∧ finished.launches.any finished.launchDone = true ∧ (∀ l ∈ finished.launches, finished.endHeld l = false) ∧ (queued 0 [0x106]).slices.memoMsgs = [] ∧ s0.launches.any s0.launchDone = false ∧ (∃ t ∈ s0.teams, t.launch = 0) := by
  refine ⟨⟨by decide, by decide⟩, ⟨by decide, by decide⟩, ⟨by decide, by decide, by decide⟩, ⟨by decide, by decide⟩, ⟨by decide, by decide, by decide⟩, by decide, by decide,
    by decide, by decide, by decide, by decide, by decide, ⟨_, List.mem_singleton.2 rfl, rfl⟩⟩

theorem test_meets_QueueAndPacketResults_reads :
    (queued 4088 [0x200]).ownRead 0 (0x60000 + 4088) 8 = .ok 0x200 ∧ Claims.reads (semaphore 0) 0 0x70000 8 0 ∧ Claims.reads (semaphore 1) 0 0x70000 8 0 :=
  ⟨rfl, ⟨by decide, rfl⟩, by decide, rfl⟩

/-- A packet is at the head of queue 0. -/
def atHead (hdr : Nat) (rest : List Nat) : Prop := Claims.AtHead (queued 0 (hdr :: rest)) 0 hdr

theorem test_meets_QueueAndPacketResults_packets :
    atHead 0x100 [] ∧ atHead 0x106 [] ∧ atHead 0x304 [8, 7] ∧ atHead 0x304 [4, 3] ∧ atHead 0x304 [9, 0] ∧ atHead 0x505 [3, 0x80000, 0x80040, 64]
      ∧ atHead 0x307 [0x80000, 64] ∧ atHead 0x308 [0x80000, 64] ∧ atHead 0x209 [0xFFFF0096] := by
  unfold atHead Claims.AtHead; and_intros <;> decide

theorem test_meets_QueueAndPacketResults_payloads :
    (queued 0 [0x304, 8, 7]).payload 0 2 = .ok [8, 7] ∧ (queued 0 [0x304, 4, 3]).payload 0 2 = .ok [4, 3] ∧ (queued 0 [0x304, 9, 0]).payload 0 2 = .ok [9, 0]
      ∧ (queued 0 [0x505, 3, 0x80000, 0x80040, 64]).payload 0 4 = .ok [3, 0x80000, 0x80040, 64]
      ∧ Claims.windowed (queued 0 [0x505, 3, 0x80000, 0x80040, 64]) 0 0x80040 64
      ∧ (queued 0 [0x307, 0x80000, 64]).payload 0 2 = .ok [0x80000, 64] ∧ (queued 0 [0x308, 0x80000, 64]).payload 0 2 = .ok [0x80000, 64]
      ∧ Claims.windowed (queued 0 [0x307, 0x80000, 64]) 0 0x80000 64 ∧ (queued 0 [0x209, 0xFFFF0096]).payload 0 1 = .ok [0xFFFF0096] :=
  ⟨rfl, rfl, rfl, rfl, by unfold Claims.windowed; decide, rfl, rfl, by unfold Claims.windowed; decide, rfl⟩

/-- SEM_SIGNAL of 0x70000: OP 0 writes 5, OP 1 adds it; outside the window. SEM_WAIT with its three OPs. -/
def signals (op : Nat) : State := queued 0 [0x302, 0x70000 + op * 2 ^ 62, 5]
def waits (op v : Nat) : State := queued 0 [0x403, 0x70000 + op * 2 ^ 62, v, 2 ^ 64 - 1]

theorem test_meets_QueueAndPacketResults_semaphores :
    (Claims.AtHead (signals 0) 0 0x302 ∧ Claims.AtHead (signals 1) 0 0x302 ∧ Claims.windowed (signals 1) 0 0x70000 8)
    ∧ (Claims.AtHead (waits 0 0) 0 0x403 ∧ Claims.AtHead (waits 0 1) 0 0x403 ∧ Claims.AtHead (waits 1 1) 0 0x403 ∧ Claims.AtHead (waits 2 0) 0 0x403)
    ∧ (¬ Claims.windowed (queued 0 [0x302, 0x100000000, 5]) 0 0x100000000 8 ∧ Claims.AtHead (queued 0 [0x302, 0x100000000, 5]) 0 0x302) := by
  unfold Claims.AtHead Claims.windowed; and_intros <;> decide

theorem test_meets_QueueAndPacketResults_semaphore_reads :
    ((signals 1).payload 0 2 = .ok [0x70000 + 2 ^ 62, 5] ∧ Claims.reads (signals 1) 0 0x70000 8 0 ∧ (∃ s2, (signals 1).ownWrite 0 0x70000 5 8 = .ok s2 ∧ s2.queues = (signals 1).queues)
      ∧ ∃ t, (signals 1).translate 0 0x70000 .read = .ok t ∧ t.pa < Config.hostWindow)
    ∧ ((waits 2 0).payload 0 3 = .ok [0x70000 + 2 ^ 63, 0, 2 ^ 64 - 1] ∧ Claims.reads (waits 2 0) 0 0x70000 8 0)
    ∧ (queued 0 [0x302, 0x100000000, 5]).payload 0 2 = .ok [0x100000000, 5]
    ∧ ∀ q ∈ (signals 1).queues, q.sem = none :=
  ⟨⟨rfl, ⟨by decide, rfl⟩, ⟨_, rfl, rfl⟩, _, rfl, by decide⟩, ⟨rfl, by decide, rfl⟩, rfl, by decide⟩

/-- LAUNCH of the descriptor at 0x80000: entry 0x10000, one group of 96 lanes, FRAME_MAX 16, BASE 8, clusters of one team; and of zeros. -/
def launching (ws : List Nat) : State :=
  let s := queued 0 [0x201, 0x80000]
  { s with dram := { s.dram with mem := words 0x80000 ws s.dram.mem } }
def ldWords : List Nat := [0x10000, 0, 0, 0x0001000100010060, 0x10000008, 0x101]
def ldValue : Nat := 0x10100000000100000080001000100010060000000000000000000000000000000000000000000010000

set_option maxRecDepth 8000 in
theorem test_meets_QueueAndPacketResults_launch :
    (Claims.AtHead (launching ldWords) 0 0x201 ∧ (launching ldWords).payload 0 1 = .ok [0x80000] ∧ Claims.windowed (launching ldWords) 0 0x80000 256)
    ∧ (launching ldWords).traceHeld 0 (ldescOfBytes 0x80000 ldValue).trec = false
    ∧ Claims.LaunchReads (launching ldWords) 0 (ldescOfBytes 0x80000 ldValue) none none none :=
  ⟨⟨by unfold Claims.AtHead; decide, rfl, by unfold Claims.windowed; decide⟩, by decide, .inl ⟨rfl, rfl⟩, .inl ⟨rfl, rfl⟩, .inl ⟨rfl, rfl⟩⟩

theorem test_meets_QueueAndPacketResults_launch_reads : Claims.reads (launching ldWords) 0 0x80000 256 ldValue := by
  unfold Claims.reads; decide +kernel

/-- The descriptor passes R72; one of zeros fails at LANES (word +0x18). -/
theorem test_meets_QueueAndPacketResults_launch_conditions :
    (launching ldWords).launchRefusal ((launching ldWords).ctx 0) (ldescOfBytes 0x80000 ldValue) ldValue = none
    ∧ (launching []).launchRefusal ((launching []).ctx 0) (ldescOfBytes 0x80000 0) 0 = some 0x43 := by decide +kernel

/-- The states of these witnesses have no directory entry. -/
theorem test_meets_QueueAndPacketResults_owners :
    (∀ v, Claims.NoOwners (semaphore v)) ∧ (∀ op, Claims.NoOwners (signals op)) ∧ (∀ op v, Claims.NoOwners (waits op v)) ∧ ∀ ws, Claims.NoOwners (launching ws) :=
  ⟨fun _ => noOwners_of rfl, fun _ => noOwners_of rfl, fun _ _ => noOwners_of rfl, fun _ => noOwners_of rfl⟩

/-! ### O59: power -/

/-- Context 3 is active too, with a floor of 80 W; context 0 has 90 W; the cap in force is 250 W, as in the example of R105. -/
def capped (admin : Bool) (reqs : List CapReq) : State :=
  let s := s0.modCtx 0 fun c => { c with desc := { c.desc with powerFloorW := 90, powerAdmin := admin } }
  let t := s.modCtx 3 fun c => { c with st := .active, desc := { placedDesc with powerFloorW := 80 } }
  { t with dev := { t.dev with capInForce := 250 }, fcp := { t.fcp with capReqs := reqs } }
/-- A CAP_W request, and one of the POWER packet at offset 8 of queue 0. -/
def capReq (w : BitVec 16) : CapReq := { src := none, cap := w, floor := 0xFFFF }
def powerReq (w f : BitVec 16) : CapReq := { src := some (0, 8), cap := w, floor := f }
/-- Core 0 has run for n clocks. -/
def clocked (n : Nat) : State := s0.modCore 0 fun c => { c with clocks := n }
/-- Context 0 has been withheld on core 95 for n clocks. -/
def withheld (n : Nat) : State := s0.modCtx 0 fun c => { c with withheldFor := sset 0 95 n c.withheldFor }

theorem test_meets_PowerResults :
    (s0.boot.phase = .trained ∧ (capped false []).fcp.capReqs = [] ∧ (capped false [capReq 150]).fcp.capReqs = [capReq 150]
      ∧ ((capped false []).ctxs.map fun c => if c.st = .off then 0 else c.desc.powerFloorW.toNat).sum = 170
      ∧ ((capped true []).ctx (queueCtx 0)).desc.powerAdmin = true ∧ ((capped true []).ctx (queueCtx 0)).st = .active
      ∧ (0 : BitVec 6).toNat < (capped true []).queues.length ∧ (capped true []).ctxs.length = 32)
    ∧ (s0.coreHasTeam 0 = true ∧ s0.coreHasTeam 1 = false ∧ (s0.core 0).ceiling = 1320 ∧ (∀ l ∈ s0.launches, l.desc.legacy = false)
      ∧ (s0.core 1).bins = [] ∧ (s0.core 1).rays = [] ∧ (95 : BitVec 7).toNat < s0.cores.length)
    ∧ (((clocked 4096).core 0).parts[(3 : BitVec 2).toNat]?).isSome = true ∧ (0 + 4096 ≤ ((clocked 4096).core 0).clocks ∧ ((clocked 4095).core 0).clocks < 0 + 4096)
    ∧ (65536 ≤ sget 0 ((withheld 65536).ctx 0).withheldFor 95 ∧ sget 0 ((withheld 65535).ctx 0).withheldFor 95 < 65536 ∧ (0 : BitVec 5).toNat < s0.ctxs.length) := by
  and_intros <;> decide

/-- The readings of sensors: all at t degrees, so that no clock falls. -/
def temps (t : BitVec 8) : List (BitVec 8) := List.replicate 32 t
/-- The device after one governor period. -/
def periodOf (s : State) (t : BitVec 8) : Option State := after (.governorPeriod (temps t) 0) s

set_option maxRecDepth 30000 in
/-- The example of R105: 150 W is refused for the floors with code 2, and 170 W passes. -/
theorem test_cap_150 : (periodOf (capped false [capReq 150]) 60).map (fun r => (r.dev.capInForce, r.dev.lastRefusal)) = some (250, 2) := by decide
set_option maxRecDepth 30000 in
theorem test_cap_170 : (periodOf (capped false [capReq 170]) 60).map (fun r => r.dev.capInForce) = some 170 := by decide
/-! ### O60: dispatch, saves, timers, the Ladle, traps and rays -/

/-- The small state's launch and team; the same with the launch or the team changed. -/
def l0 : Launch := (s0.launch 0).getD (Launch.start 0 0 0 0 false LDesc.single placedDesc none)
def t0 : Team := (s0.team 1).getD (Team.start 1 l0 0 1 0 0 0)
def onLaunch (f : Launch → Launch) : State := s0.modLaunch 0 f
def onTeam (f : Team → Team) : State := s0.modTeam 1 f
theorem clusterOf_one {s : State} {t : Team}
    (f : (s.teams.filter fun u => u.launch == t.launch && u.index.isSome && u.first == t.first) = [t]) : s.clusterOf t = [t] := by
  unfold State.clusterOf
  cases h : t.index with
  | none => rfl
  | some _ => simp only [f, List.mergeSort_singleton]

theorem candidate_one {s : State} {t : Team}
    (f : (s.teams.filter fun u => u.launch == t.launch && u.index.isSome && u.first == t.first) = [t])
    (r : t.isResident = true) (u : t.unsaved = false) : s.candidate t = true := by
  simp [State.candidate, clusterOf_one f, r, u]

theorem preemptBefore_self (s : State) (t : Team) : s.preemptBefore t t = false := by simp [State.preemptBefore]

/-- Nothing has been dispatched yet. -/
def undispatched : State := { onLaunch (fun l => { l with nextTeam := 0 }) with teams := [], groups := [] }
/-- Context 1 waits with a launch of PRIORITY 7 and a share of one core. -/
def contended (idemp : Bool) : State :=
  let d : Desc := { placedDesc with coreShare := 1, priority := 7 }
  let s := onLaunch fun l => { l with ld := { l.ld with idemp := idemp } }
  let t := s.modCtx 1 fun c => { c with st := .active, desc := d }
  { t with launches := t.launches ++ [Launch.start 1 2 0 0 false LDesc.single d none] }

theorem test_meets_DispatchTimerAndFrameResults_admission :
    (let l := { l0 with nextTeam := 0 }
     undispatched.launch l.uid = some l ∧ (undispatched.core 95).bins = [] ∧ undispatched.lockedLaunch = none ∧ l.desc.legacy = false
       ∧ l.cover = none ∧ 1 ≤ l.ld.groups ∧ undispatched.mayDispatch l = true ∧ undispatched.atBoundary l = true ∧ undispatched.savedFirst l = true
       ∧ undispatched.canAdmit 95 l.ld = true ∧ (∀ b ∈ undispatched.launches, b.uid = l.uid) ∧ (undispatched.nextCluster l 1).isSome = true
       ∧ undispatched.teams = [] ∧ undispatched.groups = [])
    ∧ ((s0.groups.map (·.uid)).Nodup ∧ (∀ g ∈ s0.groups, g.team = t0.uid → g.ops = []) ∧ (∀ m ∈ t0.maps, m = none) ∧ s0.team t0.uid = some t0 ∧ (s0.core t0.core).l1 = [])
    ∧ (contended true).teams = [t0] ∧ (t0.index.isSome = true ∧ t0.sideEffect = false ∧ t0.discards < 2 ∧ ((contended true).launch t0.launch).any (fun l => l.ld.idemp) = true)
    ∧ ((contended false).launch t0.launch).any (fun l => l.ld.idemp) = false := by
  and_intros <;> decide

theorem test_meets_DispatchTimerAndFrameResults_preemption :
    ∀ b ∈ [true, false], (contended b).mayPreempt 1 t0 = true ∧ (∀ u ∈ (contended b).teams, (contended b).preemptBefore u t0 = false)
      ∧ ∀ e ∈ ((contended b).core t0.core).l1, e.2.ctx ≠ t0.ctx := by
  intro b hb
  refine ⟨?_, ?_, by revert b; decide⟩
  · have c : (contended b).candidate t0 = true := candidate_one (by revert b; decide) rfl rfl
    have p : (contended b).readyPriority 1 = some 7 := by clear c; revert b; decide
    simp only [State.mayPreempt, p, c, Bool.true_and]
    clear p c; revert b; decide
  · have : (contended b).teams = [t0] := by revert b; decide
    simp [this, preemptBefore_self]

/-- A small frame, and room for save records from 0x100000 on; the core has run for n clocks; a drain began at clock 0. -/
def small (l : Launch) : Launch := { l with ld := { l.ld with frameMax := 1, base := 1 } }
def draining (size : BitVec 49) (n : Nat) : State :=
  let s := under (fun d => { d with saveBase := 0x100000, saveSize := size }) ((onLaunch small).modTeam 1 fun t => { t with st := .draining 0 })
  s.modCore 0 fun c => { c with clocks := n }
/-- Its team has been saved there. -/
def savedTeam : State :=
  let s := (onLaunch small).modTeam 1 fun t => { t with st := .saved 0x100000 24576 }
  s.modGroup 2 fun g => { g with stopped := true }

set_option maxRecDepth 20000 in
theorem test_meets_DispatchTimerAndFrameResults_saves :
    (let t := { t0 with st := .draining 0 }
     let s := draining 24576 1024
     s.launches.any s.atBoundary = true ∧ 0 + 2 ^ (l0.ld.drainLog2 + 10) ≤ (s.core t.core).clocks ∧ ((draining 24576 1023).core t.core).clocks < 0 + 2 ^ (l0.ld.drainLog2 + 10)
       ∧ s.saveRecords 0 = []
       ∧ s.pagesFault 0 0x100000 24576 .write = none)
    ∧ (let t := { t0 with st := .saved 0x100000 24576 }
       let g := { g0 with stopped := true }
       savedTeam.team t.uid = some t ∧ savedTeam.canRestore t 95 = true ∧ savedTeam.launches.all savedTeam.mayDispatch = true
         ∧ savedTeam.launches.all savedTeam.atBoundary = true ∧ savedTeam.pagesFault t.ctx 0x100000 24576 .read = none ∧ savedTeam.teamGroups t.uid = [g] ∧ g.handler = none
         ∧ ∀ x ∈ savedTeam.groups, x.core < 96) := by
  and_intros <;> decide

theorem test_meets_clusters :
    (contended true).clusterOf t0 = [t0] ∧ (draining 24576 1024).clusterOf { t0 with st := .draining 0 } = [{ t0 with st := .draining 0 }]
    ∧ savedTeam.clusterOf { t0 with st := .saved 0x100000 24576 } = [{ t0 with st := .saved 0x100000 24576 }] :=
  ⟨clusterOf_one (by decide), clusterOf_one (by decide), clusterOf_one (by decide)⟩

theorem test_meets_saveSlot : saveSlot 0x100000 24576 24576 [] = some 0x100000 ∧ saveSlot 0x100000 24575 24576 [] = none := by
  simp [saveSlot]

/-- Quantum mode; a group that has spun, or waited in SPAWN, for n clocks; a round that stands at its boundary. -/
def quantum : Launch → Launch := fun l => { l with ld := { l.ld with sched := 2 } }
def spun (n : Nat) : State := (onLaunch fun l => { l with nextTeam := 0 }).modGroup 2 fun g => { g with spin := some n, spawnWait := n }
def deterministic (inB : Bool) : State := under (fun d => { d with det := true }) (onLaunch fun l => { l with inBoundary := inB })

theorem test_meets_DispatchTimerAndFrameResults_stalls :
    ((onLaunch quantum).launch 0 = some (quantum l0) ∧ (onLaunch quantum).atBoundary (quantum l0) = true ∧ l0.ld.sched ≠ 2 ∧ (quantum l0).returned = []
      ∧ (quantum l0).segment = none ∧ (quantum l0).ld.teams ≤ (quantum l0).nextTeam ∧ ∀ t ∈ (onLaunch quantum).teams, t.isSaved = false)
    ∧ (let l := { l0 with nextTeam := 0 }
       (spun (2 ^ 20)).launch l.uid = some l ∧ l.dispatched = false ∧ l.stallPosted = false ∧ l.spawnStall = false
         ∧ (∀ g ∈ (spun (2 ^ 20)).groups, g.launch = l.uid ∧ (spun (2 ^ 20)).onCore g = true ∧ g.spin = some (2 ^ 20) ∧ g.spawnWait = 2 ^ 20)
         ∧ ∀ g ∈ (spun (2 ^ 20 - 1)).groups, g.spin = some (2 ^ 20 - 1) ∧ g.spawnWait < 2 ^ 20)
    ∧ ((∀ l ∈ (deterministic true).launches, l.desc.det = true ∧ (deterministic true).roundEnds l = true)
      ∧ (∀ l ∈ (deterministic false).launches, (deterministic false).roundEnds l = false) ∧ ∀ g ∈ (deterministic true).groups, g.exiting = false ∧ g.ops = []) := by
  and_intros <;> decide

/-- A bin of one record of two words at an entry, begun at clock 0, full since clock 0 or not yet; the core's clock. -/
def bin1 (full : Bool) : Bin :=
  { ctx := 0, launch := 0, entry := 0x18000, words := 2, recs := [{ words := [5, 6], callback := false }], since := 0, full := full, fullSince := 0, gdist := false }
def binned (full : Bool) (n : Nat) : State := s0.modCore 0 fun c => { c with bins := [bin1 full], clocks := n }
/-- Three arena records have been committed for an entry. -/
def arena3 (l : Launch) : Launch := { l with arena := [{ cell := 4, n := 3, st := .committed 0x18000 0 }] }

theorem test_meets_DispatchTimerAndFrameResults_timers :
    (((binned false 2048).core 0).bins[(0 : BitVec 4).toNat]? = some (bin1 false) ∧ (binned false 2048).launch (bin1 false).launch = some l0
      ∧ (∀ t ∈ s0.teams, t.uid < s0.sched.nextUid) ∧ (∀ g ∈ s0.groups, g.uid < s0.sched.nextUid ∧ g.team < s0.sched.nextUid)
      ∧ (bin1 false).since + 2048 ≤ ((binned false 2048).core 0).clocks ∧ ((binned false 2047).core 0).clocks < (bin1 false).since + 2048
      ∧ (bin1 true).fullSince + 1024 ≤ ((binned true 1024).core 0).clocks ∧ ((binned true 1023).core 0).clocks < (bin1 true).fullSince + 1024)
    ∧ ((onLaunch arena3).launch 0 = some (arena3 l0) ∧ (arena3 l0).desc.det = false ∧ (arena3 l0).waitingEntries = [0x18000]
      ∧ (((arena3 l0).waiting 0x18000).flatMap fun r => run r.1 r.2).take 96 = [4, 5, 6]) := by
  and_intros <;> decide

theorem test_meets_roomFor : Claims.roomFor (binned false 2048) 0 8 ∧ Claims.roomFor s0 95 8 :=
  ⟨⟨by decide, by decide, 0, by decide, by decide, 1, by decide, by decide⟩, by decide, by decide, 0, by decide, by decide, 0, by decide, by decide⟩

/-- The group asks for n blocks at clock 0; or its top frame, of one block, has been spilled. -/
def asks (n : Nat) (g : Group) : Group := { g with alloc := some { blocks := n, since := 0, granted := false, exhausted := false } }
def top1 (spilled : Bool) : Frame := { first := 8, blks := 1, init := 1, args := 0, swb := 0, rpc := 0, spilled := spilled, born := 0, image := if spilled then some (0x200000, 0) else none }
def framed2 (spilled : Bool) (g : Group) : Group :=
  { g with frames := top1 spilled :: g.frames, blockMap := g.blockMap.set 8 (if spilled then .spilled else .resident 8) }
def area : State := under (fun d => { d with spillBase := 0x200000, spillStride := 0x100000 }) s0
/-- A second group in the partition, with the blocks after the first's, and its top frame the last. -/
def g3 : Group :=
  { framed2 false g0 with uid := 3, slot := 1, born := 3, blockMap := (framed2 false g0).blockMap.map fun b => match b with
                                                                       | .resident p => .resident (p + 8)
                                                                       | b => b }
def crowded (clock : Nat) : State :=
  let s := { (area.modGroup 2 (asks 14)) with groups := [asks 14 g0, g3] }
  s.modCore 0 fun c => { c with clocks := clock }

theorem test_meets_DispatchTimerAndFrameResults_blocks :
    ((let s := s0.modGroup 2 (asks 22)
      let g := asks 22 g0
      (s.partOf 0 0).ladleFault = none ∧ s.requester 0 0 = some g ∧ s.group g.uid = some g ∧ g.core = 0 ∧ g.part = 0 ∧ g.request = some 22
        ∧ 22 ≤ (s.freeBlocks 0 0).length ∧ g.lowestSpilled = none)
      ∧ (s0.modGroup 2 (asks 23)).requester 0 0 = some (asks 23 g0) ∧ ((s0.modGroup 2 (asks 23)).freeBlocks 0 0).length < 23)
    ∧ (let s := area.modGroup 2 (framed2 true)
       let g := framed2 true g0
       s.requester 0 0 = some g ∧ g.request = some 1 ∧ 1 ≤ (s.freeBlocks 0 0).length ∧ g.lowestSpilled = some (0, top1 true)
         ∧ s.rangeHeld g.ctx (s.imageAt g 0) (128 + 6144 * 1) = false ∧ s.rangeFault g.ctx (s.imageAt g 0) (128 + 6144 * 1) .read = none)
    ∧ (let s := crowded 65536
       s.ladleWakes 0 0 = true ∧ (s.freeBlocks 0 0).length = 13 ∧ s.requester 0 0 = some (asks 14 g0) ∧ s.victim 0 0 2 [] = some (g3, 0, top1 false)
         ∧ s.group g3.uid = some g3 ∧ g3.lateIn 8 9 = false ∧ s.spillOverflows g3 0 (top1 false) = false
         ∧ s.rangeHeld g3.ctx (s.imageAt g3 0) (128 + 6144 * 1) = false ∧ s.rangeFault g3.ctx (s.imageAt g3 0) (128 + 6144 * 1) .write = none
         ∧ (s.core 0).wakes = []) := by
  and_intros <;> decide +kernel

/-- The spill leaves room for the 14 blocks. -/
theorem test_meets_DispatchTimerAndFrameResults_spilled : 14 ≤ (((crowded 65536).spillFrame g3 0 (top1 false)).freeBlocks 0 0).length := by
  have h := State.freeBlocks_congr (s := (crowded 65536).modGroup g3.uid fun h => h.spill 0 (top1 false) (some ((crowded 65536).imageAt g3 0, (crowded 65536).sched.tick)) ((crowded 65536).core g3.core).clocks)
    (State.spillFrame_groups (s := crowded 65536) rfl g3 0 (top1 false)).1 (State.spillFrame_groups (s := crowded 65536) rfl g3 0 (top1 false)).2 0 0
  rw [h]
  decide +kernel

/-- A trap of row 1 alone is due, behind one of row 0 whose row is stopped. -/
def due1 (row : Option Nat) : Pending := { cause := 0x10, detail := 0, va := 0, lanes := 0, row := row, insn := 0, elected := 0 }
def dueIn (row : Option Nat) : State := s0.modGroup 2 fun g => (splitIn2 7 g).due (due1 row)
/-- A ray that has ended, and a second of its TRACE that walks on. -/
def ended (entry : Nat) (ph : RayPhase) : Ray := { ray1 false none with entry := entry, lane := entry, phase := ph }
def landing : State :=
  let s := s0.modGroup 2 (fly (flying none (.trace 40) [(true, 40), (true, 41)] []))
  s.modCore 0 fun c => { c with rays := [ended 5 (.done [1, 2]), ended 6 .walking] }
/-- A coverage launch; its team has exited. -/
def cover0 : Cover :=
  { f := 4, fMin := 1, fMax := 4, up := 0, down := 0, target := 0, edgeT := 0, errT := 0, count := 0,
    surf := { base := 0x80000, rowPitch := 64, slicePitch := 0, depth := 1, height := 4, width := 4, fmt := 0 }, probes := 0, badProbes := 0, skipped := 0, computed := 0, clocks := 0 }
def covering (st : TeamState) : State := (onLaunch fun l => { l with cover := some cover0 }).modTeam 1 fun t => { t with st := st }

theorem test_meets_DispatchTimerAndFrameResults_rows :
    (s0.group g0.uid = some g0 ∧ s0.boot.phase = .trained ∧ s0.onCore g0 = true ∧ g0.parked = none ∧ g0.pending = [])
    ∧ (∀ g ∈ (dueIn (some 1)).groups, (dueIn (some 1)).onCore g = true ∧ g.parked = none ∧ (g.row 1).live = true ∧ (g.row 1).stopped = false ∧ g.stopped = false ∧ g.exiting = false
      ∧ (g.pending.find? fun x => x.row == none || x.row == some 1) = some (due1 (some 1)) ∧ ∀ x ∈ g.pending, x.row ≠ none ∧ x.row ≠ some 0)
    ∧ (∀ g ∈ (dueIn none).groups, (g.row 0).live = true ∧ (g.pending.find? fun x => x.row == none || x.row == some 0) = some (due1 none))
    ∧ ((∀ x ∈ (landing.core 0).rays, x.entry = 5 → x = ended 5 (.done [1, 2])) ∧ ended 5 (.done [1, 2]) ∈ (landing.core 0).rays ∧ ended 6 .walking ∈ (landing.core 0).rays
      ∧ (ended 6 .walking).op = (ended 5 (.done [1, 2])).op ∧ ∀ g ∈ landing.groups, g.exiting = false ∧ ∀ o ∈ g.ops, o.uid = 9 ∧ o.dests.length ≤ 2)
    ∧ ((∀ t ∈ (covering .exited).teams, t.st = .exited) ∧ (∀ t ∈ (covering .resident).teams, t.st ≠ .exited)
      ∧ ∀ l ∈ (covering .exited).launches, l.desc.det = false ∧ l.cover = some cover0) := by
  and_intros <;> decide

/-! ### Premises that several obligations share -/

set_option maxRecDepth 20000

/-- A blocked row; a group that the bank withholds; a group whose slot comes after another's that is ready too. -/
theorem test_meets_StepRunsDecodedInstruction_turns :
    (let g := row0 (fun r => { r with wait := .barWait }) g0
     g.again 0 = true ∧ g.canIssue 0 = true)
    ∧ (s0.modCore 0 fun c => { c with allowance := 0 }).withheld g0 0 (.add 10 10 (.imm7 4)) = true
    ∧ (let h := { g0 with uid := 3, slot := 1 }
       let s := under (fun d => { d with det := true }) (State.reset.placed 0x8041050A)
       let s1 : State := { s with groups := s.groups ++ [h] }
       s1.rotates h 0 (.add 10 10 (.imm7 4)) = false ∧ s1.rotates g0 0 (.add 10 10 (.imm7 4)) = true ∧ s1.group 3 = some h) := by
  and_intros <;> decide

/-- No walk waits, no SRAM word is in error, no other group is in the way, and nothing is checked. -/
theorem test_meets_access_premises :
    (∀ p ∈ Claims.loads ++ Claims.stores, ∀ m ∈ [mo 4, mo 6 0 124], s1.walksHeld g1.ctx (accAddrs s1 g1 0 m p.2.1 p.2.2) = false)
    ∧ s1.sram = [] ∧ (∀ h ∈ s1.groups, h = g1 ∨ h.ops = []) ∧ (s1.descOf g1).purityCheck = false ∧ (s1.descOf g1).raceMode = 0 ∧ g1.ops = [] := by
  and_intros <;> decide

theorem alone_of {s : State} {g : Group} (h : s.groups = [g]) (k : s.sram = []) : Claims.alone s g :=
  ⟨fun x hx => .inl (by simpa [h] using hx), k⟩

theorem test_meets_InFlightOperationsComplete_alone :
    (∀ o ∈ [loadOp, storeOp, xchgOp], Claims.alone (on1 (fly o)) (fly o g1))
    ∧ storeOp.late = [] ∧ xchgOp.late = [] ∧ xchgOp.acq = 0 ∧ xchgOp.err = none ∧ (on1 (fly xchgOp)).bookOf g1.ctx 0x40000 = none := by
  refine ⟨fun o ho => ?_, by decide, by decide, by decide, by decide, by decide⟩
  simp only [List.mem_cons, List.not_mem_nil, or_false] at ho
  rcases ho with rfl | rfl | rfl <;> exact alone_of rfl rfl

theorem test_meets_StashAndCacheResults_ranges :
    let f := sr 24 128
    let ps := pagesOf 0 128
    (∀ i ∈ [Instr.cwb 24 20, .cinv 24 20], Issues (on1 f) (f g1) 0 i) ∧ ((f g1).readS (on1 f) 0 24).toNat = 128 ∧ (f g1).spair (on1 f) 0 20 = 0
    ∧ (on1 f).walksHeld (f g1).ctx (ps.map fun p => (0, p)) = false ∧ (on1 f).pageFaultIn (f g1) false ps = none ∧ (on1 f).pageErrIn (f g1) ps = none
    ∧ (f g1).full .st = false ∧ (on1 f).sram = [] := by
  refine ⟨issues_of rfl (by decide), ?_⟩; and_intros <;> decide

/-- An acquire with an atomic in flight, whose fence holds later accesses back; a wait below and at its thresholds. -/
theorem test_meets_ReleaseAcquireAndWaitResults_fences :
    (let f := fly xchgOp
     Issues (on1 f) (f g1) 0 (.acq 4) ∧ (on1 f).det (f g1) = false ∧ (f g1).readPending = true)
    ∧ (s1.det g1 = false ∧ g1.readPending = false ∧ Issues s1 g1 0 (.acq 2))
    ∧ (let s := under (fun d => { d with det := true }) s1
       s.det g1 = true ∧ Issues s g1 0 (.rel 4) ∧ Issues s g1 0 (.phase 4))
    ∧ (Claims.alone (on1 (fly storeOp)) (fly storeOp g1) ∧ (4 : BitVec 3) ≠ 0)
    ∧ (g1.ops.map (·.uid)).Nodup ∧ ∀ x ∈ [(Cls.ld, 63), (.st, 63), (.cp, 15), (.tl, 15)], g1.count x.1 ≤ x.2 ∨ x.1.max ≤ x.2 := by
  refine ⟨⟨⟨rfl, by decide⟩, rfl, by decide⟩, ⟨rfl, by decide, rfl, by decide⟩, ⟨by decide, ⟨rfl, by decide⟩, rfl, by decide⟩, ⟨alone_of rfl rfl, by decide⟩, by decide, by decide⟩

/-- An arrival of a deterministic round, and its result; a wait that passes and one that blocks. -/
theorem test_meets_BarrierResults_rounds :
    (let s := under (fun d => { d with det := true }) ((on1 registered).modTeam 1 (barrier 2))
     let g := registered g1
     s.det g = true ∧ Issues s g 0 (.barArrive true false 20 40) ∧ (g.barReg (1, 0)).isSome = true ∧ g.answerAt (g.row 0).pc.toNat = none)
    ∧ (let f := fun g : Group => { registered g with answers := [(0x10000, [7])] }
       Issues (on1 f) (f g1) 0 (.barArrive true false 20 40) ∧ (f g1).answerAt ((f g1).row 0).pc.toNat = some [7])
    ∧ Claims.noArrival (registered g1) 0x10000
    ∧ ((registered g1).readPending = false ∧ (fly xchgOp g1).readPending = true ∧ Issues (on1 (fly xchgOp)) (fly xchgOp g1) 0 (.barWait 24 20 false)
      ∧ Issues (on1 (fun g => sr 24 1 (fly xchgOp g))) (sr 24 1 (fly xchgOp g1)) 0 (.barWait 24 20 false))
    ∧ (let f := fun g : Group => { g with barWaits := [{ row := 0, team := 1, off := 0, phase := 0, passed := true }] }
       Issues (on1 f) (f g1) 0 (.barWait 24 20 false) ∧ ((f g1).barWaitOf 0 (1, 0) 0).any (·.passed) = true) := by
  refine ⟨⟨by decide, ⟨rfl, by decide⟩, by decide, by decide⟩, ⟨⟨rfl, by decide⟩, by decide⟩, ?_, ⟨by decide, by decide, ⟨rfl, by decide⟩, rfl, by decide⟩, ⟨rfl, by decide⟩, by decide⟩
  exact fun o ho => absurd (show o ∈ ([] : List Op) from ho) List.not_mem_nil

/-- An engine's read of one byte gave b. -/
def gave (b : Byte) : EngRead → Bool
  | .ok [x] => x == b
  | _ => false
theorem eq_of_gave {b : Byte} {r : EngRead} (h : gave b r = true) : r = .ok [b] := by
  unfold gave at h
  split at h
  · rw [eq_of_beq h]
  · cases h

/-- Where the source has been asked for, nothing but the cached translation is new. -/
theorem test_meets_CopyResults_source :
    let s := on1 (fly copyOp)
    let g := fly copyOp g1
    let t := (s.prepareEngine g 0 0x50000).prepareEngine g 0 0x5003F
    s.sram = [] ∧ copyOp.buf = [] ∧ copyOp.late = [] ∧ SameMemory s t ∧ s.engineHeld g 0 0x50000 64 = false ∧ t.engineByte g 0 0x50000 = .ok [0] ∧ t.engineByte g 0 0x5003F = .ok [0]
      ∧ ∃ tr, t.translateFor g 0x40040 .write = .ok tr ∧ t.paHeld tr.pa = false ∧ inDram tr.pa = true ∧ inGen tr.pa = false ∧ t.lineBad tr.pa = false
        ∧ tr.pa % 128 = 0x40 ∧ tr.attr.track = false ∧ tr.attr.near = false := by
  refine ⟨rfl, rfl, rfl, ⟨fun _ => rfl, fun _ => rfl, fun _ _ => rfl⟩, by decide, eq_of_gave (by decide +kernel), eq_of_gave (by decide +kernel), _, rfl, ?_⟩
  and_intros <;> decide

theorem test_meets_SpawnReserveCommitResults_ranges :
    (let f := fun g => sr 23 0x20000 g
     Issues (on1 f) (f g1) 0 (.commit 20) ∧ (f g1).spair (on1 f) 0 22 % 4 = 0 ∧ 2 ^ 49 ≤ (f g1).spair (on1 f) 0 22)
    ∧ (let f := fun g => sr 21 0x20000 g
       Issues (on1 f) (f g1) 0 (.commit 20) ∧ (f g1).spair (on1 f) 0 22 = 0 ∧ 2 ^ 49 ≤ (f g1).spair (on1 f) 0 20) := by
  unfold Issues; and_intros <;> decide

theorem test_meets_MatrixOperationResults_alone :
    ∀ m ∈ [Stream.accz 0 256, .mma 0 0 1 1 0x11, .had 0 1 0 0x11, .accrd 40 0 0x28 0 0],
      let o := flying none (.stream m) [] []
      (on1 (fly o)).sram = [] ∧ (on1 (fly o)).contested (fly o g1) = [] := by decide

/-- The state once the descriptors' pages have been translated. -/
theorem test_meets_SampleAndTraceResults_descriptors :
    let t := (s1.noteTlb g1 0).noteTlb g1 0
    SameMemory s1 t ∧ t.ownHeld g1.ctx 0 1 = false ∧ t.readDesc g1 0 32 = .ok 0 ∧ t.readDesc g1 0 16 = .ok 0 ∧ s1.genHeld g1 0 = false ∧ g1.acqPending = false :=
  ⟨⟨fun _ => rfl, fun _ => rfl, fun _ _ => rfl⟩, by decide, rfl, rfl, by decide, by decide⟩

theorem test_meets_SampleAndTraceResults_memo_premises :
    sMemo.slices.memoMsgs = [] ∧ sMemo.sram = [] ∧ (sMemo.ctx 0).st = .active ∧ sMemo.genHeld g0 0 = false ∧ (sMemo.descOf g0).verifyRate = 0 ∧ rayEntry.payload.length = 8
    ∧ ((run 60 8).map g0.vreg).Nodup := by and_intros <;> decide

theorem test_meets_SectionResults_first : (keys g1).entering = [] ∧ g1.entering = [] := by decide

theorem test_meets_MemoRegionResults_premises :
    let f := fun g : Group => row0 (fun r => { r with mask := 8 }) { opened .opened g with answers := [(0x10000, [])] }
    let s := (on1 f).memoStore pureEntry
    ((opened .opened g1).row 0).wait ≠ .probe ∧ s.slices.memoMsgs = [] ∧ s.sram = [] ∧ (s.ctx g1.ctx).st = .active ∧ (s.descOf g1).verifyRate = 0 := by
  and_intros <;> decide

/-- Where every address walks to one leaf and nothing is cached, the translations are steady. -/
theorem steady_of {s : State} {g : Group} {as : List Nat} (w : Walk) (h : ∀ a ∈ as, s.walk g.ctx a = w ∧ s.cached (some (g.core, g.part)) g.ctx a = []
    ∧ (s.tableEntries g.ctx a).any s.paHeld = false) : Claims.steady s g as := by
  intro a ha
  refine ⟨by simp [(h a ha).2.1], (h a ha).2.2, fun x hx b n e p _ => ?_⟩
  rw [(h x hx).1, ← (h a ha).1, p]

theorem test_meets_TileResults_steady :
    let s := s1.modLaunch 0 framed
    Claims.steady s g1 ((List.range 16).map (fun j => 0 + 8 * j) ++ (List.range 0).map (fun j => 0 + 4 * j) ++ Claims.entryWords 0x80020 ++ []) :=
  steady_of (s1.walk 0 0) (by decide)

theorem test_meets_TileResults_premises :
    Claims.alone s1 g1 ∧ s1.pureChecked g1 = false ∧ (s1.core g1.core).l1 = [] ∧ (s1.ctx g1.ctx).st = .active ∧ (s1.launch 0).any (fun l => (framed l).frame.any (·.prev == 0)) = true :=
  ⟨⟨fun x hx => .inl (by simpa using (show x ∈ [g1] from hx)), rfl⟩, by decide, by decide, by decide, by decide⟩

theorem test_meets_PowerResults_periods :
    ((temps 120)[0]? = some 120 ∧ (inPhase .training).boot.phase = .training ∧ ∀ j t, j < 32 → (temps 60)[j]? = some t → t.toNat < 120)
    ∧ (s0.core 1).debits = 0 ∧ s0.fcp.capReqs = []
    ∧ (∀ x ∈ (s0.core 0).parts, x.vecReady.length ≠ 8)
    ∧ ((s0.partGroups 0 0).length = 1 ∧ (s0.partGroups 0 1).length = 0) := by
  refine ⟨⟨by decide, by decide, fun j t hj h => ?_⟩, by decide, by decide, by decide, by decide⟩
  rw [List.eq_of_mem_replicate (List.mem_of_getElem? h)]; decide

/-- No other core stands before the chosen one, and the next cluster is one team. -/
theorem test_meets_DispatchTimerAndFrameResults_cluster :
    let l := { l0 with nextTeam := 0 }
    let m : State := { undispatched with gov := { undispatched.gov with fabricClk := 1040, memRate := undispatched.dev.memRate } }
    m.traceHeld l.ctx l.recorded = false ∧ ∃ c, m.nextCluster l 1 = some c ∧ (∃ n, c.members = [(0, n)]) ∧ m.preferred l c [0] = true
      ∧ m.canAdmit 0 l.ld = true := ⟨by decide, _, rfl, ⟨_, rfl⟩, by decide +kernel, by decide⟩

/-- The saved team's launch has its turn, and the spill areas are empty. -/
def savedWith (stride : Word) : State := under (fun d => { d with spillBase := 0x200000, spillStride := stride }) savedTeam
theorem test_meets_DispatchTimerAndFrameResults_restore :
    let s := savedWith 0
    let t := { t0 with st := .saved 0x100000 24576 }
    s.followRatio.restoreFirst { l0 with ld := { l0.ld with frameMax := 1, base := 1 } } t = true
    ∧ (s.core 95).l1 = [] ∧ Claims.NoOwners s ∧ (s.launch 0).all (fun l => s.followRatio.mayPlace l [95]) = true := by
  refine ⟨by decide, by decide, noOwners_of rfl, by decide⟩

/-- Nothing waits for the Ladle; no other group asks for nothing. -/
theorem test_meets_DispatchTimerAndFrameResults_requests :
    (∀ x ∈ (crowded 65536).partGroups 0 0, x.request = some 0 → x = asks 14 g0) ∧ ((crowded 65536).core 0).wakes = []
    ∧ (∀ x ∈ (s0.modGroup 2 (asks 22)).partGroups 0 0, x.request = some 0 → x = asks 22 g0) := by decide +kernel

theorem test_meets_DispatchTimerAndFrameResults_infill :
    (∀ t ∈ (covering .exited).teams, (covering .exited).infillHeld t = false) ∧ (binned false 2048).drains 0 0 = false ∧ (binned false 2048).launches.all (binned false 2048).ratioRuns = true
    ∧ (∀ w ∈ (bin1 false).recs, w.words.length ≤ 16) ∧ ((s0.core 0).l1 = []) := by decide

/-! ### Values from the spec's own examples and tables -/

set_option maxRecDepth 8000

/-- Scalar register 9 after a three-operand instruction on s20 and s21. -/
def scalarOf (i : R7 → R7 → SOp → Instr) (a b : Word) : Option Word :=
  (then_ (i 9 20 (.reg 21)) (on fun g => sr 20 a (sr 21 b g))).map fun g => g.sraw 9

/-- The table under R335: division, remainders and high products. -/
theorem test_div : scalarOf .div 7 0xFFFFFFFE = some 0xFFFFFFFD ∧ scalarOf .div 0x80000000 0xFFFFFFFF = some 0x80000000 ∧ scalarOf .div 7 0 = some 0xFFFFFFFF := by decide
theorem test_rem : scalarOf .rem 7 0xFFFFFFFE = some 1 ∧ scalarOf .rem 0xFFFFFFF9 2 = some 0xFFFFFFFF ∧ scalarOf .rem 0x80000000 0xFFFFFFFF = some 0 := by decide
theorem test_divu_remu : scalarOf .divu 7 0 = some 0xFFFFFFFF ∧ scalarOf .remu 7 0 = some 7 ∧ scalarOf .rem 7 0 = some 7 := by decide
theorem test_mulh : scalarOf .mulh 0x80000000 2 = some 0xFFFFFFFF ∧ scalarOf .mulhu 0x80000000 2 = some 1 := by decide
theorem test_sar : scalarOf .sar 0x80000000 33 = some 0xC0000000 := by decide
theorem test_clz : (then_ (.clz 9 20) (on (sr 20 0x10000))).map (fun g => g.sraw 9) = some 15 := by decide
/-- The example of R336: a mask of lanes 36 and 95. -/
theorem test_mpop_mfirst :
    let m : Mask := BitVec.ofNat 96 (2 ^ 36 + 2 ^ 95)
    let s := on (row0 fun r => { r with mask := m })
    (then_ (.mpop 9 0) s).map (fun g => g.sraw 9) = some 2 ∧ (then_ (.mfirst 9 0) s).map (fun g => g.sraw 9) = some 36 := by decide

/-- The table under R228: pi to FP16 and BF16. -/
theorem test_round_pi :
    [Rm.rne, .rz, .ru, .rd].map (fun m => (fp16.ofVal m (fp32.dec 0x40490FDB)).1) = [0x4248, 0x4248, 0x4249, 0x4248]
    ∧ [Rm.rne, .rz, .ru, .rd].map (fun m => (bf16.ofVal m (fp32.dec 0x40490FDB)).1) = [0x4049, 0x4049, 0x404A, 0x4049] := by decide
/-- The products under R229, in a launch that keeps subnormals and in one that flushes them. -/
def product (a b : Word) (ftz : Bool) : Option (Word × Word) :=
  (then_ (.vmulFp ⟨false, 50, 40, 60, none⟩) (under (fun d => { d with legacy := ftz, legacyFtz := ftz })
    (s0.modLaunch 0 (fun l => { l with ld := { l.ld with legacy := ftz } }) |>.modGroup 2 fun g => vr 40 a (vr 50 b g)))).map
    fun g => (laneOf (g.vraw 60) 95, g.sraw 6)
theorem test_products :
    product 0x00080000 0x44800000 false = some (0x03800000, 0) ∧ product 0x0D800000 0x30800000 false = some (0x00080000, 0)
    ∧ product 0x00080000 0x44800000 true = some (0, 0) ∧ product 0x0D800000 0x30800000 true = some (0, 4) := by decide
/-- The SX5 block under R235. -/
theorem test_sx5 :
    toSX 4 ([fp32.dec 0x3FC00000, fp32.dec 0xBE800000, fp32.dec 0x407C0000, fp32.dec 0x3D800000] ++ List.replicate 12 (fp32.dec 0)) = (0x22260181, 0) := by decide
/-- The sum under R239: each block is rounded once. -/
theorem test_matrix_sum :
    let p := (fp16.dec 0x0C00, fp16.dec 0x0C00)
    matrixSum 0x3F800000 (List.replicate 16 p) 1 = (0x3F800008, 0) ∧ matrixSum 0x3F800008 (List.replicate 16 p) 1 = (0x3F800010, 0) := by decide
/-- The 16-point run under R241. -/
theorem test_hadamard :
    hadRun 4 ((List.range 16).map fun j => (fp32.ofInt .rne j).1)
      = (([120, -8, -16, 0, -32, 0, 0, 0, -64, 0, 0, 0, 0, 0, 0, 0] : List Int).map (fun v => (fp32.ofInt .rne v).1), 0) := by decide
/-- The classes of R254. -/
theorem test_quantise :
    (quant32 1 0x3F802008 = 0x3F802000 ∧ quant32 2 0x3F802008 = 0x3F802000 ∧ quant32 3 0x3F802008 = 0x3F800000)
    ∧ quant32 1 0x3F800080 = 0x3F800000 ∧ quant32 1 0x3F800180 = 0x3F800200 := by decide
/-- The first row of the 4×4 mask (R273). -/
theorem test_lattice : (List.range 4).map (fun x => latticeRank 0 x 0) = [0, 8, 2, 10] := by decide
/-- The three launches under R279. -/
def controller (f p b : Nat) : Nat :=
  Cover.next { f := f, fMin := 32, fMax := 224, up := 16, down := 8, target := 16, edgeT := 0, errT := 0, count := 3, surf := ⟨0, 0, 0, 1, 1, 1, 0⟩,
               probes := p, badProbes := b, skipped := 0, computed := 0, clocks := 0 }
theorem test_controller : controller 64 40 5 = 80 ∧ controller 80 50 1 = 72 ∧ controller 72 50 3 = 72 := by decide
/-- The fill under R279, with its probe. -/
theorem test_fill :
    let u8 : Surface := ⟨0, 4, 16, 1, 4, 4, 3⟩
    let at_ := fun (x y : Nat) => (⟨x, y, 0, false, false⟩ : CovPoint)
    let c : List Sample2 := [⟨at_ 0 0, 10⟩, ⟨at_ 2 0, 20⟩, ⟨at_ 0 2, 30⟩, ⟨at_ 2 2, 40⟩]
    latticeH 16 4 = 2 ∧ u8.fill 1 2 0 c (at_ 1 0) = some 15 ∧ u8.fill 1 2 0 c (at_ 1 1) = some 25 ∧ u8.fill 1 2 0 c (at_ 3 1) = some 30
      ∧ u8.fill 1 2 0 c (at_ 3 3) = some 40 ∧ u8.bad 0x3CA3D70A 44 (some 40) = false := by decide
/-- The channel under R31 and the homes under R178. -/
theorem test_channel : channelOf 0x00800880 = 1 ∧ channelOffset 0x00800880 = 0x80 ∧ hashSlice 0x00800880 = 0 := by decide
theorem test_homes : nearestSlice 67 = 12 ∧ nearestSlice 0 = 0 := by decide
/-- The generation word of region 4 (R190). -/
theorem test_generation_address : genAddr (regionOf 0x40000) = 0x1FFF800010 := by decide
/-- The triangle under R286: the ordinals, HELPER lanes and attributes. -/
theorem test_raster :
    let t := triOf [0, 0, 0x3F000000, 0, 1024, 0, 0x3E800000, 0, 0, 1024, 0x3F800000, 0, 0, 0x101]
    t.area = 1048576 ∧ t.walk 0 = ([0, 1, 2], 0) ∧ (List.range 4).map (t.hits 0) = [true, true, true, true] ∧ (List.range 4).map (t.hits 1) = [true, false, false, false]
      ∧ t.lane 0 0 2 = 0x3E000000 ∧ t.lane 0 0 3 = 0x3E000000 ∧ t.lane 0 0 4 = 0x3F080000 ∧ t.lane 1 0 2 = 0x3F200000 := by decide
/-- The axis under R308: x = 1.625 gives texel 1 and weight 0.125. -/
theorem test_taps :
    let p := { sampOf 0 with w6 := false }
    (axisTaps p true ⟨13, 8⟩).map (fun t => (t.2, t.1.num * 1000 / (t.1.den : Int))) = [(1, 875), (2, 125)] := by decide
/-- The words of R242: lane i of RAND, whatever the mask. -/
theorem test_rand :
    (then_ (.rand ⟨false, 0, 0, 60, none⟩) (on fun g => row0 (fun r => { r with mask := 8 }) { g with randCtr := 100 })).map
      (fun g => (laneOf (g.vraw 60) 3, g.randCtr)) = some ((mix 0 103).extractLsb' 0 32, 196) := by decide
/-- The example under R319, from its own bytes: vadd.i32 v6, v5.rot(8), v7.bfly(32). -/
theorem test_placements :
    let v7 := sset zeroLanes 7 ((List.range 96).map fun i => BitVec.ofNat 32 (100 * i)) []
    let s := on fun g => { g with vregs := sset zeroLanes 5 ((List.range 96).map fun i => BitVec.ofNat 32 i) v7 }
    (decodeTableWord 64 0x000614884801C286).map (fun i => ((then_ i s).map fun g => [8, 40, 70, 90].map fun l => laneOf (g.vraw 6) l))
      = some (some [4016, 848, 7078, 9002]) := by decide
end Sys2Proof.Tests
end

section
/-! SUPPORT. Both memories keep their canonical form through every instruction, every event and every step (O7). -/

namespace Sys2Proof.Machine

/-- The meaning of every instruction and of every event keeps the canonical form of both memories. -/
theorem exec_keeps {s : State} (i : Instr) (h : s.memOk) : Keeps (exec i s) := by
  cases i with
  | nop => exact execNop_memOk h
  | add _ _ _ => exact execAdd_memOk h
  | sub _ _ _ => exact execSub_memOk h
  | mul _ _ _ => exact execMul_memOk h
  | mulh _ _ _ => exact execMulh_memOk h
  | mulhu _ _ _ => exact execMulhu_memOk h
  | div _ _ _ => exact execDiv_memOk h
  | divu _ _ _ => exact execDivu_memOk h
  | rem _ _ _ => exact execRem_memOk h
  | remu _ _ _ => exact execRemu_memOk h
  | and _ _ _ => exact execAnd_memOk h
  | or _ _ _ => exact execOr_memOk h
  | xor _ _ _ => exact execXor_memOk h
  | shl _ _ _ => exact execShl_memOk h
  | shr _ _ _ => exact execShr_memOk h
  | sar _ _ _ => exact execSar_memOk h
  | min _ _ _ => exact execMin_memOk h
  | max _ _ _ => exact execMax_memOk h
  | minu _ _ _ => exact execMinu_memOk h
  | maxu _ _ _ => exact execMaxu_memOk h
  | seq _ _ _ => exact execSeq_memOk h
  | sne _ _ _ => exact execSne_memOk h
  | slt _ _ _ => exact execSlt_memOk h
  | sltu _ _ _ => exact execSltu_memOk h
  | sel _ _ _ => exact execSel_memOk h
  | mov _ _ => exact execMov_memOk h
  | popc _ _ => exact execPopc_memOk h
  | clz _ _ => exact execClz_memOk h
  | ctz _ _ => exact execCtz_memOk h
  | jmp _ => exact execJmp_memOk h
  | braS _ _ _ _ _ => exact execBraS_memOk h
  | braV _ _ _ _ _ _ => exact execBraV_memOk h
  | call _ _ _ => exact execCall_memOk h
  | join => exact execJoin_memOk h
  | loop _ _ _ => exact execLoop_memOk h
  | lend => exact execLend_memOk h
  | lendX => exact execLendX_memOk h
  | ret => exact execRet_memOk h
  | callr _ _ _ => exact execCallr_memOk h
  | jmpr _ => exact execJmpr_memOk h
  | acquire _ => exact execAcquire_memOk h
  | release _ => exact execRelease_memOk h
  | wbase _ => exact execWbase_memOk h
  | swin _ => exact execSwin_memOk h
  | unwind _ => exact execUnwind_memOk h
  | pause => exact execPause_memOk h
  | exit => exact execExit_memOk h
  | gets _ _ => exact execGets_memOk h
  | sets _ _ => exact execSets_memOk h
  | fmt _ => exact execFmt_memOk h
  | pclass _ => exact execPclass_memOk h
  | mpop _ _ => exact execMpop_memOk h
  | mfirst _ _ => exact execMfirst_memOk h
  | vaddInt _ => exact execVaddInt_memOk h
  | vsubInt _ => exact execVsubInt_memOk h
  | vmulInt _ => exact execVmulInt_memOk h
  | vmulh _ => exact execVmulh_memOk h
  | vmad _ => exact execVmad_memOk h
  | vadds _ => exact execVadds_memOk h
  | vsubs _ => exact execVsubs_memOk h
  | vand _ => exact execVand_memOk h
  | vor _ => exact execVor_memOk h
  | vxor _ => exact execVxor_memOk h
  | vnot _ => exact execVnot_memOk h
  | vshl _ => exact execVshl_memOk h
  | vshr _ => exact execVshr_memOk h
  | vsar _ => exact execVsar_memOk h
  | vminInt _ => exact execVminInt_memOk h
  | vmaxInt _ => exact execVmaxInt_memOk h
  | vabsInt _ => exact execVabsInt_memOk h
  | vcmpInt _ => exact execVcmpInt_memOk h
  | vsel _ => exact execVsel_memOk h
  | vpopc _ => exact execVpopc_memOk h
  | vclz _ => exact execVclz_memOk h
  | vmov _ => exact execVmov_memOk h
  | vdot4 _ => exact execVdot4_memOk h
  | vbfe _ => exact execVbfe_memOk h
  | vbfi _ => exact execVbfi_memOk h
  | vaddFp _ => exact execVaddFp_memOk h
  | vsubFp _ => exact execVsubFp_memOk h
  | vmulFp _ => exact execVmulFp_memOk h
  | vfma _ => exact execVfma_memOk h
  | vminFp _ => exact execVminFp_memOk h
  | vmaxFp _ => exact execVmaxFp_memOk h
  | vcmpFp _ => exact execVcmpFp_memOk h
  | vabsFp _ => exact execVabsFp_memOk h
  | vneg _ => exact execVneg_memOk h
  | vclass _ => exact execVclass_memOk h
  | cvt _ => exact execCvt_memOk h
  | sxpack _ => exact execSxpack_memOk h
  | sxunpk _ => exact execSxunpk_memOk h
  | vrnd _ => exact execVrnd_memOk h
  | vrcp _ => exact execVrcp_memOk h
  | vrsq _ => exact execVrsq_memOk h
  | vsqrt _ => exact execVsqrt_memOk h
  | vexp2 _ => exact execVexp2_memOk h
  | vlog2 _ => exact execVlog2_memOk h
  | vsin _ => exact execVsin_memOk h
  | vcos _ => exact execVcos_memOk h
  | vtanh _ => exact execVtanh_memOk h
  | vdiv _ => exact execVdiv_memOk h
  | rand _ => exact execRand_memOk h
  | vperm _ => exact execVperm_memOk h
  | vcmpct _ => exact execVcmpct_memOk h
  | vexpnd _ => exact execVexpnd_memOk h
  | match_ _ => exact execMatch_memOk h
  | reduce _ => exact execReduce_memOk h
  | scan _ => exact execScan_memOk h
  | vballot _ => exact execVballot_memOk h
  | vlane _ => exact execVlane_memOk h
  | ld _ => exact execLd_memOk h
  | st _ => exact execSt_memOk h
  | lds _ => exact execLds_memOk h
  | sts _ => exact execSts_memOk h
  | ldsh _ => exact execLdsh_memOk h
  | stsh _ => exact execStsh_memOk h
  | ldcl _ => exact execLdcl_memOk h
  | stcl _ => exact execStcl_memOk h
  | atom _ => exact execAtom_memOk h
  | atomn _ => exact execAtomn_memOk h
  | cas _ => exact execCas_memOk h
  | xchg _ => exact execXchg_memOk h
  | stashMap _ _ _ => exact execStashMap_memOk h
  | stashUnmap _ => exact execStashUnmap_memOk h
  | cwb _ _ => exact execCwb_memOk h
  | cinv _ _ => exact execCinv_memOk h
  | rel _ => exact execRel_memOk h
  | acq _ => exact execAcq_memOk h
  | phase _ => exact execPhase_memOk h
  | wait _ _ _ _ => exact execWait_memOk h
  | waitr _ _ => exact execWaitr_memOk h
  | barJoin _ _ => exact execBarJoin_memOk h
  | barArrive _ _ _ _ => exact execBarArrive_memOk h
  | barWait _ _ _ => exact execBarWait_memOk h
  | barExpect _ _ _ => exact execBarExpect_memOk h
  | copy _ _ => exact execCopy_memOk h
  | copy2d _ _ => exact execCopy2d_memOk h
  | fill _ _ => exact execFill_memOk h
  | spawn _ _ _ => exact execSpawn_memOk h
  | reserve _ _ _ => exact execReserve_memOk h
  | commit _ => exact execCommit_memOk h
  | claim _ => exact execClaim_memOk h
  | releaseSlot _ => exact execReleaseSlot_memOk h
  | tload _ _ => exact execTload_memOk h
  | mma _ _ _ _ => exact execMma_memOk h
  | mfence => exact execMfence_memOk h
  | mwait _ => exact execMwait_memOk h
  | mwaitImm _ => exact execMwaitImm_memOk h
  | had _ _ _ => exact execHad_memOk h
  | accrd _ _ _ => exact execAccrd_memOk h
  | accst _ _ => exact execAccst_memOk h
  | vmx _ _ _ _ _ => exact execVmx_memOk h
  | accz _ _ => exact execAccz_memOk h
  | rast _ _ => exact execRast_memOk h
  | sample _ => exact execSample_memOk h
  | trace _ => exact execTrace_memOk h
  | traceM _ _ _ _ => exact execTraceM_memOk h
  | verdict _ => exact execVerdict_memOk h
  | bxunion _ => exact execBxunion_memOk h
  | sahcost _ _ => exact execSahcost_memOk h
  | nodepack _ _ => exact execNodepack_memOk h
  | osenter _ _ _ => exact execOsenter_memOk h
  | tsig _ _ _ => exact execTsig_memOk h
  | tcost _ _ => exact execTcost_memOk h
  | tskip _ => exact execTskip_memOk h
  | pureBegin _ => exact execPureBegin_memOk h
  | mkey _ => exact execMkey_memOk h
  | pureProbe _ _ => exact execPureProbe_memOk h
  | trap _ => exact execTrap_memOk h
  | brk _ => exact execBrk_memOk h
  | firmwareLoadDone _ _ => exact execFirmwareLoadDone_memOk h
  | channelTrainingDone _ _ => exact execChannelTrainingDone_memOk h
  | uncorrectableLinkError _ => exact execUncorrectableLinkError_memOk h
  | thermalTrip _ => exact execThermalTrip_memOk h
  | regulatorAlert _ => exact execRegulatorAlert_memOk h
  | writeTimingRecentre _ => exact execWriteTimingRecentre_memOk h
  | refresh _ perBank => exact execRefresh_memOk (_perBank := perBank) h
  | selfRefreshEntry _ => exact execSelfRefreshEntry_memOk h
  | selfRefreshExit _ => exact execSelfRefreshExit_memOk h
  | dramReadComplete _ _ => exact execDramReadComplete_memOk h
  | dramReadRetry _ _ => exact execDramReadRetry_memOk h
  | boundaryScan _ _ _ _ => exact execBoundaryScan_memOk h
  | apertureRead _ _ => exact execApertureRead_memOk h
  | apertureWrite _ _ => exact execApertureWrite_memOk h
  | registerWrite _ _ _ => exact execRegisterWrite_memOk h
  | capWWrite _ => exact execCapWWrite_memOk h
  | evqHeadWrite _ => exact execEvqHeadWrite_memOk h
  | evqEnableWrite _ => exact execEvqEnableWrite_memOk h
  | msixTableWrite _ _ => exact execMsixTableWrite_memOk h
  | enable _ => exact execEnable_memOk h
  | disable _ => exact execDisable_memOk h
  | halt _ => exact execHalt_memOk h
  | resume _ => exact execResume_memOk h
  | contextEnded _ => exact execContextEnded_memOk h
  | faultReplay _ _ => exact execFaultReplay_memOk h
  | faultConvertToTrap _ _ => exact execFaultConvertToTrap_memOk h
  | queueStart _ => exact execQueueStart_memOk h
  | queueStop _ => exact execQueueStop_memOk h
  | qtailDoorbell _ _ => exact execQtailDoorbell_memOk h
  | nopPacket _ => exact execNopPacket_memOk h
  | launch _ => exact execLaunch_memOk h
  | launchComplete _ => exact execLaunchComplete_memOk h
  | semSignal _ => exact execSemSignal_memOk h
  | semWait _ => exact execSemWait_memOk h
  | semWaitPoll _ => exact execSemWaitPoll_memOk h
  | setState _ => exact execSetState_memOk h
  | frameMark _ => exact execFrameMark_memOk h
  | memoFlushPacket _ => exact execMemoFlushPacket_memOk h
  | traceRecord _ => exact execTraceRecord_memOk h
  | traceReplay _ => exact execTraceReplay_memOk h
  | power _ => exact execPower_memOk h
  | governorPeriod _ _ => exact execGovernorPeriod_memOk h
  | allowanceUpdate _ => exact execAllowanceUpdate_memOk h
  | withheldCompletely _ _ => exact execWithheldCompletely_memOk h
  | nearThresholdWindow _ _ => exact execNearThresholdWindow_memOk h
  | nearThresholdExit _ _ => exact execNearThresholdExit_memOk h
  | teamAdmission _ _ => exact execTeamAdmission_memOk h
  | preemption _ _ => exact execPreemption_memOk h
  | drainLimitExpiry _ => exact execDrainLimitExpiry_memOk h
  | teamRestore _ _ => exact execTeamRestore_memOk h
  | quantumBoundary _ => exact execQuantumBoundary_memOk h
  | launchStall _ => exact execLaunchStall_memOk h
  | spawnBinTimerExpiry _ _ => exact execSpawnBinTimerExpiry_memOk h
  | spawnBinHandoff _ _ _ => exact execSpawnBinHandoff_memOk h
  | arenaTimerExpiry _ _ => exact execArenaTimerExpiry_memOk h
  | spawnStall _ => exact execSpawnStall_memOk h
  | roundBoundary _ => exact execRoundBoundary_memOk h
  | faultEntryWalk _ => exact execFaultEntryWalk_memOk h
  | ladleWake _ _ => exact execLadleWake_memOk h
  | allocationGrant _ _ => exact execAllocationGrant_memOk h
  | boundaryTrapEntry _ => exact execBoundaryTrapEntry_memOk h
  | loadDataLanded _ => exact execLoadDataLanded_memOk h
  | storePerformed _ => exact execStorePerformed_memOk h
  | atomicAtHome _ => exact execAtomicAtHome_memOk h
  | engineLineLanded _ => exact execEngineLineLanded_memOk h
  | matrixOperationComplete _ => exact execMatrixOperationComplete_memOk h
  | memoLookupReturn _ => exact execMemoLookupReturn_memOk h
  | osStall _ _ => exact execOsStall_memOk h
  | traversalComplete _ _ => exact execTraversalComplete_memOk h
  | infill _ => exact execInfill_memOk h
  | osleave => exact execOsleave_memOk h
  | osleaveDone => exact execOsleaveDone_memOk h
  | osabort => exact execOsabort_memOk h
  | pureEnd => exact execPureEnd_memOk h
  | memoFlush => exact execMemoFlush_memOk h
  | tret => exact execTret_memOk h
  | perstNAssert => exact execPerstNAssert_memOk h
  | perstNDeassert => exact execPerstNDeassert_memOk h
  | hotReset => exact execHotReset_memOk h
  | functionLevelReset => exact execFunctionLevelReset_memOk h
  | powerRemoval => exact execPowerRemoval_memOk h
  | powerUp => exact execPowerUp_memOk h
  | linkUp => exact execLinkUp_memOk h
  | correctableLinkError => exact execCorrectableLinkError_memOk h
  | configurationRequest => exact execConfigurationRequest_memOk h
  | d3hotEntry => exact execD3hotEntry_memOk h
  | d0Return => exact execD0Return_memOk h
  | acceptChannels => exact execAcceptChannels_memOk h
  | osAdvanceAtHome => exact execOsAdvanceAtHome_memOk h

theorem State.issueWords_keeps {s : State} {g : Group} {k : Nat} {w0 w1 : Word} (h : s.memOk) : Keeps (s.issueWords g k w0 w1) := by
  unfold State.issueWords
  split
  case h_1 => exact next_keeps (State.trapRow_memOk h)
  case h_2 i _ =>
    have he : Keeps (exec i { s with sched := { s.sched with cur := some (g.uid, k) } }) := exec_keeps i (memOk_mk h)
    exact keeps_ite he (keeps_ite (next_keeps (State.passFence_memOk h))
      (keeps_ite (next_keeps h) (mapNext_memOk he fun _ => State.noteIssue_memOk)))

theorem State.fetchIssue_keeps {s : State} {g : Group} {k : Nat} (h : s.memOk) : Keeps (s.fetchIssue g k) := by
  unfold State.fetchIssue
  refine keeps_ite (next_keeps h) ?_
  split
  case h_1 => exact next_keeps (State.parkGroup_memOk h)
  case h_2 => exact next_keeps (State.trapRow_memOk (State.noteOwnError_memOk h))
  case h_3 => exact State.issueWords_keeps (State.noteFetched_memOk h)

theorem State.issueTurn_keeps {s : State} {uid k : Nat} (h : s.memOk) : Keeps (s.issueTurn uid k) := by
  unfold State.issueTurn
  split
  case h_1 => exact next_keeps h
  case h_2 =>
    refine keeps_ite (next_keeps h) ?_
    split
    case h_1 => exact next_keeps (State.parkedTurn_memOk h)
    case h_2 =>
      split
      case h_1 => exact next_keeps (State.raiseTrap_memOk h)
      case h_2 => exact keeps_ite (next_keeps h) (State.fetchIssue_keeps h)

theorem State.turn_keeps {s : State} (t : Turn) (h : s.memOk) : Keeps (s.turn t) := by
  cases t with
  | issue uid k => exact State.issueTurn_keeps h
  | event i => exact keeps_ite (next_keeps h) (exec_keeps i h)
  | hostRead off n => exact next_keeps (State.hostRead_memOk h)
  | hostAsk r => exact next_keeps (State.hostAsk_memOk h)
  | sramError e => exact next_keeps (State.sramTurn_memOk h)

theorem step_keeps {s : State} (h : s.memOk) : Keeps (step s) := by
  unfold step State.advance
  split
  case h_1 => exact State.turn_keeps _ (memOk_mk (State.ticked_memOk h))
  case h_2 =>
    split
    case h_1 => exact State.turn_keeps _ (State.ticked_memOk h)
    case h_2 => exact next_keeps (State.ticked_memOk h)

/-- Settles O7: every turn ends in the meaning of an instruction or event, or in an operation of the part, and each keeps both
memories canonical. -/
theorem everyStepKeepsMemoryForm : Obligations.EveryStepKeepsMemoryForm :=
  ⟨fun _ _ h e => step_keeps h _ e, fun i _ _ h e => exec_keeps i h _ e⟩

end Sys2Proof.Machine
end

section
/-! SUPPORT. The reset state, read by context, queue and core (O55). -/

namespace Sys2Proof.Machine

@[simp] theorem State.reset_ctx (c : BitVec 5) : State.reset.ctx c = Context.reset := List.getElem?_getD_replicate_default_eq ..
@[simp] theorem State.reset_queue (q : BitVec 6) : State.reset.queue q = Queue.reset := List.getElem?_getD_replicate_default_eq ..
@[simp] theorem State.reset_core (k : Nat) : State.reset.core k = Core.reset := List.getElem?_getD_replicate_default_eq ..

/-- Settles O55: the contexts, the queues and the cores are read by their lemmas, every other field at its literal. -/
theorem resetState : Obligations.ResetState := by
  unfold Obligations.ResetState
  simp only [State.reset_ctx, State.reset_queue, State.reset_core, State.reset_memOk, and_true]
  simp [State.reset, Dev.reset, Boot.reset, Context.reset, Queue.reset, Gov.reset, Core.reset, Slices.reset, Config.cores]

end Sys2Proof.Machine
end

section
/-! SUPPORT. Error records and event records: what they change, what they write, and how held events are posted (R53, R63 to R70). -/

namespace Sys2Proof.Machine

/-! ### What reports change (R63 to R70) -/

/-- The device registers d, but for the error log and its counts, the event queue's tail and counts, and the MSI-X table, which are those of e. -/
def Dev.reported (d e : Dev) : Dev :=
  { d with errLog := e.errLog, errTail := e.errTail, errDropped := e.errDropped, evqTail := e.evqTail, evqDropped := e.evqDropped,
           evqLost := e.evqLost, msix := e.msix }

/-- Reports have changed the device registers where `Dev.reported` says, and neither the module nor DRAM. -/
structure OnlyReports (s t : State) : Prop where
  boot : t.boot = s.boot
  dram : t.dram = s.dram
  dev : t.dev = s.dev.reported t.dev

theorem OnlyReports.trans {s t u : State} (a : OnlyReports s t) (b : OnlyReports t u) : OnlyReports s u where
  boot := b.boot.trans a.boot
  dram := b.dram.trans a.dram
  dev := calc
    u.dev = t.dev.reported u.dev := b.dev
    _ = (s.dev.reported t.dev).reported u.dev := by rw [← a.dev]
    _ = s.dev.reported u.dev := rfl

/-- The count of lasting errors stands apart from what reports change. -/
theorem OnlyReports.withErrLasting {s t : State} (h : OnlyReports s t) (n : Word) :
    OnlyReports { s with dev := { s.dev with errLasting := n } } { t with dev := { t.dev with errLasting := n } } :=
  ⟨h.boot, h.dram, congrArg (fun d : Dev => { d with errLasting := n }) h.dev⟩

/-- An error record changes the log and its counts alone. -/
theorem State.logError_frame (s : State) (e : ErrInput) : ∃ log tail dropped seq,
    s.logError e = { s with dev := { s.dev with errLog := log, errTail := tail, errDropped := dropped }, fcp := { s.fcp with errSeq := seq } } := by
  unfold State.logError
  split <;> exact ⟨_, _, _, _, rfl⟩

theorem State.logError_onlyReports (s : State) (e : ErrInput) : OnlyReports s (s.logError e) := by
  obtain ⟨_, _, _, _, h⟩ := s.logError_frame e
  rw [h]; exact ⟨rfl, rfl, rfl⟩

theorem State.signal_onlyReports (s : State) (v : Nat) : OnlyReports s (s.signal v) := by
  unfold State.signal
  dsimp only
  split <;> exact ⟨rfl, rfl, rfl⟩

theorem State.postNow_onlyReports (s : State) (e : EvRecord) : OnlyReports s (s.postNow e) := by
  unfold State.postNow
  refine OnlyReports.trans ?_ (State.signal_onlyReports _ _)
  exact ⟨rfl, rfl, rfl⟩

theorem State.holdEvent_onlyReports (s : State) (e : EvRecord) : OnlyReports s (s.holdEvent e) := by
  unfold State.holdEvent
  dsimp only
  split
  · exact ⟨rfl, rfl, rfl⟩
  · split <;> exact ⟨rfl, rfl, rfl⟩

theorem State.postRaw_onlyReports (s : State) (e : EvRecord) : OnlyReports s (s.postRaw e) := by
  unfold State.postRaw
  dsimp only
  split
  · exact s.holdEvent_onlyReports _
  · exact s.postNow_onlyReports _

theorem State.lastingError_onlyReports (s : State) (e : ErrInput) :
    OnlyReports { s with dev := { s.dev with errLasting := satInc s.dev.errLasting } } (s.lastingError e) :=
  (State.logError_onlyReports _ _).trans (State.postRaw_onlyReports _ _)

theorem State.transientError_onlyReports (s : State) (e : ErrInput) :
    OnlyReports { s with dev := { s.dev with errTransient := satInc s.dev.errTransient } } (s.transientError e) := by
  unfold State.transientError
  dsimp only
  have hl := State.logError_onlyReports { s with dev := { s.dev with errTransient := satInc s.dev.errTransient } } { e with cls := .transient }
  split
  · exact hl
  · refine hl.trans (.trans ?_ (State.postRaw_onlyReports _ _))
    exact ⟨rfl, rfl, rfl⟩

/-! ### Error records -/

theorem or_shiftLeft_of_lt {a i : Nat} (h : a < 2 ^ i) (b : Nat) : a ||| b <<< i = a + 2 ^ i * b := by
  rw [Nat.or_comm, ← Nat.shiftLeft_add_eq_or_of_lt h, Nat.shiftLeft_eq, Nat.add_comm, Nat.mul_comm]

theorem ErrClass.code_lt (c : ErrClass) : c.code < 256 := by cases c <;> decide

/-- The first word of a record as a sum of its fields (R70). -/
theorem ErrInput.record_w0 (e : ErrInput) (seq : Word) :
    (e.record seq).w0.toNat = e.index % 65536 + 2 ^ 16 * (e.unit % 256) + 2 ^ 24 * e.cls.code + 2 ^ 32 * seq.toNat := by
  have hs := seq.isLt
  have hc := e.cls.code_lt
  have h16 : e.index % 65536 < 2 ^ 16 := Nat.mod_lt _ (by decide)
  have h24 : e.index % 65536 + 2 ^ 16 * (e.unit % 256) < 2 ^ 24 := by omega
  have h32 : e.index % 65536 + 2 ^ 16 * (e.unit % 256) + 2 ^ 24 * e.cls.code < 2 ^ 32 := by omega
  simp only [ErrInput.record, BitVec.toNat_ofNat]
  rw [Nat.or_comm, Nat.or_comm _ (_ <<< 16), ← Nat.or_assoc, or_shiftLeft_of_lt h16, Nat.or_comm _ (_ <<< 24), ← Nat.or_assoc,
    or_shiftLeft_of_lt h24, or_shiftLeft_of_lt h32]
  omega

/-- An error record is written at ERR_TAIL, or dropped and counted (R70). -/
theorem State.logError_logged (s : State) (e : ErrInput) : Claims.Logged s (s.logError e) e.cls.code e.detail := by
  unfold Claims.Logged State.logError
  split
  case isTrue h => exact ⟨fun _ => ⟨rfl, rfl⟩, fun h' => absurd h h'⟩
  case isFalse h =>
    have hs := s.fcp.errSeq.isLt
    have hc := e.cls.code_lt
    refine ⟨fun h' => absurd h' h, fun _ => ⟨rfl, rfl, ?_⟩⟩
    dsimp only
    rw [sget_sset_self, ErrInput.record_w0]
    refine ⟨by omega, by omega, BitVec.toNat_ofNat ..⟩

/-! ### Event records -/

theorem sget_hostPut_of_lt (n : Nat) : ∀ (m : List Host.Cell) (addr v : Nat) {a : Nat}, a < addr →
    sget unlistedByte (hostPut m addr v n) a = sget unlistedByte m a := by
  induction n with
  | zero => exact fun _ _ _ _ _ => rfl
  | succ n ih => exact fun m addr v a h => (ih _ _ _ (by omega)).trans (sget_sset_ne _ (by omega) ..)

/-- Bytes that the part writes into host memory read back, lowest first. -/
theorem sget_hostPut (n : Nat) : ∀ (m : List Host.Cell) (addr v : Nat) {j : Nat}, j < n →
    sget unlistedByte (hostPut m addr v n) (addr + j) = BitVec.ofNat 8 (v / 256 ^ j) := by
  induction n with
  | zero => exact fun _ _ _ _ h => absurd h (Nat.not_lt_zero _)
  | succ n ih =>
    intro m addr v j h
    unfold hostPut
    cases j with
    | zero => rw [Nat.add_zero addr, sget_hostPut_of_lt _ _ _ _ (Nat.lt_add_one addr), sget_sset_self, Nat.pow_zero, Nat.div_one]
    | succ j => rw [show addr + (j + 1) = addr + 1 + j by omega, ih _ _ _ (by omega), Nat.div_div_eq_div_mul, ← Nat.pow_succ']

theorem EvRecord.word0_eq (e : EvRecord) (seq : Word) :
    e.word0 seq = e.ctx.toNat + 2 ^ 8 * e.queue.toNat + 2 ^ 16 * e.code.toNat + 2 ^ 24 * e.type.toNat + 2 ^ 32 * seq.toNat := by
  have h1 := e.ctx.isLt
  have h2 := e.queue.isLt
  have h3 := e.code.isLt
  have h4 := e.type.isLt
  unfold EvRecord.word0
  rw [Nat.or_comm, Nat.or_comm _ (_ <<< 8), ← Nat.or_assoc, or_shiftLeft_of_lt h1, Nat.or_comm _ (_ <<< 16), ← Nat.or_assoc,
    or_shiftLeft_of_lt (i := 16) (by omega), Nat.or_comm _ (_ <<< 24), ← Nat.or_assoc, or_shiftLeft_of_lt (i := 24) (by omega),
    or_shiftLeft_of_lt (i := 32) (by omega)]

/-- An event record as a sum of its fields (R63). -/
theorem EvRecord.bytes_eq (e : EvRecord) (seq : Word) : e.bytes seq = Claims.eventNat e seq := by
  have h1 := e.ctx.isLt
  have h2 := e.queue.isLt
  have h3 := e.code.isLt
  have h4 := e.type.isLt
  have h5 := seq.isLt
  have h6 := e.d0.isLt
  have h7 := e.d1.isLt
  unfold EvRecord.bytes Claims.eventNat
  rw [EvRecord.word0_eq, or_shiftLeft_of_lt (i := 64) (by omega), or_shiftLeft_of_lt (i := 128) (by omega), or_shiftLeft_of_lt (i := 192) (by omega)]

theorem State.signal_dev (s : State) (v : Nat) : ∃ x, (s.signal v).dev = { s.dev with msix := x } := by
  unfold State.signal
  dsimp only
  split <;> exact ⟨_, rfl⟩

theorem State.signal_fcp (s : State) (v : Nat) : (s.signal v).fcp = s.fcp := by
  unfold State.signal
  dsimp only
  split <;> rfl

theorem State.signal_hostByte (s : State) (v a : Nat) : (s.signal v).hostByte a = s.hostByte a := by
  unfold State.signal
  dsimp only
  split <;> rfl

theorem State.postNow_evqTail (s : State) (e : EvRecord) :
    (s.postNow e).dev.evqTail = BitVec.ofNat 16 ((s.dev.evqTail.toNat + 1) % 2 ^ s.dev.evqLog2.toNat) := by
  unfold State.postNow
  obtain ⟨_, h⟩ := State.signal_dev _ _
  rw [h]

theorem State.postNow_fcp (s : State) (e : EvRecord) : (s.postNow e).fcp = { s.fcp with evSeq := s.fcp.evSeq + 1 } := State.signal_fcp _ _

theorem State.postNow_hostByte (s : State) (e : EvRecord) {j : Nat} (h : j < 32) :
    (s.postNow e).hostByte (s.dev.evqBase.toNat + 32 * s.dev.evqTail.toNat + j) = BitVec.ofNat 8 (Claims.eventNat e s.fcp.evSeq / 256 ^ j) := by
  rw [← EvRecord.bytes_eq]
  exact (State.signal_hostByte _ _ _).trans (sget_hostPut _ _ _ _ h)

/-- An event that may not be dropped is written at EVQ_TAIL, or held behind those held (R63, R66). -/
theorem State.postRaw_posted (s : State) (e : EvRecord) (he : e.droppable = false) : Claims.Posted s (s.postRaw e) e := by
  have hd : ({ e with vec := s.evVector e } : EvRecord).droppable = false := he
  constructor
  · intro hb hn
    have h : s.postRaw e = s.postNow { e with vec := s.evVector e } := by simp [State.postRaw, hb, hn]
    rw [h, State.postNow_fcp]
    exact ⟨State.postNow_evqTail .., rfl, fun j hj => State.postNow_hostByte s _ hj⟩
  · intro hb hn
    have hc : (s.evqBlocked || !s.fcp.evStore.isEmpty) = true := by simpa using hb
    have h : s.postRaw e = s.holdEvent { e with vec := s.evVector e } := if_pos hc
    rw [h]
    unfold State.holdEvent
    dsimp only
    rw [hd, Bool.false_and, if_neg (by decide), if_neg (by omega)]

theorem posted_of_logError {s r : State} {e : EvRecord} (x : ErrInput) (h : Claims.Posted (s.logError x) r e) : Claims.Posted s r e := by
  obtain ⟨_, _, _, _, hf⟩ := s.logError_frame x
  rw [hf] at h
  exact h

/-! ### Held events (R66) -/

theorem State.postHeld_of_empty {s : State} (h : s.fcp.evStore = []) (n : Nat) :
    s.postHeld (n + 1) = { s with fcp := { s.fcp with keptUsed := false } } := by
  rw [State.postHeld, h]

theorem State.postHeld_cons {s : State} {e : EvRecord} {l : List EvRecord} (h : s.fcp.evStore = e :: l) (hb : s.evqBlocked = false) (n : Nat) :
    s.postHeld (n + 1) = (({ s with fcp := { s.fcp with evStore := l, keptUsed := false } }).postNow e).postHeld n := by
  rw [State.postHeld, h]
  exact if_neg (by simp [hb])

/-- What a state is after the oldest held record has been posted. -/
theorem State.postNow_oldest {s : State} {e : EvRecord} {l : List EvRecord} (hl : s.dev.evqLog2.toNat ≤ 16) {t : State}
    (ht : ({ s with fcp := { s.fcp with evStore := l, keptUsed := false } }).postNow e = t) :
    t.fcp.evStore = l ∧ t.fcp.evSeq = s.fcp.evSeq + 1 ∧ t.boot = s.boot ∧ t.dram = s.dram ∧ t.dev.evqEnable = s.dev.evqEnable
      ∧ t.dev.evqLog2 = s.dev.evqLog2 ∧ t.dev.evqHead = s.dev.evqHead
      ∧ t.dev.evqTail.toNat = (s.dev.evqTail.toNat + 1) % 2 ^ s.dev.evqLog2.toNat := by
  subst ht
  have hr := State.postNow_onlyReports { s with fcp := { s.fcp with evStore := l, keptUsed := false } } e
  have hp : 2 ^ s.dev.evqLog2.toNat ≤ 2 ^ 16 := Nat.pow_le_pow_right (by decide) hl
  have hm := Nat.mod_lt (s.dev.evqTail.toNat + 1) (Nat.two_pow_pos s.dev.evqLog2.toNat)
  refine ⟨by rw [State.postNow_fcp], by rw [State.postNow_fcp], hr.boot, hr.dram, (congrArg Dev.evqEnable hr.dev :), (congrArg Dev.evqLog2 hr.dev :),
    (congrArg Dev.evqHead hr.dev :), ?_⟩
  rw [State.postNow_evqTail, BitVec.toNat_ofNat]
  exact Nat.mod_eq_of_lt (hm.trans_le hp)

/-- The event queue has room for n records (R63). -/
def State.evqRoom (s : State) (n : Nat) : Prop :=
  ∀ i, i < n → (s.dev.evqTail.toNat + i + 1) % 2 ^ s.dev.evqLog2.toNat ≠ s.dev.evqHead.toNat

theorem State.evqBlocked_of_room {s : State} {n : Nat} (he : s.dev.evqEnable = true) (hr : s.hostReachable = true) (h : s.evqRoom (n + 1)) :
    s.evqBlocked = false := by
  have h0 := h 0 n.succ_pos
  simpa [State.evqBlocked, he, hr] using h0

/-- Where there is room for all of them, every held record is posted. -/
theorem State.postHeld_all (l : List EvRecord) : ∀ (s : State) (e : EvRecord), s.fcp.evStore = e :: l → s.dev.evqEnable = true →
    s.hostReachable = true → s.dev.evqLog2.toNat ≤ 16 → s.evqRoom (l.length + 1) → ∀ r, s.postHeld (l.length + 2) = r →
    r.fcp.evStore = [] ∧ r.dev.evqTail.toNat = (s.dev.evqTail.toNat + (l.length + 1)) % 2 ^ s.dev.evqLog2.toNat
      ∧ r.fcp.evSeq = s.fcp.evSeq + BitVec.ofNat 32 (l.length + 1) ∧ r.boot = s.boot ∧ r.dram = s.dram := by
  induction l with
  | nil =>
    intro s e hs he hr hl hroom r hh
    rw [State.postHeld_cons hs (State.evqBlocked_of_room he hr hroom)] at hh
    generalize ht : State.postNow _ e = t at hh
    obtain ⟨hst, hseq, hboot, hdram, -, -, -, htail⟩ := State.postNow_oldest hl ht
    rw [List.length_nil, State.postHeld_of_empty hst] at hh
    subst hh
    exact ⟨hst, htail, hseq, hboot, hdram⟩
  | cons a l ih =>
    intro s e hs he hr hl hroom r hh
    rw [State.postHeld_cons hs (State.evqBlocked_of_room he hr hroom)] at hh
    generalize ht : State.postNow _ e = t at hh
    obtain ⟨hst, hseq, hboot, hdram, hen, hlog, hhead, htail⟩ := State.postNow_oldest hl ht
    have hroom' : t.evqRoom (l.length + 1) := fun i hi => by
      have h1 := hroom (i + 1) (Nat.succ_lt_succ hi)
      rw [hlog, hhead, htail, Nat.add_assoc, Nat.mod_add_mod]
      rwa [show s.dev.evqTail.toNat + (i + 1) + 1 = s.dev.evqTail.toNat + 1 + (i + 1) by omega] at h1
    have hr' : t.hostReachable = true := by rw [State.hostReachable, hboot]; exact hr
    obtain ⟨h1, h2, h3, h4, h5⟩ := ih t a hst (hen.trans he) hr' (hlog ▸ hl) hroom' r hh
    refine ⟨h1, ?_, ?_, h4.trans hboot, h5.trans hdram⟩
    · rw [h2, hlog, htail, Nat.mod_add_mod, List.length_cons, Nat.add_assoc, Nat.add_comm 1]
    · rw [h3, hseq, List.length_cons, BitVec.add_assoc, BitVec.add_comm 1, BitVec.ofNat_add (l.length + 1)]
      rfl

/-- Held records go to the event queue as R66 says. -/
theorem State.drainEvents_drains (s : State) : Claims.Drains s s.drainEvents := by
  constructor
  · intro h
    unfold State.drainEvents
    rw [h]
    exact State.postHeld_of_empty h 0
  · intro h he hr hl hroom
    obtain ⟨e, l, hs⟩ := List.exists_cons_of_ne_nil h
    have hlen : s.fcp.evStore.length = l.length + 1 := by rw [hs, List.length_cons]
    rw [hlen] at hroom ⊢
    exact State.postHeld_all l s e hs he hr hl hroom _ (by unfold State.drainEvents; rw [hlen])

/-! ### A status record brought up to date leaves the module alone (R53) -/

theorem foldl_boot {α : Type} {f : State → α → State} (hf : ∀ s a, (f s a).boot = s.boot) :
    ∀ (l : List α) (s : State), (l.foldl f s).boot = s.boot
  | [], _ => rfl
  | a :: l, s => (foldl_boot hf l (f s a)).trans (hf s a)

theorem State.logError_boot (s : State) (e : ErrInput) : (s.logError e).boot = s.boot := (s.logError_onlyReports e).boot
theorem State.postRaw_boot (s : State) (e : EvRecord) : (s.postRaw e).boot = s.boot := (s.postRaw_onlyReports e).boot
theorem State.lastingError_boot (s : State) (e : ErrInput) : (s.lastingError e).boot = s.boot := (s.lastingError_onlyReports e).boot
theorem State.transientError_boot (s : State) (e : ErrInput) : (s.transientError e).boot = s.boot := (s.transientError_onlyReports e).boot

theorem State.physPut_boot (s : State) (pa : Nat) (b : Byte) : (s.physPut pa b).boot = s.boot := by
  unfold State.physPut State.wakeChan State.noteWritten
  repeat' (first | rfl | split)

theorem State.meetSram_boot (s : State) (ctx : Option (BitVec 5)) (a : SramAt) (clean : Option Bool) : (s.meetSram ctx a clean).boot = s.boot := by
  unfold State.meetSram
  split
  · rfl
  · dsimp only
    split
    · rw [State.lastingError_boot]; split <;> rfl
    · rw [State.transientError_boot]; split <;> rfl

theorem State.noteBadAccess_boot (s : State) (pa : Nat) (ctx : Option (BitVec 5)) : (s.noteBadAccess pa ctx).boot = s.boot := by
  unfold State.noteBadAccess
  split
  · rfl
  · split
    · exact s.lastingError_boot _
    · split
      · rfl
      · exact s.meetSram_boot ..

theorem State.putBack_boot (s : State) (ctx : BitVec 5) (line : Nat) (bs : List (Nat × Byte)) : (s.putBack ctx line bs).boot = s.boot := by
  have hf := foldl_boot (f := fun (t : State) (b : Nat × Byte) => t.physPut (line * 128 + b.1) b.2) (fun t _ => t.physPut_boot _ _) bs s
  unfold State.putBack
  split
  · rfl
  · dsimp only
    split
    · exact (State.noteBadAccess_boot ..).trans hf
    · exact hf

theorem State.writeBackStash_boot (s : State) (tu ln : Nat) (drop : Bool) : (s.writeBackStash tu ln drop).boot = s.boot := by
  unfold State.writeBackStash
  split
  · rfl
  · split
    · rfl
    · dsimp only
      split <;> exact s.putBack_boot ..

theorem State.recall_boot (s : State) (pa : Nat) (write : Bool) : (s.recall pa write).boot = s.boot := by
  unfold State.recall
  split
  · rfl
  · exact s.writeBackStash_boot ..

theorem State.ctxPut_boot (s : State) (ctx : BitVec 5) (pa : Nat) (b : Byte) : (s.ctxPut ctx pa b).boot = s.boot := by
  have h : ((s.recall pa true).physPut pa b).boot = s.boot := (State.physPut_boot ..).trans (s.recall_boot ..)
  unfold State.ctxPut
  dsimp only
  split <;> exact h

theorem State.incGen_boot (s : State) (pa : Nat) : (s.incGen pa).boot = s.boot := by
  unfold State.incGen
  dsimp only
  split
  · exact s.lastingError_boot _
  · rfl

theorem State.ownPut_boot (ctx : BitVec 5) (n : Nat) : ∀ (s : State) (va v : Nat), (s.ownPut ctx va v n).boot = s.boot := by
  induction n with
  | zero => exact fun _ _ _ => rfl
  | succ n ih =>
    intro s va v
    unfold State.ownPut
    rw [ih]
    split
    · exact s.ctxPut_boot ..
    · rfl

theorem State.ownWrite_boot {s t : State} {ctx : BitVec 5} {va v n : Nat} (e : s.ownWrite ctx va v n = .ok t) : t.boot = s.boot := by
  unfold State.ownWrite at e
  split at e
  · cases e
  · simp only [Except.ok.injEq] at e
    rw [← e]
    refine (foldl_boot (fun u l => ?_) _ _).trans (State.ownPut_boot ..)
    split
    · split
      · exact u.incGen_boot _
      · rfl
    · rfl

theorem State.noteOwnError_boot (s : State) (ctx : BitVec 5) (va : Nat) : (s.noteOwnError ctx va).boot = s.boot := by
  unfold State.noteOwnError
  refine foldl_boot (fun t a => ?_) _ _
  split
  · exact t.noteBadAccess_boot ..
  · rfl

theorem State.logLost_boot (s : State) (ctx : BitVec 5) (queue : BitVec 8) (code kind va : Nat) :
    (s.logLost ctx queue code kind va).boot = s.boot := by
  unfold State.logLost
  refine (State.logError_boot ..).trans ?_
  split
  · exact s.noteOwnError_boot ..
  · rfl

theorem State.updateStatus_boot (s : State) (ctx : BitVec 5) : (s.updateStatus ctx).boot = s.boot := by
  unfold State.updateStatus
  dsimp only
  split
  · rfl
  · split
    case h_1 h => exact (State.modCtx_boot ..).trans (State.ownWrite_boot h)
    case h_2 =>
      split
      · rfl
      · exact (State.postRaw_boot ..).trans (State.logLost_boot ..)

/-- The status records that have waited for the host, brought up to date: what `State.hostReturns` does before it posts events (R39, R53). -/
def State.statusesUpdated (s : State) : State :=
  ((List.range 32).map (BitVec.ofNat 5)).foldl (fun t c => if (t.ctx c).statusDue then t.updateStatus c else t) s

theorem State.statusesUpdated_boot (s : State) : s.statusesUpdated.boot = s.boot := by
  refine foldl_boot (fun t c => ?_) _ _
  split
  · exact t.updateStatus_boot c
  · rfl

/-- Where no status record waits, none is written. -/
theorem State.statusesUpdated_of_none_due {s : State} (h : ∀ c, (s.ctx c).statusDue = false) : s.statusesUpdated = s := by
  unfold State.statusesUpdated
  induction (List.range 32).map (BitVec.ofNat 5) with
  | nil => rfl
  | cons c l ih => rw [List.foldl_cons, h c]; exact ih

end Sys2Proof.Machine
end

section
/-! SUPPORT. The resets, the boot, the link, the channels and the pins: one lemma per clause of O56. -/

namespace Sys2Proof.Machine

/-! ### Resets, power and boot (R20 to R28, R32, R42, R43) -/

theorem State.awake_iff (s : State) : s.awake = true ↔ s.boot.phase ≠ .off ∧ s.boot.phase ≠ .perstLow ∧ s.boot.phase ≠ .tripped := by
  simp [State.awake, and_assoc]

theorem State.resetPart_cleared (s : State) (b : Boot) : Claims.Cleared (s.resetPart b) :=
  ⟨rfl, rfl, rfl, rfl, rfl, rfl, rfl, rfl, rfl, rfl⟩

theorem State.resetPart_hostByte (s : State) (b : Boot) (a : Nat) : (s.resetPart b).hostByte a = s.hostByte a := rfl

/-- A fundamental reset, a hot reset and a Function Level Reset. -/
theorem resets_clear (s : State) (p : Instr × BootPhase × Bool) (hp : p ∈ Claims.resets) (hoff : s.boot.phase ≠ .off)
    (h : p.1 = .perstNAssert ∨ (s.boot.phase ≠ .perstLow ∧ s.boot.phase ≠ .tripped ∧ s.boot.linkUp = true)) :
    ∃ r, exec p.1 s = .next r ∧ Claims.Cleared r ∧ (∀ a, r.hostByte a = s.hostByte a) ∧ r.boot.phase = p.2.1 ∧ r.boot.linkUp = p.2.2
      ∧ r.boot.linkDead = false ∧ r.boot.d3hot = false ∧ r.boot.thermTrip = false ∧ r.boot.thermAlert = false := by
  have hup (hi : p.1 ≠ .perstNAssert) : (s.awake && s.boot.linkUp) = true := by
    obtain ⟨hl, ht, hu⟩ := h.resolve_left hi
    rw [hu, Bool.and_true]
    exact s.awake_iff.2 ⟨hoff, hl, ht⟩
  simp only [Claims.resets, List.mem_cons, List.not_mem_nil, or_false] at hp
  obtain rfl | rfl | rfl := hp
  · have hpow : s.powered = true := by simpa [State.powered] using hoff
    exact ⟨_, congrArg Host.Outcome.next (if_pos hpow), s.resetPart_cleared _, s.resetPart_hostByte _, rfl, rfl, rfl, rfl, rfl, rfl⟩
  · exact ⟨_, congrArg Host.Outcome.next (if_pos (hup (by decide))), s.resetPart_cleared _, s.resetPart_hostByte _, rfl, rfl, rfl, rfl, rfl, rfl⟩
  · exact ⟨_, congrArg Host.Outcome.next (if_pos (hup (by decide))), s.resetPart_cleared _, s.resetPart_hostByte _, rfl, rfl, rfl, rfl, rfl, rfl⟩

theorem execPowerRemoval_clears (s : State) (h : s.boot.phase = .perstLow) :
    ∃ r, exec .powerRemoval s = .next r ∧ Claims.Cleared r ∧ r.boot.phase = .off ∧ r.boot.clkreqLow = false :=
  ⟨_, congrArg Host.Outcome.next (if_pos h), s.resetPart_cleared _, rfl, rfl⟩

theorem execPowerUp_clears (s : State) (h : s.boot.phase = .off) :
    ∃ r, exec .powerUp s = .next r ∧ Claims.Cleared r ∧ r.boot.phase = .perstLow ∧ r.boot.clkreqLow = true :=
  ⟨_, congrArg Host.Outcome.next (if_pos h), s.resetPart_cleared _, rfl, rfl⟩

theorem execThermalTrip_clears (s : State) (n : BitVec 8) (hoff : s.boot.phase ≠ .off) (ht : s.boot.phase ≠ .tripped) (hn : n.toNat < 32) :
    ∃ r, exec (.thermalTrip n) s = .next r ∧ Claims.Cleared r ∧ r.boot.phase = .tripped ∧ r.boot.thermTrip = true := by
  have hc : (s.powered && s.boot.phase != .tripped && decide (n.toNat < 32)) = true := by simp [State.powered, hoff, ht, hn]
  exact ⟨_, congrArg Host.Outcome.next (if_pos hc), s.resetPart_cleared _, rfl, rfl⟩

/-- With THERM_TRIP_N low nothing but PERST_N starts the part (R43). -/
theorem restarts_of_tripped (s : State) (n : BitVec 8) (w : Word) (h : s.boot.phase = .tripped) :
    ∀ i ∈ Claims.restarts n w, exec i s = .next s := by
  have ha : s.awake = false := by simp [State.awake, h]
  simp [Claims.restarts, exec, execPerstNDeassert, execHotReset, execFunctionLevelReset, execPowerRemoval, execPowerUp, execFirmwareLoadDone,
    execChannelTrainingDone, execLinkUp, execConfigurationRequest, execThermalTrip, h, ha]

theorem execPerstNDeassert_of_perstLow (s : State) (h : s.boot.phase = .perstLow) :
    exec .perstNDeassert s = .next { s with boot := { s.boot with phase := .rom } } := congrArg Host.Outcome.next (if_pos h)

theorem execFirmwareLoadDone_of_rom (s : State) (e b : BitVec 8) (h : s.boot.phase = .rom) :
    (e = 0 → exec (.firmwareLoadDone e b) s = .next { s with boot := { s.boot with phase := .training }, dev := { s.dev with fwBuild := b } })
      ∧ (e = 1 ∨ e = 2 ∨ e = 3 →
          exec (.firmwareLoadDone e b) s = .next { s with boot := { s.boot with phase := .bootFailed }, dev := { s.dev with bootErr := e } }) := by
  constructor
  · exact fun he => congrArg Host.Outcome.next ((if_pos h).trans (if_pos he))
  · intro he
    have he' : e ≠ 0 ∧ e.toNat ≤ 3 := by obtain rfl | rfl | rfl := he <;> decide
    exact congrArg Host.Outcome.next ((if_pos h).trans ((if_neg he'.1).trans (if_pos he'.2)))

theorem exec_of_bootFailed (s : State) (e b : BitVec 8) (w : Word) (h : s.boot.phase = .bootFailed) :
    exec (.firmwareLoadDone e b) s = .next s ∧ exec (.channelTrainingDone w b) s = .next s := by
  simp [exec, execFirmwareLoadDone, execChannelTrainingDone, h]

theorem sget_filter {α : Type} (d : α) (p : Nat → Bool) (a : Nat) : ∀ m : Sparse α,
    sget d (m.filter fun c => p c.1) a = if p a then sget d m a else d
  | [] => by simp [sget]
  | (k, v) :: r => by
    have ih := sget_filter d p a r
    by_cases hk : k = a
    · subst hk
      cases hp : p k <;> simp_all [sget]
    · cases hp : p k <;> simp_all [sget]

theorem State.zeroGenerations_dramByte (s : State) (a : Nat) :
    s.zeroGenerations.dramByte a = if Config.genBase ≤ a then 0 else s.dramByte a := by
  have h := sget_filter unlistedByte (fun k => decide (k < Config.genBase)) a s.dram.mem.cells
  refine h.trans ?_
  by_cases ha : Config.genBase ≤ a
  · rw [if_pos ha, if_neg (by simpa using ha)]; rfl
  · rw [if_neg ha, if_pos (by simpa using ha)]; rfl

theorem satInc_iterate_toNat (k : Nat) (h : k < 2 ^ 32) : (satInc^[k] 0).toNat = k := by
  induction k with
  | zero => rfl
  | succ k ih =>
    have hk := ih (by omega)
    rw [Function.iterate_succ_apply']
    generalize satInc^[k] 0 = w at hk ⊢
    have hw : w ≠ 0xFFFFFFFF#32 := by rintro rfl; simp at hk; omega
    rw [satInc, if_neg hw, BitVec.toNat_add, hk]
    exact Nat.mod_eq_of_lt h

/-- One lasting error is counted and reported for each failed channel (R32). -/
theorem reportChannels_onlyReports (l : List Nat) : ∀ s : State,
    OnlyReports { s with dev := { s.dev with errLasting := satInc^[l.length] s.dev.errLasting } } (l.foldl State.reportChannel s) := by
  induction l with
  | nil => exact fun s => ⟨rfl, rfl, rfl⟩
  | cons n l ih =>
    intro s
    have h1 := s.lastingError_onlyReports { cls := .lasting, unit := 4, index := n, struct := 10, sub := 0, addr := 0, detail := 0, ctx := none }
    have h2 := ih (s.reportChannel n)
    have hn : (s.reportChannel n).dev.errLasting = satInc s.dev.errLasting := (congrArg Dev.errLasting h1.dev :)
    rw [hn] at h2
    exact (h1.withErrLasting _).trans h2

theorem execChannelTrainingDone_of_training (s : State) (rate : BitVec 8) (h : s.boot.phase = .training) (hr : rate.toNat ≤ 5) :
    (rate ≠ 0 → ∃ r, exec (.channelTrainingDone 0 rate) s = .next r ∧ r.dev = { s.dev with ready := true, memRate := rate }
        ∧ r.boot.phase = .trained ∧ (∀ a, r.dramByte a = if Config.genBase ≤ a then 0 else s.dramByte a))
      ∧ ∀ w : Word, w ≠ 0 → (rate ≠ 0 ∨ w = 0xFFFFFFFF#32) →
          ∃ r, exec (.channelTrainingDone w rate) s = .next r ∧ r.dev.ready = s.dev.ready ∧ r.dev.bootErr = 4 ∧ r.dev.chanFail = w
            ∧ r.boot.phase = .trained ∧ (∀ a, r.dramByte a = if Config.genBase ≤ a then 0 else s.dramByte a)
            ∧ (s.dev.errLasting = 0 → r.dev.errLasting.toNat = ((List.range 32).filter fun n => w.getLsbD n).length) := by
  constructor
  · intro h0
    have hc : (s.boot.phase = .training && decide (rate.toNat ≤ 5) && (rate != 0 || (0 : Word) == 0xFFFFFFFF#32)) = true := by simpa [h, hr] using h0
    exact ⟨_, congrArg Host.Outcome.next ((if_pos hc).trans (if_pos rfl)), rfl, rfl, s.zeroGenerations_dramByte⟩
  · intro w hw h0
    have hc : (s.boot.phase = .training && decide (rate.toNat ≤ 5) && (rate != 0 || w == 0xFFFFFFFF#32)) = true := by simpa [h, hr] using h0
    refine ⟨_, congrArg Host.Outcome.next ((if_pos hc).trans (if_neg hw)), ?_⟩
    have hf := reportChannels_onlyReports ((List.range 32).filter fun n => w.getLsbD n)
      { s with boot := { s.boot with phase := .trained }, dram := s.zeroGenerations.dram, gov := { s.gov with memRate := rate },
               dev := { s.dev with bootErr := 4, chanFail := w } }
    refine ⟨(congrArg Dev.ready hf.dev :), (congrArg Dev.bootErr hf.dev :), (congrArg Dev.chanFail hf.dev :), ?_, ?_, ?_⟩
    · exact congrArg Boot.phase hf.boot
    · intro a
      exact (congrArg (·.mem.read a) hf.dram).trans (s.zeroGenerations_dramByte a)
    · intro hz
      rw [hz] at hf
      have hlen := List.length_filter_le (fun n => w.getLsbD n) (List.range 32)
      rw [List.length_range] at hlen
      exact (congrArg (·.errLasting.toNat) hf.dev).trans (satInc_iterate_toNat _ (by omega))

theorem execAcceptChannels_of_served (s : State) (h : s.served = true) :
    (s.dev.bootErr = 4 → exec .acceptChannels s = .next { s with dev := { s.dev with ready := true, degraded := true, memRate := s.gov.memRate } })
      ∧ (s.dev.bootErr ≠ 4 → ∃ r, exec .acceptChannels s = .next r ∧ Claims.Logged s r 5 0x10 ∧ r.dev.ready = s.dev.ready
          ∧ r.dev.degraded = s.dev.degraded) := by
  constructor
  · exact fun he => congrArg Host.Outcome.next ((if_pos h).trans (if_pos he))
  · intro he
    have hr := s.logError_onlyReports
      { cls := .regMisuse, unit := 6, index := 0, struct := 0, sub := 0, addr := 0, detail := 0x10, ctx := none }
    exact ⟨_, congrArg Host.Outcome.next ((if_pos h).trans (if_neg he)), s.logError_logged _,
      (congrArg Dev.ready hr.dev :), (congrArg Dev.degraded hr.dev :)⟩

/-! ### Configuration requests and the link (R24, R36 to R40) -/

theorem configurationRequest_results (s : State) (hu : s.boot.linkUp = true) :
    (s.awake = true → ∀ q, s.turn (.hostAsk q) = .next { s with boot := { s.boot with asks := s.boot.asks ++ [q] } })
      ∧ (s.boot.phase = .rom →
          exec .configurationRequest s = .next { s with boot := { s.boot with configAnswer := .retry, asks := s.boot.asks.tail } })
      ∧ (s.boot.phase = .training ∨ s.boot.phase = .bootFailed ∨ s.boot.phase = .trained →
          (s.boot.asks.headD .other = .other →
            exec .configurationRequest s = .next { s with boot := { s.boot with configAnswer := .completed, asks := s.boot.asks.tail } })
          ∧ ∀ n : BitVec 6, s.boot.asks.head? = some (.resize n) →
              ∃ r, exec .configurationRequest s = .next r ∧ r.boot = { s.boot with configAnswer := .completed, asks := s.boot.asks.tail }
              ∧ r.dev.bar2Log2 = (if 28 ≤ n.toNat ∧ n.toNat ≤ 37 then n.toNat else s.dev.bar2Log2)
              ∧ r.dev.apertureBase = s.dev.apertureBase ∧ SameMemory s r) := by
  refine ⟨fun ha q => ?_, fun hp => ?_, fun hp => ?_⟩
  · have hc : (s.boot.linkUp && s.awake) = true := by simp [hu, ha]
    exact congrArg Host.Outcome.next (if_pos hc)
  · have hc : (s.boot.linkUp && s.awake) = true := by simp [hu, State.awake, hp]
    have hn : ¬ s.configured = true := by simp [State.configured, hp]
    exact congrArg Host.Outcome.next ((if_pos hc).trans (if_neg hn))
  · have hc : (s.boot.linkUp && s.awake) = true := by obtain hp | hp | hp := hp <;> simp [hu, State.awake, hp]
    have hn : s.configured = true := by obtain hp | hp | hp := hp <;> simp [State.configured, hp]
    have he : exec .configurationRequest s = .next
        { s with boot := { s.boot with configAnswer := .completed, asks := s.boot.asks.tail }
                 dev := s.dev.configure (s.boot.asks.headD .other) } := congrArg Host.Outcome.next ((if_pos hc).trans (if_pos hn))
    constructor
    · intro ho
      rw [he, ho]
      rfl
    · intro n ho
      rw [List.headD_eq_head?_getD, ho, Option.getD_some] at he
      refine ⟨_, he, rfl, ?_, ?_, fun _ => rfl, fun _ => rfl, fun _ _ => rfl⟩
      · by_cases hr : 28 ≤ n.toNat ∧ n.toNat ≤ 37 <;> simp [Dev.configure, hr]
      · by_cases hr : 28 ≤ n.toNat ∧ n.toNat ≤ 37 <;> simp [Dev.configure, hr]

/-- What waits for the host is written when it can be reached again: first the status records, then the held events (R39, R66). -/
theorem State.hostReturns_drains (s : State) : ∃ m, Claims.Drains m s.hostReturns ∧ m.boot = s.boot
    ∧ ((∀ c, (s.ctx c).statusDue = false) → m = s) :=
  ⟨s.statusesUpdated, s.statusesUpdated.drainEvents_drains, s.statusesUpdated_boot, State.statusesUpdated_of_none_due⟩

theorem execLinkUp_drains (s : State) (h : s.awake = true) :
    ∃ m r, exec .linkUp s = .next r ∧ Claims.Drains m r ∧ m.boot = { s.boot with linkUp := true }
      ∧ ((∀ c, (s.ctx c).statusDue = false) → m = { s with boot := { s.boot with linkUp := true } }) := by
  obtain ⟨m, hd, hb, hm⟩ := State.hostReturns_drains { s with boot := { s.boot with linkUp := true } }
  exact ⟨m, _, congrArg Host.Outcome.next (if_pos h), hd, hb, hm⟩

theorem execD0Return_drains (s : State) (h : s.boot.d3hot = true) :
    ∃ m r, exec .d0Return s = .next r ∧ Claims.Drains m r ∧ m.boot = { s.boot with d3hot := false }
      ∧ ((∀ c, (s.ctx c).statusDue = false) → m = { s with boot := { s.boot with d3hot := false } }) := by
  obtain ⟨m, hd, hb, hm⟩ := State.hostReturns_drains { s with boot := { s.boot with d3hot := false } }
  exact ⟨m, _, congrArg Host.Outcome.next (if_pos h), hd, hb, hm⟩

theorem execD3hotEntry_of_configured (s : State) (hc : s.configured = true) (hu : s.boot.linkUp = true) :
    exec .d3hotEntry s = .next { s with boot := { s.boot with d3hot := true } } :=
  congrArg Host.Outcome.next (if_pos (by rw [hc, hu]; rfl))

theorem Queue.linkHalt_eq (q : Queue) : q.linkHalt = { q with st := if q.st = .running then .halted else q.st } := by
  unfold Queue.linkHalt
  split <;> rfl

theorem State.queue_map_linkHalt {s t : State} (h : t.queues = s.queues.map Queue.linkHalt) (q : BitVec 6) : t.queue q = (s.queue q).linkHalt := by
  unfold State.queue
  rw [h]
  exact List.getD_map _ (f := Queue.linkHalt) (d := Queue.reset)

theorem State.group_map_dropHost {s t : State} (h : t.groups = s.groups.map fun g => { g with ops := g.ops.map Op.dropHost }) {u : Nat} {g : Group}
    (hg : s.group u = some g) : t.group u = some { g with ops := g.ops.map Op.dropHost } := by
  unfold State.group at *
  rw [h, List.find?_map]
  exact congrArg (Option.map _) hg

/-- Link errors are counted; an uncorrectable one is logged with its bus address, and a fatal one halts every running queue (R36, R40). -/
theorem linkErrors_results (s : State) (bus : Dword) (ha : s.awake = true) (hu : s.boot.linkUp = true) :
    exec .correctableLinkError s = .next { s with boot := { s.boot with aerCorrectable := satInc s.boot.aerCorrectable } }
      ∧ (∃ r, exec (.uncorrectableLinkError ⟨false, bus⟩) s = .next r ∧ Claims.Logged s r 9 bus.toNat ∧ r.queues = s.queues ∧ r.groups = s.groups
          ∧ r.boot = { s.boot with aerNonfatal := satInc s.boot.aerNonfatal })
      ∧ ∃ r, exec (.uncorrectableLinkError ⟨true, bus⟩) s = .next r ∧ Claims.Logged s r 9 bus.toNat ∧ r.boot.linkUp = false ∧ r.hostReachable = false
          ∧ r.boot.aerFatal = satInc s.boot.aerFatal ∧ r.ctxs = s.ctxs ∧ r.teams = s.teams ∧ SameMemory s r
          ∧ (∀ q, r.queue q = { s.queue q with st := if (s.queue q).st = .running then .halted else (s.queue q).st })
          ∧ ∀ u g, s.group u = some g → ∃ o, r.group u = some { g with ops := o } := by
  have hc : (s.awake && s.boot.linkUp) = true := by rw [ha, hu]; rfl
  have hn : ¬ (!(s.awake && s.boot.linkUp)) = true := by rw [hc]; decide
  have hl := s.logError_logged { cls := .link, unit := 6, index := 0, struct := 0, sub := 0, addr := 0, detail := bus.toNat, ctx := none }
  obtain ⟨log, tail, dropped, seq, hf⟩ :=
    s.logError_frame { cls := .link, unit := 6, index := 0, struct := 0, sub := 0, addr := 0, detail := bus.toNat, ctx := none }
  rw [hf] at hl
  refine ⟨congrArg Host.Outcome.next (if_pos hc), ?_, ?_⟩
  · have he : exec (.uncorrectableLinkError ⟨false, bus⟩) s = _ := congrArg Host.Outcome.next ((if_neg hn).trans (if_pos rfl))
    rw [hf] at he
    exact ⟨_, he, hl, rfl, rfl, rfl⟩
  · have he : exec (.uncorrectableLinkError ⟨true, bus⟩) s = _ := congrArg Host.Outcome.next ((if_neg hn).trans (if_neg Bool.false_ne_true))
    rw [hf] at he
    refine ⟨_, he, hl, rfl, rfl, rfl, rfl, rfl, ⟨fun _ => rfl, fun _ => rfl, fun _ _ => rfl⟩, fun q => ?_, fun u g hg => ?_⟩
    · rw [← Queue.linkHalt_eq]
      exact State.queue_map_linkHalt (s := s) rfl q
    · exact ⟨_, State.group_map_dropHost (s := s) rfl hg⟩

/-! ### Pins (R20, R22) -/

theorem State.postNow_errLog (s : State) (e : EvRecord) :
    (s.postNow e).dev.errLog = s.dev.errLog ∧ (s.postNow e).dev.errTail = s.dev.errTail := by
  unfold State.postNow
  obtain ⟨_, h⟩ := State.signal_dev _ _
  rw [h]
  exact ⟨rfl, rfl⟩

/-- An event leaves the error log alone. -/
theorem State.postRaw_errLog (s : State) (e : EvRecord) :
    (s.postRaw e).dev.errLog = s.dev.errLog ∧ (s.postRaw e).dev.errTail = s.dev.errTail := by
  unfold State.postRaw
  dsimp only
  split
  · unfold State.holdEvent
    dsimp only
    split
    · exact ⟨rfl, rfl⟩
    · split <;> exact ⟨rfl, rfl⟩
  · exact s.postNow_errLog _

theorem execRegulatorAlert_results (s : State) (w : BitVec 16) (h : s.boot.phase = .training ∨ s.boot.phase = .trained) :
    ∃ r m, exec (.regulatorAlert w) s = .next r ∧ r.boot.pmbAlert = w ∧ Claims.Logged s m 7 w.toNat ∧ r.dev.errLog = m.dev.errLog
      ∧ r.dev.errTail = m.dev.errTail ∧ (∀ a, r.dramByte a = s.dramByte a)
      ∧ Claims.Posted s r { type := 0x13, code := 0, queue := 0xFF, ctx := 0xFF, d0 := w.setWidth 64, d1 := 0, d2 := 0 } := by
  let e : ErrInput := { cls := .regulator, unit := 5, index := 0, struct := 0, sub := 0, addr := 0, detail := w.toNat, ctx := none }
  let s1 : State := { s with boot := { s.boot with pmbAlert := w } }
  have hw : w.setWidth 64 = BitVec.ofNat 64 w.toNat := BitVec.eq_of_toNat_eq (by simp)
  have hr : OnlyReports s1 ((s1.logError e).postDev 0x13 0 w.toNat 0) := (s1.logError_onlyReports e).trans (State.postRaw_onlyReports _ _)
  refine ⟨(s1.logError e).postDev 0x13 0 w.toNat 0, s1.logError e, congrArg Host.Outcome.next (if_pos (by simpa using h)),
    congrArg Boot.pmbAlert hr.boot, s1.logError_logged e, (State.postRaw_errLog _ _).1, (State.postRaw_errLog _ _).2,
    fun a => congrArg (·.mem.read a) hr.dram, ?_⟩
  rw [hw]
  exact posted_of_logError (s := s1) e (State.postRaw_posted _ _ rfl)

/-- New levels on the test pins, before anything follows from them. -/
def Tap.pins (t : Tap) (tck tdi tms trstN : Bool) : Tap := { t with tck := tck, tdi := tdi, tms := tms, trstN := trstN }

/-- What follows from new levels on the test pins, but for the instruction that Test-Logic-Reset selects. -/
def Tap.moved (t : Tap) (tck tdi tms trstN : Bool) (balls : List Bool) : Tap :=
  let u := t.pins tck tdi tms trstN
  if !trstN then u.cleared else if tck && !t.tck then u.rise balls else if t.tck && !tck then u.fall else u

theorem Tap.drive_eq_moved (t : Tap) (tck tdi tms trstN : Bool) (balls : List Bool) :
    ∃ x, t.drive tck tdi tms trstN balls = { t.moved tck tdi tms trstN balls with inst := x } := by
  by_cases h : (t.moved tck tdi tms trstN balls).st = .testLogicReset
  · exact ⟨_, if_pos h⟩
  · exact ⟨(t.moved tck tdi tms trstN balls).inst, if_neg h⟩

/-- Two test ports with the same levels on the pins. -/
def Tap.SamePins (t u : Tap) : Prop := u.tck = t.tck ∧ u.tdi = t.tdi ∧ u.tms = t.tms ∧ u.trstN = t.trstN

theorem Tap.rise_samePins (t : Tap) (balls : List Bool) : t.SamePins (t.rise balls) := by
  unfold Tap.rise
  dsimp only
  split <;> exact ⟨rfl, rfl, rfl, rfl⟩

theorem Tap.fall_samePins (t : Tap) : t.SamePins t.fall := by
  unfold Tap.fall
  split <;> exact ⟨rfl, rfl, rfl, rfl⟩

theorem Tap.moved_samePins (t : Tap) (tck tdi tms trstN : Bool) (balls : List Bool) :
    (t.pins tck tdi tms trstN).SamePins (t.moved tck tdi tms trstN balls) := by
  unfold Tap.moved
  dsimp only
  split
  · exact ⟨rfl, rfl, rfl, rfl⟩
  · split
    · exact Tap.rise_samePins _ _
    · split
      · exact Tap.fall_samePins _
      · exact ⟨rfl, rfl, rfl, rfl⟩

theorem Tap.moved_st_of_trst (t : Tap) (tck tdi tms : Bool) (balls : List Bool) : (t.moved tck tdi tms false balls).st = .testLogicReset := rfl

theorem Tap.moved_of_rise {t : Tap} (h : t.tck = false) (tdi tms : Bool) (balls : List Bool) :
    t.moved true tdi tms true balls = (t.pins true tdi tms true).rise balls := by
  simp [Tap.moved, h]

theorem Tap.moved_of_fall {t : Tap} (h : t.tck = true) (tdi tms : Bool) (balls : List Bool) :
    t.moved false tdi tms true balls = (t.pins false tdi tms true).fall := by
  simp [Tap.moved, h]

theorem Tap.moved_of_level {t : Tap} {tck : Bool} (h : t.tck = tck) (tdi tms : Bool) (balls : List Bool) :
    t.moved tck tdi tms true balls = t.pins tck tdi tms true := by
  simp [Tap.moved, h]

theorem Tap.fall_st (t : Tap) : t.fall.st = t.st := by
  unfold Tap.fall
  split <;> rfl

/-- Without a rising edge the controller keeps its state. -/
theorem Tap.moved_st_of_no_rise {t : Tap} {tck : Bool} (h : tck = false ∨ t.tck = true) (tdi tms : Bool) (balls : List Bool) :
    (t.moved tck tdi tms true balls).st = t.st := by
  by_cases ht : t.tck = tck
  · rw [Tap.moved_of_level ht]; rfl
  · have hf : tck = false ∧ t.tck = true := by revert h ht; cases tck <;> cases t.tck <;> simp
    obtain ⟨rfl, hk⟩ := hf
    rw [Tap.moved_of_fall hk, Tap.fall_st]; rfl

theorem Tap.fall_tdo_of_shiftDr {t : Tap} (h : t.st = .shiftDr) : t.fall.tdo = t.dr.head? := by
  rw [Tap.fall, h]

theorem Tap.rise_dr_of_shiftDr {t : Tap} (h : t.st = .shiftDr) (balls : List Bool) : (t.rise balls).dr = t.dr.drop 1 ++ [t.tdi] := by
  rw [Tap.rise, h]

theorem Tap.rise_ir_of_shiftIr {t : Tap} (h : t.st = .shiftIr) (balls : List Bool) : (t.rise balls).ir = t.ir.drop 1 ++ [t.tdi] := by
  rw [Tap.rise, h]

theorem Tap.rise_pins_st (t : Tap) (tdi tms : Bool) (balls : List Bool) : ((t.pins true tdi tms true).rise balls).st = t.st.next tms := rfl

theorem execBoundaryScan_results (s : State) (tck tdi tms trstN : Bool) (h : s.boot.phase ≠ .off) :
    ∃ x, exec (.boundaryScan tck tdi tms trstN) s = .next { s with boot := { s.boot with tap := x } }
      ∧ x.tck = tck ∧ x.tdi = tdi ∧ x.tms = tms ∧ x.trstN = trstN
      ∧ (trstN = false ∨ s.boot.phase = .perstLow → x.st = .testLogicReset)
      ∧ (s.boot.phase ≠ .perstLow → trstN = true →
          (tck = false ∨ s.boot.tap.tck = true → x.st = s.boot.tap.st)
          ∧ (tck = true → s.boot.tap.tck = false →
              (s.boot.tap.st = .shiftDr → (x.st = if tms = true then .exit1Dr else .shiftDr) ∧ x.dr = s.boot.tap.dr.drop 1 ++ [tdi])
              ∧ (s.boot.tap.st = .shiftIr → (x.st = if tms = true then .exit1Ir else .shiftIr) ∧ x.ir = s.boot.tap.ir.drop 1 ++ [tdi])
              ∧ (s.boot.tap.st = .selectIr → x.st = if tms = true then .testLogicReset else .captureIr))
          ∧ (tck = false → s.boot.tap.tck = true → s.boot.tap.st = .shiftDr → x.tdo = s.boot.tap.dr.head?)) := by
  have hn : ¬ (!s.powered) = true := by simpa [State.powered] using h
  have he : exec (.boundaryScan tck tdi tms trstN) s = .next { s with boot := { s.boot with
      tap := if s.boot.phase = .perstLow then (s.boot.tap.drive tck tdi tms trstN s.balls).cleared
        else s.boot.tap.drive tck tdi tms trstN s.balls } } := congrArg Host.Outcome.next (if_neg hn)
  obtain ⟨hk, hi, hm, hr⟩ := s.boot.tap.moved_samePins tck tdi tms trstN s.balls
  obtain ⟨j, hd⟩ := s.boot.tap.drive_eq_moved tck tdi tms trstN s.balls
  rw [hd] at he
  by_cases hp : s.boot.phase = .perstLow
  · rw [if_pos hp] at he
    exact ⟨_, he, hk, hi, hm, hr, fun _ => rfl, fun h => absurd hp h⟩
  · rw [if_neg hp] at he
    refine ⟨_, he, hk, hi, hm, hr, fun ht => ?_, fun _ ht => ⟨fun hl => ?_, fun h1 h0 => ?_, fun h0 h1 hs => ?_⟩⟩
    · obtain rfl := ht.resolve_right hp
      exact s.boot.tap.moved_st_of_trst tck tdi tms s.balls
    · subst ht
      exact Tap.moved_st_of_no_rise hl ..
    · subst ht h1
      have hv := Tap.moved_of_rise h0 tdi tms s.balls
      have hst := (congrArg Tap.st hv).trans (Tap.rise_pins_st ..)
      have hdr (hs : s.boot.tap.st = .shiftDr) := (congrArg Tap.dr hv).trans (Tap.rise_dr_of_shiftDr (t := s.boot.tap.pins true tdi tms true) hs _)
      have hir (hs : s.boot.tap.st = .shiftIr) := (congrArg Tap.ir hv).trans (Tap.rise_ir_of_shiftIr (t := s.boot.tap.pins true tdi tms true) hs _)
      refine ⟨fun hs => ⟨hst.trans ?_, hdr hs⟩, fun hs => ⟨hst.trans ?_, hir hs⟩, fun hs => hst.trans ?_⟩ <;> rw [hs] <;> cases tms <;> rfl
    · subst ht h0
      exact (congrArg Tap.tdo (Tap.moved_of_fall h1 tdi tms s.balls)).trans (Tap.fall_tdo_of_shiftDr hs)

/-! ### Channels and reads of DRAM (R33 to R35) -/

theorem State.modChan_eq {s : State} {n : Nat} {c : Chan} (h : s.dram.chans[n]? = some c) (f : Chan → Chan) :
    s.modChan n f = { s with dram := { s.dram with chans := s.dram.chans.set n (f c) } } := by
  rw [State.modChan, List.modify_eq_set_getElem?, h]
  rfl

theorem channelEvents_results (s : State) (n : BitVec 5) (perBank : Bool) (c : Chan) (ht : s.boot.phase = .trained)
    (hc : s.dram.chans[n.toNat]? = some c) :
    ∀ p ∈ [(Instr.writeTimingRecentre n, { c with recentres := c.recentres + 1 }),
           (Instr.refresh n perBank, if c.selfRefresh = true then c else { c with refreshes := c.refreshes + if c.hot then 2 else 1 }),
           (Instr.selfRefreshEntry n, if c.used = true then { c with used := false } else { c with selfRefresh := true }),
           (Instr.selfRefreshExit n, { c with selfRefresh := false, used := true })],
      exec p.1 s = .next { s with dram := { s.dram with chans := s.dram.chans.set n.toNat p.2 } } := by
  simp only [List.forall_mem_cons, List.not_mem_nil, false_implies, implies_true, and_true]
  refine ⟨?_, ?_, ?_, ?_⟩ <;> exact congrArg Host.Outcome.next ((if_pos ht).trans (State.modChan_eq hc _))

/-- A line with a lasting error ends accesses with an error indication. -/
theorem State.lineBad_of_lasting {s : State} {b : BadLine} {a : Nat} (hb : b ∈ s.dram.bad) (hl : b.line = lineOf a) (h : b.lasting = true) :
    s.lineBad a = true := by
  have hany : (s.dram.bad.any fun b => b.line == lineOf a && b.lasting) = true := List.any_eq_true.2 ⟨b, hb, by simp [hl, h]⟩
  rw [State.lineBad, hany, Bool.or_true, Bool.true_or]

/-- A read that is being retried has not failed its line. -/
theorem State.lineBad_cons_retrying (s : State) {x : BadLine} (h : x.lasting = false) (a : Nat) :
    State.lineBad { s with dram := { s.dram with bad := x :: s.dram.bad } } a = s.lineBad a := by
  simp [State.lineBad, State.chanBad, State.sramLoses, State.sramAt, h]

/-- A read that cannot be corrected is retried: correct data make a transient error, else the line fails with a lasting one (R35). -/
theorem uncorrectableRead_results (s : State) (pa : BitVec 48) (ht : s.boot.phase = .trained) (hd : pa.toNat < Config.dramBytes)
    (hb : ∀ b ∈ s.dram.bad, b.line ≠ pa.toNat / 128) :
    exec (.dramReadComplete pa true) s = .next s
      ∧ ∃ t, exec (.dramReadComplete pa false) s = .next t ∧ (∀ a, t.dramByte a = s.dramByte a) ∧ (∀ a, t.lineBad a = s.lineBad a)
          ∧ (∃ r, exec (.dramReadRetry pa true) t = .next r ∧ r.dev.errTransient = satInc s.dev.errTransient ∧ r.dram = s.dram)
          ∧ ∃ r, exec (.dramReadRetry pa false) t = .next r ∧ r.dev.errLasting = satInc s.dev.errLasting ∧ (∀ a, r.dramByte a = s.dramByte a)
              ∧ ∀ a, a / 128 = pa.toNat / 128 → r.lineBad a = true := by
  have hany : (s.dram.bad.any fun b => b.line == lineOf pa.toNat) = false := by
    simpa [lineOf] using hb
  have hc : (s.boot.phase = .trained && inDram pa.toNat && !false && !s.dram.bad.any (fun b => b.line == lineOf pa.toNat)) = true := by
    simp [ht, inDram, hd, hany]
  have hnot : ¬ (s.boot.phase = .trained && inDram pa.toNat && !true && !s.dram.bad.any (fun b => b.line == lineOf pa.toNat)) = true := by simp
  let x : BadLine := { line := lineOf pa.toNat, retrying := true, lasting := false }
  let t : State := { s with dram := { s.dram with bad := x :: s.dram.bad } }
  have hret : ¬ (!t.dram.bad.any (fun b => b.line == lineOf pa.toNat && b.retrying)) = true := by simp [t, x]
  have hfilter : t.dram.bad.filter (fun b => b.line != lineOf pa.toNat) = s.dram.bad := by
    rw [List.filter_cons_of_neg (by simp [x]), List.filter_eq_self]
    simpa [lineOf] using hb
  refine ⟨congrArg Host.Outcome.next (if_neg hnot), t, congrArg Host.Outcome.next (if_pos hc), fun _ => rfl, s.lineBad_cons_retrying rfl, ?_, ?_⟩
  · have hr := State.transientError_onlyReports { t with dram := { t.dram with bad := t.dram.bad.filter fun b => b.line != lineOf pa.toNat } }
      (lineError pa.toNat none)
    refine ⟨_, congrArg Host.Outcome.next ((if_neg hret).trans (if_pos rfl)), (congrArg Dev.errTransient hr.dev :), hr.dram.trans ?_⟩
    rw [hfilter]
  · have hr := State.lastingError_onlyReports { t with dram := { t.dram with bad := t.dram.bad.map fun b : BadLine =>
        (if b.line = lineOf pa.toNat then { b with retrying := false, lasting := true } else b) } } (lineError pa.toNat none)
    refine ⟨_, congrArg Host.Outcome.next ((if_neg hret).trans (if_neg Bool.false_ne_true)), (congrArg Dev.errLasting hr.dev :),
      fun a => (congrArg (·.mem.read a) hr.dram :), fun a ha => ?_⟩
    refine State.lineBad_of_lasting (b := { x with retrying := false, lasting := true }) ?_ ha.symm rfl
    rw [hr.dram, List.map_cons, if_pos rfl]
    exact List.mem_cons_self

/-- Settles O56: each clause is a lemma above, on the event or the events that it is about. -/
theorem resetBootAndLinkResults : Obligations.ResetBootAndLinkResults :=
  ⟨resets_clear, execPowerRemoval_clears, execPowerUp_clears, execThermalTrip_clears, restarts_of_tripped, execPerstNDeassert_of_perstLow,
    execFirmwareLoadDone_of_rom, exec_of_bootFailed, execChannelTrainingDone_of_training, execAcceptChannels_of_served,
    configurationRequest_results, execLinkUp_drains, execD0Return_drains, execD3hotEntry_of_configured, linkErrors_results,
    execRegulatorAlert_results, execBoundaryScan_results, channelEvents_results, uncorrectableRead_results⟩

end Sys2Proof.Machine
end

section
/-! SUPPORT. DISABLE of a context that holds credits: the counterexample to O57 (R52, R104, R109). -/

namespace Sys2Proof.Machine

/-- DISABLE takes a context's credits as it makes the context ENDING (R109). -/
theorem execDisable_ctx {s r : State} {c : BitVec 5} (hs : s.served = true) (hc : c.toNat < s.ctxs.length)
    (ha : (s.ctx c).st = .active ∨ (s.ctx c).st = .halted) (h : exec (.disable c) s = .next r) :
    r.ctx c = { s.ctx c with st := .ending, credits := 0 } := by
  have hn : ¬ (!s.served) = true := by simp [hs]
  have hst : ((s.ctx c).st = .active || (s.ctx c).st = .halted) = true := by simpa using ha
  have he : r = { s.modCtx c fun x => { x with st := .ending, credits := 0 } with
      groups := s.groups.map fun g => if g.ctx = c then { g with stopped := true } else g } :=
    (Host.Outcome.next.inj (h.symm.trans (congrArg Host.Outcome.next ((if_neg hn).trans (if_pos hst)))))
  subst he
  simp [State.ctx, State.modCtx, List.getD_eq_getElem?_getD, hc]

/-- The part serves accesses, and context 0 is ACTIVE and has been credited with one cycle. -/
def creditedContext : State :=
  { State.reset with boot := { Boot.reset with phase := .trained, linkUp := true }
                     ctxs := [{ Context.reset with st := .active, credits := 1 }] }

/-- Refutes O57: it says that DISABLE changes nothing of its context but CTX_STATE, and DISABLE also takes the credits of an ACTIVE context that
has some. -/
theorem not_hostAccessResults : ¬ Obligations.HostAccessResults := by
  intro h
  obtain ⟨-, -, -, -, -, hctx, -⟩ := h
  obtain ⟨-, -, -, -, -, hdisable, -⟩ := hctx creditedContext 0 (by decide)
  obtain ⟨r, he, hr, -⟩ := hdisable (by decide) (.inl (by decide))
  have hcredits := execDisable_ctx (by decide) (by decide) (.inl (by decide)) he
  exact absurd (congrArg Context.credits (hr.symm.trans hcredits)) (by decide)

end Sys2Proof.Machine
end

section
/-! SUPPORT. The part's own accesses to a context's memory: what they leave as it was, and what they find where no stash owns a line (R53, R62,
R187, R485). -/

namespace Sys2Proof.Machine

/-! ### Queues and contexts by their numbers -/

theorem State.queue_modQueue_self {s : State} {q : BitVec 6} (h : q.toNat < s.queues.length) (f : Queue → Queue) :
    (s.modQueue q f).queue q = f (s.queue q) := by
  simp [State.queue, State.modQueue, List.getD_eq_getElem?_getD, h]

theorem State.queue_modQueue_ne (s : State) {p q : BitVec 6} (h : p ≠ q) (f : Queue → Queue) : (s.modQueue q f).queue p = s.queue p := by
  have hn : q.toNat ≠ p.toNat := fun e => h (BitVec.eq_of_toNat_eq e.symm)
  simp [State.queue, State.modQueue, List.getD_eq_getElem?_getD, hn]

@[simp] theorem State.modQueue_length (s : State) (q : BitVec 6) (f : Queue → Queue) : (s.modQueue q f).queues.length = s.queues.length :=
  List.length_modify ..

theorem State.queue_congr {s t : State} (h : t.queues = s.queues) (q : BitVec 6) : t.queue q = s.queue q := congrArg (·.getD q.toNat Queue.reset) h

/-- A queue that is not as reset leaves it is one of the part's. -/
theorem State.queue_lt {s : State} {q : BitVec 6} (h : s.queue q ≠ Queue.reset) : q.toNat < s.queues.length := by
  by_contra hn
  exact h (List.getD_eq_default _ _ (Nat.le_of_not_lt hn))

theorem State.queue_lt_of_running {s : State} {q : BitVec 6} (h : (s.queue q).st = .running) : q.toNat < s.queues.length :=
  State.queue_lt fun e => by rw [e] at h; exact absurd h (by decide)

theorem State.ctx_modCtx_self {s : State} {c : BitVec 5} (h : c.toNat < s.ctxs.length) (f : Context → Context) :
    (s.modCtx c f).ctx c = f (s.ctx c) := by
  simp [State.ctx, State.modCtx, List.getD_eq_getElem?_getD, h]

theorem State.ctx_modCtx_ne (s : State) {c d : BitVec 5} (h : d ≠ c) (f : Context → Context) : (s.modCtx c f).ctx d = s.ctx d := by
  have hn : c.toNat ≠ d.toNat := fun e => h (BitVec.eq_of_toNat_eq e.symm)
  simp [State.ctx, State.modCtx, List.getD_eq_getElem?_getD, hn]

/-- A change of one context is none where there is no such context. -/
theorem State.ctx_modCtx_of_ge {s : State} {c : BitVec 5} (h : s.ctxs.length ≤ c.toNat) (f : Context → Context) (d : BitVec 5) :
    (s.modCtx c f).ctx d = s.ctx d := by
  rw [State.modCtx, List.modify_eq_self h]

/-! ### What the part's own accesses leave -/

/-- Nothing has changed of the queues, the launches, the groups, the cores, the memo tables and the cached translations. -/
structure DispatchFrame (s t : State) : Prop where
  queues : t.queues = s.queues
  launches : t.launches = s.launches
  groups : t.groups = s.groups
  cores : t.cores = s.cores
  memo : t.slices.memo = s.slices.memo
  tlb : t.slices.tlb = s.slices.tlb

/-- Nor of the contexts, but for the marks of their status records: that a lost write has been reported, and that an update waits. -/
structure OwnFrame (s t : State) : Prop extends DispatchFrame s t where
  ctxCount : t.ctxs.length = s.ctxs.length
  ctx : ∀ c, ∃ a b, t.ctx c = { s.ctx c with lostReported := a, statusDue := b }

theorem DispatchFrame.trans {s t u : State} (a : DispatchFrame s t) (b : DispatchFrame t u) : DispatchFrame s u :=
  ⟨b.queues.trans a.queues, b.launches.trans a.launches, b.groups.trans a.groups, b.cores.trans a.cores, b.memo.trans a.memo, b.tlb.trans a.tlb⟩

theorem OwnFrame.trans {s t u : State} (a : OwnFrame s t) (b : OwnFrame t u) : OwnFrame s u where
  toDispatchFrame := a.toDispatchFrame.trans b.toDispatchFrame
  ctxCount := b.ctxCount.trans a.ctxCount
  ctx c := by
    obtain ⟨x, y, h⟩ := a.ctx c
    obtain ⟨x', y', h'⟩ := b.ctx c
    exact ⟨x', y', by rw [h', h]⟩

/-- What an access leaves may be read off the two states where it leaves the contexts alone. -/
theorem OwnFrame.of_eq {s t : State} (h : (t.queues, t.launches, t.groups, t.cores, t.slices.memo, t.slices.tlb, t.ctxs)
    = (s.queues, s.launches, s.groups, s.cores, s.slices.memo, s.slices.tlb, s.ctxs)) : OwnFrame s t := by
  simp only [Prod.mk.injEq] at h
  obtain ⟨hq, hl, hg, hc, hm, ht, hx⟩ := h
  exact ⟨⟨hq, hl, hg, hc, hm, ht⟩, congrArg List.length hx, fun c => ⟨(s.ctx c).lostReported, (s.ctx c).statusDue, congrArg (·.getD c.toNat Context.reset) hx⟩⟩

theorem OwnFrame.refl (s : State) : OwnFrame s s := .of_eq rfl

theorem OwnFrame.foldl {α : Type} {f : State → α → State} (h : ∀ s a, OwnFrame s (f s a)) : ∀ (l : List α) (s : State), OwnFrame s (l.foldl f s)
  | [], s => .refl s
  | a :: l, s => (h s a).trans (OwnFrame.foldl h l (f s a))

/-- What an access leaves it leaves of the queues, the launches and the rest; so does any change of a context. -/
theorem State.modCtx_dispatchFrame (s : State) (c : BitVec 5) (f : Context → Context) : DispatchFrame s (s.modCtx c f) := ⟨rfl, rfl, rfl, rfl, rfl, rfl⟩

/-- The marks of a status record change. -/
theorem State.markStatus_ownFrame (s : State) (c : BitVec 5) (f : Context → Context)
    (hf : ∀ x, ∃ a b, f x = { x with lostReported := a, statusDue := b }) : OwnFrame s (s.modCtx c f) where
  toDispatchFrame := s.modCtx_dispatchFrame c f
  ctxCount := List.length_modify ..
  ctx d := by
    by_cases hd : d = c
    · subst hd
      obtain hlt | hge := Nat.lt_or_ge d.toNat s.ctxs.length
      · rw [State.ctx_modCtx_self hlt]
        exact hf _
      · exact ⟨_, _, State.ctx_modCtx_of_ge hge f d⟩
    · exact ⟨_, _, s.ctx_modCtx_ne hd f⟩

/-! ### Records and events -/

theorem State.logError_ownFrame (s : State) (e : ErrInput) : OwnFrame s (s.logError e) := by
  obtain ⟨_, _, _, _, h⟩ := s.logError_frame e
  rw [h]
  exact .of_eq rfl

theorem State.signal_ownFrame (s : State) (v : Nat) : OwnFrame s (s.signal v) := by
  unfold State.signal
  dsimp only
  split <;> exact .of_eq rfl

theorem State.postRaw_ownFrame (s : State) (e : EvRecord) : OwnFrame s (s.postRaw e) := by
  unfold State.postRaw
  dsimp only
  split
  · unfold State.holdEvent
    dsimp only
    split
    · exact .of_eq rfl
    · split <;> exact .of_eq rfl
  · unfold State.postNow
    refine OwnFrame.trans ?_ (State.signal_ownFrame _ _)
    exact .of_eq rfl

theorem State.lastingError_ownFrame (s : State) (e : ErrInput) : OwnFrame s (s.lastingError e) := by
  refine OwnFrame.trans ?_ (State.postRaw_ownFrame _ _)
  refine OwnFrame.trans ?_ (State.logError_ownFrame _ _)
  exact .of_eq rfl

theorem State.transientError_ownFrame (s : State) (e : ErrInput) : OwnFrame s (s.transientError e) := by
  have hl : OwnFrame s (State.logError { s with dev := { s.dev with errTransient := satInc s.dev.errTransient } } { e with cls := .transient }) := by
    refine OwnFrame.trans ?_ (State.logError_ownFrame _ _)
    exact .of_eq rfl
  unfold State.transientError
  dsimp only
  split
  · exact hl
  · refine hl.trans (.trans ?_ (State.postRaw_ownFrame _ _))
    exact .of_eq rfl

/-! ### Bytes at home, and recalls -/

theorem State.noteWritten_ownFrame (s : State) (pa : Nat) : OwnFrame s (s.noteWritten pa) := by
  unfold State.noteWritten
  split <;> exact .of_eq rfl

theorem State.wakeChan_ownFrame (s : State) (pa : Nat) : OwnFrame s (s.wakeChan pa) := by
  unfold State.wakeChan
  split <;> exact .of_eq rfl

theorem State.physPut_ownFrame (s : State) (pa : Nat) (b : Byte) : OwnFrame s (s.physPut pa b) := by
  unfold State.physPut
  split
  · split
    · exact .refl s
    · refine OwnFrame.trans ?_ ((State.noteWritten_ownFrame _ _).trans (State.wakeChan_ownFrame _ _))
      exact .of_eq rfl
  · split <;> exact .of_eq rfl

theorem State.meetSram_ownFrame (s : State) (ctx : Option (BitVec 5)) (a : SramAt) (clean : Option Bool) : OwnFrame s (s.meetSram ctx a clean) := by
  unfold State.meetSram
  split
  · exact .refl s
  · have hs (p : Prop) [Decidable p] : OwnFrame s (if p then s else { s with sram := s.sram.filter fun x => x.at_ != a }) := by
      split <;> exact .of_eq rfl
    dsimp only
    split
    · exact (hs _).trans (State.lastingError_ownFrame _ _)
    · exact (hs _).trans (State.transientError_ownFrame _ _)

theorem State.noteBadAccess_ownFrame (s : State) (pa : Nat) (ctx : Option (BitVec 5)) : OwnFrame s (s.noteBadAccess pa ctx) := by
  unfold State.noteBadAccess
  split
  · exact .refl s
  · split
    · exact s.lastingError_ownFrame _
    · split
      · exact .of_eq rfl
      · exact s.meetSram_ownFrame ..

theorem State.putBack_ownFrame (s : State) (ctx : BitVec 5) (line : Nat) (bs : List (Nat × Byte)) : OwnFrame s (s.putBack ctx line bs) := by
  have hf : OwnFrame s (bs.foldl (fun (t : State) (b : Nat × Byte) => t.physPut (line * 128 + b.1) b.2) s) := .foldl (fun t _ => t.physPut_ownFrame _ _) bs s
  unfold State.putBack
  split
  · exact .refl s
  · dsimp only
    split
    · exact hf.trans (State.noteBadAccess_ownFrame _ _ _)
    · exact hf

theorem State.writeBackStash_ownFrame (s : State) (tu ln : Nat) (drop : Bool) : OwnFrame s (s.writeBackStash tu ln drop) := by
  unfold State.writeBackStash
  split
  · exact .refl s
  · split
    · exact .refl s
    · dsimp only
      split <;> exact (s.putBack_ownFrame ..).trans (.of_eq rfl)

theorem State.recall_ownFrame (s : State) (pa : Nat) (write : Bool) : OwnFrame s (s.recall pa write) := by
  unfold State.recall
  split
  · exact .refl s
  · exact (s.writeBackStash_ownFrame ..).trans (.of_eq rfl)

theorem State.ctxPut_ownFrame (s : State) (ctx : BitVec 5) (pa : Nat) (b : Byte) : OwnFrame s (s.ctxPut ctx pa b) := by
  have h : OwnFrame s ((s.recall pa true).physPut pa b) := (s.recall_ownFrame ..).trans (State.physPut_ownFrame _ _ _)
  unfold State.ctxPut
  dsimp only
  split
  · exact h.trans (.of_eq rfl)
  · exact h

theorem State.incGen_ownFrame (s : State) (pa : Nat) : OwnFrame s (s.incGen pa) := by
  unfold State.incGen
  dsimp only
  split
  · exact s.lastingError_ownFrame _
  · exact .of_eq rfl

/-! ### Accesses at virtual addresses -/

theorem State.recallOwn_ownFrame (s : State) (ctx : BitVec 5) (va n : Nat) : OwnFrame s (s.recallOwn ctx va n) := by
  refine OwnFrame.foldl (fun t a => ?_) _ s
  split
  · split
    · exact t.recall_ownFrame ..
    · exact .refl t
  · exact .refl t

theorem State.ownPut_ownFrame (ctx : BitVec 5) (n : Nat) : ∀ (s : State) (va v : Nat), OwnFrame s (s.ownPut ctx va v n) := by
  induction n with
  | zero => exact fun s _ _ => .refl s
  | succ n ih =>
    intro s va v
    unfold State.ownPut
    refine OwnFrame.trans ?_ (ih _ _ _)
    split
    · exact s.ctxPut_ownFrame ..
    · exact .refl s

theorem State.ownWrite_ownFrame {s t : State} {ctx : BitVec 5} {va v n : Nat} (e : s.ownWrite ctx va v n = .ok t) : OwnFrame s t := by
  unfold State.ownWrite at e
  split at e
  · cases e
  · simp only [Except.ok.injEq] at e
    rw [← e]
    refine (s.ownPut_ownFrame ctx n va v).trans (.foldl (fun u l => ?_) _ _)
    split
    · split
      · exact u.incGen_ownFrame _
      · exact .refl u
    · exact .refl u

theorem State.noteOwnError_ownFrame (s : State) (ctx : BitVec 5) (va : Nat) : OwnFrame s (s.noteOwnError ctx va) := by
  unfold State.noteOwnError
  refine OwnFrame.foldl (fun t a => ?_) _ _
  split
  · exact t.noteBadAccess_ownFrame ..
  · exact .refl t

theorem State.logLost_ownFrame (s : State) (ctx : BitVec 5) (queue : BitVec 8) (code kind va : Nat) : OwnFrame s (s.logLost ctx queue code kind va) := by
  unfold State.logLost
  refine OwnFrame.trans ?_ (State.logError_ownFrame _ _)
  split
  · exact s.noteOwnError_ownFrame ..
  · exact .refl s

theorem State.updateStatus_ownFrame (s : State) (ctx : BitVec 5) : OwnFrame s (s.updateStatus ctx) := by
  unfold State.updateStatus
  dsimp only
  split
  · exact s.markStatus_ownFrame _ _ fun x => ⟨x.lostReported, true, rfl⟩
  · split
    case h_1 h => exact (State.ownWrite_ownFrame h).trans (State.markStatus_ownFrame _ _ _ fun x => ⟨x.lostReported, false, rfl⟩)
    case h_2 =>
      split
      · exact s.markStatus_ownFrame _ _ fun x => ⟨x.lostReported, false, rfl⟩
      · exact ((s.markStatus_ownFrame _ _ fun _ => ⟨true, false, rfl⟩).trans (State.logLost_ownFrame ..)).trans (State.postRaw_ownFrame _ _)

theorem State.postCtx_ownFrame (s : State) (ctx : BitVec 5) (type code : Nat) (queue : BitVec 8) (d0 d1 d2 : Nat) :
    OwnFrame s (s.postCtx ctx type code queue d0 d1 d2) := (s.updateStatus_ownFrame ctx).trans (State.postRaw_ownFrame _ _)

theorem State.ownLost_ownFrame (s : State) (ctx : BitVec 5) (queue : BitVec 8) (code kind va : Nat) : OwnFrame s (s.ownLost ctx queue code kind va) :=
  ((s.logLost_ownFrame ..).trans (State.updateStatus_ownFrame _ _)).trans (State.postRaw_ownFrame _ _)

/-! ### Where no stash owns a line, an access recalls none (R187) -/

theorem State.recallOwn_of_noOwners {s : State} (h : Claims.NoOwners s) (ctx : BitVec 5) (va n : Nat) : s.recallOwn ctx va n = s := by
  unfold State.recallOwn
  induction ((List.range n).map fun i => (va + i) / 8 * 8).eraseDups with
  | nil => rfl
  | cons a l ih =>
    rw [List.foldl_cons]
    split
    · rw [State.recall_of_no_owner (h _), ite_self]
      exact ih
    · exact ih

/-! ### Numbers that the part reads -/

theorem State.ownRead_lt {s : State} {ctx : BitVec 5} (n : Nat) : ∀ {va v : Nat}, s.ownRead ctx va n = .ok v → v < 256 ^ n := by
  induction n with
  | zero => intro va v h; cases h; exact Nat.one_pos
  | succ n ih =>
    intro va v h
    unfold State.ownRead at h
    split at h
    · cases h
    · cases h
    · split at h
      case h_1 b r _ hr =>
        cases h
        have h1 := ih hr
        have h2 := b.isLt
        rw [Nat.pow_succ]
        omega
      · cases h
      · cases h

end Sys2Proof.Machine
end

section
/-! SUPPORT. Packets: their headers, how a queue halts at one, passes it and completes it (R54 to R62), and the checks and accesses that packets share. -/

namespace Sys2Proof.Machine

/-! ### Headers and bit fields (R7, R56) -/

theorem bitsOf_eq (x hi lo : Nat) : bitsOf x hi lo = x / 2 ^ lo % 2 ^ (hi + 1 - lo) := by rw [bitsOf, Nat.shiftRight_eq_div_pow]

theorem hdrType_eq (h : Nat) : hdrType h = h % 2 ^ 8 := by rw [hdrType, bitsOf_eq, Nat.pow_zero, Nat.div_one]

theorem hdrLen_eq (h : Nat) : hdrLen h = h / 2 ^ 8 % 2 ^ 8 := bitsOf_eq ..

theorem hdrTag_eq (h : Nat) : BitVec.ofNat 32 (hdrTag h) = BitVec.ofNat 32 (h / 2 ^ 32) := by
  rw [hdrTag, bitsOf_eq]
  exact BitVec.eq_of_toNat_eq (by simp)

/-- A header whose RES0 bits are clear, of a type that is listed, with the LEN of a LAUNCH or a SEM_WAIT (R57). -/
theorem hdrOk_bounds {h : Nat} (ho : hdrOk h = true) :
    h % 2 ^ 8 ≤ 9 ∧ h / 2 ^ 18 % 2 ^ 14 = 0 ∧ (h % 2 ^ 8 = 1 → hdrLen h = 2) ∧ (h % 2 ^ 8 = 2 → hdrLen h = 3) ∧ (h % 2 ^ 8 = 3 → hdrLen h = 4) := by
  rw [← hdrType_eq]
  unfold hdrOk at ho
  rw [Bool.and_eq_true, beq_iff_eq, bitsOf_eq] at ho
  obtain ⟨hz, hm⟩ := ho
  refine ⟨?_, hz, ?_, ?_, ?_⟩
  · by_contra hlt
    have hge : 9 < hdrType h := Nat.lt_of_not_le hlt
    split at hm <;> simp_all
  all_goals
    intro ht
    rw [ht] at hm
    simpa using hm

/-! ### What stands at QHEAD (R54, R57 to R61) -/

theorem State.mayRead_running {s : State} {q : BitVec 6} (h : s.mayRead q = true) :
    (s.queue q).st = .running ∧ (s.queue q).enable = true ∧ (s.queue q).sem = none := by
  simp only [State.mayRead, Bool.and_eq_true, beq_iff_eq, Option.isNone_iff_eq_none] at h
  obtain ⟨⟨⟨⟨⟨⟨⟨hst, hen⟩, _⟩, hsem⟩, _⟩, _⟩, _⟩, _⟩ := h
  exact ⟨hst, hen, hsem⟩

/-- The packet at QHEAD, where its header can be read. -/
theorem State.headOf_of_read {s : State} {q : BitVec 6} {h : Nat} (hm : s.mayRead q = true)
    (hr : s.ownRead (queueCtx q) ((s.queue q).base.toNat + (s.queue q).head.toNat) 8 = .ok h) :
    s.headOf q = if 2 ^ (s.queue q).log2.toNat < (s.queue q).head.toNat + 8 * hdrLen h then .halt (hdrTag h) ⟨1, 0, (s.queue q).size⟩
      else if (s.queue q).unread < 8 * hdrLen h then .empty else if hdrOk h then .packet h else .halt (hdrTag h) (Halt.packet 0) := by
  simp only [State.headOf, hm, hr, Bool.not_true, Bool.false_eq_true, if_false]
  rfl

theorem State.headOf_packet {s : State} {q : BitVec 6} {h : Nat} (e : s.headOf q = .packet h) : s.mayRead q = true ∧ hdrOk h = true := by
  unfold State.headOf at e
  dsimp only at e
  split at e
  · cases e
  · rename_i hm
    refine ⟨by simpa using hm, ?_⟩
    split at e
    · cases e
    · split at e
      · cases e
      · split at e
        · cases e
        · split at e
          · rename_i ho
            cases e
            exact ho
          · cases e

/-! ### Halts and completions (R54, R56, R62) -/

/-- A halt changes its queue, and otherwise only reports (R62). -/
theorem State.haltQueue_ownFrame (s : State) (q : BitVec 6) (off : BitVec 20) (tag : Nat) (h : Halt) :
    OwnFrame (s.modQueue q fun k => { k with st := .halted, cause := BitVec.ofNat 8 h.kind, head := off, sem := none }) (s.haltQueue q off tag h) := by
  unfold State.haltQueue
  refine OwnFrame.trans ?_ (State.postCtx_ownFrame ..)
  refine OwnFrame.trans ?_ (State.logError_ownFrame _ _)
  split
  · exact State.noteOwnError_ownFrame ..
  · exact .refl _

theorem State.haltQueue_haltedAt {s t : State} {q : BitVec 6} (hst : (s.queue q).st = .running) (hq : t.queues = s.queues)
    (hl : t.launches = s.launches) (tag : Nat) (h : Halt) : Claims.HaltedAt s (t.haltQueue q (s.queue q).head tag h) q h.kind := by
  have hf := t.haltQueue_ownFrame q (s.queue q).head tag h
  have hlt : q.toNat < t.queues.length := hq ▸ State.queue_lt_of_running hst
  have hself := (State.queue_congr hf.queues q).trans (State.queue_modQueue_self hlt _)
  rw [State.queue_congr hq q] at hself
  refine ⟨by rw [hself], by rw [hself], by rw [hself], by rw [hself], fun p hp => ?_, hf.launches.trans hl⟩
  exact ((State.queue_congr hf.queues p).trans (t.queue_modQueue_ne hp _)).trans (State.queue_congr hq p)

/-- A halt leaves the contexts' descriptors alone. -/
theorem State.haltQueue_desc (s : State) (q : BitVec 6) (off : BitVec 20) (tag : Nat) (h : Halt) (c : BitVec 5) :
    ((s.haltQueue q off tag h).ctx c).desc = (s.ctx c).desc := by
  obtain ⟨_, _, he⟩ := (s.haltQueue_ownFrame q off tag h).ctx c
  rw [he]
  rfl

/-- The packet's count, before its status record is brought up to date. -/
def State.countPkt (s : State) (q : BitVec 6) (off : BitVec 20) : State :=
  s.modQueue q fun k => { k with done := k.done + 1, running := k.running.filter fun r => r.off != off }

/-- A completion counts the packet, reports, and settles the queue (R54, R56). -/
theorem State.completePkt_eq (s : State) (q : BitVec 6) (off : BitVec 20) (tag : Word) (notify : Bool) :
    ∃ u, OwnFrame (s.countPkt q off) u ∧ s.completePkt q off tag notify = u.modQueue q Queue.settle := by
  refine ⟨_, ?_, rfl⟩
  split
  · exact State.postCtx_ownFrame ..
  · exact State.updateStatus_ownFrame _ _

/-- A completion leaves the launches, the groups, the cores, the memo tables and the cached translations alone, and of the contexts changes the
marks of their status records. -/
theorem State.completePkt_frame (s : State) (q : BitVec 6) (off : BitVec 20) (tag : Word) (notify : Bool) :
    (s.completePkt q off tag notify).launches = s.launches ∧ (s.completePkt q off tag notify).groups = s.groups
      ∧ (s.completePkt q off tag notify).slices.memo = s.slices.memo
      ∧ ∀ c, ∃ a b, (s.completePkt q off tag notify).ctx c = { s.ctx c with lostReported := a, statusDue := b } := by
  obtain ⟨u, hu, he⟩ := s.completePkt_eq q off tag notify
  rw [he]
  exact ⟨hu.launches, hu.groups, hu.memo, hu.ctx⟩

theorem Queue.settle_of_enable {k : Queue} (h : k.enable = true) : k.settle = k := by
  rw [Queue.settle, h]
  rfl

theorem Queue.settle_done (k : Queue) : k.settle.done = k.done ∧ k.settle.sem = k.sem := by
  unfold Queue.settle
  split <;> exact ⟨rfl, rfl⟩

theorem State.queue_completePkt {s : State} {q : BitVec 6} (hq : q.toNat < s.queues.length) (off : BitVec 20) (tag : Word) (notify : Bool) :
    (s.completePkt q off tag notify).queue q
      = Queue.settle { s.queue q with done := (s.queue q).done + 1, running := (s.queue q).running.filter fun r => r.off != off } := by
  obtain ⟨u, hu, he⟩ := s.completePkt_eq q off tag notify
  have hlen : q.toNat < u.queues.length := by rw [hu.queues]; exact (s.modQueue_length q _).symm ▸ hq
  rw [he, State.queue_modQueue_self hlen, State.queue_congr hu.queues]
  exact congrArg Queue.settle (State.queue_modQueue_self hq _)

theorem State.queue_completePkt_ne (s : State) {p q : BitVec 6} (hp : p ≠ q) (off : BitVec 20) (tag : Word) (notify : Bool) :
    (s.completePkt q off tag notify).queue p = s.queue p := by
  obtain ⟨u, hu, he⟩ := s.completePkt_eq q off tag notify
  rw [he, State.queue_modQueue_ne u hp, State.queue_congr hu.queues]
  exact s.queue_modQueue_ne hp _

/-- QHEAD passes a packet that has changed no queue, and the packet completes (R54, R56). -/
theorem State.passHead_packetDone {s t : State} {q : BitVec 6} {hdr : Nat} (ha : Claims.AtHead s q hdr) (hq : t.queues = s.queues)
    (off : BitVec 20) (tag : Word) (notify : Bool) : Claims.PacketDone s ((t.passHead q (hdrLen hdr)).completePkt q off tag notify) q hdr := by
  obtain ⟨hst, hen, -⟩ := State.mayRead_running (State.headOf_packet ha.1).1
  have hlt : q.toNat < t.queues.length := hq ▸ State.queue_lt_of_running hst
  have hpass : (t.passHead q (hdrLen hdr)).queue q = { s.queue q with head := (s.queue q).after (hdrLen hdr) } := by
    rw [State.passHead, State.queue_modQueue_self hlt, State.queue_congr hq]
  have hself := State.queue_completePkt (s := t.passHead q (hdrLen hdr)) ((t.modQueue_length q _).symm ▸ hlt) off tag notify
  rw [hpass] at hself
  replace hself := hself.trans (Queue.settle_of_enable hen)
  refine ⟨?_, by rw [hself], by rw [hself]; exact hst, fun p hp => ?_⟩
  · rw [Claims.Passed, hself, ← hdrLen_eq]
    rfl
  · rw [State.queue_completePkt_ne _ hp, State.passHead, State.queue_modQueue_ne t hp, State.queue_congr hq]

/-- QHEAD passes a packet that has not completed, which is noted (R54, R58). -/
theorem State.queue_passHead_running (t : State) {q : BitVec 6} (h : q.toNat < t.queues.length) (len : Nat) (x : RunningPkt) :
    ((t.passHead q len).modQueue q fun k => { k with running := k.running ++ [x] }).queue q
      = { t.queue q with head := (t.queue q).after len, running := (t.queue q).running ++ [x] } := by
  rw [State.queue_modQueue_self ((t.modQueue_length q _).symm ▸ h), State.passHead, State.queue_modQueue_self h]

/-! ### The packet events -/

theorem packetEvent_of_empty {s : State} {q : BitVec 6} (h : s.headOf q = .empty) (type : Nat) (go : Nat → PktRes) : packetEvent type q s go = .next s := by
  simp only [packetEvent, h]

theorem packetEvent_of_halt {s : State} {q : BitVec 6} {tag : Nat} {x : Halt} (h : s.headOf q = .halt tag x) (type : Nat) (go : Nat → PktRes) :
    packetEvent type q s go = .next (s.haltQueue q (s.queue q).head tag x) := by
  simp only [packetEvent, h]

theorem packetEvent_of_waits {s : State} {q : BitVec 6} {hdr : Nat} (h : s.headOf q = .packet hdr) (hw : s.mayStart q hdr = false) (type : Nat)
    (go : Nat → PktRes) : packetEvent type q s go = .next s := by
  simp only [packetEvent, h, hw, Bool.not_false, Bool.or_true, Bool.true_or, if_true]

/-- A packet of the event's type, which may start: nothing makes it wait. -/
theorem packet_starts {s : State} {q : BitVec 6} {hdr type : Nat} (ha : Claims.AtHead s q hdr) (ht : hdr % 2 ^ 8 = type) :
    (hdrType hdr ≠ type || !s.mayStart q hdr || s.ownHeld (queueCtx q) ((s.queue q).base.toNat + (s.queue q).head.toNat) (8 * hdrLen hdr)) = false := by
  obtain ⟨-, hm, hh⟩ := ha
  rw [← hdrLen_eq] at hh
  subst ht
  simp [hdrType_eq, hm, hh]

theorem packetEvent_halts {s t : State} {q : BitVec 6} {hdr type : Nat} {x : Halt} {go : Nat → PktRes} (ha : Claims.AtHead s q hdr)
    (ht : hdr % 2 ^ 8 = type) (hg : go hdr = .halt x t) : packetEvent type q s go = .next (t.haltQueue q (s.queue q).head (hdrTag hdr) x) := by
  simp only [packetEvent, ha.1, packet_starts ha ht, hg, Bool.false_eq_true, if_false]

theorem packetEvent_completes {s t : State} {q : BitVec 6} {hdr type : Nat} {go : Nat → PktRes} (ha : Claims.AtHead s q hdr)
    (ht : hdr % 2 ^ 8 = type) (hg : go hdr = .start t none) :
    packetEvent type q s go = .next ((t.passHead q (hdrLen hdr)).completePkt q (s.queue q).head (BitVec.ofNat 32 (hdrTag hdr)) (hdrNotify hdr)) := by
  simp only [packetEvent, ha.1, packet_starts ha ht, hg, Bool.false_eq_true, if_false]

theorem packetEvent_runs {s t : State} {q : BitVec 6} {hdr type : Nat} {w : PktWait} {go : Nat → PktRes} (ha : Claims.AtHead s q hdr)
    (ht : hdr % 2 ^ 8 = type) (hg : go hdr = .start t (some w)) :
    packetEvent type q s go = .next ((t.passHead q (hdrLen hdr)).modQueue q fun k =>
      { k with running := k.running ++ [{ off := (s.queue q).head, tag := BitVec.ofNat 32 (hdrTag hdr), notify := hdrNotify hdr, what := w }] }) := by
  simp only [packetEvent, ha.1, packet_starts ha ht, hg, Bool.false_eq_true, if_false]

/-- A packet that completes where a condition holds, and else waits. -/
theorem packetEvent_ite {c : Prop} [Decidable c] {s t : State} {q : BitVec 6} {hdr type : Nat} {w : PktWait} {go : Nat → PktRes}
    (ha : Claims.AtHead s q hdr) (ht : hdr % 2 ^ 8 = type) (hg : go hdr = if c then .start s none else .start t (some w)) :
    packetEvent type q s go = .next
      (if c then (s.passHead q (hdrLen hdr)).completePkt q (s.queue q).head (BitVec.ofNat 32 (hdrTag hdr)) (hdrNotify hdr)
        else (t.passHead q (hdrLen hdr)).modQueue q fun k =>
          { k with running := k.running ++ [{ off := (s.queue q).head, tag := BitVec.ofNat 32 (hdrTag hdr), notify := hdrNotify hdr, what := w }] }) := by
  split at hg
  · rw [if_pos ‹c›, packetEvent_completes ha ht hg]
  · rw [if_neg ‹¬ c›, packetEvent_runs ha ht hg]

/-- SEM_WAIT does not stay among the packets that run: the queue's waiting SEM_WAIT stands for it. -/
def State.dropDone (s : State) (q : BitVec 6) : State := s.modQueue q fun k => { k with running := k.running.filter fun r => r.what != .done }

theorem State.queue_dropDone (s : State) (p q : BitVec 6) : ∃ x, (s.dropDone q).queue p = { s.queue p with running := x } ∧ (p ≠ q → x = (s.queue p).running) := by
  by_cases hp : p = q
  · subst hp
    obtain hlt | hge := Nat.lt_or_ge p.toNat s.queues.length
    · exact ⟨_, State.queue_modQueue_self hlt _, fun h => absurd rfl h⟩
    · refine ⟨(s.queue p).running, ?_, fun _ => rfl⟩
      rw [State.dropDone, State.modQueue, List.modify_eq_self hge]
  · exact ⟨(s.queue p).running, s.queue_modQueue_ne hp _, fun _ => rfl⟩

theorem State.queue_dropDone_ne (s : State) {p q : BitVec 6} (h : p ≠ q) : (s.dropDone q).queue p = s.queue p := s.queue_modQueue_ne h _

/-- What any packet event of a queue does each of the ten does, SEM_WAIT but for its own note. -/
theorem exec_packets {s u : State} {q : BitVec 6} (h : ∀ type go, packetEvent type q s go = .next u) :
    ∀ i ∈ Claims.packets q, exec i s = .next u ∨ exec i s = .next (u.dropDone q) := by
  simp only [Claims.packets, List.forall_mem_cons, List.not_mem_nil, false_implies, implies_true, and_true]
  refine ⟨.inl (show execNopPacket q s = _ from h ..), .inl (h ..), .inl (h ..), .inr ?_, .inl (h ..), .inl (h ..),
    .inl (show execMemoFlushPacket q s = _ from h ..), .inl (h ..), .inl (h ..), .inl (h ..)⟩
  show execSemWait q s = _
  unfold execSemWait
  rw [h]
  rfl

theorem haltedAt_dropDone {s r : State} {q : BitVec 6} {n : Nat} (h : Claims.HaltedAt s r q n) : Claims.HaltedAt s (r.dropDone q) q n := by
  obtain ⟨hst, hc, hh, hd, hp, hl⟩ := h
  obtain ⟨x, hx, -⟩ := r.queue_dropDone q q
  exact ⟨by rw [hx]; exact hst, by rw [hx]; exact hc, by rw [hx]; exact hh, by rw [hx]; exact hd, fun p hne => (r.queue_dropDone_ne hne).trans (hp p hne), hl⟩

theorem packetDone_dropDone {s r : State} {q : BitVec 6} {n : Nat} (h : Claims.PacketDone s r q n) : Claims.PacketDone s (r.dropDone q) q n := by
  obtain ⟨hh, hd, hst, hp⟩ := h
  obtain ⟨x, hx, -⟩ := r.queue_dropDone q q
  exact ⟨by rw [Claims.Passed, hx]; exact hh, by rw [hx]; exact hd, by rw [hx]; exact hst, fun p hne => (r.queue_dropDone_ne hne).trans (hp p hne)⟩

/-! ### Checks and accesses that packets share (R57, R61, R62) -/

theorem firstHalt_of_all : ∀ {l : List (Bool × Halt)}, (∀ p ∈ l, p.1 = true) → firstHalt l = none
  | [], _ => rfl
  | (_, _) :: _, h => by
    obtain ⟨h0, hr⟩ := List.forall_mem_cons.1 h
    exact (if_pos h0).trans (firstHalt_of_all hr)

theorem onlyBits_of_lt {w k : Nat} (h : w < 2 ^ k) (field : Nat) : (onlyBits field (2 ^ k - 1) w).1 = true := by
  simp [onlyBits, Nat.and_two_pow_sub_one_eq_mod, Nat.mod_eq_of_lt h]

/-- The word of a semaphore has no bit set but OP and the address (R60). -/
theorem onlyBits_semaphore {w : Nat} (hz : w / 2 ^ 49 % 2 ^ 13 = 0) (hop : w / 2 ^ 62 ≤ 3) (field : Nat) :
    (onlyBits field (3 * 2 ^ 62 + (2 ^ 49 - 1)) w).1 = true := by
  have hhigh : (w &&& (3 * 2 ^ 62 + (2 ^ 49 - 1))) / 2 ^ 62 = w / 2 ^ 62 := by
    rw [Nat.and_div_two_pow, show (3 * 2 ^ 62 + (2 ^ 49 - 1)) / 2 ^ 62 = 2 ^ 2 - 1 by decide, Nat.and_two_pow_sub_one_eq_mod]
    omega
  have hlow : (w &&& (3 * 2 ^ 62 + (2 ^ 49 - 1))) % 2 ^ 62 = w % 2 ^ 62 := by
    rw [Nat.and_mod_two_pow, show (3 * 2 ^ 62 + (2 ^ 49 - 1)) % 2 ^ 62 = 2 ^ 49 - 1 by decide, Nat.and_two_pow_sub_one_eq_mod]
    omega
  have h := (Nat.div_add_mod (w &&& (3 * 2 ^ 62 + (2 ^ 49 - 1))) (2 ^ 62)).symm
  rw [hhigh, hlow, Nat.div_add_mod] at h
  simpa [onlyBits] using h

theorem Desc.windowBound_eq_none_iff {s : State} {q : BitVec 6} {va n : Nat} :
    ((s.ctx (queueCtx q)).desc.windowBound va n).isNone = true ↔ Claims.windowed s q va n := by
  unfold Desc.windowBound Claims.windowed
  split
  · simp only [Option.isNone_some, Bool.false_eq_true, false_iff]; omega
  · split
    · simp only [Option.isNone_some, Bool.false_eq_true, false_iff]; omega
    · simp only [Option.isNone_none, true_iff]; omega

theorem withPayload_of_read {s : State} {q : BitVec 6} {n : Nat} {ws : List Nat} (h : s.payload q n = .ok ws) (go : List Nat → PktRes) :
    withPayload s q n go = go ws := by
  simp only [withPayload, h]

theorem wordN_one (a : Nat) (l : List Nat) : wordN (a :: l) 1 = a := rfl

theorem wordN_two (a b : Nat) (l : List Nat) : wordN (a :: b :: l) 2 = b := rfl

theorem wordN_three (a b c : Nat) (l : List Nat) : wordN (a :: b :: c :: l) 3 = c := rfl

theorem wordN_four (a b c d : Nat) (l : List Nat) : wordN (a :: b :: c :: d :: l) 4 = d := rfl

theorem readObject_of_reads {s : State} {q : BitVec 6} {va n v : Nat} (hn : Claims.NoOwners s) (h : Claims.reads s q va n v) (field : Nat)
    (go : State → Nat → PktRes) : readObject s q field va n go = go s v := by
  obtain ⟨hh, hr⟩ := h
  simp only [readObject, hh, State.recallOwn_of_noOwners hn, hr, Bool.false_eq_true, if_false]

theorem writeObject_of_writes {s t : State} {q : BitVec 6} {va v n : Nat} (hn : Claims.NoOwners s) (hh : s.ownHeld (queueCtx q) va n = false)
    (hw : s.ownWrite (queueCtx q) va v n = .ok t) (field : Nat) (go : State → PktRes) : writeObject s q field va v n go = go t := by
  simp only [writeObject, hh, State.recallOwn_of_noOwners hn, hw, Bool.false_eq_true, if_false]

theorem mem_of_mapM_ok {α β ε : Type} {f : α → Except ε β} : ∀ {l : List α} {r : List β}, l.mapM f = .ok r → ∀ b ∈ r, ∃ a, f a = .ok b
  | [], r, h, b, hb => by
    rw [List.mapM_nil] at h
    cases h
    exact absurd hb List.not_mem_nil
  | a :: l, r, h, b, hb => by
    rw [List.mapM_cons] at h
    cases ha : f a with
    | error e => rw [ha] at h; cases h
    | ok x =>
      cases hl : l.mapM f with
      | error e => rw [ha, hl] at h; cases h
      | ok xs =>
        rw [ha, hl] at h
        cases h
        obtain rfl | hb := List.mem_cons.1 hb
        · exact ⟨a, ha⟩
        · exact mem_of_mapM_ok hl b hb

/-- A payload word has 64 bits. -/
theorem State.payload_lt {s : State} {q : BitVec 6} {n : Nat} {ws : List Nat} (h : s.payload q n = .ok ws) : ∀ w ∈ ws, w < 2 ^ 64 := by
  intro w hw
  obtain ⟨i, hi⟩ := mem_of_mapM_ok h w hw
  split at hi
  · rename_i v hv
    cases hi
    exact State.ownRead_lt 8 hv
  · cases hi

end Sys2Proof.Machine
end

section
/-! SUPPORT. Queues and packets: one lemma per clause of O58. -/

namespace Sys2Proof.Machine

/-! ### Packets that do not start (R54 to R62) -/

theorem halts_of_headOf {s : State} {q : BitVec 6} {tag : Nat} {x : Halt} (hst : (s.queue q).st = .running) (h : s.headOf q = .halt tag x) :
    ∀ i ∈ Claims.packets q, ∃ r, exec i s = .next r ∧ Claims.HaltedAt s r q x.kind := by
  intro i hi
  have hh := State.haltQueue_haltedAt (t := s) hst rfl rfl tag x
  obtain he | he := exec_packets (packetEvent_of_halt h) i hi
  · exact ⟨_, he, hh⟩
  · exact ⟨_, he, haltedAt_dropDone hh⟩

theorem stays_of_packetEvent {s : State} {q : BitVec 6} (h : ∀ type go, packetEvent type q s go = .next s) :
    ∀ i ∈ Claims.packets q, ∃ r, exec i s = .next r ∧ (r.queue q).head = (s.queue q).head ∧ (r.queue q).done = (s.queue q).done
      ∧ r.launches = s.launches := by
  intro i hi
  obtain he | he := exec_packets h i hi
  · exact ⟨_, he, rfl, rfl, rfl⟩
  · obtain ⟨x, hx, -⟩ := s.queue_dropDone q q
    exact ⟨_, he, by rw [hx], by rw [hx], rfl⟩

theorem headsOfQueues : Claims.HeadsOfQueues := by
  intro s q h hm hr
  have hst := (State.mayRead_running hm).1
  have hhead := State.headOf_of_read hm hr
  rw [hdrLen_eq] at hhead
  refine ⟨fun ho => ?_, fun ho hu => ?_, fun ho hu hbad => ?_⟩
  · exact halts_of_headOf hst (hhead.trans (if_pos ho))
  · exact stays_of_packetEvent (packetEvent_of_empty (hhead.trans ((if_neg ho).trans (if_pos hu))))
  · have hno : ¬ hdrOk h = true := by
      intro hok
      obtain ⟨h9, hz, h1, -, h3⟩ := hdrOk_bounds hok
      rw [hdrLen_eq] at h1 h3
      omega
    exact halts_of_headOf hst (hhead.trans ((if_neg ho).trans ((if_neg (Nat.not_lt.2 hu)).trans (if_neg hno))))

theorem packetsWait : Claims.PacketsWait := by
  intro s q hdr hhead hwait
  have hm : s.mayStart q hdr = false := by
    obtain ⟨hf, hr⟩ | ⟨hq, h, hu, hr⟩ := hwait
    · simp [State.mayStart, Queue.fencePassed, hdrFenced, hdrFence, hf, hr]
    · have hready : s.readyHead (q + 1) = true := by
        rw [State.readyHead, hu]
        simp only [Queue.fencePassed, hr, List.isEmpty_nil, Bool.or_true]
      rw [State.mayStart, hq, hready]
      simp
  exact stays_of_packetEvent (packetEvent_of_waits hhead hm)

/-! ### SEM_WAIT (R60) -/

theorem semTest_iff (cond : BitVec 2) (m value mask : Dword) : semTest cond m value mask = true ↔
    (cond = 0 ∧ m &&& mask = value) ∨ (cond = 1 ∧ m &&& mask ≠ value) ∨ (2 ≤ cond.toNat ∧ value.toNat ≤ (m &&& mask).toNat) := by
  unfold semTest
  split
  · subst cond; simp
  · split
    · subst cond; simp
    · rename_i h0 h1
      have h2 : 2 ≤ cond.toNat := by
        have hne0 : cond.toNat ≠ 0 := fun e => h0 (BitVec.eq_of_toNat_eq e)
        have hne1 : cond.toNat ≠ 1 := fun e => h1 (BitVec.eq_of_toNat_eq e)
        omega
      simp only [h0, h1, h2, false_and, true_and, false_or, decide_eq_true_eq]

/-- The condition of a SEM_WAIT, in numbers of 64 bits. -/
theorem semTest_ofNat_iff {op m v mask : Nat} (hop : op ≤ 2) (hm : m < 2 ^ 64) (hv : v < 2 ^ 64) :
    semTest (BitVec.ofNat 2 op) (BitVec.ofNat 64 m) (BitVec.ofNat 64 v) (BitVec.ofNat 64 mask) = true ↔
      (op = 0 ∧ m &&& mask = v) ∨ (op = 1 ∧ m &&& mask ≠ v) ∨ (op = 2 ∧ v ≤ m &&& mask) := by
  have hand : (BitVec.ofNat 64 m &&& BitVec.ofNat 64 mask).toNat = m &&& mask := by
    have hle : m &&& mask ≤ m := Nat.and_le_left
    rw [BitVec.toNat_and, BitVec.toNat_ofNat, BitVec.toNat_ofNat, ← Nat.and_mod_two_pow, Nat.mod_eq_of_lt (by omega)]
  have hval : (BitVec.ofNat 64 v).toNat = v := BitVec.toNat_ofNat .. ▸ Nat.mod_eq_of_lt hv
  rw [semTest_iff, ← BitVec.toNat_inj, ne_eq, ← BitVec.toNat_inj (x := _ &&& _), hand, hval]
  have hcases : op = 0 ∨ op = 1 ∨ op = 2 := by omega
  obtain rfl | rfl | rfl := hcases <;> simp

theorem semaphorePolls : Claims.SemaphorePolls := by
  intro s q w m hw hst hn hr x holds
  have hiff : semTest w.cond (BitVec.ofNat 64 m) w.value w.mask = true ↔ holds := semTest_iff ..
  have hpoll : s.pollSem q = if semTest w.cond (BitVec.ofNat 64 m) w.value w.mask
      then (s.modQueue q fun k => { k with sem := none }).completePkt q w.off w.tag w.notify else s := by
    simp [State.pollSem, hw, hst, hr.1, hr.2, State.recallOwn_of_noOwners hn]
  have hlt := State.queue_lt_of_running hst
  refine ⟨fun h => ?_, fun h => congrArg Host.Outcome.next (hpoll.trans (if_neg fun he => h (hiff.1 he)))⟩
  have hq := State.queue_completePkt (s := s.modQueue q fun k => { k with sem := none }) ((s.modQueue_length q _).symm ▸ hlt) w.off w.tag w.notify
  rw [State.queue_modQueue_self hlt] at hq
  refine ⟨_, congrArg Host.Outcome.next (hpoll.trans (if_pos (hiff.2 h))), ?_, ?_, fun p hp => ?_⟩
  · rw [hq, (Queue.settle_done _).2]
  · rw [hq, (Queue.settle_done _).1]
  · rw [State.queue_completePkt_ne _ hp, s.queue_modQueue_ne hp]

/-! ### LAUNCH_COMPLETE (R58, R90, R181, R218, R279) -/

/-- A step of a fold that keeps a part of the state: so does the fold. -/
theorem foldl_keeps {α β : Type} {π : State → β} {f : State → α → State} (hf : ∀ s a, π (f s a) = π s) :
    ∀ (l : List α) (s : State), π (l.foldl f s) = π s
  | [], _ => rfl
  | a :: l, s => (foldl_keeps hf l (f s a)).trans (hf s a)

theorem State.writeBackLine_ownFrame (s : State) (line : Nat) (l : L1Line) : OwnFrame s (s.writeBackLine line l) := by
  unfold State.writeBackLine
  dsimp only
  split
  · exact (s.putBack_ownFrame ..).trans (State.incGen_ownFrame _ _)
  · exact s.putBack_ownFrame ..

theorem State.flushContext_queues (s : State) (core : Nat) (ctx : BitVec 5) :
    ((s.flushContext core ctx).queues, (s.flushContext core ctx).launches) = (s.queues, s.launches) := by
  have hf := OwnFrame.foldl (f := fun (t : State) (e : Nat × L1Line) => t.writeBackLine e.1 e.2) (fun t e => t.writeBackLine_ownFrame e.1 e.2)
    ((s.core core).l1.filter fun e => e.2.ctx == ctx) s
  exact Prod.ext hf.queues hf.launches

theorem State.launchWrite_ownFrame (s : State) (l : Launch) (code va v n : Nat) : OwnFrame s (s.launchWrite l code va v n) := by
  unfold State.launchWrite
  split
  · exact (s.recallOwn_ownFrame ..).trans (State.ownWrite_ownFrame ‹_›)
  · exact s.ownLost_ownFrame ..

theorem State.writeCover_ownFrame (s : State) (l : Launch) (c : Cover) : OwnFrame s (s.writeCover l c) := by
  unfold State.writeCover
  dsimp only
  split
  · exact s.ownLost_ownFrame ..
  · exact (s.launchWrite_ownFrame ..).trans (State.launchWrite_ownFrame ..)

theorem State.writeHeader_dispatchFrame (s : State) (l : Launch) : DispatchFrame s (s.writeHeader l) := by
  unfold State.writeHeader
  split
  · exact (OwnFrame.refl s).toDispatchFrame
  · split
    · exact ((s.recallOwn_ownFrame ..).trans (State.ownWrite_ownFrame ‹_›)).toDispatchFrame
    · exact (s.modCtx_dispatchFrame ..).trans (State.ownLost_ownFrame ..).toDispatchFrame

/-- The cores that have held the launch write back and drop its lines (R181). -/
def State.flushLaunch (s : State) (l : Launch) : State :=
  ((List.range Config.cores).filter l.heldCores.getLsbD).foldl (fun t k => t.flushContext k l.ctx) s

/-- The error-controller record and the credit of a launch with coverage (R279, R280). -/
def State.finishCover (s : State) (l : Launch) : State := l.cover.elim s fun c => (s.writeCover l c).credit l.ctx c.credit

/-- The header of the trace that records a launch (R90). -/
def State.finishTrace (s : State) (l : Launch) : State := if l.recorded then s.writeHeader l else s

/-- The digest of a launch (R218). -/
def State.finishDigest (s : State) (l : Launch) : State :=
  if l.ld.digest then s.launchWrite l 3 l.ld.digestAddr.toNat (s.digest l).toNat 8 else s

/-- What the part writes for a launch that is done. -/
def State.finishLaunch (s : State) (l : Launch) : State := (((s.flushLaunch l).finishCover l).finishTrace l).finishDigest l

theorem State.finishLaunch_queues (s : State) (l : Launch) : (s.finishLaunch l).queues = s.queues ∧ (s.finishLaunch l).launches = s.launches := by
  have h1 : ((s.flushLaunch l).queues, (s.flushLaunch l).launches) = (s.queues, s.launches) :=
    foldl_keeps (π := fun t => (t.queues, t.launches)) (fun t k => t.flushContext_queues k l.ctx) _ s
  have h2 (t : State) : DispatchFrame t (t.finishCover l) := by
    unfold State.finishCover
    cases l.cover with
    | none => exact (OwnFrame.refl t).toDispatchFrame
    | some c => exact (t.writeCover_ownFrame l c).toDispatchFrame.trans (State.modCtx_dispatchFrame ..)
  have h3 (t : State) : DispatchFrame t (t.finishTrace l) := by
    unfold State.finishTrace
    split
    · exact t.writeHeader_dispatchFrame l
    · exact (OwnFrame.refl t).toDispatchFrame
  have h4 (t : State) : DispatchFrame t (t.finishDigest l) := by
    unfold State.finishDigest
    split
    · exact (t.launchWrite_ownFrame ..).toDispatchFrame
    · exact (OwnFrame.refl t).toDispatchFrame
  have hf := ((h2 (s.flushLaunch l)).trans (h3 _)).trans (h4 _)
  exact ⟨hf.queues.trans (congrArg Prod.fst h1), hf.launches.trans (congrArg Prod.snd h1)⟩

theorem execLaunchComplete_of_done {s : State} {l : Launch} (hl : s.launch l.uid = some l) (hd : s.launchDone l = true) (hh : s.endHeld l = false) :
    exec (.launchComplete l.uid) s = .next (State.completePkt { s.finishLaunch l with
      launches := (s.finishLaunch l).launches.filter fun x => x.uid != l.uid } l.queue l.off l.tag l.notify) := by
  show execLaunchComplete l.uid s = _
  unfold execLaunchComplete
  rw [hl]
  dsimp only
  rw [hd, hh]
  unfold State.finishLaunch State.finishCover
  cases l.cover <;> rfl

theorem execLaunchComplete_of_not_done {s : State} {l : Launch} (hl : s.launch l.uid = some l) (h : s.launchDone l = false ∨ s.endHeld l = true) :
    exec (.launchComplete l.uid) s = .next s := by
  show execLaunchComplete l.uid s = _
  unfold execLaunchComplete
  rw [hl]
  dsimp only
  rw [if_pos (by simpa using h)]

/-- A launch that has something left is not done with. -/
theorem State.launchDone_of_left {s : State} {l : Launch} (h : l.nextTeam ≠ l.ld.teams ∧ l.segment = none ∨ l.returned ≠ []
    ∨ (∃ t ∈ s.teams, t.launch = l.uid) ∨ (∃ g ∈ s.groups, g.launch = l.uid)) : s.launchDone l = false := by
  obtain ⟨hn, hs⟩ | hr | ht | hg := h
  · simp [State.launchDone, Launch.dispatched, hs, hn]
  · simp [State.launchDone, Launch.dispatched, hr]
  · have ha : (s.teams.any fun t => t.launch == l.uid) = true := by simpa using ht
    simp [State.launchDone, ha]
  · have ha : (s.groups.any fun g => g.launch == l.uid) = true := by simpa using hg
    simp [State.launchDone, ha]

theorem launchesComplete : Claims.LaunchesComplete := by
  intro s l hl hlt
  refine ⟨fun hd hh => ?_, fun h => execLaunchComplete_of_not_done hl ?_⟩
  · obtain ⟨hq, hla⟩ := s.finishLaunch_queues l
    let u : State := { s.finishLaunch l with launches := (s.finishLaunch l).launches.filter fun x => x.uid != l.uid }
    have hlaunch (v : Nat) : (u.completePkt l.queue l.off l.tag l.notify).launch v = s.launches.find? fun x => x.uid != l.uid && x.uid == v := by
      rw [State.launch, (u.completePkt_frame ..).1]
      show ((s.finishLaunch l).launches.filter _).find? _ = _
      rw [hla, List.find?_filter]
      simp only [Bool.decide_and, Bool.decide_eq_true]
    refine ⟨_, execLaunchComplete_of_done hl hd hh, ?_, ?_, fun v hv => ?_⟩
    · rw [hlaunch, List.find?_eq_none]
      simp
    · rw [State.queue_completePkt (s := u) (by rw [show u.queues = _ from hq]; exact hlt), (Queue.settle_done _).1, State.queue_congr (t := u) hq]
    · rw [hlaunch, State.launch]
      congr 1
      funext x
      by_cases hx : x.uid = v
      · subst hx; simp [hv]
      · simp [hx]
  · obtain h | h | h | h | h := h
    · exact .inl (State.launchDone_of_left (.inl h))
    · exact .inl (State.launchDone_of_left (.inr (.inl h)))
    · exact .inr h
    · exact .inl (State.launchDone_of_left (.inr (.inr (.inl h))))
    · exact .inl (State.launchDone_of_left (.inr (.inr (.inr h))))

/-! ### NOP, MEMO_FLUSH (R57, R252) -/

theorem nopDone {s : State} {q : BitVec 6} {hdr : Nat} (ha : Claims.AtHead s q hdr) : Claims.NopDone s q hdr := by
  intro ht
  have hf := (s.passHead q (hdrLen hdr)).completePkt_frame q (s.queue q).head (BitVec.ofNat 32 (hdrTag hdr)) (hdrNotify hdr)
  exact ⟨_, show execNopPacket q s = _ from packetEvent_completes (t := s) ha ht rfl, State.passHead_packetDone ha rfl _ _ _, hf.1, hf.2.1⟩

theorem State.memoApply_queues (s : State) (m : MemoMsg) : (s.memoApply m).queues = s.queues := by
  unfold State.memoApply
  split
  · unfold State.memoDrop
    split <;> rfl
  · rfl

theorem State.memoFlush_queues (s : State) (ctx : BitVec 5) : (s.memoFlush ctx).queues = s.queues :=
  foldl_keeps (π := State.queues) (f := fun (t : State) (m : MemoMsg × Nat) => t.memoApply m.1) (fun t m => t.memoApply_queues m.1) _ _

/-- With no memo store on its way, a flush drops what the tables hold of the context. -/
theorem State.memoFlush_memo {s : State} (h : s.slices.memoMsgs = []) (ctx : BitVec 5) :
    (s.memoFlush ctx).slices.memo = s.slices.memo.filter fun e => e.2.ctx != ctx := by
  simp [State.memoFlush, State.memoArrive, h]

theorem memoFlushDone {s : State} {q : BitVec 6} {hdr : Nat} (ha : Claims.AtHead s q hdr) : Claims.MemoFlushDone s q hdr := by
  intro ht
  obtain ⟨-, -, hmemo, -⟩ := ((s.memoFlush (queueCtx q)).passHead q (hdrLen hdr)).completePkt_frame q (s.queue q).head
    (BitVec.ofNat 32 (hdrTag hdr)) (hdrNotify hdr)
  refine ⟨_, show execMemoFlushPacket q s = _ from packetEvent_completes (t := s.memoFlush (queueCtx q)) ha ht rfl,
    State.passHead_packetDone ha (s.memoFlush_queues _) _ _ _, fun e he => ?_, fun h e => ?_⟩
  · rw [hmemo] at he
    simpa using (List.mem_filter.1 he).2
  · rw [hmemo, State.passHead, State.modQueue_slices, State.memoFlush_memo h]
    simp

/-! ### SET_STATE, FRAME_MARK (R57, R266) -/

theorem Desc.setKey_of_mem (d : Desc) (v : Nat) : ∀ x ∈ Claims.setKeys d v, d.setKey x.1 v = some x.2.2 ∧ keyBits x.1 = x.2.1 := by
  simp [Claims.setKeys, Desc.setKey, keyBits]

theorem Desc.setKey_reserved (d : Desc) {key : Nat} (h : key = 0 ∨ 8 < key) (v : Nat) : d.setKey key v = none := by
  unfold Desc.setKey
  split
  any_goals omega
  rfl

theorem Desc.stateFits_iff (d : Desc) : Claims.stateFits d ↔ d.stateOk = true ∧ d.legacyOk = true := by
  simp [Claims.stateFits, Desc.stateOk, Desc.legacyOk, and_assoc]

theorem State.ctx_passHead (s : State) (q : BitVec 6) (len : Nat) (c : BitVec 5) : (s.passHead q len).ctx c = s.ctx c := rfl

/-- A packet that sets a part of its context, and is complete with that. -/
theorem packet_setsContext {α : Type} {s t : State} {q : BitVec 6} {hdr type : Nat} {go : Nat → PktRes} {f : Context → Context} {part : Context → α}
    (ha : Claims.AtHead s q hdr) (ht : hdr % 2 ^ 8 = type) (hq : t.queues = s.queues) (hc : (queueCtx q).toNat < t.ctxs.length)
    (hpart : ∀ c a b, part { c with lostReported := a, statusDue := b } = part c) (hg : go hdr = .start (t.modCtx (queueCtx q) f) none) :
    ∃ r, packetEvent type q s go = .next r ∧ Claims.PacketDone s r q hdr ∧ part (r.ctx (queueCtx q)) = part (f (t.ctx (queueCtx q))) := by
  obtain ⟨-, -, -, hctx⟩ := ((t.modCtx (queueCtx q) f).passHead q (hdrLen hdr)).completePkt_frame q (s.queue q).head
    (BitVec.ofNat 32 (hdrTag hdr)) (hdrNotify hdr)
  obtain ⟨a, b, he⟩ := hctx (queueCtx q)
  rw [State.ctx_passHead, State.ctx_modCtx_self hc] at he
  refine ⟨_, packetEvent_completes ha ht hg, State.passHead_packetDone (t := t.modCtx (queueCtx q) f) ha hq _ _ _, ?_⟩
  rw [he, hpart]

/-- A packet that fails its checks halts its queue, and changes no descriptor. -/
theorem packet_halts {s : State} {q : BitVec 6} {hdr type : Nat} {go : Nat → PktRes} {x : Halt} (ha : Claims.AtHead s q hdr)
    (ht : hdr % 2 ^ 8 = type) (hg : go hdr = .halt x s) :
    ∃ r, packetEvent type q s go = .next r ∧ Claims.HaltedAt s r q x.kind ∧ (r.ctx (queueCtx q)).desc = (s.ctx (queueCtx q)).desc :=
  ⟨_, packetEvent_halts ha ht hg, State.haltQueue_haltedAt (State.mayRead_running (State.headOf_packet ha.1).1).1 rfl rfl _ _,
    s.haltQueue_desc ..⟩

theorem setState_sets {s : State} {q : BitVec 6} {hdr key v : Nat} {d : Desc} (ha : Claims.AtHead s q hdr) (ht : hdr % 2 ^ 8 = 4)
    (hp : s.payload q 2 = .ok [key, v]) (hc : (queueCtx q).toNat < s.ctxs.length) (hset : (s.ctx (queueCtx q)).desc.setKey key v = some d)
    (hv : v < 2 ^ keyBits key) (hok : d.stateOk = true) (hleg : d.legacyOk = true) :
    ∃ r, exec (.setState q) s = .next r ∧ Claims.PacketDone s r q hdr ∧ (r.ctx (queueCtx q)).desc = d := by
  show ∃ r, execSetState q s = .next r ∧ _
  unfold execSetState
  refine packet_setsContext (t := s) (f := fun c => { c with desc := d }) (part := Context.desc) ha ht rfl hc (fun _ _ _ => rfl) ?_
  rw [withPayload_of_read hp]
  dsimp only [wordN_one, wordN_two]
  rw [hset]
  simp [Nat.div_eq_of_lt hv, hok, hleg]

theorem setState_halts {s : State} {q : BitVec 6} {hdr key v : Nat} (ha : Claims.AtHead s q hdr) (ht : hdr % 2 ^ 8 = 4)
    (hp : s.payload q 2 = .ok [key, v])
    (hbad : ∀ d, (s.ctx (queueCtx q)).desc.setKey key v = some d → 2 ^ keyBits key ≤ v ∨ d.stateOk = false ∨ d.legacyOk = false) :
    ∃ r, exec (.setState q) s = .next r ∧ Claims.HaltedAt s r q 2 ∧ (r.ctx (queueCtx q)).desc = (s.ctx (queueCtx q)).desc := by
  show ∃ r, execSetState q s = .next r ∧ _
  unfold execSetState
  cases hset : (s.ctx (queueCtx q)).desc.setKey key v with
  | none =>
    refine packet_halts (x := Halt.packet 1) ha ht ?_
    rw [withPayload_of_read hp]
    dsimp only [wordN_one, wordN_two]
    rw [hset]
  | some d =>
    have hcond : (v / 2 ^ keyBits key != 0 || !d.stateOk || !d.legacyOk) = true := by
      obtain hv | hok | hleg := hbad d hset
      · simp [Nat.div_eq_zero_iff, hv]
      · simp [hok]
      · simp [hleg]
    refine packet_halts (x := Halt.packet 2) ha ht ?_
    rw [withPayload_of_read hp]
    dsimp only [wordN_one, wordN_two]
    rw [hset]
    exact if_pos hcond

theorem setStateDone {s : State} {q : BitVec 6} {hdr : Nat} (ha : Claims.AtHead s q hdr) : Claims.SetStateDone s q hdr := by
  intro key v ht hp hc
  refine ⟨fun x hx hk => ?_, fun hkey => setState_halts ha ht hp fun d hd => ?_⟩
  · subst hk
    obtain ⟨hset, hbits⟩ := Desc.setKey_of_mem _ v x hx
    rw [← hbits, Desc.stateFits_iff]
    refine ⟨fun hv ⟨hok, hleg⟩ => setState_sets ha ht hp hc hset hv hok hleg, fun hbad => setState_halts ha ht hp fun d hd => ?_⟩
    obtain rfl : d = x.2.2 := Option.some.inj (hd.symm.trans hset)
    rwa [not_and_or, Bool.not_eq_true, Bool.not_eq_true] at hbad
  · rw [Desc.setKey_reserved _ hkey] at hd
    cases hd

theorem frameMarkDone {s : State} {q : BitVec 6} {hdr : Nat} (ha : Claims.AtHead s q hdr) : Claims.FrameMarkDone s q hdr := by
  intro f cur prev n ht hp hc hf hcur hprev hn hcur0 hcur64 hprev64 hn0 hn32 hdisj hwcur hwprev
  let x : FrameState := { frame := BitVec.ofNat 32 f, cur := BitVec.ofNat 49 cur, prev := BitVec.ofNat 49 prev, bytes := BitVec.ofNat 32 n }
  show ∃ r, execFrameMark q s = .next r ∧ _
  unfold execFrameMark
  refine packet_setsContext (t := s) (f := fun c => { c with frame := some x }) (part := Context.frame) ha ht rfl hc (fun _ _ _ => rfl) ?_
  rw [withPayload_of_read hp]
  dsimp only [wordN_one, wordN_two, wordN_three, wordN_four]
  rw [firstHalt_of_all]
  simp only [List.forall_mem_cons, List.not_mem_nil, false_implies, implies_true, and_true]
  refine ⟨onlyBits_of_lt hf 1, onlyBits_of_lt hcur 2, ?_, onlyBits_of_lt hprev 3, ?_, onlyBits_of_lt hn 4, ?_, ?_, Desc.windowBound_eq_none_iff.2 hwcur, ?_⟩
  · simp [hcur0, hcur64]
  · simp [hprev64]
  · simp [hn0, hn32]
  · simpa [or_assoc] using hdisj
  · rw [← Desc.windowBound_eq_none_iff] at hwprev
    simpa using hwprev

/-! ### TRACE_RECORD, TRACE_REPLAY, POWER (R90, R105) -/

theorem traceBuf_of_checks {s : State} {q : BitVec 6} {buf n : Nat} (hp : s.payload q 2 = .ok [buf, n]) (hb : buf < 2 ^ 49) (hb64 : buf % 64 = 0)
    (hn64 : 64 ≤ n) (hn : n < 2 ^ 32) (hw : Claims.windowed s q buf n) (go : Pc → Word → PktRes) :
    traceBuf s q go = go (BitVec.ofNat 49 buf) (BitVec.ofNat 32 n) := by
  unfold traceBuf
  rw [withPayload_of_read hp]
  dsimp only
  rw [firstHalt_of_all]
  · rfl
  simp only [List.forall_mem_cons, List.not_mem_nil, false_implies, implies_true, and_true]
  exact ⟨onlyBits_of_lt hb 1, by simp [wordN, hb64], onlyBits_of_lt hn 2, by simp [wordN, hn64], Desc.windowBound_eq_none_iff.2 hw⟩

theorem tracesOpened {s : State} {q : BitVec 6} {hdr : Nat} (ha : Claims.AtHead s q hdr) : Claims.TracesOpened s q hdr := by
  intro buf n hp hc hb hb64 hn64 hn hw
  have hgo := traceBuf_of_checks hp hb hb64 hn64 hn hw
  have hpc : (BitVec.ofNat 49 buf).toNat = buf := BitVec.toNat_ofNat .. ▸ Nat.mod_eq_of_lt hb
  refine ⟨fun ht hno hheld ⟨s1, hs1⟩ => ?_, fun ht => ?_⟩
  · let x : RecTrace := { buf := BitVec.ofNat 49 buf, size := BitVec.ofNat 32 n, entries := 0, overflow := false, launches := 0 }
    have hf := State.ownWrite_ownFrame hs1
    show ∃ r, execTraceRecord q s = .next r ∧ _
    unfold execTraceRecord
    refine packet_setsContext (t := s1) (f := fun c => { c with recTrace := some x }) (part := Context.recTrace) ha ht hf.queues (hf.ctxCount ▸ hc)
      (fun _ _ _ => rfl) ?_
    rw [hgo, hpc, writeObject_of_writes hno hheld hs1]
  · let x : RepTrace := { buf := BitVec.ofNat 49 buf, size := BitVec.ofNat 32 n, cursor := 0 }
    show ∃ r, execTraceReplay q s = .next r ∧ _
    unfold execTraceReplay
    exact packet_setsContext (t := s) (f := fun c => { c with repTrace := some x }) (part := Context.repTrace) ha ht rfl hc (fun _ _ _ => rfl) (hgo _)

theorem powerAsked {s : State} {q : BitVec 6} {hdr : Nat} (ha : Claims.AtHead s q hdr) : Claims.PowerAsked s q hdr := by
  intro w ht hp hw
  let t : State := { s with fcp := { s.fcp with capReqs := s.fcp.capReqs ++
    [{ src := some (q, (s.queue q).head), cap := BitVec.ofNat 16 w, floor := BitVec.ofNat 16 (w / 2 ^ 16) }] } }
  have hlt := State.queue_lt_of_running (State.mayRead_running (State.headOf_packet ha.1).1).1
  have hq := t.queue_passHead_running hlt (hdrLen hdr) { off := (s.queue q).head, tag := BitVec.ofNat 32 (hdrTag hdr), notify := hdrNotify hdr, what := .power }
  refine ⟨_, packetEvent_runs (t := t) (w := .power) ha ht ?_, ?_, ?_, rfl, ?_⟩
  · rw [withPayload_of_read hp]
    dsimp only
    rw [firstHalt_of_all]
    · rfl
    simp only [List.forall_mem_cons, List.not_mem_nil, false_implies, implies_true, and_true]
    exact onlyBits_of_lt hw 1
  · rw [Claims.Passed, hq, ← hdrLen_eq]
    rfl
  · rw [hq]; rfl
  · rw [hq]
    exact ⟨_, List.mem_append_right _ (List.mem_singleton.2 rfl), rfl, rfl⟩

end Sys2Proof.Machine
end

section
/-! SUPPORT. Semaphores and LAUNCH (R58, R60, R71, R72): the clauses of O58 on packets that read the memory of their context, and O58. -/

namespace Sys2Proof.Machine

/-! ### Semaphores (R60) -/

/-- OP and address of a semaphore's word, and the two checks of its address that the packets share. -/
theorem semaphore_word {w : Nat} (hop : w / 2 ^ 62 ≤ 3) (h8 : w % 8 = 0) :
    bitsOf w 63 62 = w / 2 ^ 62 ∧ bitsOf w 48 0 = w % 2 ^ 49 ∧ w % 2 ^ 49 % 8 = 0 := by
  refine ⟨?_, ?_, by omega⟩
  · rw [bitsOf_eq]; omega
  · rw [bitsOf_eq, Nat.pow_zero, Nat.div_one]

theorem State.pollAll_of_none {s : State} (h : ∀ x, (s.queue x).sem = none) (pa : Option Nat) : s.pollAll pa = s := by
  unfold State.pollAll
  induction List.range 64 with
  | nil => rfl
  | cons i l ih =>
    rw [List.foldl_cons]
    simp only [h]
    exact ih

theorem semaphoreSignalled {s : State} {q : BitVec 6} {hdr : Nat} (ha : Claims.AtHead s q hdr) : Claims.SemaphoreSignalled s q hdr := by
  intro w1 w2 old s2 ht hp hz hop h8 va hno hhost
  have hst := (State.mayRead_running (State.headOf_packet ha.1).1).1
  obtain ⟨hbop, hbva, hva8⟩ := semaphore_word (Nat.le_trans hop (by decide)) h8
  have hmask := onlyBits_semaphore hz (Nat.le_trans hop (by decide)) 1
  refine ⟨fun hw hr hwr hsem => ?_, fun hw => ?_⟩
  · have hf := State.ownWrite_ownFrame hwr
    have hlen : hdrLen hdr = 3 := (hdrOk_bounds (State.headOf_packet ha.1).2).2.2.2.1 ht
    refine ⟨_, packetEvent_completes (t := s2) ha ht ?_, State.passHead_packetDone ha hf.queues _ _ _, (State.completePkt_frame ..).2.1.trans hf.groups, ?_⟩
    · rw [withPayload_of_read hp]
      dsimp only [wordN_one, wordN_two, wordN_three]
      rw [hbop, hbva, firstHalt_of_all]
      · dsimp only
        rw [readObject_of_reads hno hr, writeObject_of_writes hno hr.1 hwr, State.pollAll_of_none hsem]
      simp only [List.forall_mem_cons, List.not_mem_nil, false_implies, implies_true, and_true]
      refine ⟨decide_eq_true hop, hmask, beq_iff_eq.2 hva8, Desc.windowBound_eq_none_iff.2 hw, ?_⟩
      obtain h0 | h1 : w1 / 2 ^ 62 = 0 ∨ w1 / 2 ^ 62 = 1 := by omega
      · rw [h0]; rfl
      · have hpa : (s.paOf (queueCtx q) (w1 % 2 ^ 49)).any inHost = false := by
          unfold State.paOf
          split
          · rename_i t htr
            simpa [inHost] using hhost h1 t htr
          · rfl
        rw [hpa]; exact Bool.or_true _
    · rw [hlen, hdrTag_eq]
      rfl
  · have hb : ((s.ctx (queueCtx q)).desc.windowBound va 8).isNone = false := by
      rw [← Bool.not_eq_true, Desc.windowBound_eq_none_iff]; exact hw
    refine ⟨_, packetEvent_halts (t := s) (x := (inWindow (s.ctx (queueCtx q)).desc 1 va 8).2) ha ht ?_,
      State.haltQueue_haltedAt hst rfl rfl _ _⟩
    rw [withPayload_of_read hp]
    dsimp only [wordN_one, wordN_two, wordN_three]
    rw [hbop, hbva]
    simp only [firstHalt, hmask, if_true, hva8, beq_self_eq_true, decide_eq_true hop, inWindow, hb, Bool.false_eq_true, if_false, va]

/-- The SEM_WAIT at QHEAD, as its queue holds it while it waits. -/
def State.semWaitAt (s : State) (q : BitVec 6) (hdr w1 v mask : Nat) : SemWait :=
  { off := (s.queue q).head, tag := BitVec.ofNat 32 (hdrTag hdr), notify := hdrNotify hdr, cond := BitVec.ofNat 2 (w1 / 2 ^ 62),
    addr := BitVec.ofNat 49 (w1 % 2 ^ 49), value := BitVec.ofNat 64 v, mask := BitVec.ofNat 64 mask }

/-- The note of a packet that has started and waits, taken away again by `dropDone`. -/
def State.semWaitNote (s : State) (q : BitVec 6) (hdr : Nat) : RunningPkt :=
  { off := (s.queue q).head, tag := BitVec.ofNat 32 (hdrTag hdr), notify := hdrNotify hdr, what := .done }

/-- A SEM_WAIT that passes its checks and reads its semaphore completes, or waits in its queue. -/
theorem exec_semWait {s : State} {q : BitVec 6} {hdr w1 v mask m : Nat} (ha : Claims.AtHead s q hdr) (ht : hdr % 2 ^ 8 = 3)
    (hp : s.payload q 3 = .ok [w1, v, mask]) (hz : w1 / 2 ^ 49 % 2 ^ 13 = 0) (hop : w1 / 2 ^ 62 ≤ 2) (h8 : w1 % 8 = 0) (hno : Claims.NoOwners s)
    (hw : Claims.windowed s q (w1 % 2 ^ 49) 8) (hr : Claims.reads s q (w1 % 2 ^ 49) 8 m) :
    exec (.semWait q) s = .next (State.dropDone
      (if semTest (BitVec.ofNat 2 (w1 / 2 ^ 62)) (BitVec.ofNat 64 m) (BitVec.ofNat 64 v) (BitVec.ofNat 64 mask) = true
        then (s.passHead q (hdrLen hdr)).completePkt q (s.queue q).head (BitVec.ofNat 32 (hdrTag hdr)) (hdrNotify hdr)
        else ((s.modQueue q fun k => { k with sem := some (s.semWaitAt q hdr w1 v mask) }).passHead q (hdrLen hdr)).modQueue q fun k =>
          { k with running := k.running ++ [s.semWaitNote q hdr] }) q) := by
  obtain ⟨hbop, hbva, hva8⟩ := semaphore_word (Nat.le_trans hop (by decide)) h8
  have hchecks : firstHalt [(w1 / 2 ^ 62 != 3, Halt.packet 1), onlyBits 1 (3 * 2 ^ 62 + (2 ^ 49 - 1)) w1, (w1 % 2 ^ 49 % 8 == 0, Halt.packet 1),
      inWindow (s.ctx (queueCtx q)).desc 1 (w1 % 2 ^ 49) 8] = none := by
    refine firstHalt_of_all ?_
    simp only [List.forall_mem_cons, List.not_mem_nil, false_implies, implies_true, and_true]
    exact ⟨bne_iff_ne.2 (by omega), onlyBits_semaphore hz (Nat.le_trans hop (by decide)) 1, beq_iff_eq.2 hva8, Desc.windowBound_eq_none_iff.2 hw⟩
  have hstart (go : Nat → PktRes) (hg : go hdr = if semTest (BitVec.ofNat 2 (w1 / 2 ^ 62)) (BitVec.ofNat 64 m) (BitVec.ofNat 64 v)
      (BitVec.ofNat 64 mask) = true then .start s none else .start (s.modQueue q fun k => { k with sem := some (s.semWaitAt q hdr w1 v mask) })
        (some .done)) := packetEvent_ite (type := 3) ha ht hg
  show execSemWait q s = _
  unfold execSemWait
  rw [hstart]
  · rfl
  rw [withPayload_of_read hp]
  dsimp only [wordN_one, wordN_two, wordN_three]
  rw [hbop, hbva, hchecks]
  dsimp only
  rw [readObject_of_reads hno hr]
  rfl

theorem semaphoreWaited {s : State} {q : BitVec 6} {hdr : Nat} (ha : Claims.AtHead s q hdr) : Claims.SemaphoreWaited s q hdr := by
  intro w1 v mask m ht hp hz hop h8 va op holds hno hw hr
  have hiff := semTest_ofNat_iff (mask := mask) hop (State.ownRead_lt 8 hr.2) (State.payload_lt hp v (by simp))
  have hexec := exec_semWait ha ht hp hz hop h8 hno hw hr
  refine ⟨fun hh => ?_, fun hh => ?_⟩
  · rw [if_pos (hiff.2 hh)] at hexec
    exact ⟨_, hexec, packetDone_dropDone (State.passHead_packetDone ha rfl _ _ _)⟩
  · rw [if_neg fun h => hh (hiff.1 h)] at hexec
    have hlt := State.queue_lt_of_running (State.mayRead_running (State.headOf_packet ha.1).1).1
    let t : State := s.modQueue q fun k => { k with sem := some (s.semWaitAt q hdr w1 v mask) }
    have hq := t.queue_passHead_running ((s.modQueue_length q _).symm ▸ hlt) (hdrLen hdr) (s.semWaitNote q hdr)
    rw [State.queue_modQueue_self hlt] at hq
    obtain ⟨z, hz, -⟩ := State.queue_dropDone ((t.passHead q (hdrLen hdr)).modQueue q fun k =>
      { k with running := k.running ++ [s.semWaitNote q hdr] }) q q
    rw [hq] at hz
    refine ⟨_, hexec, ?_, by rw [hz], ?_⟩
    · rw [Claims.Passed, hz, ← hdrLen_eq]
      rfl
    · rw [hz, ← hdrTag_eq]
      rfl

/-! ### LAUNCH (R58, R71, R72, R90, R91, R171, R248, R271, R311) -/

section
variable {s : State} {q : BitVec 6} {d : LDesc} {seg : Option (List (Nat × Nat))} {code : Option (Dword × Word)} {cov : Option Cover}

theorem withSegment_of_launchReads (h : Claims.LaunchReads s q d seg code cov) : ∃ y : Option (List (Nat × Nat) × Nat), seg = y.map (·.1) ∧
    ∀ go, withSegment s q d go = go y := by
  obtain ⟨⟨hr, hs⟩ | ⟨t, x, cur, hr, ht, hx, hs⟩, -, -⟩ := h
  · exact ⟨none, hs, fun go => by simp [withSegment, hr]⟩
  · exact ⟨some (x, cur), hs, fun go => by simp [withSegment, hr, ht, hx]⟩

theorem withCode_of_launchReads (hn : Claims.NoOwners s) (h : Claims.LaunchReads s q d seg code cov)
    (go : State → Option (Dword × Word) → PktRes) : withCode s q d go = go s code := by
  obtain ⟨-, ⟨hd, hc⟩ | ⟨u, hd, hu, hok, hc⟩, -⟩ := h
  · rw [withCode, if_pos hd, hc]
  · rw [withCode, if_neg hd, readObject_of_reads hn hu, if_pos hok, hc]

theorem withCover_of_launchReads (hn : Claims.NoOwners s) (h : Claims.LaunchReads s q d seg code cov)
    (go : State → Option Cover → PktRes) : withCover s q d go = go s cov := by
  obtain ⟨-, -, ⟨he, hc⟩ | ⟨u, w, c, f, he, hu, hw, hf, hcov, hc⟩⟩ := h
  · simp [withCover, he, hc]
  · simp [withCover, he, hc, readObject_of_reads hn hu, readObject_of_reads hn hw, hf, hcov]

end

theorem State.traceAppend_dispatchFrame (s : State) (ctx : BitVec 5) (queue : BitVec 6) (kind value size : Nat) :
    DispatchFrame s (s.traceAppend ctx queue kind value size) := by
  unfold State.traceAppend
  split
  · exact (OwnFrame.refl s).toDispatchFrame
  · dsimp only
    split
    · exact s.modCtx_dispatchFrame ..
    · split
      · exact (State.ownWrite_ownFrame ‹_›).toDispatchFrame.trans (State.modCtx_dispatchFrame ..)
      · exact (s.modCtx_dispatchFrame ..).trans (State.ownLost_ownFrame ..).toDispatchFrame

theorem State.traceLaunch_dispatchFrame (s : State) (q : BitVec 6) (d : LDesc) : DispatchFrame s (s.traceLaunch q d) := by
  unfold State.traceLaunch
  split
  · exact (OwnFrame.refl s).toDispatchFrame
  · exact (s.modCtx_dispatchFrame ..).trans (State.traceAppend_dispatchFrame ..)

theorem State.moveCursor_dispatchFrame (s : State) (ctx : BitVec 5) (seg : Option (List (Nat × Nat) × Nat)) :
    DispatchFrame s (s.moveCursor ctx seg) ∧ (s.moveCursor ctx seg).sched = s.sched := by
  cases seg with
  | none => exact ⟨(OwnFrame.refl s).toDispatchFrame, rfl⟩
  | some p => exact ⟨s.modCtx_dispatchFrame .., rfl⟩

/-- The state that a launch starts in: the replay cursor has moved, and the context's cached translations and every cached code word have gone
(R91, R171, R311). -/
def State.launchCleaned (s : State) (ctx : BitVec 5) (seg : Option (List (Nat × Nat) × Nat)) : State :=
  ((s.moveCursor ctx seg).dropTlb ctx).dropIcaches

theorem State.launchCleaned_caches (s : State) (ctx : BitVec 5) (seg : Option (List (Nat × Nat) × Nat)) :
    (∀ c ∈ (s.launchCleaned ctx seg).cores, c.icache = [] ∧ ∀ p ∈ c.parts, ∀ x ∈ p.tlb, x.ctx ≠ ctx)
      ∧ ∀ x ∈ (s.launchCleaned ctx seg).slices.tlb, x.2.ctx ≠ ctx := by
  simp [State.launchCleaned, State.dropIcaches, State.dropTlb]

theorem launchStarted {s : State} {q : BitVec 6} {hdr : Nat} (ha : Claims.AtHead s q hdr) : Claims.LaunchStarted s q hdr := by
  intro va v ht hp hva h256 hw hno hr d
  have hst := (State.mayRead_running (State.headOf_packet ha.1).1).1
  have hlt := State.queue_lt_of_running hst
  have hchecks : firstHalt [onlyBits 1 (2 ^ 49 - 1) va, (va % 256 == 0, Halt.packet 1), inWindow (s.ctx (queueCtx q)).desc 1 va 256] = none := by
    refine firstHalt_of_all ?_
    simp only [List.forall_mem_cons, List.not_mem_nil, false_implies, implies_true, and_true]
    exact ⟨onlyBits_of_lt hva 1, beq_iff_eq.2 h256, Desc.windowBound_eq_none_iff.2 hw⟩
  refine ⟨fun ⟨f, hf⟩ => ?_, fun seg code cov hnone hheld hreads => ?_⟩
  · refine ⟨_, packetEvent_halts (t := s) (x := Halt.packet f) ha ht ?_, State.haltQueue_haltedAt hst rfl rfl _ _⟩
    rw [withPayload_of_read hp]
    dsimp only [wordN_one]
    rw [hchecks]
    dsimp only
    rw [readObject_of_reads hno hr, hf]
  · obtain ⟨y, rfl, hseg⟩ := withSegment_of_launchReads hreads
    obtain ⟨hmove, hsched⟩ := s.moveCursor_dispatchFrame (queueCtx q) y
    obtain ⟨hcores, htlb⟩ := s.launchCleaned_caches (queueCtx q) y
    let n : State := s.launchCleaned (queueCtx q) y
    let l : Launch := { Launch.start n.fresh.1 q (s.queue q).head (BitVec.ofNat 32 (hdrTag hdr)) (hdrNotify hdr) d (s.ctx (queueCtx q)).desc
      (s.ctx (queueCtx q)).frame with segment := y.map (·.1), code := code, cover := cov, recorded := d.trec }
    let t : State := State.traceLaunch { n.fresh.2 with launches := n.fresh.2.launches ++ [l] } q d
    have hf : DispatchFrame { n.fresh.2 with launches := n.fresh.2.launches ++ [l] } t := State.traceLaunch_dispatchFrame ..
    have hqs : t.queues = s.queues := hf.queues.trans hmove.queues
    let x : RunningPkt := { off := (s.queue q).head, tag := BitVec.ofNat 32 (hdrTag hdr), notify := hdrNotify hdr, what := .launch l.uid }
    have hq := t.queue_passHead_running (hqs ▸ hlt) (hdrLen hdr) x
    rw [State.queue_congr hqs] at hq
    refine ⟨_, l, packetEvent_runs (t := t) (w := .launch l.uid) ha ht ?_, hf.launches.trans (congrArg (· ++ [l]) hmove.launches),
      congrArg Sched.nextUid hsched, rfl, rfl, rfl, rfl, rfl, rfl, rfl, rfl, rfl, rfl, rfl, ?_, ?_, ?_, by rw [hq], ?_⟩
    · rw [withPayload_of_read hp]
      dsimp only [wordN_one]
      rw [hchecks]
      dsimp only
      rw [readObject_of_reads hno hr, hnone]
      dsimp only
      rw [hheld, if_neg Bool.false_ne_true, hseg, withCode_of_launchReads hno hreads, withCover_of_launchReads hno hreads]
      rfl
    · intro c hc
      exact hcores c (hf.cores ▸ hc)
    · intro e he
      exact htlb e (hf.tlb ▸ he)
    · rw [Claims.Passed, hq, ← hdrLen_eq]
      rfl
    · rw [hq]
      exact ⟨x, List.mem_append_right _ (List.mem_singleton.2 rfl), rfl, rfl⟩

/-- Settles O58: each clause is a lemma above, on what a queue finds at QHEAD or on one packet. -/
theorem queueAndPacketResults : Obligations.QueueAndPacketResults :=
  ⟨headsOfQueues, packetsWait, semaphorePolls, launchesComplete, fun _ _ _ ha =>
    ⟨nopDone ha, memoFlushDone ha, setStateDone ha, frameMarkDone ha, tracesOpened ha, powerAsked ha, semaphoreSignalled ha, semaphoreWaited ha,
      launchStarted ha⟩⟩

end Sys2Proof.Machine
end

section
/-! SUPPORT. The counterexample to O60: a context's root table lies in the host window, where the spill image that a restore writes lays a free byte
over its entry, and the walks of the rest of the restore fail (R45, R88, R93, R147, R150, R165). -/

namespace Sys2Proof.Machine

/-! ### Ranges that the part reaches, or does not (R93) -/

theorem State.pagesFault_of_ok {s : State} {ctx : BitVec 5} {va n : Nat} {k : AccKind}
    (h : ∀ i, i < n / 128 → ∃ t, s.translate ctx (va + 128 * i) k = .ok t ∧ (s.homeByte t.pa).isSome = true) :
    s.pagesFault ctx va n k = none := by
  refine List.findSome?_eq_none_iff.2 fun i hi => ?_
  obtain ⟨t, ht, hb⟩ := h i (List.mem_range.1 hi)
  simp [ht, hb]

theorem State.pagesFault_of_fault {s : State} {ctx : BitVec 5} {va n kind : Nat} {k : AccKind} (hn : 128 ≤ n)
    (h : s.translate ctx va k = .fault kind) : s.pagesFault ctx va n k = some kind := by
  obtain ⟨m, hm⟩ : ∃ m, n / 128 = m + 1 := ⟨n / 128 - 1, by omega⟩
  simp [State.pagesFault, hm, List.range_succ_eq_map, h]

theorem foldl_eq_self {α β : Type} {f : β → α → β} {s : β} : ∀ {l : List α}, (∀ a ∈ l, f s a = s) → l.foldl f s = s
  | [], _ => rfl
  | a :: l, h => by
    rw [List.foldl_cons, h a List.mem_cons_self]
    exact foldl_eq_self fun b hb => h b (List.mem_cons_of_mem _ hb)

theorem bitsOf_of_lt {x hi lo : Nat} (h : x < 2 ^ lo) : bitsOf x hi lo = 0 := by rw [bitsOf_eq, Nat.div_eq_of_lt h, Nat.zero_mod]

/-- One table of a walk above level 3, by its entry for the address (R165). -/
theorem State.walkFrom_entry {s : State} {va n lvl t : Nat} {e : Dword} (hl : lvl ≠ 3)
    (he : s.physNat (t + 8 * bitsOf va (lvlTop lvl) (lvlShift lvl)) 8 = some e.toNat) :
    s.walkFrom va (n + 1) lvl t = if !pteBit e 0 then .fault 1 else if badEntry e lvl then .fault 5
      else if !pteBit e 1 then s.walkFrom va n (lvl + 1) (pteAddr e) else .page (pteAddr e) (leafLog2 lvl e) e := by
  rw [State.walkFrom]
  simp only [he, if_neg hl, BitVec.ofNat_toNat, BitVec.setWidth_eq]

/-! ### A root table in the host window (R45, R165, R166) -/

/-- A table entry that points to the table at 65536 b: V alone, ADDR with b in its bits 23 to 16 (R166). -/
def pointerTo (b : Byte) : Dword := 0x1#64 ||| (b.setWidth 64 <<< 16)

theorem pointerTo_fields : ∀ b : Byte, pteBit (pointerTo b) 0 = true ∧ badEntry (pointerTo b) 0 = false ∧ pteBit (pointerTo b) 1 = false
    ∧ pteAddr (pointerTo b) = 65536 * b.toNat ∧ (pointerTo b).toNat = 1 + 65536 * b.toNat := by
  decide

/-- A leaf that maps a GiB onto the start of the host window (V, LEAF, W, COHERENT, uncached; R166, R167). -/
def hostLeaf : Dword := 0x800000000227

/-- Context 0 has its root table at byte 126 of the host window: entry 0 points to the table at 65536 b. DRAM holds one table, at 65536 c, which maps
the first GiB onto the host window, the root table with it. -/
structure RootPoints (s : State) (b c : Byte) : Prop where
  root : (s.ctx 0).desc.transRoot.toNat = Config.hostWindow + 126
  host : ∀ a, s.hostByte a = if a = 126 then 1 else if a = 128 then b else 0
  dram : ∀ a, s.dramByte a = if a = 65536 * c.toNat then 0x27 else if a = 65536 * c.toNat + 1 then 2
    else if a = 65536 * c.toNat + 5 then 0x80 else 0
  bad : s.dram.bad = []
  sram : s.sram = []
  degraded : s.dev.degraded = false
  tlb : s.slices.tlb = []
  dir : s.slices.dir = []

/-- It is a matter of the contexts, the memories, their errors, the device's registers and the slices alone. -/
theorem RootPoints.congr {s t : State} {b c : Byte} (h : RootPoints s b c)
    (e : (t.ctxs, t.host, t.dram, t.sram, t.dev, t.slices) = (s.ctxs, s.host, s.dram, s.sram, s.dev, s.slices)) : RootPoints t b c := by
  obtain ⟨ectx, ehost, edram, esram, edev, eslices⟩ :
      t.ctxs = s.ctxs ∧ t.host = s.host ∧ t.dram = s.dram ∧ t.sram = s.sram ∧ t.dev = s.dev ∧ t.slices = s.slices := by simpa using e
  refine ⟨?_, fun a => ?_, fun a => ?_, edram ▸ h.bad, esram ▸ h.sram, edev ▸ h.degraded, eslices ▸ h.tlb, eslices ▸ h.dir⟩
  · rw [State.ctx, ectx]; exact h.root
  · rw [State.hostByte, ehost]; exact h.host a
  · rw [State.dramByte, edram]; exact h.dram a

section
variable {s : State} {b c : Byte} (h : RootPoints s b c)
include h

theorem RootPoints.homeByte_host {pa : Nat} (hp : Config.hostWindow ≤ pa) : s.homeByte pa = some (s.hostByte (pa - Config.hostWindow)) := by
  have ho : s.ownerByte pa = none := by simp [State.ownerByte, State.dirOf_of_empty h.dir]
  have hd : ¬ pa < Config.dramBytes := Nat.not_lt.2 (le_trans (by decide) hp)
  simp [State.homeByte, State.physByte, ho, inDram, inHost, hd, hp, State.hostByte]

theorem RootPoints.homeByte_dram {pa : Nat} (hp : pa < Config.dramBytes) : s.homeByte pa = some (s.dramByte pa) := by
  have ho : s.ownerByte pa = none := by simp [State.ownerByte, State.dirOf_of_empty h.dir]
  have hl : s.lineBad pa = false := by simp [State.lineBad, State.chanBad, State.sramLoses, State.sramAt, h.bad, h.sram, h.degraded]
  simp [State.homeByte, State.physByte, ho, inDram, hp, hl]

/-- Entry 0 of the root table, for every address below 512 GiB. -/
theorem RootPoints.rootEntry : s.physNat (Config.hostWindow + 126) 8 = some (pointerTo b).toNat := by
  have hb : ∀ i, s.homeByte (Config.hostWindow + i) = some (if i = 126 then 1 else if i = 128 then b else 0) := fun i => by
    rw [h.homeByte_host (Nat.le_add_right _ _), h.host, Nat.add_sub_cancel_left]
  simp [State.physNat, Nat.add_assoc, hb, pointerTo_fields]
  omega

/-- Entry 0 of the table that the root entry points to: the leaf, or nothing. -/
theorem RootPoints.tableEntry : s.physNat (65536 * b.toNat) 8 = some (if b = c then hostLeaf.toNat else 0) := by
  have hlt : b.toNat < 256 := b.isLt
  have hb : ∀ i, i < 8 → s.homeByte (65536 * b.toNat + i) =
      some (if b = c then if i = 0 then 0x27 else if i = 1 then 2 else if i = 5 then 0x80 else 0 else 0) := fun i hi => by
    have hclt : c.toNat < 256 := c.isLt
    rw [h.homeByte_dram (by unfold Config.dramBytes; omega), h.dram]
    by_cases hbc : b = c
    · simp [hbc]
    · have hne : b.toNat ≠ c.toNat := fun e => hbc (BitVec.eq_of_toNat_eq e)
      rw [if_neg (by omega), if_neg (by omega), if_neg (by omega), if_neg hbc]
  have h0 := hb 0 (by decide)
  rw [Nat.add_zero] at h0
  simp only [State.physNat, Nat.add_assoc, h0, hb 1 (by decide), hb 2 (by decide), hb 3 (by decide), hb 4 (by decide), hb 5 (by decide),
    hb 6 (by decide), hb 7 (by decide)]
  split <;> rfl

/-- An address of the first GiB lies on the leaf where the root entry points to the table, and has no translation elsewhere. -/
theorem RootPoints.walk {va : Nat} (hva : va < 2 ^ 30) : s.walk 0 va = if b = c then .page Config.hostWindow 30 hostLeaf else .fault 1 := by
  have h0 : bitsOf va (lvlTop 0) (lvlShift 0) = 0 := bitsOf_of_lt (hva.trans (by decide))
  have h1 : bitsOf va (lvlTop 1) (lvlShift 1) = 0 := bitsOf_of_lt hva
  obtain ⟨hv, hgood, hptr, haddr, -⟩ := pointerTo_fields b
  have hroot : s.walk 0 va = s.walkFrom va 3 1 (65536 * b.toNat) := by
    rw [State.walk, h.root, State.walkFrom_entry (e := pointerTo b) (by decide) (by rw [h0]; exact h.rootEntry)]
    simp [hv, hgood, hptr, haddr]
  rw [hroot]
  split
  · rw [State.walkFrom_entry (e := hostLeaf) (by decide) (by rw [h1]; simpa [*] using h.tableEntry)]
    rfl
  · rw [State.walkFrom_entry (e := 0) (by decide) (by rw [h1]; simpa [*] using h.tableEntry)]
    rfl

theorem RootPoints.translate {va : Nat} {k : AccKind} (hva : va < 2 ^ 30) (hk : k ≠ .fetch) :
    s.translate 0 va k = if b = c then .ok ⟨Config.hostWindow + va, pteAttr hostLeaf⟩ else .fault 1 := by
  have hl : s.lookup none 0 va = s.walk 0 va := by simp [State.lookup, State.cached, h.tlb]
  rw [State.translate, hl, h.walk hva]
  split
  · have hp : permFault hostLeaf k = none := match k, hk with
      | .read, _ => rfl
      | .write, _ => rfl
      | .fetch, hk => absurd rfl hk
    simp only [Walk.trans, hp, Nat.mod_eq_of_lt hva]
  · rfl

theorem RootPoints.ctxPut_eq (x : Byte) : ∃ y, s.ctxPut 0 (Config.hostWindow + 128) x = { s with host := y } := by
  simp only [State.ctxPut, State.recall_of_no_owner (State.dirOf_of_empty h.dir _)]
  exact ⟨_, rfl⟩

theorem RootPoints.ctxPut_hostByte (x : Byte) (a : Nat) :
    (s.ctxPut 0 (Config.hostWindow + 128) x).hostByte a = if a = 128 then x else s.hostByte a := by
  simp only [State.ctxPut, State.recall_of_no_owner (State.dirOf_of_empty h.dir _)]
  exact sget_sset ..

/-- A byte that is written through the leaf to the third byte of the root entry moves its pointer. -/
theorem RootPoints.ctxPut (x : Byte) : RootPoints (s.ctxPut 0 (Config.hostWindow + 128) x) x c := by
  have hhost : ∀ a, (s.ctxPut 0 (Config.hostWindow + 128) x).hostByte a = if a = 126 then 1 else if a = 128 then x else 0 := fun a => by
    rw [h.ctxPut_hostByte, h.host]
    split
    · subst a; rfl
    · rfl
  obtain ⟨y, hy⟩ := h.ctxPut_eq x
  rw [hy] at hhost ⊢
  exact ⟨h.root, hhost, h.dram, h.bad, h.sram, h.degraded, h.tlb, h.dir⟩

end

/-- The part reaches the first GiB while the root entry points to the table. -/
theorem RootPoints.pagesFault {s : State} {c : Byte} (h : RootPoints s c c) (va n : Nat) (k : AccKind) (hn : va + n ≤ 2 ^ 30) (hk : k ≠ .fetch) :
    s.pagesFault 0 va n k = none := by
  refine State.pagesFault_of_ok fun i hi => ⟨⟨Config.hostWindow + (va + 128 * i), pteAttr hostLeaf⟩, ?_, ?_⟩
  · rw [h.translate (by omega) hk, if_pos rfl]
  · rw [h.homeByte_host (Nat.le_add_right _ _)]
    rfl

/-- An image that is written over the root entry ends with its first byte: no other byte of it translates any more. -/
theorem RootPoints.writeImage {s : State} {c : Byte} (h : RootPoints s c c) {g : Group} {i : Nat} {f : Frame} (hg : g.ctx = 0)
    (ha : s.imageAt g i = 128) (hn : f.imageBytes = 6272) (hx : spillByte s.sched.tick 128 ≠ c) :
    s.writeImage g i f = s.ctxPut 0 (Config.hostWindow + 128) (spillByte s.sched.tick 128) := by
  have hw := h.ctxPut (spillByte s.sched.tick 128)
  have hfault : ∀ va, va < 2 ^ 30 → (s.ctxPut 0 (Config.hostWindow + 128) (spillByte s.sched.tick 128)).translate 0 va .write = .fault 1 :=
    fun va hva => by rw [hw.translate hva (by decide), if_neg hx]
  have hfirst : s.translate 0 128 .write = .ok ⟨Config.hostWindow + 128, pteAttr hostLeaf⟩ := by
    rw [h.translate (by decide) (by decide), if_pos rfl]
  have hscramble : s.scrambleRange 0 128 6272 = s.ctxPut 0 (Config.hostWindow + 128) (spillByte s.sched.tick 128) := by
    rw [State.scrambleRange, show List.range 6272 = 0 :: (List.range 6271).map Nat.succ from List.range_succ_eq_map, List.foldl_cons]
    simp only [Nat.add_zero, hfirst]
    refine foldl_eq_self fun j hj => ?_
    obtain ⟨k, hk, rfl⟩ := List.mem_map.1 hj
    have hlt : k < 6271 := List.mem_range.1 hk
    rw [hfault _ (by omega)]
  rw [State.writeImage, hg, ha, hn, hscramble, State.countLines]
  refine foldl_eq_self fun j hj => ?_
  have hlt : j < 6272 / 128 := List.mem_range.1 hj
  rw [hfault _ (by omega)]

/-- A group whose top frame has its image at a place, written at a step (R147). -/
def Group.imaged (g : Group) (im : Nat × Nat) : Group := { g with frames := g.frames.modify 0 fun x => { x with image := some im } }

/-- A group of two frames whose image cannot be written. -/
theorem State.imagesFault_of_first {s : State} {t : Team} {g : Group} {f base : Frame} {kind : Nat} (hg : s.teamGroups t.uid = [g])
    (hfs : g.frames = [f, base]) (ho : s.spillOverflows g 0 f = false)
    (hf : s.pagesFault g.ctx (s.imageAt g 0) f.imageBytes .write = some kind) : s.imagesFault t = some kind := by
  simp [State.imagesFault, hg, hfs, ho, hf]

/-- A group whose image overwrites the root entry cannot write that image: its restore finds a fault there, for which DRAM alone is read as it was
before the image. -/
theorem RootPoints.imagesFault {s : State} {c : Byte} (h : RootPoints s c c) {t : Team} {g : Group} {f base : Frame} (hgs : s.groups = [g])
    (ht : g.team = t.uid) (hg : g.ctx = 0) (hfs : g.frames = [f, base]) (ha : s.imageAt g 0 = 128) (hn : f.imageBytes = 6272)
    (ho : s.spillOverflows g 0 f = false) (hx : spillByte s.sched.tick 128 ≠ c) :
    ({ s.placeImage g.uid 0 with dram := s.dram } : State).imagesFault t = some 1 := by
  obtain ⟨y, hy⟩ := h.ctxPut_eq (spillByte s.sched.tick 128)
  let v : State := { s with host := y, groups := [g.imaged (128, s.sched.tick)] }
  have hplace : ({ s.placeImage g.uid 0 with dram := s.dram } : State) = v := by
    have hgroup : s.group g.uid = some g := by simp [State.group, hgs]
    have htop : g.frames[0]? = some f := by rw [hfs]; rfl
    simp only [State.placeImage, hgroup, htop, ho, Bool.false_eq_true, if_false, h.writeImage hg ha hn hx, hy, State.modGroup, hgs, ha,
      List.map_cons, List.map_nil, if_true]
    rfl
  have hv : RootPoints v (spillByte s.sched.tick 128) c := (hy ▸ h.ctxPut _ : RootPoints { s with host := y } _ c).congr rfl
  have hfault : v.pagesFault g.ctx (s.imageAt g 0) f.imageBytes .write = some 1 := by
    rw [hg, ha, hn]
    exact State.pagesFault_of_fault (by decide) (by rw [hv.translate (by decide) (by decide), if_neg hx])
  rw [hplace]
  exact State.imagesFault_of_first (g := g.imaged (128, s.sched.tick)) (f := { f with image := some (128, s.sched.tick) }) (base := base)
    (by simp [v, State.teamGroups, Group.imaged, ht]) (by simp [Group.imaged, hfs]) ho hfault

/-! ### Restoring a team (R88, R93, R150) -/

/-- A team that is being restored on a core: resident there, while its groups stand on no core yet (R88). -/
def State.unplaced (s : State) (t : Team) (core : Nat) : State :=
  let s1 := (((s.flushContext core t.ctx).dropCoherent core).wakeCore core).modLaunch t.launch fun x => x.holds core
  ({ s1 with groups := s1.groups.map fun g : Group => (if g.team = t.uid then { g with core := Config.cores } else g) }).modTeam t.uid fun x =>
    { x with core := core, st := .resident, since := s.sched.tick, quanta := 0, unsaved := false }

/-- A group of such a team in its new place, the images of its frames not yet written (R150). -/
def State.replaced (s : State) (g : Group) (core part : Nat) : State :=
  let h := g.placeAgain s core part ((s.freeSlot core part).getD 0) ((s.freeBlocks core part).take g.baseBlocks)
  (s.fresh.2.putGroup h).modCore core fun c => { c with serials := sset 0 h.slot48 (sget 0 c.serials h.slot48 + 1) c.serials }

theorem Group.placeAgain_frames_length (g : Group) (s : State) (core part slot : Nat) (bs : List Nat) :
    (g.placeAgain s core part slot bs).frames.length = g.frames.length := by
  simp [Group.placeAgain]

theorem State.restoreGroup_of_part {s : State} {g : Group} {core part : Nat} (h : s.restorePart g core = some part) (hf : g.frames.length = 2) :
    s.restoreGroup g core = (s.replaced g core part).placeImage g.uid 0 := by
  simp only [State.restoreGroup, h, Group.placeAgain_frames_length, hf]
  rfl

theorem State.wakeCore_eq (s : State) (core : Nat) : s.wakeCore core = { s with cores := (s.wakeCore core).cores } := by
  unfold State.wakeCore
  split <;> rfl

/-- A core whose L1 holds nothing has nothing to write back. -/
theorem State.flushContext_of_empty {s : State} {core : Nat} (h : (s.core core).l1 = []) (ctx : BitVec 5) :
    s.flushContext core ctx = { s with cores := (s.flushContext core ctx).cores } := by
  simp only [State.flushContext, State.cleanL1, h, List.filter_nil, List.foldl_nil]
  rfl

/-- The restore of a team of one group whose image meets a fault ends the team (R93). -/
theorem State.restoreTeam_of_imagesFault {s : State} {t : Team} {g : Group} {core a n kind : Nat} (hst : t.st = .saved a n)
    (hl : (s.core core).l1 = []) (hr : s.pagesFault t.ctx a n .read = none) (hg : s.teamGroups t.uid = [g])
    (hf : ({ (s.unplaced t core).restoreGroup g core with dram := (s.unplaced t core).dram } : State).imagesFault t = some kind) :
    s.restoreTeam t core = ((s.unplaced t core).restoreGroup g core).endTeam t kind := by
  have hgs : ((((s.flushContext core t.ctx).dropCoherent core).wakeCore core).modLaunch t.launch fun x => x.holds core).teamGroups t.uid = [g] := by
    rw [← hg, State.wakeCore_eq, State.flushContext_of_empty hl]
    rfl
  simp only [State.restoreTeam, hst, hr]
  rw [hgs]
  change (match ({ (s.unplaced t core).restoreGroup g core with dram := (s.unplaced t core).dram } : State).imagesFault t with
    | some kind => ((s.unplaced t core).restoreGroup g core).endTeam t kind
    | none => (s.unplaced t core).restoreGroup g core) = _
  rw [hf]

theorem State.islandsOff_teams (s : State) (core : Nat) : (s.islandsOff core).teams = s.teams := by
  unfold State.islandsOff
  generalize List.range 4 = l
  induction l generalizing s with
  | nil => rfl
  | cons p l ih =>
    rw [List.foldl_cons, ih]
    unfold State.islandOff
    split <;> rfl

theorem State.followRatio_teams (s : State) : s.followRatio.teams = s.teams := by
  unfold State.followRatio
  split <;> rfl

theorem State.followRatio_frame (s : State) : (s.followRatio.ctxs, s.followRatio.host, s.followRatio.dram, s.followRatio.sram, s.followRatio.dev,
    s.followRatio.slices) = (s.ctxs, s.host, s.dram, s.sram, s.dev, s.slices) := by
  unfold State.followRatio
  split <;> rfl

@[simp] theorem State.noteServed_team (s : State) (ctx : BitVec 5) (u : Nat) : (s.noteServed ctx).team u = s.team u := rfl

/-- A team whose restore fails is gone. -/
theorem State.endTeam_team (s : State) (t : Team) (kind : Nat) : (s.endTeam t kind).team t.uid = none := by
  have hgone : ∀ u : State, (u.removeTeam t).teams.find? (fun x => x.uid == t.uid) = none := fun u => by
    simp [State.removeTeam, State.followRatio_teams, State.islandsOff_teams]
  unfold State.endTeam
  dsimp only
  rw [State.team, State.modLaunch_teams]
  exact hgone _

/-! ### The counterexample -/

/-- The context's tables start at byte 126 of the host window; its spill areas, of one image each, at address 128. -/
def selfMappedDesc : Desc := { placedDesc with transRoot := 0x80000000007E, spillBase := 128, spillStride := 6272 }

def selfMappedLaunch : Launch := { Launch.start 0 0 0 0 false LDesc.single selfMappedDesc none with nextTeam := 1 }

/-- A frame of one block above the base frame. -/
def upperFrame (spilled : Bool) : Frame :=
  { first := 8, blks := 1, init := 1, args := 0, swb := 0, rpc := 0, spilled := spilled, born := 0, image := none }

def stoppedGroup : Group := { placedGroup with frames := [upperFrame false, baseFrame 8 0], stopped := true }

/-- The team of that group, saved; records started it, so that it is a cluster of its own. -/
def waitingTeam : Team := { Team.start 1 selfMappedLaunch 0 1 0 0 0 with st := .saved 0x100000 118784 }

/-- A team of one group is saved; its context's root entry points to the table at 65536 c, which maps the root table into the group's spill
area. -/
def selfMapped (c : Byte) : State :=
  { State.reset with
    boot := { Boot.reset with phase := .trained, linkUp := true }
    ctxs := [{ Context.reset with st := .active, desc := selfMappedDesc }]
    host := { HostSide.reset with mem := [(126, 1), (128, c)] }
    dram := { Dram.reset with mem := ⟨[(65536 * c.toNat, 0x27), (65536 * c.toNat + 1, 2), (65536 * c.toNat + 5, 0x80)]⟩ }
    launches := [selfMappedLaunch]
    teams := [waitingTeam]
    groups := [stoppedGroup]
    sched := { Sched.reset with nextUid := 3 } }

theorem selfMapped_rootPoints (c : Byte) : RootPoints (selfMapped c) c c where
  root := rfl
  host a := by simp [State.hostByte, selfMapped, sget, eq_comm, unlistedByte]
  dram a := by simp [State.dramByte, selfMapped, Memory.read, sget, eq_comm, unlistedByte]
  bad := rfl
  sram := rfl
  degraded := rfl
  tlb := rfl
  dir := rfl

/-- The part as it stands when the team's group is about to take its place. -/
def restoring (c : Byte) : State := (selfMapped c).followRatio.unplaced waitingTeam 0

theorem restoring_rootPoints (c : Byte) : RootPoints (restoring c) c c := by
  refine (selfMapped_rootPoints c).congr ?_
  rw [restoring, State.unplaced, State.wakeCore_eq, State.flushContext_of_empty]
  · rfl
  · rfl

/-- The group in its new place. -/
def placedOnce (c : Byte) : State := (restoring c).replaced stoppedGroup 0 0

theorem selfMapped_mayRestore : ∀ c ∈ [(1 : Byte), 2], (selfMapped c).canRestore waitingTeam 0 = true
    ∧ (selfMapped c).followRatio.launch waitingTeam.launch = some selfMappedLaunch
    ∧ (selfMapped c).followRatio.mayPlace selfMappedLaunch [0] = true ∧ (selfMapped c).followRatio.restoreFirst selfMappedLaunch waitingTeam = true
    ∧ (selfMapped c).followRatio.restorePlaces waitingTeam 0 = some [(waitingTeam, 0)]
    ∧ ((selfMapped c).followRatio.core 0).l1 = [] ∧ (selfMapped c).followRatio.teamGroups waitingTeam.uid = [stoppedGroup] := by
  decide

theorem restoring_part : ∀ c ∈ [(1 : Byte), 2], (restoring c).restorePart stoppedGroup 0 = some 0 := by
  decide


theorem placedOnce_groups : ∀ c ∈ [(1 : Byte), 2],
    ((placedOnce c).groups.map fun g => (g.uid, g.team, g.ctx, g.frames)) = [(2, 1, 0, [upperFrame true, baseFrame 8 0])]
    ∧ ((placedOnce c).groups.all fun g => (placedOnce c).imageAt g 0 == 128 && !(placedOnce c).spillOverflows g 0 (upperFrame true)) = true
    ∧ (placedOnce c).sched.tick = 0 := by
  decide

/-- Where the image changes the root entry, the restored team is ended. -/
theorem selfMapped_restoreTeam {c : Byte} (hc : c ∈ [(1 : Byte), 2]) (hx : spillByte 0 128 ≠ c) :
    ((selfMapped c).followRatio.restoreTeam waitingTeam 0).team waitingTeam.uid = none := by
  obtain ⟨-, -, -, -, -, hl1, hteamGroups⟩ := selfMapped_mayRestore c hc
  obtain ⟨hmap, hat, htick⟩ := placedOnce_groups c hc
  obtain ⟨g, hgs, hfields⟩ := List.map_eq_singleton_iff.1 hmap
  simp only [Prod.mk.injEq] at hfields
  obtain ⟨huid, hteam, hctx, hframes⟩ := hfields
  simp only [hgs, List.all_cons, List.all_nil, Bool.and_true, Bool.and_eq_true, beq_iff_eq, Bool.not_eq_true'] at hat
  obtain ⟨hat, hover⟩ := hat
  have hroot : RootPoints (placedOnce c) c c := (restoring_rootPoints c).congr rfl
  have hgroup : (restoring c).restoreGroup stoppedGroup 0 = (placedOnce c).placeImage g.uid 0 := by
    rw [State.restoreGroup_of_part (restoring_part c hc) rfl, huid]
    rfl
  have hfault := hroot.imagesFault (t := waitingTeam) hgs hteam hctx hframes hat rfl hover (by rwa [htick])
  have hread : (selfMapped c).followRatio.pagesFault waitingTeam.ctx 0x100000 118784 .read = none :=
    ((selfMapped_rootPoints c).congr (State.followRatio_frame _)).pagesFault _ _ _ (by decide) (by decide)
  rw [State.restoreTeam_of_imagesFault (a := 0x100000) (n := 118784) (g := stoppedGroup) (kind := 1) rfl hl1 hread hteamGroups]
  · exact State.endTeam_team ..
  · change ({ (restoring c).restoreGroup stoppedGroup 0 with dram := (restoring c).dram } : State).imagesFault waitingTeam = some 1
    rw [hgroup]
    exact hfault

/-- TEAM_RESTORE of a team that is a cluster of its own does nothing, or restores it (R79, R88). -/
theorem execTeamRestore_of_places {s : State} {t : Team} {l : Launch} {core : Nat} (ht : s.team t.uid = some t) (hs : t.isSaved = true)
    (hl : s.followRatio.launch t.launch = some l) (hp : s.followRatio.restorePlaces t core = some [(t, core)])
    (hm : s.followRatio.mayPlace l [core] = true) (hf : s.followRatio.restoreFirst l t = true) :
    exec (.teamRestore t.uid core) s = .next s
      ∨ exec (.teamRestore t.uid core) s = .next ((s.followRatio.restoreTeam t core).noteServed l.ctx) := by
  have he : exec (.teamRestore t.uid core) s = .next
      (if (s.followRatio.restoreTeam t core).groups.any (fun g => g.core == Config.cores) then s
        else (s.followRatio.restoreTeam t core).noteServed l.ctx) := by
    change execTeamRestore t.uid core s = _
    simp [execTeamRestore, ht, hl, hp, hs, hm, hf]
  rw [he]
  split
  · exact .inl rfl
  · exact .inr rfl

/-- With c other than the free byte that the image of the restored group lays over the root entry, the restore meets a fault and ends the team, which
the claim says is resident. -/
theorem not_teamRestored : ¬ Claims.TeamRestored := by
  intro hclaim
  obtain ⟨c, hc, hx⟩ : ∃ c ∈ [(1 : Byte), 2], spillByte 0 128 ≠ c := by
    by_cases h1 : spillByte 0 128 = 1
    · exact ⟨2, by decide, by rw [h1]; decide⟩
    · exact ⟨1, by decide, h1⟩
  obtain ⟨hcan, hlaunch, hplace, hfirst, hplaces, -⟩ := selfMapped_mayRestore c hc
  have hreach := (selfMapped_rootPoints c).pagesFault
  have hdesc : (selfMapped c).descOf stoppedGroup = selfMappedDesc := rfl
  have hareas : ∀ k, k < 4608 * ((selfMapped c).descOf stoppedGroup).spillStride.toNat / 128 →
      (selfMapped c).pagesFault stoppedGroup.ctx (((selfMapped c).descOf stoppedGroup).spillBase.toNat + 128 * k) 128 .write = none := fun k hk => by
    rw [hdesc] at hk ⊢
    have hlt : k < 225792 := hk
    have hbase : selfMappedDesc.spillBase.toNat = 128 := rfl
    exact hreach _ _ _ (by omega) (by decide)
  obtain ⟨r, h, he, hteam, -⟩ := hclaim (selfMapped c) waitingTeam selfMappedLaunch stoppedGroup 0 0x100000 118784 rfl rfl rfl
    (by decide) (by decide) hcan rfl hplace hfirst (fun _ => rfl) (fun e he => by cases he) hareas (by rw [hdesc]; decide) (by rw [hdesc]; decide)
    (hreach _ _ _ (by decide) (by decide)) rfl rfl (fun x hx => by rw [List.mem_singleton.1 hx]; decide)
  rcases execTeamRestore_of_places rfl rfl hlaunch hplaces hplace hfirst with hexec | hexec
  · obtain rfl := Host.Outcome.next.inj (he.symm.trans hexec)
    have hst := congrArg Team.st (Option.some.inj ((show (selfMapped c).team waitingTeam.uid = some waitingTeam from rfl).symm.trans hteam))
    cases hst
  · obtain rfl := Host.Outcome.next.inj (he.symm.trans hexec)
    rw [State.noteServed_team, selfMapped_restoreTeam hc hx] at hteam
    cases hteam

/-- Refutes O60: its clause on TEAM_RESTORE asks that the spill areas can be written before the restore, and lets the root table lie in the host window
and in those areas, where the images overwrite it. ENABLE refuses such a root table (R50); the clause has no premise against it. -/
theorem not_dispatchTimerAndFrameResults : ¬ Obligations.DispatchTimerAndFrameResults := by
  rintro ⟨-, -, -, hrestored, -⟩
  exact not_teamRestored hrestored

end Sys2Proof.Machine
end

section
/-! SUPPORT. What the part's own accesses, its records and its events leave of the governor, the caps, the floors and the teams (R53, R62, R105,
R187). -/

namespace Sys2Proof.Machine

/-! ### The frame of the governor -/

/-- A team without its mappings of the stash, which recalls change (R187). -/
def Team.unmapped (t : Team) : Team := { t with maps := [] }

/-- What a context asks of the power rules: its state and its descriptor (R105). -/
def Context.asks (c : Context) : CtxState × Desc := (c.st, c.desc)

/-- Nothing has changed of the governor, of the requests that wait for it, and of the teams but for their mappings; where no stash owns a line, none
does afterwards, and the mappings are as they were. -/
structure GovFrame (s t : State) : Prop where
  gov : t.gov = s.gov
  capReqs : t.fcp.capReqs = s.fcp.capReqs
  unmapped : t.teams.map Team.unmapped = s.teams.map Team.unmapped
  noOwners : Claims.NoOwners s → t.teams = s.teams ∧ Claims.NoOwners t

/-- Nor of the cap in force, the last refusal, and what each context asks of the power rules. -/
structure CapFrame (s t : State) : Prop extends GovFrame s t where
  capInForce : t.dev.capInForce = s.dev.capInForce
  lastRefusal : t.dev.lastRefusal = s.dev.lastRefusal
  asks : t.ctxs.map Context.asks = s.ctxs.map Context.asks

theorem GovFrame.trans {s t u : State} (a : GovFrame s t) (b : GovFrame t u) : GovFrame s u where
  gov := b.gov.trans a.gov
  capReqs := b.capReqs.trans a.capReqs
  unmapped := b.unmapped.trans a.unmapped
  noOwners h := by
    obtain ⟨ht, hn⟩ := a.noOwners h
    obtain ⟨hu, hn'⟩ := b.noOwners hn
    exact ⟨hu.trans ht, hn'⟩

theorem CapFrame.trans {s t u : State} (a : CapFrame s t) (b : CapFrame t u) : CapFrame s u where
  toGovFrame := a.toGovFrame.trans b.toGovFrame
  capInForce := b.capInForce.trans a.capInForce
  lastRefusal := b.lastRefusal.trans a.lastRefusal
  asks := b.asks.trans a.asks

theorem noOwners_congr {s t : State} (h : t.slices.dir = s.slices.dir) (hn : Claims.NoOwners s) : Claims.NoOwners t := by
  intro line
  rw [State.dirOf, h]
  exact hn line

theorem GovFrame.of_eq {s t : State} (h : (t.gov, t.fcp.capReqs, t.teams, t.slices.dir) = (s.gov, s.fcp.capReqs, s.teams, s.slices.dir)) :
    GovFrame s t := by
  simp only [Prod.mk.injEq] at h
  obtain ⟨hg, hq, ht, hd⟩ := h
  exact ⟨hg, hq, congrArg _ ht, fun hn => ⟨ht, noOwners_congr hd hn⟩⟩

/-- What a change leaves may be read off the two states where it leaves the teams and the directory alone. -/
theorem CapFrame.of_eq {s t : State} (h : (t.gov, t.fcp.capReqs, t.teams, t.slices.dir, t.dev.capInForce, t.dev.lastRefusal, t.ctxs)
    = (s.gov, s.fcp.capReqs, s.teams, s.slices.dir, s.dev.capInForce, s.dev.lastRefusal, s.ctxs)) : CapFrame s t := by
  simp only [Prod.mk.injEq] at h
  obtain ⟨hg, hq, ht, hd, hc, hl, hx⟩ := h
  exact ⟨.of_eq (by rw [hg, hq, ht, hd]), hc, hl, congrArg _ hx⟩

theorem GovFrame.refl (s : State) : GovFrame s s := .of_eq rfl

theorem CapFrame.refl (s : State) : CapFrame s s := .of_eq rfl

/-- A fold whose steps keep a relation that is reflexive and transitive keeps it. -/
theorem foldl_relates {α : Type} {R : State → State → Prop} (refl : ∀ s, R s s) (trans : ∀ {s t u}, R s t → R t u → R s u)
    {f : State → α → State} (h : ∀ s a, R s (f s a)) : ∀ (l : List α) (s : State), R s (l.foldl f s)
  | [], s => refl s
  | a :: l, s => trans (h s a) (foldl_relates refl trans h l (f s a))

theorem CapFrame.foldl {α : Type} {f : State → α → State} (h : ∀ s a, CapFrame s (f s a)) (l : List α) (s : State) : CapFrame s (l.foldl f s) :=
  foldl_relates CapFrame.refl CapFrame.trans h l s

theorem map_modify_of_keeps {α β : Type} {g : α → β} {f : α → α} (h : ∀ a, g (f a) = g a) :
    ∀ (l : List α) (i : Nat), (l.modify i f).map g = l.map g
  | [], _ => by simp
  | a :: l, 0 => by simp [h]
  | a :: l, i + 1 => by simpa using map_modify_of_keeps h l i

/-- A change of a context that keeps its state and its descriptor. -/
theorem State.modCtx_capFrame (s : State) (c : BitVec 5) (f : Context → Context) (hf : ∀ x, (f x).asks = x.asks) : CapFrame s (s.modCtx c f) :=
  ⟨.of_eq rfl, rfl, rfl, map_modify_of_keeps hf _ _⟩

/-! ### Records and events -/

theorem State.logError_capFrame (s : State) (e : ErrInput) : CapFrame s (s.logError e) := by
  obtain ⟨_, _, _, _, h⟩ := s.logError_frame e
  rw [h]
  exact .of_eq rfl

theorem State.signal_capFrame (s : State) (v : Nat) : CapFrame s (s.signal v) := by
  unfold State.signal
  dsimp only
  split <;> exact .of_eq rfl

theorem State.holdEvent_capFrame (s : State) (e : EvRecord) : CapFrame s (s.holdEvent e) := by
  unfold State.holdEvent
  dsimp only
  split
  · exact .of_eq rfl
  · split <;> exact .of_eq rfl

theorem State.postRaw_capFrame (s : State) (e : EvRecord) : CapFrame s (s.postRaw e) := by
  unfold State.postRaw
  dsimp only
  split
  · exact s.holdEvent_capFrame _
  · refine CapFrame.trans ?_ (State.signal_capFrame _ _)
    exact .of_eq rfl

theorem State.lastingError_capFrame (s : State) (e : ErrInput) : CapFrame s (s.lastingError e) := by
  refine CapFrame.trans ?_ (State.postRaw_capFrame _ _)
  refine CapFrame.trans ?_ (State.logError_capFrame _ _)
  exact .of_eq rfl

theorem State.transientError_capFrame (s : State) (e : ErrInput) : CapFrame s (s.transientError e) := by
  have hl : CapFrame s (State.logError { s with dev := { s.dev with errTransient := satInc s.dev.errTransient } } { e with cls := .transient }) := by
    refine CapFrame.trans ?_ (State.logError_capFrame _ _)
    exact .of_eq rfl
  unfold State.transientError
  dsimp only
  split
  · exact hl
  · refine hl.trans (.trans ?_ (State.postRaw_capFrame _ _))
    exact .of_eq rfl

/-! ### Bytes at home, and recalls -/

theorem State.physPut_capFrame (s : State) (pa : Nat) (b : Byte) : CapFrame s (s.physPut pa b) := by
  unfold State.physPut State.wakeChan State.noteWritten
  repeat' (first | exact .of_eq rfl | split)

theorem State.meetSram_capFrame (s : State) (ctx : Option (BitVec 5)) (a : SramAt) (clean : Option Bool) : CapFrame s (s.meetSram ctx a clean) := by
  have hs (p : Prop) [Decidable p] : CapFrame s (if p then s else { s with sram := s.sram.filter fun x => x.at_ != a }) := by
    split <;> exact .of_eq rfl
  unfold State.meetSram
  split
  · exact .refl s
  · dsimp only
    split
    · exact (hs _).trans (State.lastingError_capFrame _ _)
    · exact (hs _).trans (State.transientError_capFrame _ _)

theorem State.noteBadAccess_capFrame (s : State) (pa : Nat) (ctx : Option (BitVec 5)) : CapFrame s (s.noteBadAccess pa ctx) := by
  unfold State.noteBadAccess
  split
  · exact .refl s
  · split
    · exact s.lastingError_capFrame _
    · split
      · exact .of_eq rfl
      · exact s.meetSram_capFrame ..

theorem State.putBack_capFrame (s : State) (ctx : BitVec 5) (line : Nat) (bs : List (Nat × Byte)) : CapFrame s (s.putBack ctx line bs) := by
  have hf : CapFrame s (bs.foldl (fun (t : State) (b : Nat × Byte) => t.physPut (line * 128 + b.1) b.2) s) :=
    .foldl (fun t _ => t.physPut_capFrame _ _) bs s
  unfold State.putBack
  split
  · exact .refl s
  · dsimp only
    split
    · exact hf.trans (State.noteBadAccess_capFrame _ _ _)
    · exact hf

theorem Team.cleanLine_unmapped (t : Team) (ln : Nat) (drop : Bool) : (t.cleanLine ln drop).unmapped = t.unmapped := by
  unfold Team.cleanLine
  split <;> rfl

/-- A recall from a stash changes the mappings of the stash's team alone. -/
theorem State.cleanLine_unmapped (s : State) (tu ln : Nat) (drop : Bool) :
    (s.modTeam tu fun t => t.cleanLine ln drop).teams.map Team.unmapped = s.teams.map Team.unmapped := by
  refine (List.map_map ..).trans (List.map_congr_left fun t _ => ?_)
  simp only [Function.comp_apply]
  split
  · exact t.cleanLine_unmapped ln drop
  · rfl

/-- Where a stash owns some line, a write-back of a stash's line changes no more than the mappings of its team. -/
theorem State.writeBackStash_capFrame {s : State} (h : ¬ Claims.NoOwners s) (tu ln : Nat) (drop : Bool) : CapFrame s (s.writeBackStash tu ln drop) := by
  unfold State.writeBackStash
  split
  · exact .refl s
  · split
    · exact .refl s
    · rename_i t _ _ w _
      have hp := s.putBack_capFrame t.ctx w.line (t.dirtyOf ln)
      have hu := (State.cleanLine_unmapped _ tu ln drop).trans hp.unmapped
      dsimp only
      split <;> exact ⟨⟨hp.gov, hp.capReqs, hu, fun hn => absurd hn h⟩, hp.capInForce, hp.lastRefusal, hp.asks⟩

theorem State.recall_capFrame (s : State) (pa : Nat) (write : Bool) : CapFrame s (s.recall pa write) := by
  cases ho : (s.dirOf (lineOf pa)).owner with
  | none => rw [State.recall_of_no_owner ho]; exact .refl s
  | some o =>
    have hn : ¬ Claims.NoOwners s := fun hn => absurd ((hn _).symm.trans ho) nofun
    have hw := State.writeBackStash_capFrame hn o.1 o.2 write
    have hr : s.recall pa write = (s.writeBackStash o.1 o.2 write).modDir (lineOf pa) fun d => { d with owner := none } := by
      simp only [State.recall, ho]
    rw [hr]
    exact ⟨⟨hw.gov, hw.capReqs, hw.unmapped, fun h => absurd h hn⟩, hw.capInForce, hw.lastRefusal, hw.asks⟩

theorem State.ctxPut_capFrame (s : State) (ctx : BitVec 5) (pa : Nat) (b : Byte) : CapFrame s (s.ctxPut ctx pa b) := by
  have h : CapFrame s ((s.recall pa true).physPut pa b) := (s.recall_capFrame ..).trans (State.physPut_capFrame _ _ _)
  unfold State.ctxPut
  dsimp only
  split
  · exact h.trans (.of_eq rfl)
  · exact h

theorem State.incGen_capFrame (s : State) (pa : Nat) : CapFrame s (s.incGen pa) := by
  unfold State.incGen
  dsimp only
  split
  · exact s.lastingError_capFrame _
  · exact .of_eq rfl

/-! ### Writes at virtual addresses, status records and events -/

theorem State.ownPut_capFrame (ctx : BitVec 5) (n : Nat) : ∀ (s : State) (va v : Nat), CapFrame s (s.ownPut ctx va v n) := by
  induction n with
  | zero => exact fun s _ _ => .refl s
  | succ n ih =>
    intro s va v
    unfold State.ownPut
    refine CapFrame.trans ?_ (ih _ _ _)
    split
    · exact s.ctxPut_capFrame ..
    · exact .refl s

theorem State.ownWrite_capFrame {s t : State} {ctx : BitVec 5} {va v n : Nat} (e : s.ownWrite ctx va v n = .ok t) : CapFrame s t := by
  unfold State.ownWrite at e
  split at e
  · cases e
  · simp only [Except.ok.injEq] at e
    rw [← e]
    refine (s.ownPut_capFrame ctx n va v).trans (.foldl (fun u l => ?_) _ _)
    split
    · split
      · exact u.incGen_capFrame _
      · exact .refl u
    · exact .refl u

theorem State.noteOwnError_capFrame (s : State) (ctx : BitVec 5) (va : Nat) : CapFrame s (s.noteOwnError ctx va) := by
  unfold State.noteOwnError
  refine CapFrame.foldl (fun t a => ?_) _ _
  split
  · exact t.noteBadAccess_capFrame ..
  · exact .refl t

theorem State.logLost_capFrame (s : State) (ctx : BitVec 5) (queue : BitVec 8) (code kind va : Nat) : CapFrame s (s.logLost ctx queue code kind va) := by
  unfold State.logLost
  refine CapFrame.trans ?_ (State.logError_capFrame _ _)
  split
  · exact s.noteOwnError_capFrame ..
  · exact .refl s

theorem State.updateStatus_capFrame (s : State) (ctx : BitVec 5) : CapFrame s (s.updateStatus ctx) := by
  unfold State.updateStatus
  dsimp only
  split
  · exact s.modCtx_capFrame _ _ fun _ => rfl
  · split
    case h_1 h => exact (State.ownWrite_capFrame h).trans (State.modCtx_capFrame _ _ _ fun _ => rfl)
    case h_2 =>
      split
      · exact s.modCtx_capFrame _ _ fun _ => rfl
      · refine CapFrame.trans (.trans (s.modCtx_capFrame _ _ fun _ => ?_) (State.logLost_capFrame ..)) (State.postRaw_capFrame _ _)
        rfl

theorem State.postCtx_capFrame (s : State) (ctx : BitVec 5) (type code : Nat) (queue : BitVec 8) (d0 d1 d2 : Nat) :
    CapFrame s (s.postCtx ctx type code queue d0 d1 d2) := (s.updateStatus_capFrame ctx).trans (State.postRaw_capFrame _ _)

end Sys2Proof.Machine
end

section
/-! SUPPORT. The governor period (R42, R95, R96, R102 to R106): the throttle reports, the cap requests, the sensors, and the clocks, grants and
voltage that a period sets. -/

namespace Sys2Proof.Machine

/-! ### What a context asks, by its number -/

theorem asks_ctx_congr {s t : State} (h : t.ctxs.map Context.asks = s.ctxs.map Context.asks) (c : BitVec 5) : (t.ctx c).asks = (s.ctx c).asks := by
  have hget (u : State) : (u.ctxs.map Context.asks).getD c.toNat Context.reset.asks = (u.ctx c).asks := List.getD_map ..
  rw [← hget, ← hget, h]

theorem desc_of_asks {s t : State} (h : t.ctxs.map Context.asks = s.ctxs.map Context.asks) (c : BitVec 5) : (t.ctx c).desc = (s.ctx c).desc :=
  congrArg Prod.snd (asks_ctx_congr h c)

/-! ### Throttle reports (R106) -/

theorem DispatchFrame.refl (s : State) : DispatchFrame s s := (OwnFrame.refl s).toDispatchFrame

theorem State.throttle_dispatchFrame (s : State) (c : Nat) : DispatchFrame s (s.throttle c) := by
  unfold State.throttle
  dsimp only
  split
  · exact .refl s
  · exact (s.modCtx_dispatchFrame _ _).trans (State.postCtx_ownFrame ..).toDispatchFrame

theorem State.throttle_capFrame (s : State) (c : Nat) : CapFrame s (s.throttle c) := by
  unfold State.throttle
  dsimp only
  split
  · exact .refl s
  · refine CapFrame.trans (s.modCtx_capFrame _ _ fun _ => ?_) (State.postCtx_capFrame ..)
    rfl

/-- Throttle reports of a period, posted context by context (R106). -/
def State.throttled (s : State) : State := (List.range 32).foldl State.throttle s

theorem State.throttled_dispatchFrame (s : State) : DispatchFrame s s.throttled := 
  foldl_relates DispatchFrame.refl DispatchFrame.trans State.throttle_dispatchFrame _ s

theorem State.throttled_capFrame (s : State) : CapFrame s s.throttled := CapFrame.foldl State.throttle_capFrame _ s

/-- The period is counted, and its readings are noted (R102). -/
def State.counted (s : State) (temps : List (BitVec 8)) : State :=
  { s with gov := { s.gov with period := s.gov.period + 1, temps := temps }, fcp := { s.fcp with transientPosted := false } }

theorem CapFrame.counted {s t : State} (h : CapFrame s t) (temps : List (BitVec 8)) : CapFrame (s.counted temps) (t.counted temps) where
  gov := congrArg (fun g : Gov => { g with period := g.period + 1, temps := temps }) h.gov
  capReqs := h.capReqs
  unmapped := h.unmapped
  noOwners := h.noOwners
  capInForce := h.capInForce
  lastRefusal := h.lastRefusal
  asks := h.asks

/-! ### Cap requests (R48, R105) -/

/-- The floor that a context asks for, where it counts. -/
def floorOf (x : CtxState × Desc) : Nat := if x.1 = .off then 0 else x.2.powerFloorW.toNat

theorem State.floorSum_eq (s : State) (c : Option (BitVec 5)) (w : Nat) : s.floorSum c w
    = ((s.ctxs.map Context.asks).zipIdx.map fun p => if some (BitVec.ofNat 5 p.2) = c then w else floorOf p.1).sum := by
  rw [State.floorSum, List.zipIdx_map, List.map_map]
  refine congrArg List.sum (List.map_congr_left fun p _ => ?_)
  by_cases h : p.1.st = .off <;> simp [floorOf, Context.asks, CtxState.counts, h]

theorem State.floorSum_none (s : State) (w : Nat) :
    s.floorSum none w = (s.ctxs.map fun c => if c.st = .off then 0 else c.desc.powerFloorW.toNat).sum := by
  have h : s.floorSum none w = ((s.ctxs.map Context.asks).zipIdx.map fun p => floorOf p.1).sum := by
    rw [State.floorSum_eq]
    simp
  rw [h, show (fun p : (CtxState × Desc) × Nat => floorOf p.1) = floorOf ∘ Prod.fst from rfl, ← List.map_map, List.zipIdx_map_fst, List.map_map]
  rfl

/-- A list's sum with one entry replaced. -/
theorem sum_set_eq {l : List Nat} {n : Nat} (h : n < l.length) (w : Nat) : (l.set n w).sum = l.sum - l[n] + w := by
  have hs := List.sum_take_add_sum_drop l n
  rw [List.drop_eq_getElem_cons h, List.sum_cons] at hs
  rw [List.sum_set, if_pos h]
  omega

/-- Where one context's floor is counted at a new value (R105). -/
theorem State.floorSum_some {s : State} {c : BitVec 5} (hn : s.ctxs.length = 32) (hc : (s.ctx c).st ≠ .off) (w : Nat) :
    s.floorSum (some c) w = s.floorSum none 0 - (s.ctx c).desc.powerFloorW.toNat + w := by
  have hlt : c.toNat < s.ctxs.length := hn ▸ c.isLt
  have hset : s.floorSum (some c) w = ((s.ctxs.map fun x => floorOf x.asks).set c.toNat w).sum := by
    rw [State.floorSum_eq]
    refine congrArg List.sum (List.ext_getElem (by simp) fun i hi _ => ?_)
    have hi32 : i < 2 ^ 5 := by simpa [hn] using hi
    have heq : BitVec.ofNat 5 i = c ↔ c.toNat = i := by
      rw [BitVec.toNat_eq, BitVec.toNat_ofNat, Nat.mod_eq_of_lt hi32, eq_comm]
    simp [List.getElem_set, heq]
  have hown : (s.ctxs.map fun x => floorOf x.asks)[c.toNat]'(by simpa using hlt) = (s.ctx c).desc.powerFloorW.toNat := by
    have hx : s.ctxs[c.toNat] = s.ctx c := by simp [State.ctx, List.getD_eq_getElem?_getD, hlt]
    rw [List.getElem_map, hx]
    exact if_neg hc
  rw [hset, sum_set_eq (by simpa using hlt), hown, State.floorSum_none]
  rfl

/-- The test reads the floors, the administrators and the cap in force alone. -/
theorem State.capRefusal_congr {s t : State} (hx : t.ctxs.map Context.asks = s.ctxs.map Context.asks) (hc : t.dev.capInForce = s.dev.capInForce)
    (r : CapReq) : t.capRefusal r = s.capRefusal r := by
  have hf (c : Option (BitVec 5)) (w : Nat) : t.floorSum c w = s.floorSum c w := by rw [State.floorSum_eq, State.floorSum_eq, hx]
  unfold State.capRefusal
  simp only [hf, hc, desc_of_asks hx]

/-- The codes of R105 in their order, for a cap that may be asked for. -/
def capCode (cap floors : Nat) : Nat := if cap < 60 then 1 else if cap < floors then 2 else if 320 < cap then 3 else 0

theorem State.capRefusal_of_module (s : State) {r : CapReq} (h : r.src = none) : s.capRefusal r = capCode r.cap.toNat (s.floorSum none 0) := by
  unfold State.capRefusal
  simp only [h]
  rfl

theorem State.capRefusal_of_not_admin {s : State} {r : CapReq} {q : BitVec 6} {off : BitVec 20} (h : r.src = some (q, off)) (hc : r.cap ≠ 0)
    (ha : (s.ctx (queueCtx q)).desc.powerAdmin = false) : s.capRefusal r = 4 := by
  replace hc : r.cap ≠ 0#16 := hc
  simp [State.capRefusal, h, hc, ha]

theorem State.capRefusal_of_admin {s : State} {r : CapReq} {q : BitVec 6} {off : BitVec 20} (h : r.src = some (q, off)) (hc : r.cap ≠ 0)
    (hf : r.floor = 0xFFFF) (ha : (s.ctx (queueCtx q)).desc.powerAdmin = true) : s.capRefusal r = capCode r.cap.toNat (s.floorSum none 0) := by
  replace hc : r.cap ≠ 0#16 := hc
  simp [State.capRefusal, h, hc, ha, hf, capCode]

theorem State.capRefusal_of_floor {s : State} {r : CapReq} {q : BitVec 6} {off : BitVec 20} (h : r.src = some (q, off)) (hc : r.cap = 0)
    (hf : r.floor ≠ 0xFFFF) : s.capRefusal r = if s.dev.capInForce.toNat < s.floorSum (some (queueCtx q)) r.floor.toNat then 2 else 0 := by
  replace hf : r.floor ≠ 65535#16 := hf
  simp [State.capRefusal, h, hc, hf]

theorem State.postDev_dispatchFrame (s : State) (type code d0 d1 : Nat) : DispatchFrame s (s.postDev type code d0 d1) :=
  (State.postRaw_ownFrame _ _).toDispatchFrame

theorem State.postDev_capFrame (s : State) (type code d0 d1 : Nat) : CapFrame s (s.postDev type code d0 d1) := State.postRaw_capFrame _ _

/-- The part as a refused request leaves LAST_REFUSAL, before the event (R48). -/
def State.refused (s : State) (code : Nat) : State := { s with dev := { s.dev with lastRefusal := BitVec.ofNat 8 code } }

theorem State.refuseCap_capFrame (s : State) (r : CapReq) (code : Nat) : CapFrame (s.refused code) (s.refuseCap r code) := by
  unfold State.refuseCap
  dsimp only
  split
  · exact State.postCtx_capFrame ..
  · exact State.postDev_capFrame ..

theorem State.refuseCap_dispatchFrame (s : State) (r : CapReq) (code : Nat) : DispatchFrame s (s.refuseCap r code) := by
  have h0 : DispatchFrame s (s.refused code) := ⟨rfl, rfl, rfl, rfl, rfl, rfl⟩
  refine h0.trans ?_
  unfold State.refuseCap
  dsimp only
  split
  · exact (State.postCtx_ownFrame ..).toDispatchFrame
  · exact State.postDev_dispatchFrame ..

theorem State.grantCap_dispatchFrame (s : State) (r : CapReq) : DispatchFrame s (s.grantCap r) := by
  unfold State.grantCap
  dsimp only
  repeat' (first | exact ⟨rfl, rfl, rfl, rfl, rfl, rfl⟩ | split)

theorem State.grantCap_govFrame (s : State) (r : CapReq) : GovFrame s (s.grantCap r) := by
  unfold State.grantCap
  dsimp only
  repeat' (first | exact .of_eq rfl | split)

theorem State.grantCap_lastRefusal (s : State) (r : CapReq) : (s.grantCap r).dev.lastRefusal = s.dev.lastRefusal := by
  unfold State.grantCap
  dsimp only
  repeat' (first | rfl | split)

theorem State.grantCap_capInForce (s : State) (r : CapReq) :
    (s.grantCap r).dev.capInForce = if r.src.isNone || r.cap != 0 then r.cap else s.dev.capInForce := by
  unfold State.grantCap
  dsimp only
  repeat' (first | rfl | split)

/-- A request that only moves a floor (R105). -/
theorem State.grantCap_of_floor {s : State} {r : CapReq} {q : BitVec 6} {off : BitVec 20} (h : r.src = some (q, off)) (hc : r.cap = 0)
    (hf : r.floor ≠ 0xFFFF) : s.grantCap r = s.modCtx (queueCtx q) fun c => { c with desc := { c.desc with powerFloorW := r.floor } } := by
  replace hf : r.floor ≠ 65535#16 := hf
  simp [State.grantCap, h, hc, hf]

/-- The answer to a request, before its packet completes. -/
def State.answerCap (s : State) (r : CapReq) : State := if s.capRefusal r = 0 then s.grantCap r else s.refuseCap r (s.capRefusal r)

theorem State.answerCap_dispatchFrame (s : State) (r : CapReq) : DispatchFrame s (s.answerCap r) := by
  unfold State.answerCap
  split
  · exact s.grantCap_dispatchFrame r
  · exact s.refuseCap_dispatchFrame r _

theorem State.answerCap_govFrame (s : State) (r : CapReq) : GovFrame s (s.answerCap r) := by
  unfold State.answerCap
  split
  · exact s.grantCap_govFrame r
  · exact GovFrame.trans (t := s.refused (s.capRefusal r)) (.of_eq rfl) (s.refuseCap_capFrame r _).toGovFrame

theorem State.completePkt_capFrame (s : State) (q : BitVec 6) (off : BitVec 20) (tag : Word) (notify : Bool) :
    CapFrame s (s.completePkt q off tag notify) := by
  have hcount : CapFrame s (s.countPkt q off) := .of_eq rfl
  have hsettle (u : State) : CapFrame u (u.modQueue q Queue.settle) := .of_eq rfl
  unfold State.completePkt
  dsimp only
  refine CapFrame.trans (hcount.trans ?_) (hsettle _)
  split
  · exact State.postCtx_capFrame ..
  · exact State.updateStatus_capFrame _ _

theorem State.completePkt_cores (s : State) (q : BitVec 6) (off : BitVec 20) (tag : Word) (notify : Bool) :
    (s.completePkt q off tag notify).cores = s.cores := by
  obtain ⟨u, hu, he⟩ := s.completePkt_eq q off tag notify
  rw [he]
  exact hu.cores

/-- Nothing has changed of the cores, the groups and the launches, nor of the governor and the teams but for their mappings. -/
structure PeriodFrame (s t : State) : Prop extends GovFrame s t where
  cores : t.cores = s.cores
  groups : t.groups = s.groups
  launches : t.launches = s.launches

theorem PeriodFrame.trans {s t u : State} (a : PeriodFrame s t) (b : PeriodFrame t u) : PeriodFrame s u :=
  ⟨a.toGovFrame.trans b.toGovFrame, b.cores.trans a.cores, b.groups.trans a.groups, b.launches.trans a.launches⟩

theorem PeriodFrame.of_frames {s t : State} (g : GovFrame s t) (d : DispatchFrame s t) : PeriodFrame s t := ⟨g, d.cores, d.groups, d.launches⟩

theorem PeriodFrame.refl (s : State) : PeriodFrame s s := .of_frames (.refl s) (.refl s)

theorem State.answerCap_periodFrame (s : State) (r : CapReq) : PeriodFrame s (s.answerCap r) :=
  .of_frames (s.answerCap_govFrame r) (s.answerCap_dispatchFrame r)

/-- A test answers the request; what is left of it is at most a completion (R105). -/
theorem State.testCap_cases (s : State) (r : CapReq) : s.testCap r = s.answerCap r
    ∨ ∃ q off p, r.src = some (q, off) ∧ s.testCap r = (s.answerCap r).completePkt q (RunningPkt.off p) p.tag p.notify := by
  unfold State.testCap
  dsimp only
  split
  · exact .inl rfl
  · split
    · exact .inr ⟨_, _, _, ‹_›, rfl⟩
    · exact .inl rfl

theorem State.testCap_capFrame (s : State) (r : CapReq) : CapFrame (s.answerCap r) (s.testCap r) := by
  obtain h | ⟨q, off, p, -, h⟩ := s.testCap_cases r <;> rw [h]
  · exact .refl _
  · exact State.completePkt_capFrame ..

theorem State.testCap_periodFrame (s : State) (r : CapReq) : PeriodFrame s (s.testCap r) := by
  have hcores : (s.testCap r).cores = (s.answerCap r).cores ∧ (s.testCap r).groups = (s.answerCap r).groups
      ∧ (s.testCap r).launches = (s.answerCap r).launches := by
    obtain h | ⟨q, off, p, -, h⟩ := s.testCap_cases r <;> rw [h]
    · exact ⟨rfl, rfl, rfl⟩
    · obtain ⟨hl, hg, -⟩ := (s.answerCap r).completePkt_frame q p.off p.tag p.notify
      exact ⟨State.completePkt_cores .., hg, hl⟩
  obtain ⟨hc, hg, hl⟩ := hcores
  exact (s.answerCap_periodFrame r).trans ⟨(s.testCap_capFrame r).toGovFrame, hc, hg, hl⟩

/-- A refused request changes LAST_REFUSAL alone (R48, R105). -/
theorem State.testCap_of_refused {s : State} {r : CapReq} {n : Nat} (h : s.capRefusal r = n + 1) : CapFrame (s.refused (n + 1)) (s.testCap r) := by
  have ha : s.answerCap r = s.refuseCap r (n + 1) := by rw [State.answerCap, h, if_neg (by omega)]
  exact (s.refuseCap_capFrame r _).trans (ha ▸ s.testCap_capFrame r)

theorem State.testCap_of_granted {s : State} {r : CapReq} (h : s.capRefusal r = 0) : CapFrame (s.grantCap r) (s.testCap r) := by
  have ha : s.answerCap r = s.grantCap r := if_pos h
  exact ha ▸ s.testCap_capFrame r

theorem Queue.settle_running (k : Queue) : k.settle.running = k.running := by
  unfold Queue.settle
  split <;> rfl

/-- A test completes the packet that asked, where the answer finds it running (R105). -/
theorem State.testCap_of_running {s : State} {r : CapReq} {q : BitVec 6} {off : BitVec 20} {p : RunningPkt} (h : r.src = some (q, off))
    (hf : ((s.answerCap r).queue q).running.find? (fun p => p.off == off) = some p) :
    s.testCap r = (s.answerCap r).completePkt q p.off p.tag p.notify := by
  unfold State.answerCap at hf ⊢
  unfold State.testCap
  simp only [h, hf]

/-- The POWER packet that asked completes with its test (R105). -/
theorem State.testCap_completes {s : State} {r : CapReq} {q : BitVec 6} {off : BitVec 20} (h : r.src = some (q, off)) (hq : q.toNat < s.queues.length)
    (hp : ∃ p ∈ (s.queue q).running, p.off = off) :
    ((s.testCap r).queue q).done = (s.queue q).done + 1 ∧ ∀ p ∈ ((s.testCap r).queue q).running, p.off ≠ off := by
  have hqs := (s.answerCap_dispatchFrame r).queues
  obtain ⟨p, hf⟩ : ∃ p, (s.queue q).running.find? (fun p => p.off == off) = some p := by
    obtain ⟨p, hm, he⟩ := hp
    exact Option.isSome_iff_exists.1 (List.find?_isSome.2 ⟨p, hm, by simp [he]⟩)
  have hoff : p.off = off := by simpa using List.find?_some hf
  have ht := State.testCap_of_running h (p := p) (by rw [State.queue_congr hqs]; exact hf)
  have hc := State.queue_completePkt (s := s.answerCap r) (by rw [hqs]; exact hq) p.off p.tag p.notify
  rw [← ht, State.queue_congr hqs] at hc
  refine ⟨?_, ?_⟩
  · rw [hc, (Queue.settle_done _).1]
  · rw [hc, Queue.settle_running]
    intro x hx
    simpa [hoff] using (List.mem_filter.1 hx).2

/-- No request waits. -/
def State.unasked (s : State) : State := { s with fcp := { s.fcp with capReqs := [] } }

/-- What the counting of a period and the throttle reports leave to the tests. -/
theorem PeriodFrame.counted {s t : State} (c : CapFrame s t) (d : DispatchFrame s t) (temps : List (BitVec 8)) :
    PeriodFrame (s.counted temps).unasked (t.counted temps).unasked := by
  obtain ⟨hgov, -, hunmapped, hnoOwners⟩ := (c.counted temps).toGovFrame
  exact ⟨⟨hgov, rfl, hunmapped, hnoOwners⟩, d.cores, d.groups, d.launches⟩

theorem State.testCaps_capPending (s : State) : s.testCaps.dev.capPending = false := rfl

/-- Every request has been tested. -/
theorem State.testCaps_periodFrame (s : State) : PeriodFrame s.unasked s.testCaps := by
  have h := foldl_relates PeriodFrame.refl PeriodFrame.trans State.testCap_periodFrame s.fcp.capReqs s.unasked
  exact ⟨⟨h.gov, h.capReqs, h.unmapped, h.noOwners⟩, h.cores, h.groups, h.launches⟩

end Sys2Proof.Machine
end

section
/-! SUPPORT. The sensors' readings, and the clocks, grants and voltage that a period sets (R42, R95, R96, R102, R103): the clauses of O59 on
GOVERNOR_PERIOD. -/

namespace Sys2Proof.Machine

/-! ### Readings -/

theorem any_slice_iff {α : Type} (l : List α) (p : α → Bool) (a n : Nat) :
    ((l.drop a).take n).any p = true ↔ ∃ j x, a ≤ j ∧ j < a + n ∧ l[j]? = some x ∧ p x = true := by
  simp only [List.any_eq_true, List.mem_iff_getElem?, List.getElem?_take, List.getElem?_drop]
  constructor
  · rintro ⟨x, ⟨i, hi⟩, hp⟩
    split at hi
    · exact ⟨a + i, x, by omega, by omega, hi, hp⟩
    · cases hi
  · rintro ⟨j, x, ha, hj, hx, hp⟩
    refine ⟨x, ⟨j - a, ?_⟩, hp⟩
    rw [if_pos (by omega), Nat.add_sub_cancel' ha]
    exact hx

/-- Some sensor from number a on, of n, reads a limit or more. -/
theorem reads_slice_iff (temps : List (BitVec 8)) (a n m : Nat) :
    (((temps.map BitVec.toNat).drop a).take n).any (fun x => decide (m ≤ x)) = true
      ↔ ∃ j t, a ≤ j ∧ j < a + n ∧ temps[j]? = some t ∧ m ≤ t.toNat := by
  rw [← List.map_drop, ← List.map_take, List.any_map, any_slice_iff]
  simp

theorem reads_iff (temps : List (BitVec 8)) (m : Nat) :
    ((temps.map BitVec.toNat).take 32).any (fun x => decide (m ≤ x)) = true ↔ ∃ j t, j < 32 ∧ temps[j]? = some t ∧ m ≤ t.toNat := by
  have h := reads_slice_iff temps 0 32 m
  simpa using h

/-! ### Temperature (R42, R103) -/

theorem State.thermalAlert_dispatchFrame (s : State) (ts : List Nat) : DispatchFrame s (s.thermalAlert ts) := by
  unfold State.thermalAlert
  dsimp only
  split
  · split
    · exact ⟨rfl, rfl, rfl, rfl, rfl, rfl⟩
    · refine DispatchFrame.trans ?_ (State.postDev_dispatchFrame _ _ _ _ _)
      exact ⟨rfl, rfl, rfl, rfl, rfl, rfl⟩
  · split <;> exact ⟨rfl, rfl, rfl, rfl, rfl, rfl⟩

theorem State.thermalAlert_capFrame (s : State) (ts : List Nat) : CapFrame s (s.thermalAlert ts) := by
  unfold State.thermalAlert
  dsimp only
  split
  · split
    · exact .of_eq rfl
    · refine CapFrame.trans ?_ (State.postDev_capFrame _ _ _ _ _)
      exact .of_eq rfl
  · split <;> exact .of_eq rfl

theorem State.postDev_capPending (s : State) (type code d0 d1 : Nat) : (s.postDev type code d0 d1).dev.capPending = s.dev.capPending :=
  (congrArg Dev.capPending (s.postRaw_onlyReports _).dev :)

theorem State.thermalAlert_capPending (s : State) (ts : List Nat) : (s.thermalAlert ts).dev.capPending = s.dev.capPending := by
  unfold State.thermalAlert
  dsimp only
  split
  · split
    · rfl
    · exact State.postDev_capPending ..
  · split <;> rfl

theorem State.thermalAlert_of_hot {s : State} {ts : List Nat} (h : (ts.take 32).any (fun x => decide (100 ≤ x)) = true) :
    (s.thermalAlert ts).boot.thermAlert = true := by
  obtain ⟨i, hi⟩ : ∃ i, (ts.take 32).findIdx? (fun x => decide (100 ≤ x)) = some i := by
    rw [← Option.isSome_iff_exists, List.findIdx?_isSome]
    exact h
  unfold State.thermalAlert
  simp only [hi]
  split
  · rfl
  · exact congrArg Boot.thermAlert (State.postRaw_boot _ _)

theorem State.thermalAlert_of_cool {s : State} {ts : List Nat} (h : ∀ x ∈ ts.take 32, x < 97) : (s.thermalAlert ts).boot.thermAlert = false := by
  have hn : (ts.take 32).findIdx? (fun x => decide (100 ≤ x)) = none := by
    rw [List.findIdx?_eq_none_iff]
    intro x hx
    have := h x hx
    simp
    omega
  have ha : (ts.take 32).all (fun x => decide (x < 97)) = true := by simpa using h
  unfold State.thermalAlert
  simp only [hn, ha, if_true]

/-- The part once its sensors have been read: THERM_ALERT_N, the thermal ceilings and the hot packages (R33, R42, R103). -/
def State.sensed (s : State) (ts : List Nat) : State :=
  let t := s.thermalAlert ts
  State.noteHot { t with cores := t.cores.zipIdx.map fun p : Core × Nat => { p.1 with ceiling := nextCeiling ts p.2 p.1.ceiling } } ts

theorem State.sensed_capFrame (s : State) (ts : List Nat) : CapFrame s (s.sensed ts) := (s.thermalAlert_capFrame ts).trans (.of_eq rfl)

theorem State.core_of_zipIdx {s t : State} {f : Core × Nat → Core} (h : t.cores = s.cores.zipIdx.map f) {k : Nat} (hk : k < s.cores.length) :
    t.core k = f (s.core k, k) := by
  simp [State.core, h, List.getD_eq_getElem?_getD, hk]

theorem State.sensed_cores (s : State) (ts : List Nat) :
    (s.sensed ts).cores = s.cores.zipIdx.map fun p : Core × Nat => { p.1 with ceiling := nextCeiling ts p.2 p.1.ceiling } := by
  show List.map _ (s.thermalAlert ts).cores.zipIdx = _
  rw [(s.thermalAlert_dispatchFrame ts).cores]

theorem steps_of_mem {p : Nat × Nat × Nat} (hp : p ∈ Claims.steps) : stepDown p.1 = p.2.1 ∧ stepUp p.1 = p.2.2 := by
  revert p
  decide

/-! ### The teams of a core -/

theorem State.coreHasTeam_congr {s t : State} (h : t.teams.map Team.unmapped = s.teams.map Team.unmapped) (k : Nat) :
    t.coreHasTeam k = s.coreHasTeam k := by
  have hany (u : State) : u.coreHasTeam k = (u.teams.map Team.unmapped).any fun x => x.core == k && x.holds := by
    rw [List.any_map]
    rfl
  rw [hany, hany, h]

theorem State.team_st_congr {s t : State} (h : t.teams.map Team.unmapped = s.teams.map Team.unmapped) (u : Nat) :
    (t.team u).map Team.st = (s.team u).map Team.st := by
  have hfind (x : State) : (x.team u).map Team.st = ((x.teams.map Team.unmapped).find? fun y => y.uid == u).map Team.st := by
    rw [List.find?_map, Option.map_map]
    rfl
  rw [hfind, hfind, h]

theorem State.onCore_congr {s t : State} (h : t.teams.map Team.unmapped = s.teams.map Team.unmapped) (g : Group) : t.onCore g = s.onCore g := by
  have hst := State.team_st_congr h g.team
  unfold State.onCore
  cases ht : t.team g.team <;> cases hs : s.team g.team <;> simp only [ht, hs, Option.map_some, Option.map_none, Option.some.injEq, reduceCtorEq] at hst
  · rfl
  · dsimp only
    rw [hst]

theorem State.coreClass_congr {s t : State} (h : t.teams.map Team.unmapped = s.teams.map Team.unmapped) (hg : t.groups = s.groups) (k : Nat) :
    t.coreClass k = s.coreClass k := by
  simp only [State.coreClass, State.coreHasTeam_congr h, State.onCore_congr h, hg]

/-! ### Clocks, grants and VDD_CORE (R95, R96, R102, R107) -/

theorem State.followRatio_rest (s : State) : (s.followRatio.fcp, s.followRatio.queues, s.followRatio.groups, s.followRatio.launches, s.followRatio.boot,
    s.followRatio.gov.period, s.followRatio.gov.temps) = (s.fcp, s.queues, s.groups, s.launches, s.boot, s.gov.period, s.gov.temps) := by
  unfold State.followRatio
  split <;> rfl

/-- The cores of locked launches take the clocks of their rows; nothing else of a core changes (R107). -/
theorem State.followRatio_cores (s : State) :
    ∃ f : Core × Nat → Core, s.followRatio.cores = s.cores.zipIdx.map f ∧ ∀ p, ∃ n, f p = { p.1 with clock := n } := by
  have hclock (x : Option Launch) (n : Launch → Nat) (c : Core) :
      ∃ m, (match x with | some l => { c with clock := n l } | none => c) = { c with clock := m } := by
    cases x with
    | none => exact ⟨c.clock, rfl⟩
    | some l => exact ⟨n l, rfl⟩
  unfold State.followRatio
  split <;> exact ⟨_, rfl, fun p => hclock _ _ p.1⟩

/-- The part once the watts of a period have been shared out: each core holds the clock that its watts sustain (R102). -/
def State.allotted (s : State) (w : Nat) : State :=
  { s with cores := s.cores.zipIdx.map fun p : Core × Nat =>
    { p.1 with sustain := if s.coreHasTeam p.2 then sustained (wattsOf (s.shares w) p.2) s.gov.vddCore else 1320 } }

/-- The part once the locked ratios follow the watts of a period (R102, R107). -/
def State.rated (s : State) (w : Nat) : State := (s.allotted w).followRatio

theorem State.rated_teams (s : State) (w : Nat) : (s.rated w).teams = s.teams := State.followRatio_teams _

/-- Rating leaves every thermal ceiling as it was. -/
theorem State.rated_cores (s : State) (w : Nat) :
    (s.rated w).cores.length = s.cores.length ∧ ∀ k, k < s.cores.length → ((s.rated w).core k).ceiling = (s.core k).ceiling := by
  obtain ⟨f, hf, hc⟩ := (s.allotted w).followRatio_cores
  have hlen : (s.allotted w).cores.length = s.cores.length := by simp [State.allotted]
  refine ⟨(congrArg List.length hf).trans (by simpa using hlen), fun k hk => ?_⟩
  obtain ⟨n, hn⟩ := hc ((s.allotted w).core k, k)
  rw [State.rated, State.core_of_zipIdx hf (hlen.symm ▸ hk), hn, State.core_of_zipIdx (t := s.allotted w) rfl hk]

theorem grantOf_le (w : Rat) (clock mv : Nat) : grantOf w clock mv ≤ 1023 := by
  unfold grantOf
  split
  · exact Nat.zero_le _
  · exact Nat.min_le_left ..

/-- The clocks of a period, core by core (R95, R107). -/
def State.periodClocks (s : State) (w : Nat) : List Nat := (List.range Config.cores).map fun k => (s.rated w).clockOf (s.shares w) k

theorem State.periodClocks_getD (s : State) (w : Nat) {k : Nat} (hk : k < 96) : (s.periodClocks w).getD k 0 = (s.rated w).clockOf (s.shares w) k := by
  simp [State.periodClocks, List.getD_eq_getElem?_getD, Config.cores, hk]

/-- Clocks, the grants that watts give at them and a voltage are set, and contexts count anew (R96, R102, R104). -/
def State.withClocks (s : State) (xs : List Share) (clocks : List Nat) (mv : Nat) : State :=
  { s with
    cores := s.cores.zipIdx.map fun p : Core × Nat =>
      { p.1 with clock := clocks.getD p.2 0, grant := grantOf (wattsOf xs p.2) (clocks.getD p.2 0) mv }
    gov := { s.gov with vddCore := mv }
    ctxs := s.ctxs.map Context.newPeriod }

theorem State.setCores_eq (s : State) (w : Nat) :
    s.setCores w = (s.rated w).withClocks (s.shares w) (s.periodClocks w) (voltageFor ((s.periodClocks w).foldl max 0)) := by
  unfold State.setCores State.withClocks State.periodClocks State.rated State.allotted
  rfl

theorem State.withClocks_vddCore (s : State) (xs : List Share) (clocks : List Nat) (mv : Nat) : (s.withClocks xs clocks mv).gov.vddCore = mv := rfl

/-- A core after a period: its thermal ceiling, its clock and its grant. -/
theorem State.setCores_core (s : State) (w : Nat) {k : Nat} (hk : k < s.cores.length) (h96 : k < 96) :
    ((s.setCores w).core k).ceiling = (s.core k).ceiling ∧ ((s.setCores w).core k).clock = (s.rated w).clockOf (s.shares w) k
      ∧ ((s.setCores w).core k).grant ≤ 1023 ∧ ((s.rated w).clockOf (s.shares w) k = 0 → ((s.setCores w).core k).grant = 0) := by
  obtain ⟨hlen, hceil⟩ := s.rated_cores w
  rw [State.setCores_eq]
  generalize voltageFor _ = mv
  have hcore : ((s.rated w).withClocks (s.shares w) (s.periodClocks w) mv).core k = _ := State.core_of_zipIdx (s := s.rated w) rfl (hlen.symm ▸ hk)
  rw [hcore]
  refine ⟨hceil k hk, s.periodClocks_getD w h96, grantOf_le _ _ _, fun h0 => ?_⟩
  show grantOf _ ((s.periodClocks w).getD k 0) mv = 0
  rw [s.periodClocks_getD w h96, h0]
  rfl

/-- What setting the cores leaves as it was. -/
theorem State.setCores_rest (s : State) (w : Nat) : (s.setCores w).dev = s.dev ∧ (s.setCores w).fcp = s.fcp ∧ (s.setCores w).queues = s.queues
    ∧ (s.setCores w).teams = s.teams ∧ (s.setCores w).groups = s.groups ∧ (s.setCores w).launches = s.launches ∧ (s.setCores w).boot = s.boot
    ∧ (s.setCores w).gov.period = s.gov.period ∧ (s.setCores w).gov.temps = s.gov.temps ∧ (s.setCores w).ctxs = s.ctxs.map Context.newPeriod := by
  have hr := (s.allotted w).followRatio_rest
  have hf := (s.allotted w).followRatio_frame
  simp only [Prod.mk.injEq] at hr hf
  obtain ⟨hfcp, hqueues, hgroups, hlaunches, hboot, hperiod, htemps⟩ := hr
  obtain ⟨hctxs, -, -, -, hdev, -⟩ := hf
  rw [State.setCores_eq]
  generalize voltageFor _ = mv
  exact ⟨hdev, hfcp, hqueues, s.rated_teams w, hgroups, hlaunches, hboot, hperiod, htemps, congrArg (List.map Context.newPeriod) hctxs⟩

theorem State.rated_groups (s : State) (w : Nat) : (s.rated w).groups = s.groups ∧ (s.rated w).launches = s.launches := by
  have h := (s.allotted w).followRatio_rest
  simp only [Prod.mk.injEq] at h
  obtain ⟨-, -, hg, hl, -⟩ := h
  exact ⟨hg, hl⟩

/-- A core without a team is clock-gated (R94). -/
theorem State.clockOf_of_no_team {s : State} {k : Nat} (h : s.coreHasTeam k = false) (xs : List Share) : s.clockOf xs k = 0 := by
  simp [State.clockOf, h]

theorem State.lockedOn_of_no_legacy {s : State} (h : ∀ l ∈ s.launches, l.desc.legacy = false) (k : Nat) : s.lockedOn k = none := by
  refine List.find?_eq_none.2 fun l hl => ?_
  simp [Launch.locked, h l hl]

/-- The clock of a core that runs no locked launch (R95). -/
theorem State.clockOf_of_unlocked {s : State} {k : Nat} (h : s.lockedOn k = none) (xs : List Share) :
    s.clockOf xs k % 20 = 0 ∧ s.clockOf xs k ≤ classCeiling ((s.coreClass k).getD 0) ∧ s.clockOf xs k ≤ (s.core k).ceiling := by
  have hceil : s.ceilingOf k = min (classCeiling ((s.coreClass k).getD 0)) (s.core k).ceiling := by simp [State.ceilingOf, h]
  unfold State.clockOf
  split
  · simp
  · simp only [h, hceil]
    omega

theorem voltageFor_mono {m n : Nat} (h : m ≤ n) : voltageFor m ≤ voltageFor n := by
  unfold voltageFor
  split_ifs <;> omega

theorem voltageFor_values (n : Nat) : voltageFor n = 600 ∨ voltageFor n = 680 ∨ voltageFor n = 780 ∨ voltageFor n = 880 := by
  unfold voltageFor
  split_ifs <;> simp

theorem le_foldl_max {l : List Nat} {a : Nat} (h : a ∈ l) : a ≤ l.foldl max 0 := by
  rw [List.foldl_eq_foldr]
  exact List.le_max_of_le h le_rfl

/-- VDD_CORE after a period is one of four, and no lower than the clock of any core needs (R96). -/
theorem State.setCores_vddCore (s : State) (w : Nat) :
    ((s.setCores w).gov.vddCore = 600 ∨ (s.setCores w).gov.vddCore = 680 ∨ (s.setCores w).gov.vddCore = 780 ∨ (s.setCores w).gov.vddCore = 880)
      ∧ ∀ k, k < 96 → voltageFor ((s.rated w).clockOf (s.shares w) k) ≤ (s.setCores w).gov.vddCore := by
  rw [State.setCores_eq, State.withClocks_vddCore]
  exact ⟨voltageFor_values _, fun k hk => voltageFor_mono (le_foldl_max (List.mem_map_of_mem (List.mem_range.2 hk)))⟩

/-! ### GOVERNOR_PERIOD -/

/-- The part as the requests of a period are tested (R105, R106). -/
def State.begun (s : State) (temps : List (BitVec 8)) : State := s.throttled.counted temps

/-- The part as a period sets its cores (R42, R103, R105). -/
def State.periodSensed (s : State) (temps : List (BitVec 8)) : State := (s.begun temps).testCaps.sensed (temps.map BitVec.toNat)

theorem execGovernorPeriod_eq {s : State} (temps : List (BitVec 8)) (w : Nat) (hp : s.boot.phase = .trained ∨ s.boot.phase = .training) :
    exec (.governorPeriod temps w) s = .next (if ((temps.map BitVec.toNat).take 32).any (fun x => decide (120 ≤ x)) then s.thermalTrip
      else (s.periodSensed temps).setCores w) := by
  have hn : ¬ (s.boot.phase ≠ .trained && s.boot.phase ≠ .training) = true := by obtain h | h := hp <;> simp [h]
  show execGovernorPeriod temps w s = _
  unfold execGovernorPeriod
  rw [if_neg hn]
  unfold State.periodSensed State.begun State.throttled State.counted State.sensed
  rfl

/-- A sensor at 120 degrees trips the part (R42). -/
theorem execGovernorPeriod_trips (s : State) (temps : List (BitVec 8)) (w : Nat) (hp : s.boot.phase = .trained ∨ s.boot.phase = .training)
    (ht : ∃ j t, j < 32 ∧ temps[j]? = some t ∧ 120 ≤ t.toNat) :
    ∃ r, exec (.governorPeriod temps w) s = .next r ∧ Claims.Cleared r ∧ r.boot.phase = .tripped ∧ r.boot.thermTrip = true := by
  rw [execGovernorPeriod_eq temps w hp, if_pos ((reads_iff temps 120).2 ht)]
  exact ⟨_, rfl, s.resetPart_cleared _, rfl, rfl⟩

theorem execGovernorPeriod_sets {s : State} {temps : List (BitVec 8)} (w : Nat) (hp : s.boot.phase = .trained ∨ s.boot.phase = .training)
    (ht : ∀ j t, j < 32 → temps[j]? = some t → t.toNat < 120) :
    exec (.governorPeriod temps w) s = .next ((s.periodSensed temps).setCores w) := by
  rw [execGovernorPeriod_eq temps w hp, if_neg]
  rw [reads_iff]
  rintro ⟨j, t, hj, he, hx⟩
  exact absurd (ht j t hj he) (Nat.not_lt.2 hx)

/-- What the tests of a period leave: the period is counted, no request waits, and the cores, the groups and the teams are as they were. -/
theorem State.begun_testCaps_frame (s : State) (temps : List (BitVec 8)) : PeriodFrame (s.counted temps).unasked (s.begun temps).testCaps :=
  (PeriodFrame.counted s.throttled_capFrame s.throttled_dispatchFrame temps).trans (s.begun temps).testCaps_periodFrame

theorem State.sensed_dispatch (s : State) (ts : List Nat) :
    (s.sensed ts).queues = s.queues ∧ (s.sensed ts).groups = s.groups ∧ (s.sensed ts).launches = s.launches := by
  have h := s.thermalAlert_dispatchFrame ts
  exact ⟨h.queues, h.groups, h.launches⟩

/-- CAP_PENDING has fallen (R48). -/
theorem State.periodSensed_capPending (s : State) (temps : List (BitVec 8)) : (s.periodSensed temps).dev.capPending = false :=
  ((s.begun temps).testCaps.thermalAlert_capPending _).trans (State.testCaps_capPending _)

/-- The sensed part has the teams, the groups and the launches of the part before the period, and its thermal ceilings are the next ones. -/
theorem State.periodSensed_frame (s : State) (temps : List (BitVec 8)) :
    GovFrame (s.counted temps).unasked (s.periodSensed temps) ∧ (s.periodSensed temps).groups = s.groups
      ∧ (s.periodSensed temps).launches = s.launches ∧ (s.periodSensed temps).cores.length = s.cores.length
      ∧ ∀ k, k < s.cores.length → ((s.periodSensed temps).core k).ceiling = nextCeiling (temps.map BitVec.toNat) k (s.core k).ceiling := by
  have hu := s.begun_testCaps_frame temps
  have hv := (s.begun temps).testCaps.sensed_capFrame (temps.map BitVec.toNat)
  obtain ⟨-, hg, hl⟩ := (s.begun temps).testCaps.sensed_dispatch (temps.map BitVec.toNat)
  have hcores : (s.periodSensed temps).cores = s.cores.zipIdx.map fun p : Core × Nat =>
      { p.1 with ceiling := nextCeiling (temps.map BitVec.toNat) p.2 p.1.ceiling } := by
    rw [State.periodSensed, State.sensed_cores, hu.cores]
    rfl
  refine ⟨hu.toGovFrame.trans hv.toGovFrame, hg.trans hu.groups, hl.trans hu.launches, ?_, fun k hk => ?_⟩
  · exact (congrArg List.length hcores).trans (by simp)
  · exact congrArg Core.ceiling (State.core_of_zipIdx (s := s) hcores hk)

theorem State.sensed_thermAlert (s : State) (temps : List (BitVec 8)) :
    ((∃ j t, j < 32 ∧ temps[j]? = some t ∧ 100 ≤ t.toNat) → (s.sensed (temps.map BitVec.toNat)).boot.thermAlert = true)
      ∧ ((∀ j t, j < 32 → temps[j]? = some t → t.toNat < 97) → (s.sensed (temps.map BitVec.toNat)).boot.thermAlert = false) := by
  refine ⟨fun h => State.thermalAlert_of_hot ((reads_iff temps 100).2 h), fun h => State.thermalAlert_of_cool fun x hx => ?_⟩
  by_contra hn
  obtain ⟨j, t, hj, he, ht⟩ := (reads_iff temps 97).1 (List.any_eq_true.2 ⟨x, hx, by simpa using hn⟩)
  have := h j t hj he
  omega

/-- The thermal ceiling of a core after a period (R103). -/
theorem ceiling_results (temps : List (BitVec 8)) (k : Nat) {p : Nat × Nat × Nat} (hp : p ∈ Claims.steps) :
    let t := (temps.getD (k / 24 * 6 + k % 12 / 2) 0).toNat
    let hot := ∃ j t', 24 ≤ j ∧ j < 32 ∧ temps[j]? = some t' ∧ 95 ≤ t'.toNat
    let next := nextCeiling (temps.map BitVec.toNat) k p.1
    (95 ≤ t ∨ hot → next = p.2.1) ∧ (t < 92 → ¬ hot → next = p.2.2) ∧ (92 ≤ t → t < 95 → ¬ hot → next = p.1) := by
  intro t hot next
  obtain ⟨hdown, hup⟩ := steps_of_mem hp
  have ht : (temps.map BitVec.toNat).getD (sensorOf k) 0 = t := List.getD_map temps (0 : BitVec 8) BitVec.toNat
  have hhot : (decide (95 ≤ t) || (((temps.map BitVec.toNat).drop 24).take 8).any fun x => decide (95 ≤ x)) = true ↔ 95 ≤ t ∨ hot := by
    rw [Bool.or_eq_true, decide_eq_true_eq, reads_slice_iff]
  have hnext : next = if decide (95 ≤ t) || (((temps.map BitVec.toNat).drop 24).take 8).any fun x => decide (95 ≤ x) then stepDown p.1
      else if t < 92 then stepUp p.1 else p.1 := by
    rw [← ht]
    rfl
  refine ⟨fun h => ?_, fun h hh => ?_, fun h h' hh => ?_⟩
  · exact (hnext.trans (if_pos (hhot.2 h))).trans hdown
  · exact ((hnext.trans (if_neg (hhot.not.2 (not_or.2 ⟨by omega, hh⟩)))).trans (if_pos h)).trans hup
  · exact (hnext.trans (if_neg (hhot.not.2 (not_or.2 ⟨by omega, hh⟩)))).trans (if_neg (by omega))

/-- The clock and the grant of a core after a period, and the voltage for that clock (R94 to R96, R102). -/
theorem State.setCores_clock (s : State) (temps : List (BitVec 8)) (w : Nat) {k : Nat} (hk : k < s.cores.length) (h96 : k < 96) :
    let r := (s.periodSensed temps).setCores w
    (s.coreHasTeam k = false → (r.core k).clock = 0 ∧ (r.core k).grant = 0)
      ∧ (s.coreHasTeam k = true → (∀ l ∈ s.launches, l.desc.legacy = false) →
          (r.core k).clock % 20 = 0 ∧ (r.core k).clock ≤ (r.core k).ceiling ∧ (r.core k).clock ≤ classCeiling ((s.coreClass k).getD 0))
      ∧ (r.core k).grant ≤ 1023 ∧ voltageFor (r.core k).clock ≤ r.gov.vddCore := by
  obtain ⟨hgov, hgroups, hlaunches, hlen, -⟩ := s.periodSensed_frame temps
  generalize s.periodSensed temps = v at *
  have hkv : k < v.cores.length := hlen.symm ▸ hk
  obtain ⟨-, hvolt⟩ := v.setCores_vddCore w
  obtain ⟨hceil, hclock, hgrant, hgrant0⟩ := v.setCores_core w hkv h96
  obtain ⟨-, hrated⟩ := v.rated_cores w
  obtain ⟨gr, lr⟩ := v.rated_groups w
  have hteams : (v.rated w).teams.map Team.unmapped = s.teams.map Team.unmapped := (congrArg _ (v.rated_teams w)).trans hgov.unmapped
  intro r
  rw [hclock]
  refine ⟨fun hno => ?_, fun _ hlegacy => ?_, hgrant, hvolt k h96⟩
  · have hzero := State.clockOf_of_no_team ((State.coreHasTeam_congr hteams k).trans hno) (v.shares w)
    exact ⟨hzero, hgrant0 hzero⟩
  · have hlocked := State.lockedOn_of_no_legacy (s := v.rated w) (by rwa [lr, hlaunches]) k
    obtain ⟨hstep, hclass, hle⟩ := State.clockOf_of_unlocked hlocked (v.shares w)
    rw [State.coreClass_congr hteams (gr.trans hgroups)] at hclass
    exact ⟨hstep, hle.trans_eq ((hrated k hkv).trans hceil.symm), hclass⟩

/-- Clocks, ceilings, grants, voltage and alarms after a period (R42, R95, R96, R102, R103). -/
theorem State.setCores_periodSets (s : State) (temps : List (BitVec 8)) (w : Nat) :
    Claims.PeriodSets s ((s.periodSensed temps).setCores w) temps := by
  obtain ⟨hgov, hgroups, hlaunches, hlen, hceil⟩ := s.periodSensed_frame temps
  obtain ⟨halert, hcool⟩ := (s.begun temps).testCaps.sensed_thermAlert temps
  obtain ⟨rdev, rfcp, -, rteams, rgroups, rlaunches, rboot, rperiod, rtemps, rctxs⟩ := (s.periodSensed temps).setCores_rest w
  obtain ⟨hvalues, -⟩ := (s.periodSensed temps).setCores_vddCore w
  have hpending := s.periodSensed_capPending temps
  refine ⟨?_, ?_, ?_, ?_, ?_, fun k hk h96 p hp hc => ?_, fun k hk h96 => ?_, ?_, ?_, ?_, fun hn => ?_, ?_, ?_⟩
  · rw [rperiod, hgov.gov]; rfl
  · rw [rtemps, hgov.gov]; rfl
  · rw [rdev]; exact hpending
  · rw [rfcp, hgov.capReqs]; rfl
  · rw [rctxs]
    simp [Context.newPeriod]
  · obtain ⟨hr, -⟩ := (s.periodSensed temps).setCores_core w (hlen.symm ▸ hk) h96
    rw [hr, hceil k hk, hc]
    exact ceiling_results temps k hp
  · exact s.setCores_clock temps w hk h96
  · exact hvalues
  · rw [rboot]; exact halert
  · rw [rboot]; exact hcool
  · exact rteams.trans (hgov.noOwners hn).1
  · exact rgroups.trans hgroups
  · exact rlaunches.trans hlaunches

end Sys2Proof.Machine
end

section
/-! SUPPORT. One cap request of a period (R48, R105): the test as the period makes it, and the clauses of O59 on it. -/

namespace Sys2Proof.Machine

/-- The caps, the floors and the queues are as they were. -/
structure RequestFrame (s t : State) : Prop where
  capInForce : t.dev.capInForce = s.dev.capInForce
  lastRefusal : t.dev.lastRefusal = s.dev.lastRefusal
  asks : t.ctxs.map Context.asks = s.ctxs.map Context.asks
  queues : t.queues = s.queues

theorem RequestFrame.trans {s t u : State} (a : RequestFrame s t) (b : RequestFrame t u) : RequestFrame s u :=
  ⟨b.capInForce.trans a.capInForce, b.lastRefusal.trans a.lastRefusal, b.asks.trans a.asks, b.queues.trans a.queues⟩

theorem RequestFrame.of_frames {s t : State} (c : CapFrame s t) (d : DispatchFrame s t) : RequestFrame s t :=
  ⟨c.capInForce, c.lastRefusal, c.asks, d.queues⟩

theorem RequestFrame.counted {s t : State} (h : RequestFrame s t) (temps : List (BitVec 8)) : RequestFrame s (t.counted temps).unasked :=
  ⟨h.capInForce, h.lastRefusal, h.asks, h.queues⟩

/-- What follows the tests in a period leaves the caps, the floors and the queues alone. -/
theorem State.setCores_requestFrame (s : State) (temps : List (BitVec 8)) (w : Nat) :
    RequestFrame (s.begun temps).testCaps ((s.periodSensed temps).setCores w) := by
  obtain ⟨hdev, -, hqueues, -, -, -, -, -, -, hctxs⟩ := (s.periodSensed temps).setCores_rest w
  have hs := (s.begun temps).testCaps.sensed_capFrame (temps.map BitVec.toNat)
  obtain ⟨hsq, -, -⟩ := (s.begun temps).testCaps.sensed_dispatch (temps.map BitVec.toNat)
  refine ⟨(congrArg Dev.capInForce hdev).trans hs.capInForce, (congrArg Dev.lastRefusal hdev).trans hs.lastRefusal, ?_, hqueues.trans hsq⟩
  rw [hctxs, List.map_map]
  exact hs.asks

/-- The requests of a period are tested on the caps, the floors and the queues that stood before it. -/
theorem State.begun_requestFrame (s : State) (temps : List (BitVec 8)) : RequestFrame s (s.begun temps).unasked :=
  (RequestFrame.of_frames s.throttled_capFrame s.throttled_dispatchFrame).counted temps

theorem State.counted_capReqs (s : State) (temps : List (BitVec 8)) : (s.counted temps).fcp.capReqs = s.fcp.capReqs := rfl

theorem State.begun_capReqs (s : State) (temps : List (BitVec 8)) : (s.begun temps).fcp.capReqs = s.fcp.capReqs :=
  (State.counted_capReqs _ temps).trans s.throttled_capFrame.capReqs

theorem State.testCaps_eq (s : State) : RequestFrame (s.fcp.capReqs.foldl State.testCap s.unasked) s.testCaps := ⟨rfl, rfl, rfl, rfl⟩

/-- Without a request a period leaves the caps and the floors (R105). -/
theorem State.setCores_of_no_request {s : State} (h : s.fcp.capReqs = []) (temps : List (BitVec 8)) (w : Nat) :
    RequestFrame s ((s.periodSensed temps).setCores w) := by
  have ht := (s.begun temps).testCaps_eq
  rw [State.begun_capReqs, h] at ht
  exact ((s.begun_requestFrame temps).trans ht).trans (s.setCores_requestFrame temps w)

/-- r is left by the test of one request where the caps, the floors and the queues stood as in s. -/
def Tests (s r : State) (q : CapReq) : Prop := ∃ b, RequestFrame s b ∧ RequestFrame (b.testCap q) r

theorem State.setCores_tests {s : State} {q : CapReq} (h : s.fcp.capReqs = [q]) (temps : List (BitVec 8)) (w : Nat) :
    Tests s ((s.periodSensed temps).setCores w) q := by
  have ht := (s.begun temps).testCaps_eq
  rw [State.begun_capReqs, h] at ht
  exact ⟨_, s.begun_requestFrame temps, ht.trans (s.setCores_requestFrame temps w)⟩

/-- A refused request leaves the cap and the descriptors, and its code (R105). -/
theorem Tests.of_refused {s r : State} {q : CapReq} (h : Tests s r q) {n : Nat} (hn : n < 255) (hc : s.capRefusal q = n + 1) :
    r.dev.capInForce = s.dev.capInForce ∧ r.dev.lastRefusal.toNat = n + 1 ∧ ∀ c, (r.ctx c).desc = (s.ctx c).desc := by
  obtain ⟨b, hb, hr⟩ := h
  have ht := State.testCap_of_refused ((State.capRefusal_congr hb.asks hb.capInForce q).trans hc)
  refine ⟨(hr.capInForce.trans ht.capInForce).trans hb.capInForce, ?_, desc_of_asks ((hr.asks.trans ht.asks).trans hb.asks)⟩
  have hcode : r.dev.lastRefusal = BitVec.ofNat 8 (n + 1) := hr.lastRefusal.trans ht.lastRefusal
  rw [hcode, BitVec.toNat_ofNat, Nat.mod_eq_of_lt (by omega)]

/-- A request that passes leaves LAST_REFUSAL; a cap that it asks for is in force (R105). -/
theorem Tests.of_granted {s r : State} {q : CapReq} (h : Tests s r q) (hc : s.capRefusal q = 0) :
    r.dev.capInForce = (if q.src.isNone || q.cap != 0 then q.cap else s.dev.capInForce) ∧ r.dev.lastRefusal = s.dev.lastRefusal := by
  obtain ⟨b, hb, hr⟩ := h
  have ht := State.testCap_of_granted ((State.capRefusal_congr hb.asks hb.capInForce q).trans hc)
  refine ⟨?_, ((hr.lastRefusal.trans ht.lastRefusal).trans (b.grantCap_lastRefusal q)).trans hb.lastRefusal⟩
  rw [hr.capInForce, ht.capInForce, State.grantCap_capInForce, hb.capInForce]

/-- A floor that passes is its context's (R105). -/
theorem Tests.powerFloorW {s r : State} {q : CapReq} (h : Tests s r q) (hc : s.capRefusal q = 0) {x : BitVec 6} {off : BitVec 20}
    (hq : q.src = some (x, off)) (h0 : q.cap = 0) (hf : q.floor ≠ 0xFFFF) (hx : (queueCtx x).toNat < s.ctxs.length) :
    (r.ctx (queueCtx x)).desc.powerFloorW = q.floor := by
  obtain ⟨b, hb, hr⟩ := h
  have ht := State.testCap_of_granted ((State.capRefusal_congr hb.asks hb.capInForce q).trans hc)
  have hlen : b.ctxs.length = s.ctxs.length := by simpa using congrArg List.length hb.asks
  rw [desc_of_asks (hr.asks.trans ht.asks), State.grantCap_of_floor hq h0 hf, State.ctx_modCtx_self (hlen.symm ▸ hx)]

theorem Tests.completes {s r : State} {q : CapReq} (h : Tests s r q) {x : BitVec 6} {off : BitVec 20} (hq : q.src = some (x, off))
    (hx : x.toNat < s.queues.length) (hp : ∃ p ∈ (s.queue x).running, p.off = off) :
    (r.queue x).done = (s.queue x).done + 1 ∧ ∀ p ∈ (r.queue x).running, p.off ≠ off := by
  obtain ⟨b, hb, hr⟩ := h
  have hbx := State.queue_congr hb.queues x
  have hc := State.testCap_completes (s := b) hq (by rw [hb.queues]; exact hx) (by rw [hbx]; exact hp)
  rw [State.queue_congr hr.queues x, ← hbx]
  exact hc

/-! ### The codes (R105) -/

theorem capCode_of_below {cap floors : Nat} (h : cap < 60) : capCode cap floors = 1 := if_pos h

theorem capCode_of_floors {cap floors : Nat} (h : 60 ≤ cap) (hf : cap < floors) : capCode cap floors = 2 :=
  (if_neg (by omega)).trans (if_pos hf)

theorem capCode_of_above {cap floors : Nat} (hf : floors ≤ cap) (ha : 320 < cap) : capCode cap floors = 3 :=
  (if_neg (by omega)).trans ((if_neg (by omega)).trans (if_pos ha))

theorem capCode_of_passes {cap floors : Nat} (h : 60 ≤ cap) (hf : floors ≤ cap) (ha : cap ≤ 320) : capCode cap floors = 0 :=
  (if_neg (by omega)).trans ((if_neg (by omega)).trans (if_neg (by omega)))

/-- The clauses of O59 on one request of a period. -/
theorem Tests.capTested {s r : State} {q : CapReq} (h : Tests s r q) : Claims.CapTested s r q := by
  have hfloors := s.floorSum_none 0
  refine ⟨fun hsrc => ?_, fun x off hsrc hx hctx => ⟨fun hc ha => ?_, fun hc ha hf h60 hsum h320 => ?_, fun hc hf hact hlen => ?_,
    h.completes hsrc hx⟩⟩
  · have hcode := s.capRefusal_of_module hsrc
    rw [hfloors] at hcode
    refine ⟨fun h60 => ?_, fun h60 hsum => ?_, fun _ hsum h320 => ?_, fun h60 hsum h320 => ?_⟩
    · exact h.of_refused (by omega) (hcode.trans (capCode_of_below h60))
    · exact h.of_refused (by omega) (hcode.trans (capCode_of_floors h60 hsum))
    · exact h.of_refused (by omega) (hcode.trans (capCode_of_above hsum h320))
    · obtain ⟨hcap, hlast⟩ := h.of_granted (hcode.trans (capCode_of_passes h60 hsum h320))
      rw [hsrc] at hcap
      exact ⟨hcap, hlast⟩
  · exact h.of_refused (by omega) (State.capRefusal_of_not_admin hsrc hc ha)
  · have hcode := State.capRefusal_of_admin hsrc hc hf ha
    rw [hfloors] at hcode
    obtain ⟨hcap, hlast⟩ := h.of_granted (hcode.trans (capCode_of_passes h60 hsum h320))
    have hne : (q.cap != 0) = true := bne_iff_ne.2 hc
    rw [hne, Bool.or_true, if_pos rfl] at hcap
    exact ⟨hcap, hlast⟩
  · have hcode := State.capRefusal_of_floor (s := s) hsrc hc hf
    rw [State.floorSum_some hlen (by rw [hact]; decide), hfloors] at hcode
    refine ⟨fun hlt => ?_, fun hle => ?_⟩
    · exact h.of_refused (by omega) (hcode.trans (if_pos hlt))
    · replace hcode := hcode.trans (if_neg (Nat.not_lt.2 hle))
      obtain ⟨hcap, -⟩ := h.of_granted hcode
      rw [hsrc, hc] at hcap
      exact ⟨hcap, h.powerFloorW hcode hsrc hc hf hctx⟩

end Sys2Proof.Machine
end

section
/-! SUPPORT. A core clock, the near-threshold mode and withholding (R94, R97, R101, R106), and O59. -/

namespace Sys2Proof.Machine

/-! ### Cores and partitions by their numbers -/

theorem State.core_modCore_self {s : State} {k : Nat} (h : k < s.cores.length) (f : Core → Core) : (s.modCore k f).core k = f (s.core k) := by
  simp [State.core, State.modCore, List.getD_eq_getElem?_getD, h]

theorem State.core_modCore_ne (s : State) {j k : Nat} (h : j ≠ k) (f : Core → Core) : (s.modCore k f).core j = s.core j := by
  simp [State.core, State.modCore, List.getD_eq_getElem?_getD, h.symm]

theorem State.part_modPart_self {s : State} {k p : Nat} {x : Part} (h : k < s.cores.length) (hx : (s.core k).parts[p]? = some x) (f : Part → Part) :
    ((s.modPart k p f).core k).parts[p]? = some (f x) := by
  rw [State.modPart, State.core_modCore_self h]
  simp [hx]

/-! ### The end of a core clock (R97) -/

/-- Nothing has changed of the groups, nor of the cores but for the lines in the L1 of core k and the marks of its partitions. -/
structure ClockFrame (k : Nat) (s t : State) : Prop where
  groups : t.groups = s.groups
  count : t.cores.length = s.cores.length
  others : ∀ j, j ≠ k → t.core j = s.core j
  core : ∃ l p, t.core k = { s.core k with l1 := l, parts := p }

theorem ClockFrame.of_cores {k : Nat} {s t : State} (hg : t.groups = s.groups) (hc : t.cores = s.cores) : ClockFrame k s t where
  groups := hg
  count := congrArg List.length hc
  others j _ := congrArg (·.getD j Core.reset) hc
  core := ⟨_, _, congrArg (·.getD k Core.reset) hc⟩

theorem ClockFrame.trans {k : Nat} {s t u : State} (a : ClockFrame k s t) (b : ClockFrame k t u) : ClockFrame k s u where
  groups := b.groups.trans a.groups
  count := b.count.trans a.count
  others j h := (b.others j h).trans (a.others j h)
  core := by
    obtain ⟨l, p, ha⟩ := a.core
    obtain ⟨l', p', hb⟩ := b.core
    exact ⟨l', p', by rw [hb, ha]⟩

theorem ClockFrame.refl (k : Nat) (s : State) : ClockFrame k s s := .of_cores rfl rfl

theorem ClockFrame.foldl {α : Type} {k : Nat} {f : State → α → State} (h : ∀ s a, ClockFrame k s (f s a)) (l : List α) (s : State) :
    ClockFrame k s (l.foldl f s) := foldl_relates (ClockFrame.refl k) ClockFrame.trans h l s

/-- A change of the lines and the partitions of a core. -/
theorem State.modCore_clockFrame (s : State) (k : Nat) {f : Core → Core} (hf : ∀ c, ∃ l p, f c = { c with l1 := l, parts := p }) :
    ClockFrame k s (s.modCore k f) where
  groups := rfl
  count := List.length_modify ..
  others j h := s.core_modCore_ne h f
  core := by
    obtain hlt | hge := Nat.lt_or_ge k s.cores.length
    · rw [State.core_modCore_self hlt]
      exact hf _
    · rw [State.modCore, List.modify_eq_self hge]
      exact ⟨_, _, rfl⟩

theorem State.modPart_clockFrame (s : State) (k p : Nat) (f : Part → Part) : ClockFrame k s (s.modPart k p f) :=
  s.modCore_clockFrame k fun c => ⟨c.l1, _, rfl⟩

theorem State.mayEvict_clockFrame (s : State) (k : Nat) : ClockFrame k s (s.mayEvict k) := by
  unfold State.mayEvict
  split
  · exact .refl k s
  · split
    · have hw := s.writeBackLine_ownFrame
      exact ClockFrame.trans (.of_cores (hw _ _).groups (hw _ _).cores) (State.modCore_clockFrame _ k fun c => ⟨_, c.parts, rfl⟩)
    · exact .refl k s

/-- The work of a clock before groups and the counter move on: an eviction, the contexts' counts, and the vector instructions seen ready (R97, R101,
R106, R180). -/
def State.clockWork (s : State) (k : Nat) : State :=
  let s2 := (s.ctxsOn k).foldl (fun t c => t.modCtx (BitVec.ofNat 5 c) fun x => x.tick k (s.allWithheld (BitVec.ofNat 5 c) k)) (s.mayEvict k)
  (List.range 4).foldl (fun t p => t.modPart k p fun x => x.seeReady (s.core k).clocks (s.vecNow k p)) s2

theorem State.clockWork_clockFrame (s : State) (k : Nat) : ClockFrame k s (s.clockWork k) := by
  refine ClockFrame.trans (.trans (s.mayEvict_clockFrame k) (.foldl (fun _ _ => ?_) _ _)) (.foldl (fun t _ => t.modPart_clockFrame k _ _) _ _)
  exact .of_cores rfl rfl

/-- A clock of a core moves its groups on, counts for its teams and updates its counter (R82, R94, R97). -/
def State.clockEnd (s t : State) (k : Nat) : State :=
  let mine := fun g : Group => g.core == k && s.onCore g
  let u : State := { t with
    groups := t.groups.map fun g : Group => (if mine g then g.tick else g)
    teams := t.teams.map fun x : Team => { x with clocks := x.clocks + (s.groups.filter fun g => mine g && g.team == x.uid && !g.exiting).length } }
  u.modCore k Core.update

theorem execAllowanceUpdate_of_clocked {s : State} {k : BitVec 7} (h96 : k.toNat < 96) (h : s.clocked k.toNat = true) :
    exec (.allowanceUpdate k) s = .next (s.clockEnd (s.clockWork k.toNat) k.toNat) := by
  have hn : ¬ (!(decide (k.toNat < Config.cores)) || !s.clocked k.toNat) = true := by simp [h, Config.cores, h96]
  exact congrArg Host.Outcome.next (if_neg hn)

/-- A core that has no team, no bin, no ray and no debit is clock-gated (R94). -/
theorem execAllowanceUpdate_of_gated {s : State} {k : BitVec 7} (ht : s.coreHasTeam k.toNat = false) (hb : (s.core k.toNat).bins = [])
    (hr : (s.core k.toNat).rays = []) (hd : (s.core k.toNat).debits = 0) : exec (.allowanceUpdate k) s = .next s := by
  have hc : s.clocked k.toNat = false := by simp [State.clocked, ht, hb, hr, hd]
  exact congrArg Host.Outcome.next (if_pos (by rw [hc, Bool.not_false, Bool.or_true]))

theorem Group.tick_spin {g : Group} (h : ¬ ((∃ x ∈ g.rows, x.live = true) ∧ ∀ x ∈ g.rows, x.live = true → x.wait = .spawn)) :
    g.tick.spin = g.spin.map (· + 1) := by
  refine if_neg fun hb => h ?_
  unfold Group.allBlocked at hb
  rw [Bool.and_eq_true, List.any_eq_true, List.all_eq_true] at hb
  obtain ⟨hlive, hall⟩ := hb
  refine ⟨hlive, fun x hx hl => ?_⟩
  simpa [hl] using hall x hx

/-- The group of a number, after a change of the groups that keeps their numbers. -/
theorem State.group_of_map {s t : State} {f : Group → Group} (h : t.groups = s.groups.map f) (hf : ∀ g, (f g).uid = g.uid) (u : Nat) :
    t.group u = (s.group u).map f := by
  have hp : (fun g : Group => g.uid == u) ∘ f = fun g => g.uid == u := funext fun g => by simp [hf]
  rw [State.group, h, List.find?_map, hp]
  rfl

/-- The clauses of O59 on ALLOWANCE_UPDATE of a core with a team (R94, R97). -/
theorem execAllowanceUpdate_results (s : State) (k : BitVec 7) (h96 : k.toNat < 96) (hk : k.toNat < s.cores.length)
    (ht : s.coreHasTeam k.toNat = true) :
    ∃ r, exec (.allowanceUpdate k) s = .next r
      ∧ (r.core k.toNat).allowance = min ((s.core k.toNat).allowance + (s.core k.toNat).grant - (s.core k.toNat).debits) (65535 * 16)
      ∧ (r.core k.toNat).debits = 0 ∧ (r.core k.toNat).clocks = (s.core k.toNat).clocks + 1
      ∧ (∀ j, j ≠ k.toNat → r.core j = s.core j)
      ∧ ∀ u g, s.group u = some g → g.core = k.toNat → s.onCore g = true → ∃ h, r.group u = some h
          ∧ (¬ ((∃ x ∈ g.rows, x.live = true) ∧ ∀ x ∈ g.rows, x.live = true → x.wait = .spawn) → h.spin = g.spin.map (· + 1))
          ∧ h.pclassNow = g.pclass ∧ h.rows = g.rows ∧ h.sregs = g.sregs ∧ h.vregs = g.vregs := by
  have hw := s.clockWork_clockFrame k.toNat
  obtain ⟨l, p, hcore⟩ := hw.core
  have hself : (s.clockEnd (s.clockWork k.toNat) k.toNat).core k.toNat = Core.update { s.core k.toNat with l1 := l, parts := p } := by
    rw [← hcore]
    exact State.core_modCore_self (s := { s.clockWork k.toNat with groups := _, teams := _ }) (hw.count.symm ▸ hk) _
  refine ⟨_, execAllowanceUpdate_of_clocked h96 (by simp [State.clocked, ht]), ?_, ?_, ?_, fun j hj => ?_, fun u g hg hc ho => ?_⟩
  · rw [hself]; rfl
  · rw [hself]; rfl
  · rw [hself]; rfl
  · exact (State.core_modCore_ne _ hj _).trans (hw.others j hj)
  · have hmap : (s.clockEnd (s.clockWork k.toNat) k.toNat).groups = s.groups.map fun g => if g.core == k.toNat && s.onCore g then g.tick else g :=
      congrArg (List.map _) hw.groups
    refine ⟨g.tick, ?_, Group.tick_spin, rfl, rfl, rfl, rfl⟩
    rw [State.group_of_map hmap (fun g => by split <;> rfl), hg, Option.map_some, if_pos (by simp [hc, ho])]

/-! ### Near-threshold mode (R101) -/

/-- A partition at the end of a window: n of its groups reside, and b of them are blocked (R101). -/
def Part.endWindow (x : Part) (now n b : Nat) : Part :=
  if now < x.windowStart + 4096 then x
  else if n = 0 then { x with nearThreshold := false, windowStart := now, windowIssues := 0 }
  else
    let enters := !x.nearThreshold && decide (x.windowIssues < 512) && decide (n < 2 * b)
    { x with nearThreshold := x.nearThreshold || enters, vecReady := if enters then [] else x.vecReady, windowStart := now, windowIssues := 0 }

theorem Part.endWindow_results {x : Part} {now : Nat} (h : x.windowStart + 4096 ≤ now) (n b : Nat) :
    (x.endWindow now n b).windowStart = now ∧ (x.endWindow now n b).windowIssues = 0 ∧ (n = 0 → (x.endWindow now n b).nearThreshold = false)
      ∧ (n ≠ 0 → ((x.endWindow now n b).nearThreshold = true ↔ x.nearThreshold = true ∨ (x.windowIssues < 512 ∧ n < 2 * b))) := by
  unfold Part.endWindow
  rw [if_neg (Nat.not_lt.2 h)]
  by_cases hn : n = 0
  · simp [hn]
  · cases hx : x.nearThreshold <;> simp [hn]

theorem execNearThresholdWindow_eq (s : State) {k : BitVec 7} (p : BitVec 2) (h96 : k.toNat < 96) : exec (.nearThresholdWindow k p) s
    = .next (s.modPart k.toNat p.toNat fun x => x.endWindow (s.core k.toNat).clocks (s.partGroups k.toNat p.toNat).length
      (s.loadBlocked k.toNat p.toNat)) := by
  have hn : ¬ (!(decide (k.toNat < Config.cores))) = true := by simp [Config.cores, h96]
  exact congrArg Host.Outcome.next (if_neg hn)

theorem modify_of_fixed {α : Type} {l : List α} {i : Nat} {a : α} (h : l[i]? = some a) {f : α → α} (hf : f a = a) : l.modify i f = l := by
  refine List.ext_getElem? fun j => ?_
  rw [List.getElem?_modify]
  by_cases hij : i = j
  · subst hij
    simp [h, hf]
  · simp [hij]

/-- A change that leaves a partition as it is leaves the part as it is. -/
theorem State.modPart_of_fixed {s : State} {k p : Nat} {x : Part} (hk : k < s.cores.length) (hx : (s.core k).parts[p]? = some x) {f : Part → Part}
    (hf : f x = x) : s.modPart k p f = s := by
  have hcore : s.cores[k]? = some (s.core k) := by simp [State.core, List.getD_eq_getElem?_getD, hk]
  have hcores : s.cores.modify k (fun c => { c with parts := c.parts.modify p f }) = s.cores :=
    modify_of_fixed hcore (by rw [modify_of_fixed hx hf])
  rw [State.modPart, State.modCore, hcores]

theorem execNearThresholdExit_eq (s : State) {k : BitVec 7} (p : BitVec 2) (h96 : k.toNat < 96) : exec (.nearThresholdExit k p) s
    = .next (s.modPart k.toNat p.toNat fun x => if x.busy then { x with nearThreshold := false } else x) :=
  congrArg Host.Outcome.next (if_pos h96)

theorem Part.busy_iff (x : Part) : x.busy = true ↔ x.vecReady.length = 8 ∧ x.vecReady.getLastD 0 < x.vecReady.headD 0 + 64 := by
  simp [Part.busy]

theorem State.modPart_sameMemory (s : State) (k p : Nat) (f : Part → Part) : SameMemory s (s.modPart k p f) :=
  ⟨fun _ => rfl, fun _ => rfl, fun _ _ => rfl⟩

/-- The clauses of O59 on the two near-threshold events (R101). -/
theorem nearThreshold_results (s : State) (k : BitVec 7) (p : BitVec 2) (x : Part) (h96 : k.toNat < 96) (hk : k.toNat < s.cores.length)
    (hx : (s.core k.toNat).parts[p.toNat]? = some x) :
    let n := (s.partGroups k.toNat p.toNat).length
    let blocked := ((s.partGroups k.toNat p.toNat).filter fun g =>
      g.rows.any (fun r => r.live) && g.rows.all fun r => !r.live || r.wait.onMem).length
    (x.windowStart + 4096 ≤ (s.core k.toNat).clocks →
      ∃ r y, exec (.nearThresholdWindow k p) s = .next r ∧ (r.core k.toNat).parts[p.toNat]? = some y ∧ y.windowStart = (s.core k.toNat).clocks
        ∧ y.windowIssues = 0
        ∧ (n = 0 → y.nearThreshold = false)
        ∧ (n ≠ 0 → (y.nearThreshold = true ↔ x.nearThreshold = true ∨ (x.windowIssues < 512 ∧ n < 2 * blocked)))
        ∧ r.groups = s.groups ∧ SameMemory s r)
    ∧ ((s.core k.toNat).clocks < x.windowStart + 4096 → exec (.nearThresholdWindow k p) s = .next s)
    ∧ ∃ r, exec (.nearThresholdExit k p) s = .next r ∧ (r.core k.toNat).parts[p.toNat]?
          = some (if x.vecReady.length = 8 ∧ x.vecReady.getLastD 0 < x.vecReady.headD 0 + 64 then { x with nearThreshold := false } else x)
        ∧ r.groups = s.groups ∧ SameMemory s r := by
  intro n blocked
  refine ⟨fun h => ?_, fun h => ?_, ?_⟩
  · obtain ⟨hstart, hissues, hnone, hsome⟩ := x.endWindow_results h n (s.loadBlocked k.toNat p.toNat)
    exact ⟨_, _, execNearThresholdWindow_eq s p h96, State.part_modPart_self hk hx _, hstart, hissues, hnone, hsome, rfl, s.modPart_sameMemory ..⟩
  · rw [execNearThresholdWindow_eq s p h96]
    exact congrArg Host.Outcome.next (State.modPart_of_fixed hk hx (if_pos h))
  · refine ⟨_, execNearThresholdExit_eq s p h96, ?_, rfl, s.modPart_sameMemory ..⟩
    rw [State.part_modPart_self hk hx]
    simp only [x.busy_iff]

/-! ### Withheld completely (R106) -/

theorem getLsbD_or_one_shiftLeft (x : BitVec 96) (k : Nat) {b : Nat} (hb : b < 96) :
    (x ||| (1#96 <<< k)).getLsbD b = (x.getLsbD b || b == k) := by
  have hbit : (1#96 <<< k).getLsbD b = (b == k) := by
    rw [BitVec.getLsbD_shiftLeft, BitVec.getLsbD_one, Bool.eq_iff_iff]
    simp only [hb, decide_true, Bool.true_and, Bool.and_eq_true, Bool.not_eq_true', decide_eq_false_iff_not, decide_eq_true_eq, beq_iff_eq]
    omega
  rw [BitVec.getLsbD_or, hbit]

/-- The clauses of O59 on WITHHELD_COMPLETELY (R106). -/
theorem withheldCompletely_results (s : State) (c : BitVec 5) (k : BitVec 7) (h96 : k.toNat < 96) (hc : c.toNat < s.ctxs.length) :
    (65536 ≤ sget 0 (s.ctx c).withheldFor k.toNat →
      ∃ r, exec (.withheldCompletely c k) s = .next r ∧ r.groups = s.groups
        ∧ ∀ b, b < 96 → (r.ctx c).withheldCores.getLsbD b = ((s.ctx c).withheldCores.getLsbD b || b == k.toNat))
    ∧ (sget 0 (s.ctx c).withheldFor k.toNat < 65536 → exec (.withheldCompletely c k) s = .next s) := by
  refine ⟨fun h => ?_, fun h => ?_⟩
  · have hif : (k.toNat < Config.cores && decide (65536 ≤ sget 0 (s.ctx c).withheldFor k.toNat)) = true := by simp [Config.cores, h96, h]
    refine ⟨_, congrArg Host.Outcome.next (if_pos hif), rfl, fun b hb => ?_⟩
    rw [State.ctx_modCtx_self hc]
    exact getLsbD_or_one_shiftLeft _ _ hb
  · have hif : ¬ (k.toNat < Config.cores && decide (65536 ≤ sget 0 (s.ctx c).withheldFor k.toNat)) = true := by simp [h]
    exact congrArg Host.Outcome.next (if_neg hif)

/-- Settles O59: each clause is a lemma above, on the event that it is about. -/
theorem powerResults : Obligations.PowerResults := by
  refine ⟨execGovernorPeriod_trips, fun s temps w hp ht => ?_, fun s k h96 hk => ?_, nearThreshold_results, withheldCompletely_results⟩
  · refine ⟨_, execGovernorPeriod_sets w hp ht, s.setCores_periodSets temps w, fun h => ?_, fun q h => (State.setCores_tests h temps w).capTested⟩
    have hr := State.setCores_of_no_request h temps w
    exact ⟨hr.capInForce, hr.lastRefusal⟩
  · exact ⟨execAllowanceUpdate_results s k h96 hk, execAllowanceUpdate_of_gated⟩

end Sys2Proof.Machine
end

section
/-! SUPPORT. What an instruction's own part makes of the state, in the words of Safety.lean, where it has issued past its checks. -/

namespace Sys2Proof.Machine

/-! ### How an instruction ends -/

/-- Past the checks an instruction ends as its own part says. -/
theorem Issues.concludes {s : State} {g : Group} {k : Nat} {i : Instr} (hi : Issues s g k i) {body : Group → Nat → Res} {r : Res}
    (hb : body g k = r) : issue i s body = .next (s.conclude g k i r) := by
  rw [issue_body hi.1 hi.2 body, hb]

/-- A jump of an instruction that does nothing else leaves its row at the target. -/
theorem Issues.rowResult {s : State} {g : Group} {k : Nat} {i : Instr} (hi : Issues s g k i) (hs : i.sideEffect = false) {pc : Pc}
    (h : JumpsTo i s s g k pc) : ∃ t, exec i s = .next t ∧ SameMemory s t ∧ RowResult s t g k (Claims.rowAt g k pc) := by
  have hr := row_result hi hs pc
  have ⟨_, ⟨_, _, _, _, quiet⟩, _⟩ := hr
  exact ⟨_, h, quiet.sameMemory, hr⟩

/-! ### Rows that an instruction has placed itself -/

theorem State.modGroup_congr {s : State} {u : Nat} {f f' : Group → Group} (h : ∀ x ∈ s.groups, x.uid = u → f x = f' x) :
    s.modGroup u f = s.modGroup u f' := by
  have hmap : (s.groups.map fun g => if g.uid = u then f g else g) = s.groups.map fun g => if g.uid = u then f' g else g := by
    refine List.map_congr_left fun x hx => ?_
    split
    · exact h x hx ‹_›
    · rfl
  unfold State.modGroup
  rw [hmap]

theorem State.eq_of_mem_putGroup {s : State} {g x : Group} (h : x ∈ (s.putGroup g).groups) (hu : x.uid = g.uid) : x = g := by
  obtain ⟨y, -, rfl⟩ := List.mem_map.1 h
  revert hu
  dsimp only
  split
  · exact fun _ => rfl
  · exact fun hu => absurd hu ‹_›

/-- Two changes of one group, of which the first replaces it, are one. -/
theorem State.modGroup_putGroup (s : State) (g : Group) (f : Group → Group) :
    (s.putGroup g).modGroup g.uid f = s.modGroup g.uid fun _ => f g := by
  unfold State.putGroup State.modGroup
  simp only [List.map_map]
  congr 1
  refine List.map_congr_left fun x _ => ?_
  by_cases hx : x.uid = g.uid <;> simp [hx]

/-- A row that stands at an address already retires to it. -/
theorem Group.retire_placed (g b : Group) (k : Nat) (i : Instr) : g.retire b k i none = g.retire b k i (some (g.row k).pc) := by
  have hrows : (g.rows.modify k fun r => { r with pc := (none : Option Pc).getD r.pc, wait := .none })
      = g.rows.modify k fun r => { r with pc := (some (g.row k).pc).getD r.pc, wait := .none } := by
    refine List.ext_getElem? fun j => ?_
    rw [List.getElem?_modify, List.getElem?_modify]
    by_cases hj : k = j
    · subst hj
      cases h : g.rows[k]? with
      | none => rfl
      | some r => simp [Group.row, h]
    · simp [hj]
  rw [Group.retire_eq, Group.retire_eq, hrows]

/-- Retirement of a group in which the instruction has placed its row. -/
theorem State.finish_placed (s : State) {g g' : Group} (hu : g'.uid = g.uid) (k : Nat) (i : Instr) (fuse : Bool) :
    (s.putGroup g').finish g k i none fuse = (s.putGroup g').finish g k i (some (g'.row k).pc) fuse := by
  have hmod := State.modGroup_congr (s := s.putGroup g') (u := g.uid)
    (f := fun x => if fuse && !((s.putGroup g').descOf g).det then (x.retire g k i none).fuse else x.retire g k i none)
    (f' := fun x => if fuse && !((s.putGroup g').descOf g).det then (x.retire g k i (some (g'.row k).pc)).fuse
      else x.retire g k i (some (g'.row k).pc))
    fun x hx hxu => by rw [State.eq_of_mem_putGroup hx (hxu.trans hu.symm), Group.retire_placed]
  unfold State.finish
  dsimp only
  rw [hmod]

/-- The group after retirement: its rows may have fused, and go on. -/
theorem State.finish_group_carries {s : State} {b g : Group} (hg : s.group b.uid = some g) (k : Nat) (i : Instr) (pc : Option Pc) :
    ∃ h, (s.finish b k i pc true).group b.uid = some h ∧ (∃ w, h = { g.retire b k i pc with rows := w })
      ∧ ∀ r, (g.retire b k i pc).carries r → h.carries r := by
  refine ⟨_, State.finish_group hg k i pc true, ?_⟩
  split
  · exact ⟨(g.retire b k i pc).fuse_eq, fun r => Group.carries_fuse⟩
  · exact ⟨⟨_, rfl⟩, fun r => id⟩

end Sys2Proof.Machine
end

section
/-! SUPPORT. Masks: their words and bits, and the mask of the lanes that a test selects (R110, R115); and O34. -/

namespace Sys2Proof.Machine

/-! ### The bits of a mask -/

theorem getLsbD_maskWord (m : Mask) (n : Nat) {l : Nat} (hl : l < 32) : (maskWord m n).getLsbD l = m.getLsbD (32 * n + l) := by
  simp [maskWord, hl]

theorem getLsbD_wordOnes (b : Nat) : (0xFFFFFFFF#96).getLsbD b = decide (b < 32) := by
  have h : (0xFFFFFFFF#96) = (BitVec.allOnes 32).setWidth 96 := rfl
  rw [h, BitVec.getLsbD_setWidth, BitVec.getLsbD_allOnes, Bool.and_eq_right_iff_imp]
  simp only [decide_eq_true_eq]
  omega

/-- The bits of word n are those of the new value, the others are as they were. -/
theorem getLsbD_setMaskWord (m : Mask) {n : Nat} (v : Word) {b : Nat} (hb : b < 96) :
    (setMaskWord m n v).getLsbD b = if b / 32 = n then v.getLsbD (b % 32) else m.getLsbD b := by
  have hbits : (setMaskWord m n v).getLsbD b = (m.getLsbD b && !(!decide (b < 32 * n) && decide (b - 32 * n < 32))
      || !decide (b < 32 * n) && v.getLsbD (b - 32 * n)) := by
    have hsub : b - 32 * n < 96 := by omega
    simp only [setMaskWord, BitVec.getLsbD_or, BitVec.getLsbD_and, BitVec.getLsbD_not, BitVec.getLsbD_shiftLeft, getLsbD_wordOnes,
      BitVec.getLsbD_setWidth, hb, hsub, decide_true, Bool.true_and]
  rw [hbits]
  by_cases hlo : b < 32 * n
  · simp [hlo, show b / 32 ≠ n by omega]
  · by_cases hhi : b - 32 * n < 32
    · simp [hlo, show b / 32 = n by omega, show b - 32 * n = b % 32 by omega, Nat.mod_lt b (show 32 > 0 by decide)]
    · simp [hlo, hhi, show b / 32 ≠ n by omega, BitVec.getLsbD_of_ge v _ (Nat.not_lt.1 hhi)]

/-- Writing s0, s1 or s2 changes the MASK of the issuing row alone (R115). -/
theorem Group.row_writeS_mask (s : State) {g : Group} {k n : Nat} (hn : n < 3) (hk : k < g.rows.length) (v : Word) (j : Nat) :
    (g.writeS s k n v).row j
      = if j = k then { g.row k with mask := setMaskWord (g.row k).mask n v &&& (g.row k).own } else g.row j := by
  rw [g.writeS_mask s k hn, Group.row_modRow g k j _ hk]

theorem Group.readS_mask (s : State) (g : Group) (k : Nat) {n : Nat} (hn : n < 3) : g.readS s k n = maskWord (g.row k).mask n := by
  simp [Group.readS, hn]

/-- Settles O34: the mask word that is written, bit by bit, and the frame of the write. -/
theorem maskWritesAndReads : Obligations.MaskWritesAndReads := by
  intro s g k n v hn hk h
  have hrow : h.row k = { g.row k with mask := setMaskWord (g.row k).mask n v &&& (g.row k).own } := by
    rw [Group.row_writeS_mask s hn hk, if_pos rfl]
  have hmask (b : Nat) (hb : b < 96) : (h.row k).mask.getLsbD b
      = ((if b / 32 = n then v.getLsbD (b % 32) else (g.row k).mask.getLsbD b) && (g.row k).own.getLsbD b) := by
    rw [hrow, BitVec.getLsbD_and, getLsbD_setMaskWord _ _ hb]
  refine ⟨fun l hl => ?_, fun b hb hne => ?_, fun j hj => ?_, ?_, by rw [hrow], fun l hl => ?_⟩
  · rw [hmask _ (by omega), if_pos (by omega), show (32 * n + l) % 32 = l by omega]
  · rw [hmask b hb, if_neg hne]
  · exact (Group.row_writeS_mask s hn hk v j).trans (if_neg hj)
  · rw [show h = _ from g.writeS_mask s k hn v]
    rfl
  · rw [g.readS_mask s k hn, getLsbD_maskWord _ _ hl]

/-! ### The mask of a test -/

/-- A sum of the powers of two below n that a test selects: it lies below 2 ^ n, and its bits are the test. -/
theorem sumOfBits_bits (f : Nat → Bool) (n : Nat) :
    (List.range n).foldl (fun m i => if f i then m + 2 ^ i else m) 0 < 2 ^ n
      ∧ ∀ i, i < n → ((List.range n).foldl (fun m i => if f i then m + 2 ^ i else m) 0).testBit i = f i := by
  induction n with
  | zero => exact ⟨Nat.one_pos, fun i hi => absurd hi (Nat.not_lt_zero i)⟩
  | succ n ih =>
    rw [List.range_succ, List.foldl_append]
    generalize (List.range n).foldl _ 0 = m at ih ⊢
    obtain ⟨hlt, hbit⟩ := ih
    have hpow : 2 ^ (n + 1) = 2 ^ n + 2 ^ n := by rw [Nat.pow_succ]; omega
    simp only [List.foldl_cons, List.foldl_nil]
    cases hf : f n with
    | false =>
      refine ⟨by simp only [Bool.false_eq_true, if_false]; omega, fun i hi => ?_⟩
      obtain rfl | hi := Nat.eq_or_lt_of_le (Nat.lt_succ_iff.1 hi)
      · simp [hf, Nat.testBit_lt_two_pow hlt]
      · simp [hbit i hi]
    | true =>
      refine ⟨by simp only [if_true]; omega, fun i hi => ?_⟩
      simp only [if_true, Nat.add_comm m]
      obtain rfl | hi := Nat.eq_or_lt_of_le (Nat.lt_succ_iff.1 hi)
      · rw [Nat.testBit_two_pow_add_eq, Nat.testBit_lt_two_pow hlt, hf, Bool.not_false]
      · rw [Nat.testBit_two_pow_add_gt hi, hbit i hi]

theorem getLsbD_maskOf (f : Nat → Bool) {l : Nat} (hl : l < 96) : (maskOf f).getLsbD l = f l := by
  obtain ⟨-, hbit⟩ := sumOfBits_bits f 96
  rw [maskOf, BitVec.getLsbD_ofNat, hbit l hl]
  simp [hl]

end Sys2Proof.Machine
end

section
/-! SUPPORT. Targets, branch conditions and the ways of a divergent branch (R116, R312, R338 to R340); and O24. -/

namespace Sys2Proof.Machine

/-! ### Targets (R312, R339) -/

theorem inCodeRange_iff (s : State) (g : Group) (t : Int) : inCodeRange (g.codeRange s) t = true ↔ Claims.inRange s g t := by
  have hshift : t >>> (32 : Int) = t / 2 ^ 32 := (Int.shiftRight_natCast_right t 32).trans (Int.shiftRight_eq_div_pow t 32)
  rw [inCodeRange, beq_iff_eq, hshift]
  rfl

@[simp] theorem checkTargets_nil (s : State) (g : Group) (r : Res) : checkTargets s g [] r = r := rfl

theorem checkTargets_cons_inRange {s : State} {g : Group} {t : Int} (h : Claims.inRange s g t) (ts : List Int) (r : Res) :
    checkTargets s g (t :: ts) r = checkTargets s g ts r := by
  simp [checkTargets, (inCodeRange_iff s g t).2 h]

theorem checkTargets_cons_outside {s : State} {g : Group} {t : Int} (h : ¬ Claims.inRange s g t) (ts : List Int) (r : Res) :
    checkTargets s g (t :: ts) r = .trap (trapAt 0x17 (t % 2 ^ 64).toNat 0) := by
  have hf : inCodeRange (g.codeRange s) t = false := by rw [← Bool.not_eq_true, inCodeRange_iff]; exact h
  simp [checkTargets, hf, wrapVa]

/-! ### Conditions (R338) -/

/-- A relation by its code, where exactly one of less, equal and greater holds (R352). -/
theorem ccOf_of_trichotomy (cc : Nat) {lt eq gt : Bool} (hgt : gt = (!lt && !eq)) (hne : (lt && eq) = false) :
    ccOf cc lt eq gt = if cc = 0 then eq else if cc = 1 then !eq else if cc = 2 then lt else if cc = 3 then !lt
      else if cc = 4 then lt || eq else !lt && !eq := by
  subst hgt
  match cc with
  | 0 | 1 | 2 | 4 => rfl
  | 3 => revert hne; cases lt <;> cases eq <;> decide
  | n + 5 => simp [ccOf]

/-- A relation of two numbers by its code (R352). -/
theorem ccOf_order {α : Type} [LinearOrder α] (cc : Nat) (a b : α) : ccOf cc (decide (a < b)) (decide (a = b)) (decide (b < a))
    = if cc = 0 then decide (a = b) else if cc = 1 then !decide (a = b) else if cc = 2 then decide (a < b)
      else if cc = 3 then !decide (a < b) else if cc = 4 then decide (a < b) || decide (a = b) else !decide (a < b) && !decide (a = b) := by
  refine ccOf_of_trichotomy cc ?_ ?_
  · rw [Bool.eq_iff_iff]
    simp only [Bool.and_eq_true, Bool.not_eq_true', decide_eq_false_iff_not, decide_eq_true_eq]
    rw [← not_or, ← le_iff_lt_or_eq, not_le]
  · simp only [Bool.and_eq_false_imp, decide_eq_true_eq, decide_eq_false_iff_not]
    exact fun h => h.ne

theorem FVal.lt_asymm {a b : FVal} (h : a.lt b = true) : b.lt a = false := by
  cases a with
  | fin s n d =>
    cases b with
    | fin t m e =>
      simp only [FVal.lt, decide_eq_true_eq] at h
      simp only [FVal.lt, decide_eq_false_iff_not]
      omega
    | inf t => simpa [FVal.lt] using h
    | nan q => cases h
  | inf s => cases b <;> simp_all [FVal.lt]
  | nan q => cases b <;> simp_all [FVal.lt]

/-- A relation of two values that are no NaNs by its code (R357). -/
theorem ccOf_fval (cc : Nat) {a b : FVal} (ha : a.isNan = false) (hb : b.isNan = false) : ccOf cc (a.lt b) (a.eqv b) (b.lt a)
    = if cc = 0 then !a.lt b && !b.lt a else if cc = 1 then !(!a.lt b && !b.lt a) else if cc = 2 then a.lt b
      else if cc = 3 then !a.lt b else if cc = 4 then a.lt b || (!a.lt b && !b.lt a) else !a.lt b && !(!a.lt b && !b.lt a) := by
  have heqv : a.eqv b = (!a.lt b && !b.lt a) := by simp [FVal.eqv, ha, hb]
  rw [heqv]
  refine ccOf_of_trichotomy cc ?_ ?_
  · cases hlt : a.lt b with
    | false => simp
    | true => simp [FVal.lt_asymm hlt]
  · cases a.lt b <;> rfl

/-- The condition of a branch is the one that the rule's table gives (R338). -/
theorem condHolds_eq (c : BitVec 5) (x y : Word) : condHolds c x y = Claims.condition c x y := by
  have hcc : (c.extractLsb' 0 3).toNat = c.toNat % 8 := by simp
  have htype : (c.extractLsb' 3 2).toNat = c.toNat / 8 := by
    have := c.isLt
    simp [Nat.shiftRight_eq_div_pow]
    omega
  unfold condHolds Claims.condition
  simp only [hcc, htype]
  match c.toNat / 8 with
  | 0 =>
    have heq : (x == y) = decide (x.toInt = y.toInt) := by simp only [BitVec.toInt_inj]; rfl
    have h := ccOf_order (c.toNat % 8) x.toInt y.toInt
    rw [← heq] at h
    exact h
  | 1 =>
    have heq : (x == y) = decide (x.toNat = y.toNat) := by simp only [BitVec.toNat_inj]; rfl
    have h := ccOf_order (c.toNat % 8) x.toNat y.toNat
    rw [← heq] at h
    exact h
  | n + 2 =>
    cases ha : (fp32.dec x.toNat).isNan with
    | true =>
      simp only [Fmt.cmp, ha, Bool.true_or]
      rfl
    | false =>
      cases hb : (fp32.dec y.toNat).isNan with
      | true =>
        simp only [Fmt.cmp, ha, hb, Bool.or_true]
        rfl
      | false =>
        have h := ccOf_fval (c.toNat % 8) ha hb
        simp only [Fmt.cmp, ha, hb]
        exact h

/-! ### Divergence (R116) -/

theorem laneOf_replicate (v : Word) {l : Nat} (hl : l < 96) : laneOf (List.replicate 96 v) l = v := by
  rw [laneOf, List.getD_eq_getElem?_getD, List.getElem?_replicate, if_pos hl]
  rfl

theorem Group.diverge_nowhere (s : State) (g : Group) (k : Nat) (t j fall : Pc) : g.diverge s k 0 t j fall = .jump s fall := by
  simp [Group.diverge]

theorem Group.diverge_everywhere (s : State) {g : Group} {k : Nat} {x : Mask} (h0 : x ≠ 0) (hm : x = (g.row k).mask) (t j fall : Pc) :
    g.diverge s k x t j fall = .jump s t := by
  simp only [Group.diverge, if_neg h0, if_pos hm]

theorem Group.diverge_parallel (s : State) {g : Group} {k : Nat} {x : Mask} (h0 : x ≠ 0) (hm : x ≠ (g.row k).mask) {n f : Nat}
    (hn : g.freeRow = some n) (hf : g.freeFam = some f) (hs : g.forceSerial = false) (t j fall : Pc) :
    g.diverge s k x t j fall = .done (s.putGroup (g.divide k n f x t j fall)) := by
  simp only [Group.diverge, if_neg h0, if_neg hm, hn, hf, hs, Bool.not_false, if_true]

/-- Where no row or family is free, or FORCE_SERIAL is set, the branch goes the serial path. -/
theorem Group.diverge_serial (s : State) {g : Group} {k : Nat} {x : Mask} (h0 : x ≠ 0) (hm : x ≠ (g.row k).mask)
    (hs : g.freeRow = none ∨ g.freeFam = none ∨ g.forceSerial = true) (t j fall : Pc) : g.diverge s k x t j fall
      = if g.serials.length < 8 then .done (s.putGroup (g.defer k x t j fall)) else .trap (trapOf 0x10) := by
  simp only [Group.diverge, if_neg h0, if_neg hm]
  split
  · rename_i hn hf
    have hforce : g.forceSerial = true := by simpa [hn, hf] using hs
    simp [hforce]
  · rfl

/-- BRA.V checks its targets, and sends the lanes of X by R116. -/
theorem execBraV_eq {s : State} {g : Group} {k : Nat} {c : BitVec 5} {sb : Bool} {b a : R7} {tofs jofs : BitVec 16} {x : Mask}
    (hi : Issues s g k (.braV c sb b a tofs jofs))
    (hx : ∀ l, l < 96 → x.getLsbD l = ((g.row k).mask.getLsbD l && Claims.condition c (laneOf (g.readV s a.toNat) l)
      (if sb then g.readS s k b.toNat else laneOf (g.readV s b.toNat) l))) :
    exec (.braV c sb b a tofs jofs) s = .next (s.conclude g k (.braV c sb b a tofs jofs)
      (checkTargets s g [Claims.targetOf g k tofs, Claims.targetOf g k jofs]
        (g.diverge s k x (pcOf (Claims.targetOf g k tofs)) (pcOf (Claims.targetOf g k jofs)) ((g.row k).pc + 8)))) := by
  have hmask : ((g.row k).mask &&& maskOf fun l => condHolds c (laneOf (g.readV s a.toNat) l)
      (laneOf (if sb then List.replicate 96 (g.readS s k b.toNat) else g.readV s b.toNat) l)) = x := by
    refine BitVec.eq_of_getLsbD_eq fun l hl => ?_
    rw [BitVec.getLsbD_and, getLsbD_maskOf _ hl, hx l hl, condHolds_eq]
    cases sb with
    | false => rfl
    | true => rw [if_pos rfl, if_pos rfl, laneOf_replicate _ hl]
  rw [← hmask]
  exact hi.concludes rfl

/-- Settles O24: the targets are checked, T first, and the lanes of X go as `Group.diverge` sends them. -/
theorem divergentBranchResults : Obligations.DivergentBranchResults := by
  intro s g k c sb b a tofs jofs x i t j r fall hi hx
  have ends {q : Res} (h : checkTargets s g [t, j] (g.diverge s k x (pcOf t) (pcOf j) fall) = q) :
      exec i s = .next (s.conclude g k i q) := by rw [← h]; exact execBraV_eq hi hx
  refine ⟨fun ht => ends (checkTargets_cons_outside ht _ _),
    fun ht hj => ends ((checkTargets_cons_inRange ht _ _).trans (checkTargets_cons_outside hj _ _)), fun ht hj => ?_⟩
  have goes {q : Res} (h : g.diverge s k x (pcOf t) (pcOf j) fall = q) : exec i s = .next (s.conclude g k i q) :=
    ends ((checkTargets_cons_inRange ht _ _).trans ((checkTargets_cons_inRange hj _ _).trans h))
  refine ⟨?_, fun h0 hm => hi.rowResult rfl (goes (Group.diverge_everywhere s h0 hm _ _ _)),
    fun h0 hm n f hn hf hs => goes (Group.diverge_parallel s h0 hm hn hf hs _ _ _),
    fun h0 hm hs hlt => goes ((Group.diverge_serial s h0 hm hs _ _ _).trans (if_pos hlt)),
    fun h0 hm hs hge => goes ((Group.diverge_serial s h0 hm hs _ _ _).trans (if_neg (Nat.not_lt.2 hge)))⟩
  rintro rfl
  exact hi.rowResult rfl (goes (Group.diverge_nowhere s g k _ _ _))

end Sys2Proof.Machine
end

section
/-! SUPPORT. JOIN by its cases (R118, R341); and O25. -/

namespace Sys2Proof.Machine

/-! ### Where a JOIN stands (R118) -/

/-- Row k stands at the J of the top serial record, which it owns. -/
def Group.AtRecord (g : Group) (k : Nat) : Prop := ∃ x rest, g.serials = x :: rest ∧ x.owner = k ∧ x.jpc = (g.row k).pc

/-- Row k stands at the J of its family. -/
def Group.AtFamily (g : Group) (k : Nat) : Prop := (g.row k).parent < 3 ∧ (g.fam (g.row k).parent).jpc = (g.row k).pc

/-- Row k at the next instruction: what a JOIN that passes leaves. -/
def Group.passed (g : Group) (k : Nat) : Group := g.modRow k fun r => { r with pc := r.pc + 4, wait := .none }

/-- What a JOIN does at its family's J. -/
def Group.joinFamily (n : Nat) (g : Group) (k : Nat) : JoinRes :=
  if g.ownsSerial k then .order
  else
    let p := g.fuseAll k (g.joiners k (g.row k).pc (g.row k).parent)
    if (List.range 4).any fun j => j != p.2 && (p.1.row j).live && p.1.descends (g.row k).parent 4 (p.1.row j).parent then .wait p.1 p.2
    else
      let f := p.1.fam (g.row k).parent
      Group.join n (({ p.1 with fams := p.1.fams.set (g.row k).parent Family.free }).modRow p.2 fun x => { x with parent := f.up, fmt := f.sfmt }) p.2

/-- Away from the top record's J, a JOIN asks for its family. -/
theorem Group.join_away {g : Group} {k : Nat} (hr : ¬ g.AtRecord k) (n : Nat) : g.join (n + 1) k
    = if (g.row k).parent < 3 && (g.fam (g.row k).parent).jpc == (g.row k).pc then g.joinFamily n k else .pass (g.passed k) := by
  cases hs : g.serials with
  | nil =>
    unfold Group.join
    simp only [hs]
    rfl
  | cons x rest =>
    have hx : (decide (x.owner = k) && decide (x.jpc = (g.row k).pc)) = false := by
      simpa using fun ho hj => hr ⟨x, rest, hs, ho, hj⟩
    unfold Group.join
    simp only [hs, hx]
    rfl

/-- Neither at the top record's J nor at its family's, a JOIN passes. -/
theorem Group.join_passes {g : Group} {k : Nat} (hr : ¬ g.AtRecord k) (hf : ¬ g.AtFamily k) (n : Nat) : g.join n k = .pass (g.passed k) := by
  cases n with
  | zero => rfl
  | succ n =>
    rw [Group.join_away hr, if_neg]
    simpa [Group.AtFamily] using hf

theorem Group.join_atFamily {g : Group} {k : Nat} (hr : ¬ g.AtRecord k) (hf : g.AtFamily k) (n : Nat) :
    g.join (n + 1) k = g.joinFamily n k := by
  rw [Group.join_away hr, if_pos]
  simpa [Group.AtFamily] using hf

/-- At the J of a record that has not run its deferred lanes, a JOIN runs them. -/
theorem Group.join_defers {g : Group} {k : Nat} {x : Serial} {rest : List Serial} (hs : g.serials = x :: rest) (ho : x.owner = k)
    (hj : x.jpc = (g.row k).pc) (hp : x.phase = false) (n : Nat) : g.join (n + 1) k
      = .pass (({ g with serials := { x with phase := true, smask := (g.row k).mask, sown := (g.row k).own } :: rest }).modRow k fun r =>
          { r with mask := x.dmask, own := x.down, pc := x.dpc, wait := .none }) := by
  unfold Group.join
  simp only [hs, ho, hj, hp, decide_true, Bool.and_true, if_true, Bool.not_false]

/-! ### Families (R118) -/

theorem Group.joinFamily_owner {g : Group} {k : Nat} (h : g.ownsSerial k = true) (n : Nat) : g.joinFamily n k = .order := by
  simp [Group.joinFamily, h]

theorem Group.descends_self (g : Group) (f n : Nat) : g.descends f (n + 1) f = true := by
  simp [Group.descends]

/-- Where no row waits at the J, and another live row is of the family, the row waits. -/
theorem Group.joinFamily_waits {g : Group} {k : Nat} (h : g.ownsSerial k = false) (hj : g.joiners k (g.row k).pc (g.row k).parent = [])
    (hl : ∃ j, j < 4 ∧ j ≠ k ∧ (g.row j).live = true ∧ (g.row j).parent = (g.row k).parent) (n : Nat) : g.joinFamily n k = .wait g k := by
  obtain ⟨j, h4, hne, hlive, hpar⟩ := hl
  have hany : ((List.range 4).any fun j => j != k && (g.row j).live && g.descends (g.row k).parent 4 (g.row j).parent) = true :=
    List.any_eq_true.2 ⟨j, List.mem_range.2 h4, by simp [hne, hlive, hpar, Group.descends_self]⟩
  unfold Group.joinFamily
  rw [if_neg (by simp [h]), hj]
  exact if_pos hany

/-- The group whose row k alone has left its family. -/
def Group.leftFamily (g : Group) (k : Nat) : Group :=
  ({ g with fams := g.fams.set (g.row k).parent Family.free }).modRow k fun x =>
    { x with parent := (g.fam (g.row k).parent).up, fmt := (g.fam (g.row k).parent).sfmt }

/-- Where no other row is live, the row leaves the family, and its JOIN repeats. -/
theorem Group.joinFamily_leaves {g : Group} {k : Nat} (h : g.ownsSerial k = false) (hl : ∀ j, j < 4 → j ≠ k → (g.row j).live = false)
    (n : Nat) : g.joinFamily n k = (g.leftFamily k).join n k := by
  have hj : g.joiners k (g.row k).pc (g.row k).parent = [] := by
    refine List.filter_eq_nil_iff.2 fun j hm => ?_
    by_cases hne : j = k
    · simp [hne]
    · simp [hl j (List.mem_range.1 hm) hne]
  have hany : ((List.range 4).any fun j => j != k && (g.row j).live && g.descends (g.row k).parent 4 (g.row j).parent) = false := by
    refine List.any_eq_false.2 fun j hm => ?_
    by_cases hne : j = k
    · simp [hne]
    · simp [hl j (List.mem_range.1 hm) hne]
  unfold Group.joinFamily
  rw [if_neg (by simp [h]), hj]
  exact if_neg (by rw [Bool.not_eq_true]; exact hany)

theorem Group.row_leftFamily {g : Group} {k : Nat} (hk : k < g.rows.length) : (g.leftFamily k).row k
    = { g.row k with parent := (g.fam (g.row k).parent).up, fmt := (g.fam (g.row k).parent).sfmt } :=
  (Group.row_modRow _ k k _ hk).trans (if_pos rfl)

/-- The row's repeated JOIN passes, where the family above does not end at the same J. -/
theorem Group.join_leftFamily {g : Group} {k : Nat} (hk : k < g.rows.length) (hr : ¬ g.AtRecord k)
    (hup : ¬ ((g.fam (g.row k).parent).up < 3
      ∧ ((g.fams.set (g.row k).parent Family.free).getD (g.fam (g.row k).parent).up Family.free).jpc = (g.row k).pc)) (n : Nat) :
    (g.leftFamily k).join n k = .pass ((g.leftFamily k).passed k) := by
  refine Group.join_passes ?_ ?_ n
  · unfold Group.AtRecord at hr ⊢
    rw [Group.row_leftFamily hk]
    exact hr
  · unfold Group.AtFamily
    rw [Group.row_leftFamily hk]
    exact hup

theorem Group.passed_leftFamily (g : Group) (k : Nat) : (g.leftFamily k).passed k
    = ({ g with fams := g.fams.set (g.row k).parent Family.free }).modRow k fun x =>
        { x with parent := (g.fam (g.row k).parent).up, fmt := (g.fam (g.row k).parent).sfmt, pc := x.pc + 4, wait := .none } := by
  unfold Group.passed Group.leftFamily Group.modRow
  simp only [List.modify_modify_eq]
  rfl

/-! ### The JOIN instruction (R341) -/

/-- JOIN places the rows as `Group.join` says. -/
theorem places_of_join {s : State} {g g' : Group} {k : Nat} (hi : Issues s g k .join) (h : g.join 16 k = .pass g') :
    Places .join s (s.putGroup g') g k := by
  refine hi.concludes (r := .done (s.putGroup g')) ?_
  simp only [h]

/-- A JOIN that passes leaves its row at the next instruction. -/
theorem join_passes_result {s : State} {g : Group} {k : Nat} (hi : Issues s g k .join) (h : g.join 16 k = .pass (g.passed k)) :
    ∃ t, exec .join s = .next t ∧ SameMemory s t ∧ RowResult s t g k (g.rowAfter k .join) := by
  have hk : k < g.rows.length := Group.row_lt (State.issuer_group hi.1).2
  have hrow (j : Nat) : (g.passed k).row j = if j = k then g.rowAfter k .join else g.row j := Group.row_modRow g k j _ hk
  have hself : (g.passed k).row k = g.rowAfter k .join := (hrow k).trans (if_pos rfl)
  have hlive (j : Nat) : ((g.passed k).row j).live = (g.row j).live := by
    rw [hrow]
    split
    · subst j; rfl
    · rfl
  obtain ⟨h', hret, w, rr, sp, rg, rfl⟩ := retired_finish (i := .join) hi.1 (g' := g.passed k) rfl rfl hlive rfl ((g.passed k).row k).pc
  have ⟨_, _, _, _, quiet⟩ := hret
  refine ⟨_, (places_of_join hi h).trans (congrArg Host.Outcome.next (s.finish_placed rfl k .join true)), quiet.sameMemory, ?_⟩
  rw [hself] at hret ⊢
  exact ⟨_, hret, ⟨rfl, rfl, rfl⟩, fun _ => rfl, fun _ => rfl⟩

/-- Settles O25: each clause is a case of `Group.join`. -/
theorem joinResults : Obligations.JoinResults := by
  intro s g k hi r atRecord atFamily
  have hk : k < g.rows.length := Group.row_lt (State.issuer_group hi.1).2
  refine ⟨fun hr hf => join_passes_result hi (Group.join_passes hr hf 16),
    fun x rest hs ho hj hp => places_of_join hi (Group.join_defers hs ho hj hp 15), fun hr hf ho => ?_, fun hr hf ho hj hl => ?_,
    fun hr hf ho hl hup => ?_⟩
  · have h := (Group.join_atFamily hr hf 15).trans (Group.joinFamily_owner ho 15)
    refine hi.concludes (r := .trap (trapOf 0x11)) ?_
    simp only [h]
  · have h := (Group.join_atFamily hr hf 15).trans (Group.joinFamily_waits ho hj hl 15)
    refine (hi.concludes (r := .hold .join (s.putGroup g)) ?_).trans ?_
    · simp only [h, if_true]
    · exact congrArg Host.Outcome.next (s.modGroup_putGroup g _)
  · have h := (Group.join_atFamily hr hf 15).trans ((Group.joinFamily_leaves ho hl 15).trans (Group.join_leftFamily hk hr hup 15))
    rw [Group.passed_leftFamily] at h
    exact places_of_join hi h

end Sys2Proof.Machine
end

section
/-! SUPPORT. LOOP, LEND and LEND.X (R123, R342 to R344); and O26. -/

namespace Sys2Proof.Machine

/-! ### LOOP (R343) -/

/-- The count that LOOP is given. -/
def Group.loopCount (s : State) (g : Group) (k : Nat) (sb : Bool) (x : R7) : Word := if sb then x.setWidth 32 else g.readS s k x.toNat

/-- What LOOP does once it is known that one row is live and that its end lies in the code range. -/
def loopOpens (s : State) (g : Group) (k : Nat) (c : Word) (e : Int) : Res :=
  if 3 ≤ g.loops.length then .trap (trapOf 0x14)
  else if c = 0 then .jump s (pcOf e + 4)
  else .retire (s.putGroup { g with lc := g.lc.set g.loops.length c, loops :=
    { start := (g.row k).pc + 8, stop := pcOf e, sdepth := g.serials.length } :: g.loops })

theorem execLoop_eq {s : State} {g : Group} {k : Nat} {sb : Bool} {x : R7} {tofs : BitVec 16} (hi : Issues s g k (.loop sb x tofs)) :
    exec (.loop sb x tofs) s = .next (s.conclude g k (.loop sb x tofs) (if g.single = false then .trap (trapOf 0x13)
      else checkTargets s g [Claims.targetOf g k tofs] (loopOpens s g k (g.loopCount s k sb x) (Claims.targetOf g k tofs)))) := by
  refine hi.concludes ?_
  cases g.single <;> rfl

/-- The clauses of O26 on LOOP. -/
theorem loop_results {s : State} {g : Group} {k : Nat} {sb : Bool} {x : R7} {tofs : BitVec 16} (hi : Issues s g k (.loop sb x tofs)) :
    let c : Word := if sb then x.setWidth 32 else g.readS s k x.toNat
    let e := Claims.targetOf g k tofs
    (g.single = false → Traps (.loop sb x tofs) s g k (trapOf 0x13))
    ∧ (g.single = true → ¬ Claims.inRange s g e → Traps (.loop sb x tofs) s g k (trapAt 0x17 (e % 2 ^ 64).toNat 0))
    ∧ (g.single = true → Claims.inRange s g e → 3 ≤ g.loops.length → Traps (.loop sb x tofs) s g k (trapOf 0x14))
    ∧ (g.single = true → Claims.inRange s g e → g.loops.length < 3 → c = 0 → ∃ t, exec (.loop sb x tofs) s = .next t ∧ SameMemory s t
        ∧ RowResult s t g k (Claims.rowAt g k (BitVec.ofInt 49 e + 4)))
    ∧ (g.single = true → Claims.inRange s g e → g.loops.length < 3 → c ≠ 0 →
        Completes (.loop sb x tofs) s (s.putGroup { g with lc := g.lc.set g.loops.length c, loops :=
          { start := (g.row k).pc + 8, stop := BitVec.ofInt 49 e, sdepth := g.serials.length } :: g.loops }) g k) := by
  intro c e
  have ends (h1 : g.single = true) {q : Res} (h : checkTargets s g [e] (loopOpens s g k c e) = q) :
      exec (.loop sb x tofs) s = .next (s.conclude g k (.loop sb x tofs) q) := by
    rw [← h, execLoop_eq hi, h1]
    rfl
  have opens (h1 : g.single = true) (he : Claims.inRange s g e) {q : Res} (h : loopOpens s g k c e = q) :
      exec (.loop sb x tofs) s = .next (s.conclude g k (.loop sb x tofs) q) :=
    ends h1 ((checkTargets_cons_inRange he _ _).trans h)
  refine ⟨fun h1 => ?_, fun h1 he => ends h1 (checkTargets_cons_outside he _ _), fun h1 he h3 => opens h1 he (if_pos h3),
    fun h1 he h3 hc => hi.rowResult rfl (opens h1 he ((if_neg (Nat.not_le.2 h3)).trans (if_pos hc))),
    fun h1 he h3 hc => opens h1 he ((if_neg (Nat.not_le.2 h3)).trans (if_neg hc))⟩
  exact (execLoop_eq hi).trans (by rw [if_pos h1]; rfl)

/-! ### LEND and LEND.X (R344) -/

theorem execLend_eq {s : State} {g : Group} {k : Nat} (hi : Issues s g k .lend) {q : Res} (h : lendRes s g k false = q) :
    exec .lend s = .next (s.conclude g k .lend q) := hi.concludes (body := fun g k => lendRes s g k false) h

theorem execLendX_eq {s : State} {g : Group} {k : Nat} (hi : Issues s g k .lendX) {q : Res} (h : lendRes s g k true = q) :
    exec .lendX s = .next (s.conclude g k .lendX q) := hi.concludes (body := fun g k => lendRes s g k true) h

/-- With no level open, LEND and LEND.X trap. -/
theorem lendRes_closed {g : Group} (h : g.loops = []) (s : State) (k : Nat) (x : Bool) : lendRes s g k x = .trap (trapOf 0x15) := by
  simp only [lendRes, h]

/-- LEND repeats and closes a level, and LEND.X closes it, where one row is live at the level's serial depth. -/
def Group.atDepth (g : Group) (l : LoopRec) : Prop := ¬ (g.single = false ∨ g.serials.length ≠ l.sdepth)

section
variable (s : State) {g : Group} {k : Nat} {l : LoopRec} {rest : List LoopRec} (hl : g.loops = l :: rest)
include hl

theorem lendRes_elsewhere (hpc : (g.row k).pc ≠ l.stop) : lendRes s g k false = .trap (trapOf 0x15) := by
  simp [lendRes, hl, hpc]

/-- Where the instruction stands at its level: anywhere for LEND.X, at the level's end for LEND. -/
theorem lendRes_at {x : Bool} (hpc : x = false → (g.row k).pc = l.stop) : lendRes s g k x
    = if !g.single || decide (g.serials.length ≠ l.sdepth) then .trap (trapOf 0x13)
      else if !x && decide (1 < (g.lc.getD rest.length 0).toNat) then
        .jump (s.putGroup { g with lc := g.lc.set rest.length (g.lc.getD rest.length 0 - 1) }) l.start
      else .retire (s.putGroup { g with lc := if x then g.lc else g.lc.set rest.length 0, loops := rest }) := by
  have hx : (!x && decide ((g.row k).pc ≠ l.stop)) = false := by
    cases x with
    | true => rfl
    | false => simp [hpc rfl]
  simp only [lendRes, hl, hx, Bool.false_eq_true, if_false]

theorem lendRes_split {x : Bool} (hpc : x = false → (g.row k).pc = l.stop) (hs : g.single = false ∨ g.serials.length ≠ l.sdepth) :
    lendRes s g k x = .trap (trapOf 0x13) :=
  (lendRes_at s hl hpc).trans (if_pos (by simpa using hs))

theorem lendRes_atDepth {x : Bool} (hpc : x = false → (g.row k).pc = l.stop) (hs : g.atDepth l) : lendRes s g k x
    = if !x && decide (1 < (g.lc.getD rest.length 0).toNat) then
        .jump (s.putGroup { g with lc := g.lc.set rest.length (g.lc.getD rest.length 0 - 1) }) l.start
      else .retire (s.putGroup { g with lc := if x then g.lc else g.lc.set rest.length 0, loops := rest }) :=
  (lendRes_at s hl hpc).trans (if_neg (by simpa [Group.atDepth] using hs))

theorem lendRes_repeats (hpc : (g.row k).pc = l.stop) (hs : g.atDepth l) (hc : 1 < (g.lc.getD rest.length 0).toNat) : lendRes s g k false
      = .jump (s.putGroup { g with lc := g.lc.set rest.length (BitVec.ofNat 32 ((g.lc.getD rest.length 0).toNat - 1)) }) l.start := by
  have hsub : g.lc.getD rest.length 0 - 1 = BitVec.ofNat 32 ((g.lc.getD rest.length 0).toNat - 1) := by bv_omega
  rw [lendRes_atDepth s hl (fun _ => hpc) hs, hsub]
  exact if_pos (by simpa using hc)

theorem lendRes_ends (hpc : (g.row k).pc = l.stop) (hs : g.atDepth l) (hc : (g.lc.getD rest.length 0).toNat ≤ 1) :
    lendRes s g k false = .retire (s.putGroup { g with lc := g.lc.set rest.length 0, loops := rest }) := by
  rw [lendRes_atDepth s hl (fun _ => hpc) hs]
  exact if_neg (by simpa using hc)

theorem lendRes_leaves (hs : g.atDepth l) : lendRes s g k true = .retire (s.putGroup { g with loops := rest }) :=
  lendRes_atDepth s hl nofun hs

end

/-- Settles O26: LOOP by `loop_results`, LEND and LEND.X by the cases of `lendRes`. -/
theorem loopResults : Obligations.LoopResults := by
  intro s g k
  refine ⟨fun sb x tofs hi => loop_results hi, fun h => ⟨fun hi => execLend_eq hi (lendRes_closed h s k false),
    fun hi => execLendX_eq hi (lendRes_closed h s k true)⟩, fun l rest hl => ⟨fun hi => ?_, fun hi => ?_⟩⟩
  · exact ⟨fun hpc => execLend_eq hi (lendRes_elsewhere s hl hpc), fun hpc hs => execLend_eq hi (lendRes_split s hl (fun _ => hpc) hs),
      fun hpc hs hc => execLend_eq hi (lendRes_repeats s hl hpc hs hc), fun hpc hs hc => execLend_eq hi (lendRes_ends s hl hpc hs hc)⟩
  · exact ⟨fun hs => execLendX_eq hi (lendRes_split s hl nofun hs), fun hs => execLendX_eq hi (lendRes_leaves s hl hs)⟩

end Sys2Proof.Machine
end

section
/-! SUPPORT. The end of a split and of a group (R119, R348): what an exit leaves of the groups and of their operations in flight; and O27. -/

namespace Sys2Proof.Machine

/-! ### What an exit leaves of the groups' operations -/

/-- The same groups are there as before, with the same operations in flight. -/
def OpsFrame (s t : State) : Prop := ∀ u, (t.group u).map Group.ops = (s.group u).map Group.ops

theorem OpsFrame.refl (s : State) : OpsFrame s s := fun _ => rfl

theorem OpsFrame.trans {s t u : State} (a : OpsFrame s t) (b : OpsFrame t u) : OpsFrame s u := fun v => (b v).trans (a v)

theorem OpsFrame.foldl {α : Type} {f : State → α → State} (h : ∀ s a, OpsFrame s (f s a)) (l : List α) (s : State) : OpsFrame s (l.foldl f s) :=
  foldl_relates OpsFrame.refl OpsFrame.trans h l s

theorem OpsFrame.of_groups {s t : State} (h : t.groups = s.groups) : OpsFrame s t := fun u => by rw [State.group, h]; rfl

/-- A change of the groups that keeps their numbers and their operations. -/
theorem OpsFrame.of_map {s t : State} {f : Group → Group} (h : t.groups = s.groups.map f) (hu : ∀ g, (f g).uid = g.uid)
    (ho : ∀ g, (f g).ops = g.ops) : OpsFrame s t := by
  intro u
  have hfind : t.group u = (s.group u).map f := by
    unfold State.group
    rw [h, List.find?_map]
    simp only [Function.comp_def, hu]
  rw [hfind, Option.map_map]
  exact congrArg (fun p : Group → List Op => (s.group u).map p) (funext ho)

theorem State.modGroup_opsFrame (s : State) (u : Nat) (f : Group → Group) (hu : ∀ g, (f g).uid = g.uid) (ho : ∀ g, (f g).ops = g.ops) :
    OpsFrame s (s.modGroup u f) := by
  refine .of_map (f := fun g => if g.uid = u then f g else g) rfl (fun g => ?_) (fun g => ?_)
  · split
    · exact hu g
    · rfl
  · split
    · exact ho g
    · rfl

theorem OpsFrame.ops {s t : State} (h : OpsFrame s t) {u : Nat} {g : Group} (hg : s.group u = some g) : ∃ g', t.group u = some g' ∧ g'.ops = g.ops := by
  have hu := h u
  rw [hg, Option.map_some] at hu
  exact Option.map_eq_some_iff.1 hu

theorem OpsFrame.none {s t : State} (h : OpsFrame s t) {u : Nat} (hg : s.group u = none) : t.group u = none := by
  have hu := h u
  rw [hg, Option.map_none] at hu
  exact Option.map_eq_none_iff.1 hu

/-! ### The steps of an exit (R213, R348) -/

theorem State.latchBars_opsFrame (s : State) (tu : Nat) : OpsFrame s (s.latchBars tu) := by
  unfold State.latchBars
  split
  · exact .refl s
  · split
    · exact .refl s
    · exact .of_map rfl (fun _ => rfl) fun _ => rfl

theorem State.barApply_opsFrame (s : State) (loc : Nat × Nat) (f : Bar → Bar) : OpsFrame s (s.barApply loc f) := by
  unfold State.barApply
  split
  · exact .refl s
  · exact OpsFrame.trans (.of_groups rfl) (State.latchBars_opsFrame _ _)

theorem State.exitArrival_opsFrame (s : State) (g : Group) (r : BarReg) : OpsFrame s (s.exitArrival g r) := by
  unfold State.exitArrival
  split
  · exact .refl s
  · dsimp only
    split
    · exact .of_groups rfl
    · exact OpsFrame.trans (.of_groups rfl) (State.barApply_opsFrame _ _ _)

theorem State.exitArrivals_opsFrame (s : State) (uid : Nat) : OpsFrame s (s.exitArrivals uid) := by
  unfold State.exitArrivals
  split
  · exact .refl s
  · refine (s.modGroup_opsFrame uid (fun g => { g with bars := [] }) (fun _ => rfl) fun _ => rfl).trans ?_
    exact OpsFrame.foldl (fun t r => t.exitArrival_opsFrame _ r) _ _

theorem State.writeBackMap_ownFrame (s : State) (tu k : Nat) : OwnFrame s (s.writeBackMap tu k) := by
  unfold State.writeBackMap
  split
  · exact .refl s
  · exact .foldl (fun t ln => t.writeBackStash_ownFrame tu ln false) _ s

theorem State.writeBackTeam_groups (s : State) (tu : Nat) : (s.writeBackTeam tu).groups = s.groups :=
  (OwnFrame.foldl (fun t k => t.writeBackMap_ownFrame tu k) (List.range 8) s).groups

/-- Where a group has no operation in flight, none runs. -/
theorem State.runOps_of_idle {s : State} {uid : Nat} {g : Group} (hg : s.group uid = some g) (ho : g.ops = []) (sel : Op → Bool) :
    s.runOps uid sel = s := by
  simp [State.runOps, hg, ho]

theorem State.release_opsFrame {s : State} {uid : Nat} {g : Group} (hg : s.group uid = some g) (ho : g.ops = []) (scope : Nat) :
    OpsFrame s (s.release uid scope) := by
  have hw : s.performWrites uid none = s := by
    simp only [State.performWrites, hg]
    exact State.runOps_of_idle hg ho _
  unfold State.release
  split
  · exact .refl s
  · dsimp only
    rw [hw, hg]
    refine OpsFrame.trans ?_ (State.modGroup_opsFrame _ _ _ (fun _ => rfl) fun _ => rfl)
    dsimp only
    split
    · exact .of_groups (s.writeBackTeam_groups _)
    · exact .refl s

theorem State.endGroup_opsFrame {s : State} {uid : Nat} {g : Group} (hg : s.group uid = some g) (ho : g.ops = []) :
    OpsFrame s (s.endGroup uid) :=
  ((State.release_opsFrame hg ho 3).trans (State.exitArrivals_opsFrame _ uid)).trans
    (State.modGroup_opsFrame _ _ _ (fun _ => rfl) fun _ => rfl)

/-! ### A group leaves (R348) -/

theorem State.group_filter_ne (s : State) (uid : Nat) : ({ s with groups := s.groups.filter fun h => h.uid != uid }).group uid = none := by
  simp [State.group, List.find?_filter]

theorem State.noteFree_groups (s : State) (g : Group) (bs : List Nat) : (s.noteFree g bs).groups = s.groups := by
  unfold State.noteFree
  split <;> rfl

theorem State.islandOff_groups (s : State) (core part : Nat) : (s.islandOff core part).groups = s.groups := by
  unfold State.islandOff
  split <;> rfl

theorem State.followRatio_groups (s : State) : s.followRatio.groups = s.groups := by
  unfold State.followRatio
  dsimp only
  split <;> rfl

theorem State.teamOver_groups (s : State) (tu : Nat) : (s.teamOver tu).groups = s.groups := by
  unfold State.teamOver
  split
  · rfl
  · split
    · rfl
    · simp only [apply_ite State.groups, State.followRatio_groups, State.modTeam_groups, State.modLaunch_groups, ite_self]
      exact s.writeBackTeam_groups tu

/-- A group with no operation in flight leaves. -/
theorem State.reap_group {s : State} {uid : Nat} {g : Group} (hg : s.group uid = some g) (ho : g.ops = []) : (s.reap uid).group uid = none := by
  have hgroups : (s.reap uid).groups = s.groups.filter fun h => h.uid != uid := by
    simp only [State.reap, hg, ho, List.all_nil, if_true]
    rw [State.teamOver_groups, State.islandOff_groups, State.noteFree_groups]
  rw [State.group, hgroups]
  exact s.group_filter_ne uid

/-- An exiting group with no operation in flight, outside deterministic mode, is gone. -/
theorem State.tryExit_group {s : State} {uid : Nat} {g : Group} (hg : s.group uid = some g) (he : g.exiting = true) (ho : g.ops = [])
    (hd : (s.descOf g).det = false) : (s.tryExit uid false).group uid = none := by
  have hexit : s.tryExit uid false = (s.endGroup uid).reap uid := by
    simp only [State.tryExit, hg, he, hd, State.runOps_of_idle hg ho, Group.exitReady, ho]
    rfl
  obtain ⟨g', hg', ho'⟩ := (State.endGroup_opsFrame hg ho).ops hg
  rw [hexit]
  exact State.reap_group hg' (ho'.trans ho)

/-- Retirement keeps the groups and their operations. -/
theorem State.finish_opsFrame (s : State) (b : Group) (k : Nat) (i : Instr) (pc : Option Pc) (fuse : Bool) :
    OpsFrame s (s.finish b k i pc fuse) := by
  obtain ⟨l, t, e⟩ := s.finish_eq b k i pc fuse
  rw [e]
  refine OpsFrame.trans (State.modGroup_opsFrame s b.uid
    (fun g => if fuse && !(s.descOf b).det then (g.retire b k i pc).fuse else g.retire b k i pc) (fun g => ?_) fun g => ?_) (.of_groups rfl)
  · split
    · exact (Group.fuse_uid _).trans (Group.retire_uid g b k i pc)
    · rfl
  · split
    · obtain ⟨w, e⟩ := (g.retire b k i pc).fuse_eq
      rw [e]
      rfl
    · rfl

/-! ### Lanes that end, and rows (R119, R299) -/

/-- Lanes that end change the cores' rays alone. -/
theorem State.endLanes_eq (s : State) (g : Group) (m : Mask) : ∃ cs, s.endLanes g m = { s with cores := cs } := by
  unfold State.endLanes
  split
  · exact ⟨s.cores, rfl⟩
  · refine foldl_relates (R := fun s t => ∃ cs, t = { s with cores := cs }) (fun s => ⟨s.cores, rfl⟩) ?_ (fun s i => ?_) _ s
    · rintro s t u ⟨cs, rfl⟩ ⟨ds, rfl⟩
      exact ⟨ds, rfl⟩
    · split
      · exact ⟨_, rfl⟩
      · exact ⟨s.cores, rfl⟩

/-- Freeing families changes the families alone. -/
theorem Group.freeFams_eq (n : Nat) : ∀ g : Group, ∃ w, g.freeFams n = { g with fams := w } := by
  induction n with
  | zero => exact fun g => ⟨g.fams, rfl⟩
  | succ n ih =>
    intro g
    obtain ⟨w, e⟩ := ih { g with fams := g.fams.zipIdx.map fun (x, f) =>
      if x.used && !(g.rows.any (fun r => r.live && r.parent == f) || g.fams.any fun x => x.used && x.up == f) then Family.free else x }
    exact ⟨w, e⟩

/-- A split that owns no serial record ends: its row is free. -/
theorem Group.endSplit_eq {g : Group} {k : Nat} (h : g.ownsSerial k = false) :
    ∃ w, g.endSplit k = { g.modRow k fun _ => Row.free with fams := w } := by
  obtain ⟨w, e⟩ := Group.freeFams_eq 3 (g.modRow k fun _ => Row.free)
  refine ⟨w, ?_⟩
  unfold Group.endSplit
  rw [← e]
  split
  · rfl
  · rename_i x rest hs
    have ho : x.owner ≠ k := by
      intro ho
      simp [Group.ownsSerial, hs, ho] at h
    exact if_neg ho

theorem Group.row_endSplit {g : Group} {k : Nat} (h : g.ownsSerial k = false) (hk : k < g.rows.length) (j : Nat) :
    (g.endSplit k).row j = if j = k then Row.free else g.row j := by
  obtain ⟨w, e⟩ := Group.endSplit_eq h
  rw [e]
  exact Group.row_modRow g k j _ hk

/-- Beside another live row, some row is live once a split has ended. -/
theorem Group.liveRows_endSplit_ne {g : Group} {k : Nat} (h : g.ownsSerial k = false) (hk : k < g.rows.length)
    (hl : ∃ j, j < 4 ∧ j ≠ k ∧ (g.row j).live = true) : ¬ (g.endSplit k).liveRows.isEmpty = true := by
  obtain ⟨j, h4, hne, hlive⟩ := hl
  have hmem : j ∈ (g.endSplit k).liveRows :=
    List.mem_filter.2 ⟨List.mem_range.2 h4, by rw [Group.row_endSplit h hk, if_neg hne]; exact hlive⟩
  rw [List.isEmpty_iff]
  exact List.ne_nil_of_mem hmem

/-- Where no other row is live, none is once the split has ended. -/
theorem Group.liveRows_endSplit_eq {g : Group} {k : Nat} (h : g.ownsSerial k = false) (hk : k < g.rows.length)
    (hl : ∀ j, j < 4 → j ≠ k → (g.row j).live = false) : (g.endSplit k).liveRows.isEmpty = true := by
  refine List.isEmpty_iff.2 (List.filter_eq_nil_iff.2 fun j hj => ?_)
  rw [Group.row_endSplit h hk]
  split
  · exact Bool.false_ne_true
  · rw [hl j (List.mem_range.1 hj) ‹_›]
    exact Bool.false_ne_true

/-- Retirement of an instruction of row k leaves every other row as it was. -/
theorem Group.row_retire_ne (g b : Group) {k j : Nat} (hne : j ≠ k) (i : Instr) (pc : Option Pc) : (g.retire b k i pc).row j = g.row j := by
  simp [Group.retire_eq, Group.row, List.getD_eq_getElem?_getD, Ne.symm hne]

/-! ### EXIT -/

/-- What EXIT does of a group that holds no section, outside a handler. -/
def exitRes (s : State) (g : Group) (k : Nat) : Res :=
  if (g.endSplit k).liveRows.isEmpty then .done (((s.endLanes g (g.row k).own).putGroup g.stop).tryExit g.uid false)
  else .done ((s.endLanes g (g.row k).own).putGroup (g.endSplit k))

theorem execExit_held {s : State} {g : Group} {k : Nat} (hi : Issues s g k .exit) (h : g.held ≠ []) :
    Traps .exit s g k (trapNum 0x6B g.held.length) := by
  refine hi.concludes (r := .trap (trapNum 0x6B g.held.length)) (if_pos ?_)
  simpa using h

theorem execExit_eq {s : State} {g : Group} {k : Nat} (hi : Issues s g k .exit) (hheld : g.held = []) (hh : g.handler = none) :
    exec .exit s = .next (s.conclude g k .exit (exitRes s g k)) := by
  refine hi.concludes ?_
  simp only [hheld, hh]
  rfl

/-- Beside other live rows, an EXIT frees its row. -/
theorem exit_frees {s : State} {g : Group} {k : Nat} (hi : Issues s g k .exit) (hheld : g.held = []) (hh : g.handler = none)
    (ho : g.ownsSerial k = false) (hl : ∃ j, j < 4 ∧ j ≠ k ∧ (g.row j).live = true) :
    ∃ t h, exec .exit s = .next t ∧ t.group g.uid = some h ∧ h.retired = g.retired + 1 ∧ h.exiting = g.exiting
      ∧ (∀ l, h.vraw l = g.vraw l) ∧ (∀ n, h.sraw n = g.sraw n)
      ∧ (∀ j, j < 4 → j ≠ k → (g.row j).live = true → h.carries (g.row j)) := by
  obtain ⟨hg, hklive⟩ := State.issuer_group hi.1
  have hrow := Group.row_endSplit ho (Group.row_lt hklive)
  have hexec : exec .exit s = .next (((s.endLanes g (g.row k).own).putGroup (g.endSplit k)).finish g k .exit none true) := by
    refine (execExit_eq hi hheld hh).trans ?_
    rw [exitRes, if_neg (Group.liveRows_endSplit_ne ho (Group.row_lt hklive) hl)]
    rfl
  obtain ⟨cs, es⟩ := s.endLanes_eq g (g.row k).own
  obtain ⟨w, eg⟩ := Group.endSplit_eq ho
  have hg1 : ((s.endLanes g (g.row k).own).putGroup (g.endSplit k)).group g.uid = some (g.endSplit k) := by
    refine State.group_putGroup ?_ (by rw [eg]; rfl)
    rw [es]
    exact hg
  obtain ⟨h, hh1, ⟨v, rfl⟩, hcarries⟩ := State.finish_group_carries hg1 k .exit none
  refine ⟨_, _, hexec, hh1, by rw [eg]; rfl, by rw [eg]; rfl, fun l => by rw [eg]; rfl, fun n => by rw [eg]; rfl, fun j _ hne hlive => ?_⟩
  refine hcarries _ ?_
  have hj : ((g.endSplit k).retire g k .exit none).row j = g.row j :=
    (Group.row_retire_ne _ g hne .exit none).trans ((hrow j).trans (if_neg hne))
  rw [← hj]
  exact Group.carries_self (by rw [hj]; exact hlive)

/-- The EXIT of the only row ends the group. -/
theorem exit_ends {s : State} {g : Group} {k : Nat} (hi : Issues s g k .exit) (hheld : g.held = []) (hh : g.handler = none)
    (hs : g.serials = []) (ho : g.ops = []) (hd : (s.descOf g).det = false) (hl : ∀ j, j < 4 → j ≠ k → (g.row j).live = false) :
    ∃ t, exec .exit s = .next t ∧ t.group g.uid = none := by
  obtain ⟨hg, hklive⟩ := State.issuer_group hi.1
  have hexec : exec .exit s = .next ((((s.endLanes g (g.row k).own).putGroup g.stop).tryExit g.uid false).finish g k .exit none true) := by
    refine (execExit_eq hi hheld hh).trans ?_
    rw [exitRes, if_pos (Group.liveRows_endSplit_eq (by simp [Group.ownsSerial, hs]) (Group.row_lt hklive) hl)]
    rfl
  obtain ⟨cs, es⟩ := s.endLanes_eq g (g.row k).own
  have hstop : ((s.endLanes g (g.row k).own).putGroup g.stop).group g.uid = some g.stop := by
    refine State.group_putGroup ?_ rfl
    rw [es]
    exact hg
  have hdet : (((s.endLanes g (g.row k).own).putGroup g.stop).descOf g.stop).det = false := by
    rw [es]
    exact hd
  exact ⟨_, hexec, (State.finish_opsFrame _ g k .exit none true).none (State.tryExit_group hstop rfl ho hdet)⟩

/-- Settles O27: a held section traps; else the split's row is freed, or its group, idle, leaves at once. -/
theorem exitResults : Obligations.ExitResults := fun _ _ _ hi =>
  ⟨execExit_held hi, fun hheld hh ho hl => exit_frees hi hheld hh ho hl, fun hheld hh hs ho hd hl => exit_ends hi hheld hh hs ho hd hl⟩

end Sys2Proof.Machine
end

section
/-! SUPPORT. A write at home read back at home, in DRAM and in the host window (R45, R49, R164, R190); a sparse map in canonical form is
determined by what it reads (log 1); and O35. -/

namespace Sys2Proof.Machine

/-! ### The canonical form is determined by the reads (log 1) -/

section
variable {α : Type} [DecidableEq α]

theorem swfFrom_cons {d : α} {lo k : Nat} {v : α} {m : Sparse α} :
    swfFrom d lo ((k, v) :: m) = true ↔ lo ≤ k ∧ v ≠ d ∧ swfFrom d (k + 1) m = true := by
  simp only [swfFrom, Bool.and_eq_true, decide_eq_true_eq, and_assoc]

/-- Below its bound a canonical map lists nothing. -/
theorem sget_of_lt (d : α) {j : Nat} : ∀ {m : Sparse α} {lo : Nat}, swfFrom d lo m = true → j < lo → sget d m j = d
  | [], _, _, _ => rfl
  | (k, v) :: r, lo, h, hj => by
    obtain ⟨hk, -, hr⟩ := swfFrom_cons.1 h
    rw [sget, if_neg (by omega)]
    exact sget_of_lt d hr (by omega)

/-- So it does below its first key. -/
theorem sget_of_lt_head {d : α} {j lo k : Nat} {v : α} {m : Sparse α} (h : swfFrom d lo ((k, v) :: m) = true) (hj : j < k) :
    sget d ((k, v) :: m) j = d :=
  sget_of_lt d (swfFrom_cons.2 ⟨le_rfl, (swfFrom_cons.1 h).2⟩) hj

/-- At its first key a canonical map reads something other than the default. -/
theorem sget_head_ne {d : α} {lo k : Nat} {v : α} {m : Sparse α} (h : swfFrom d lo ((k, v) :: m) = true) : sget d ((k, v) :: m) k ≠ d := by
  rw [sget, if_pos rfl]
  exact (swfFrom_cons.1 h).2.1

/-- Two canonical maps that read alike at every key are the same list. -/
theorem swfFrom_ext (d : α) : ∀ {m n : Sparse α} {lo lo' : Nat}, swfFrom d lo m = true → swfFrom d lo' n = true →
    (∀ a, sget d m a = sget d n a) → m = n
  | [], [], _, _, _, _, _ => rfl
  | [], (k, _) :: _, _, _, _, hn, h => absurd (h k).symm (sget_head_ne hn)
  | (k, _) :: _, [], _, _, hm, _, h => absurd (h k) (sget_head_ne hm)
  | (k, v) :: m, (k', v') :: n, _, _, hm, hn, h => by
    obtain ⟨-, -, hm'⟩ := swfFrom_cons.1 hm
    obtain ⟨-, -, hn'⟩ := swfFrom_cons.1 hn
    have hk : k = k' := by
      rcases lt_trichotomy k k' with hlt | heq | hgt
      · exact absurd ((h k).trans (sget_of_lt_head hn hlt)) (sget_head_ne hm)
      · exact heq
      · exact absurd ((h k').symm.trans (sget_of_lt_head hm hgt)) (sget_head_ne hn)
    subst k'
    have hv : v = v' := by simpa [sget] using h k
    have htail : ∀ a, sget d m a = sget d n a := fun a => by
      by_cases ha : k = a
      · rw [sget_of_lt d hm' (by omega), sget_of_lt d hn' (by omega)]
      · simpa [sget, ha] using h a
    rw [hv, swfFrom_ext d hm' hn' htail]

end

/-- Two canonical memories that read alike at every address are the same. -/
theorem Memory.ext_read {m n : Memory} (hm : m.wf = true) (hn : n.wf = true) (h : ∀ a, m.read a = n.read a) : m = n :=
  congrArg Memory.mk (swfFrom_ext unlistedByte hm hn h)

/-! ### What a byte written at home leaves (R45, R49, R190) -/

theorem inDram_of_inHost {pa : Nat} (h : inHost pa = true) : inDram pa = false :=
  decide_eq_false (Nat.not_lt.2 (le_trans (by decide) (of_decide_eq_true h)))

theorem State.noteWritten_eq (s : State) (pa : Nat) : ∃ w, s.noteWritten pa = { s with dram := { s.dram with written := w } } := by
  unfold State.noteWritten
  split <;> exact ⟨_, rfl⟩

theorem State.wakeChan_eq (s : State) (pa : Nat) : ∃ c, s.wakeChan pa = { s with dram := { s.dram with chans := c } } := by
  unfold State.wakeChan
  split <;> exact ⟨_, rfl⟩

section
variable {s : State} {pa : Nat}

/-- In DRAM, on a channel in service and outside the generation store: the byte, the regions written and the channels alone. -/
theorem State.physPut_dram (hd : inDram pa = true) (hc : s.chanBad pa = false) (hg : inGen pa = false) (b : Byte) :
    ∃ w c, s.physPut pa b = { s with dram := { s.dram with mem := s.dram.mem.write pa b, written := w, chans := c } } := by
  obtain ⟨w, hw⟩ := State.noteWritten_eq { s with dram := { s.dram with mem := s.dram.mem.write pa b } } pa
  obtain ⟨c, hc'⟩ := State.wakeChan_eq { s with dram := { s.dram with mem := s.dram.mem.write pa b, written := w } } pa
  refine ⟨w, c, ?_⟩
  rw [State.physPut, if_pos hd, if_neg (by simp [hc, hg]), hw, hc']

/-- On a failed channel or in the generation store: nothing (R49, R190). -/
theorem State.physPut_discarded (hd : inDram pa = true) (h : s.chanBad pa = true ∨ inGen pa = true) (b : Byte) : s.physPut pa b = s := by
  rw [State.physPut, if_pos hd, if_pos (by simpa using h)]

/-- In space that nothing backs: nothing (R45). -/
theorem State.physPut_unbacked (hd : inDram pa = false) (hh : inHost pa = false) (b : Byte) : s.physPut pa b = s := by
  simp [State.physPut, hd, hh]

/-- In the host window: the byte of the host's memory and its attributes alone (R45). -/
theorem State.physPut_host (hh : inHost pa = true) (b : Byte) :
    ∃ as, s.physPut pa b = { s with host := { s.host with mem := sset unlistedByte (pa - Config.hostWindow) b s.host.mem, attrs := as } } := by
  refine ⟨sset 0 (pa - Config.hostWindow) 0 s.host.attrs, ?_⟩
  rw [State.physPut, if_neg (by simp [inDram_of_inHost hh]), if_pos hh]

/-! ### What a reader at home finds (R35, R45) -/

theorem State.physByte_dram {q : Nat} (hq : inDram q = true) : s.physByte q = if s.lineBad q then none else some (s.dramByte q) :=
  if_pos hq

theorem State.physByte_host {q : Nat} (hq : inHost q = true) : s.physByte q = some (s.hostByte (q - Config.hostWindow)) := by
  rw [State.physByte, if_neg (by simp [inDram_of_inHost hq]), if_pos hq]
  rfl

theorem State.physByte_unbacked {q : Nat} (hd : inDram q = false) (hh : inHost q = false) : s.physByte q = none := by
  simp [State.physByte, hd, hh]

/-- What a reader at home finds depends on DRAM's byte and its line's errors, and on the host's byte. -/
theorem State.physByte_congr {t : State} {q : Nat} (hl : t.lineBad q = s.lineBad q) (hd : inDram q = true → t.dramByte q = s.dramByte q)
    (hh : inHost q = true → t.hostByte (q - Config.hostWindow) = s.hostByte (q - Config.hostWindow)) : t.physByte q = s.physByte q := by
  cases hdq : inDram q with
  | true => rw [State.physByte_dram hdq, State.physByte_dram hdq, hl, hd hdq]
  | false =>
    cases hhq : inHost q with
    | true => rw [State.physByte_host hhq, State.physByte_host hhq, hh hhq]
    | false => rw [State.physByte_unbacked hdq hhq, State.physByte_unbacked hdq hhq]

/-- A byte written to DRAM is read back where its line is not lost, and no other byte changes (R164). -/
theorem State.physByte_physPut_dram (hd : inDram pa = true) (hc : s.chanBad pa = false) (hg : inGen pa = false) (b : Byte) (q : Nat) :
    (s.physPut pa b).physByte q = if q = pa then (if s.lineBad pa then none else some b) else s.physByte q := by
  obtain ⟨w, c, ht⟩ := State.physPut_dram hd hc hg b
  rw [ht]
  by_cases hq : q = pa
  · subst q
    rw [State.physByte_dram hd, State.dramByte, Memory.read_write_self, if_pos rfl]
    rfl
  · rw [if_neg hq]
    exact State.physByte_congr rfl (fun _ => Memory.read_write_ne _ hq b) fun _ => rfl

/-- A byte written to the host window is read back, and no other byte changes (R45). -/
theorem State.physByte_physPut_host (hh : inHost pa = true) (b : Byte) (q : Nat) :
    (s.physPut pa b).physByte q = if q = pa then some b else s.physByte q := by
  obtain ⟨as, ht⟩ := State.physPut_host (s := s) hh b
  rw [ht]
  by_cases hq : q = pa
  · subst q
    rw [State.physByte_host hh, State.hostByte, sget_sset_self, if_pos rfl]
  · rw [if_neg hq]
    refine State.physByte_congr rfl (fun _ => rfl) fun hhq => sget_sset_ne _ (fun he => hq ?_) b s.host.mem
    exact (tsub_left_inj (of_decide_eq_true hhq) (of_decide_eq_true hh)).1 he
end

/-- Settles O35: by where the address lies, and by the canonical form's extensionality. -/
theorem memoryReadsWhatWasWritten : Obligations.MemoryReadsWhatWasWritten :=
  ⟨fun _ _ q b => ⟨fun hd hc hg => State.physByte_physPut_dram hd hc hg b q, fun hh => State.physByte_physPut_host hh b q,
      fun hd hh => State.physPut_unbacked hd hh b, fun hd h => State.physPut_discarded hd h b, State.physPut_memOk⟩,
    fun _ _ => Memory.ext_read⟩

end Sys2Proof.Machine
end

section
/-! SUPPORT. Exact sums and products as rationals (R226, R227, R356); and O20. -/

namespace Sys2Proof.Machine

/-! ### Exact reals -/

/-- The rational number that an exact real stands for. -/
def fracValue (a : Frac) : ℚ := (a.num : ℚ) / a.den

theorem fracAdd_den_pos {a b : Frac} (ha : 0 < a.den) (hb : 0 < b.den) : 0 < (fracAdd a b).den := Nat.lcm_pos ha hb

/-- Adding over the common denominator is adding. -/
theorem fracValue_fracAdd {a b : Frac} (ha : 0 < a.den) (hb : 0 < b.den) :
    fracValue (fracAdd a b) = fracValue a + fracValue b := by
  have scaled (m : ℤ) {e : Nat} (he : 0 < e) (hd : e ∣ a.den.lcm b.den) :
      (m : ℚ) * ((a.den.lcm b.den / e : Nat) : ℚ) / (a.den.lcm b.den : Nat) = m / e := by
    have hl : ((a.den.lcm b.den : Nat) : ℚ) ≠ 0 := Nat.cast_ne_zero.2 (Nat.lcm_pos ha hb).ne'
    have he' : (e : ℚ) ≠ 0 := Nat.cast_ne_zero.2 he.ne'
    rw [Nat.cast_div hd he']
    field_simp
  have hsum : fracValue (fracAdd a b) = ((a.num : ℚ) * ((a.den.lcm b.den / a.den : Nat) : ℚ)
      + b.num * ((a.den.lcm b.den / b.den : Nat) : ℚ)) / (a.den.lcm b.den : Nat) := by
    simp only [fracValue, fracAdd, Int.cast_add, Int.cast_mul, Int.cast_natCast]
  rw [hsum, add_div, scaled _ ha (Nat.dvd_lcm_left ..), scaled _ hb (Nat.dvd_lcm_right ..)]
  rfl

theorem fracValue_fracOf (s : Bool) (n d : Nat) : fracValue (fracOf s n d) = Claims.value (.fin s n d) := by
  cases s <;> simp [fracValue, fracOf, Claims.value, neg_div]

theorem fracValue_eq_zero {a : Frac} (ha : 0 < a.den) : fracValue a = 0 ↔ a.num = 0 := by
  simp [fracValue, ha.ne']

theorem fracValue_neg {a : Frac} (ha : 0 < a.den) : fracValue a < 0 ↔ a.num < 0 := by
  rw [fracValue, div_lt_iff₀ (Nat.cast_pos.2 ha), zero_mul, Int.cast_lt_zero]

theorem abs_fracValue (a : Frac) : |fracValue a| = (a.num.natAbs : ℚ) / a.den := by
  rw [fracValue, abs_div, Nat.abs_cast, Nat.cast_natAbs, Int.cast_abs]

/-! ### Finite values -/

theorem exists_fin_of_finite {x : FVal} (h : Claims.finite x = true) : ∃ s n d, x = .fin s n d ∧ 0 < d := by
  cases x with
  | fin s n d => exact ⟨s, n, d, rfl, of_decide_eq_true h⟩
  | inf s => cases h
  | nan q => cases h

theorem value_flip {x : FVal} (h : Claims.finite x = true) : Claims.value x.flip = -Claims.value x := by
  obtain ⟨s, n, d, rfl, -⟩ := exists_fin_of_finite h
  cases s <;> simp [FVal.flip, Claims.value]

theorem finite_flip {x : FVal} (h : Claims.finite x = true) : Claims.finite x.flip = true := by
  obtain ⟨s, n, d, rfl, -⟩ := exists_fin_of_finite h
  exact h

/-- The exact product of finite values is finite, is their real product, and is negative where their signs differ (R227). -/
theorem mulVal_finite {a b : FVal} (ha : Claims.finite a = true) (hb : Claims.finite b = true) :
    Claims.finite (mulVal a b) = true ∧ Claims.value (mulVal a b) = Claims.value a * Claims.value b
      ∧ (mulVal a b).neg = (a.neg != b.neg) := by
  obtain ⟨s, n, d, rfl, hd⟩ := exists_fin_of_finite ha
  obtain ⟨t, k, e, rfl, he⟩ := exists_fin_of_finite hb
  refine ⟨decide_eq_true (Nat.mul_pos hd he), ?_, rfl⟩
  cases s <;> cases t <;> simp [mulVal, Claims.value, div_mul_div_comm]

/-! ### Sums (R226, R227) -/

/-- One addend of an exact sum: what is no number leaves it as it is. -/
def addVal (acc : Frac) : FVal → Frac
  | .fin s n d => fracAdd acc (fracOf s n d)
  | _ => acc

theorem addVal_finite {acc : Frac} (h : 0 < acc.den) {x : FVal} (hx : Claims.finite x = true) :
    0 < (addVal acc x).den ∧ fracValue (addVal acc x) = fracValue acc + Claims.value x := by
  obtain ⟨s, n, d, rfl, hd⟩ := exists_fin_of_finite hx
  have hf : 0 < (fracOf s n d).den := hd
  exact ⟨fracAdd_den_pos h hf, by rw [addVal, fracValue_fracAdd h hf, fracValue_fracOf]⟩

theorem foldl_addVal {xs : List FVal} (hx : ∀ x ∈ xs, Claims.finite x = true) {acc : Frac} (h : 0 < acc.den) :
    0 < (xs.foldl addVal acc).den ∧ fracValue (xs.foldl addVal acc) = fracValue acc + (xs.map Claims.value).sum := by
  induction xs generalizing acc with
  | nil => simpa using h
  | cons x xs ih =>
    obtain ⟨hden, hval⟩ := addVal_finite h (hx x List.mem_cons_self)
    obtain ⟨hden', hval'⟩ := ih (fun y hy => hx y (List.mem_cons_of_mem _ hy)) hden
    exact ⟨hden', by rw [List.foldl_cons, hval', hval, List.map_cons, List.sum_cons, add_assoc]⟩

/-- The sign of a sum that is exactly 0 (R227). -/
def zeroSign (m : Rm) (xs : List FVal) : Bool :=
  if xs ≠ [] ∧ ∀ x ∈ xs, x.isZero = true ∧ x.neg = true then true
  else if ∀ x ∈ xs, x.isZero = true ∧ x.neg = false then false else decide (m = .rd)

/-- The exact sum of any values, its addends taken by addVal. -/
theorem sumExact_eq (m : Rm) (xs : List FVal) : sumExact m xs =
    (let t := xs.foldl addVal ⟨0, 1⟩
     if t.num = 0 then (zeroSign m xs, 0, 1) else (decide (t.num < 0), t.num.natAbs, t.den)) := by
  have hneg : ((xs.all (fun v => v.isZero && v.neg) && !xs.isEmpty) = true)
      ↔ (xs ≠ [] ∧ ∀ x ∈ xs, x.isZero = true ∧ x.neg = true) := by
    simp [and_comm]
  have hpos : (xs.all (fun v => v.isZero && !v.neg) = true) ↔ ∀ x ∈ xs, x.isZero = true ∧ x.neg = false := by
    simp
  unfold sumExact zeroSign
  simp only [hneg, hpos]
  change (if (xs.foldl addVal ⟨0, 1⟩).num = 0 then _ else _) = _
  by_cases h0 : (xs.foldl addVal ⟨0, 1⟩).num = 0
  · rw [if_pos h0, if_pos h0]
    split_ifs <;> rfl
  · rw [if_neg h0, if_neg h0]
    rfl

/-- A sum of finite values rounds the exact sum. -/
theorem Fmt.sum_of_finite (t : Fmt) (m : Rm) {xs : List FVal} (hx : ∀ x ∈ xs, Claims.finite x = true) :
    t.sum m xs = t.roundTo m (sumExact m xs).1 (sumExact m xs).2.1 (sumExact m xs).2.2 := by
  have hnan : xs.any FVal.isNan = false := List.any_eq_false.2 fun x h => by
    obtain ⟨s, n, d, rfl, -⟩ := exists_fin_of_finite (hx x h)
    simp [FVal.isNan]
  have hinf : xs.find? FVal.isInf = none := List.find?_eq_none.2 fun x h => by
    obtain ⟨s, n, d, rfl, -⟩ := exists_fin_of_finite (hx x h)
    simp [FVal.isInf]
  have hno (s : Bool) : FVal.inf s ∉ xs := fun h => by cases hx _ h
  have hboth : bothInf xs = false := by simp [bothInf, hno]
  simp only [Fmt.sum, hnan, hboth, hinf, Bool.false_eq_true, if_false]

theorem Fmt.roundTo_zero (t : Fmt) (m : Rm) (neg : Bool) (d : Nat) : t.roundTo m neg 0 d = (t.withSign neg 0, noFlag) := rfl

/-- A sum that is not 0 is rounded once from the exact number (R226). -/
theorem Fmt.sum_of_ne_zero (t : Fmt) (m : Rm) {xs : List FVal} (hx : ∀ x ∈ xs, Claims.finite x = true)
    (hne : (xs.map Claims.value).sum ≠ 0) : ∃ n d : Nat, 0 < d ∧ (n : ℚ) / d = |(xs.map Claims.value).sum|
      ∧ t.sum m xs = t.roundTo m (decide ((xs.map Claims.value).sum < 0)) n d := by
  obtain ⟨hden, hval⟩ := foldl_addVal hx (acc := ⟨0, 1⟩) Nat.one_pos
  have hval : fracValue (xs.foldl addVal ⟨0, 1⟩) = (xs.map Claims.value).sum := by simpa [fracValue] using hval
  rw [← hval] at hne ⊢
  refine ⟨_, _, hden, (abs_fracValue _).symm, ?_⟩
  have hnum := (fracValue_eq_zero hden).not.1 hne
  simp only [t.sum_of_finite m hx, sumExact_eq, if_neg hnum, fracValue_neg hden]

/-- A sum that is 0 takes its sign by R227 and sets no flag. -/
theorem Fmt.sum_of_eq_zero (t : Fmt) (m : Rm) {xs : List FVal} (hx : ∀ x ∈ xs, Claims.finite x = true)
    (h0 : (xs.map Claims.value).sum = 0) : t.sum m xs = (t.withSign (zeroSign m xs) 0, noFlag) := by
  obtain ⟨hden, hval⟩ := foldl_addVal hx (acc := ⟨0, 1⟩) Nat.one_pos
  have hnum := (fracValue_eq_zero hden).1 (by rw [hval, h0]; simp [fracValue])
  simp only [t.sum_of_finite m hx, sumExact_eq, if_pos hnum, t.roundTo_zero]

/-! ### The fused product and sum (R356) -/

theorem finite_flipIf {x : FVal} (h : Claims.finite x = true) (b : Bool) :
    Claims.finite (if b then x.flip else x) = true ∧ Claims.value (if b then x.flip else x) = (if b then -1 else 1) * Claims.value x := by
  cases b
  · simpa using h
  · simpa using ⟨finite_flip h, value_flip h⟩

/-- Settles O20: the fold of the addends keeps their real sum, and the fused product and sum is a sum of two finite values. -/
theorem sumsAndProductsAreExact : Obligations.SumsAndProductsAreExact := by
  refine ⟨fun t m xs hx => ⟨t.sum_of_ne_zero m hx, t.sum_of_eq_zero m hx⟩, fun a b => mulVal_finite, fun t m np nc a b c ha hb hc => ?_⟩
  obtain ⟨hfin, hval, -⟩ := mulVal_finite ha hb
  obtain ⟨hp, hpv⟩ := finite_flipIf hfin np
  obtain ⟨hq, hqv⟩ := finite_flipIf hc nc
  have h := t.sum_of_ne_zero m (xs := [if np then (mulVal a b).flip else mulVal a b, if nc then c.flip else c]) (by simp [hp, hq])
  simp only [List.map_cons, List.map_nil, List.sum_cons, List.sum_nil, add_zero, hpv, hqv, hval] at h
  exact h

end Sys2Proof.Machine
end

section
/-! SUPPORT. RAND: Mix on numbers, and two vector destinations written one after the other (R160, R242, R363); and O17. -/

namespace Sys2Proof.Machine

/-! ### Mix (R242) -/

theorem toNat_xorShift_mul (x c : Dword) (r : Nat) :
    ((x ^^^ (x >>> r)) * c).toNat = (x.toNat ^^^ (x.toNat / 2 ^ r)) * c.toNat % 2 ^ 64 := by
  rw [BitVec.toNat_mul, BitVec.toNat_xor, BitVec.toNat_ushiftRight, Nat.shiftRight_eq_div_pow]

theorem toNat_add_mul (x key c : Dword) : (x + key * c).toNat = (x.toNat + key.toNat * c.toNat) % 2 ^ 64 := by
  rw [BitVec.toNat_add, BitVec.toNat_mul, Nat.add_mod_mod]

/-- Mix on words is Mix on their numbers. -/
theorem toNat_mix (key ctr : Dword) : (mix key ctr).toNat = Claims.mixRounds key.toNat ctr.toNat := by
  unfold mix Claims.mixRounds
  rw [BitVec.toNat_xor, BitVec.toNat_ushiftRight, Nat.shiftRight_eq_div_pow, BitVec.toNat_mul, BitVec.toNat_xor, toNat_xorShift_mul,
    toNat_xorShift_mul, toNat_add_mul]
  simp only [BitVec.reduceToNat]
theorem mix_eq_ofNat (key ctr : Dword) (l : Nat) :
    mix key (ctr + BitVec.ofNat 64 l) = BitVec.ofNat 64 (Claims.mixRounds key.toNat ((ctr.toNat + l) % 2 ^ 64)) := by
  have h := toNat_mix key (ctr + BitVec.ofNat 64 l)
  rw [BitVec.toNat_add, BitVec.toNat_ofNat, Nat.add_mod_mod] at h
  rw [← h, BitVec.ofNat_toNat, BitVec.setWidth_eq]

/-! ### What a vector write leaves of its group -/

theorem Group.writeReg_handler_isSome (s : State) (g : Group) (l : Nat) (mask : Mask) (f : Nat → Word) :
    (g.writeReg s l mask f).handler.isSome = g.handler.isSome := by
  simpa using congrArg Option.isSome (g.writeReg_handler s l mask f)

theorem Group.writeReg_wb (s : State) (g : Group) (l : Nat) (mask : Mask) (f : Nat → Word) : (g.writeReg s l mask f).wb = g.wb := by
  obtain ⟨r, x, o, e⟩ := g.writeReg_eq s l mask f
  rw [e]

theorem Group.vreg_eq (g : Group) (n : Nat) :
    g.vreg n = if g.handler.isSome then (if n < 16 then 1024 + n else g.wb + (n - 16)) else g.wb + n := by
  unfold Group.vreg
  cases g.handler <;> rfl

/-- Operands name the registers that they named before. -/
@[simp] theorem Group.vreg_writeReg (s : State) (g : Group) (l : Nat) (mask : Mask) (f : Nat → Word) (n : Nat) :
    (g.writeReg s l mask f).vreg n = g.vreg n := by
  rw [Group.vreg_eq, Group.vreg_eq, g.writeReg_handler_isSome, g.writeReg_wb]

@[simp] theorem Group.vregOk_writeReg (s : State) (g : Group) (l : Nat) (mask : Mask) (f : Nat → Word) (j : Nat) :
    (g.writeReg s l mask f).vregOk j = g.vregOk j := by
  unfold Group.vregOk
  rw [g.writeReg_handler_isSome]
  obtain ⟨r, x, o, e⟩ := g.writeReg_eq s l mask f
  rw [e]
  rfl

/-- The marks of late writes are no destinations. -/
theorem any_contest (vec : Bool) (l : Nat) (mask : Mask) (own : Nat → Word) (ops : List Op) (p : List (Bool × Nat) → Bool) :
    ((contest vec l mask own ops).any fun o => p o.dests) = ops.any fun o => p o.dests := by
  rw [contest, List.any_map]
  rfl

/-- What is pending stays pending. -/
@[simp] theorem Group.isPending_writeReg (s : State) (g : Group) (l : Nat) (mask : Mask) (f : Nat → Word) (vec : Bool) (j : Nat) :
    (g.writeReg s l mask f).isPending vec j = g.isPending vec j := by
  have hput (v : Lanes) : (g.vput l v).ops = g.ops := by
    obtain ⟨r, x, e⟩ := g.vput_eq l v
    rw [e]
  unfold Group.writeReg Group.isPending
  split
  · simp only [any_contest (p := fun ds => ds.contains (vec, j)), hput]
  · rw [hput]

theorem Group.laneOf_writeReg (s : State) (g : Group) {l : Nat} (hl : g.vregOk l = true) (mask : Mask) (f : Nat → Word)
    (hp : g.isPending true l = false) {i : Nat} (hi : i < 96) (hm : mask.getLsbD i = true) :
    laneOf ((g.writeReg s l mask f).vraw l) i = f i := by
  rw [g.vraw_writeReg s hl mask f hp, laneOf_mergeLanes _ _ _ hi, if_pos hm]

/-- Neighbouring operands name different registers, also at the end of a handler's trap frame (R138, R151). -/
theorem Group.vreg_succ_ne {g : Group} (hw : g.wb < 1024) (n : Nat) : g.vreg (n + 1) ≠ g.vreg n := by
  rw [Group.vreg_eq, Group.vreg_eq]
  split_ifs <;> omega

/-! ### RAND -/

/-- The value of lane l in a RAND (R242). -/
def Group.randLane (g : Group) (l : Nat) : Dword :=
  ((List.range 96).map fun l => mix g.randKey (g.randCtr + BitVec.ofNat 64 l)).getD l 0

theorem Group.randLane_eq (g : Group) {l : Nat} (hl : l < 96) :
    g.randLane l = BitVec.ofNat 64 (Claims.mixRounds g.randKey.toNat ((g.randCtr.toNat + l) % 2 ^ 64)) := by
  rw [← mix_eq_ofNat]
  simp [Group.randLane, hl]

/-- The group when RAND has written the low words to vD. -/
def Group.randLow (g : Group) (s : State) (k : Nat) (v : VOps) : Group :=
  g.writeV s v.d.toNat (g.row k).mask fun l => (g.randLane l).extractLsb' 0 32

/-- The group when RAND has written all its destinations. -/
def Group.randBoth (g : Group) (s : State) (k : Nat) (v : VOps) : Group :=
  if v.mod == 1 then (g.randLow s k v).writeV s (v.d.toNat + 1) (g.row k).mask fun l => (g.randLane l).extractLsb' 32 32 else g.randLow s k v

theorem exec_rand (v : VOps) (s : State) :
    exec (.rand v) s = issue (.rand v) s fun g k => keep s { g.randBoth s k v with randCtr := g.randCtr + 96 } := rfl

theorem Group.randBoth_low {v : VOps} (hm : v.mod ≠ 1) (g : Group) (s : State) (k : Nat) : g.randBoth s k v = g.randLow s k v :=
  if_neg (by simpa using hm)

theorem Group.randBoth_high {v : VOps} (hm : v.mod = 1) (g : Group) (s : State) (k : Nat) :
    g.randBoth s k v = (g.randLow s k v).writeReg s (g.vreg (v.d.toNat + 1)) (g.row k).mask fun l => (g.randLane l).extractLsb' 32 32 := by
  rw [Group.randBoth, if_pos (by simpa using hm), Group.writeV, Group.randLow, Group.writeV, Group.vreg_writeReg]

theorem Group.randBoth_eq (g : Group) (s : State) (k : Nat) (v : VOps) :
    ∃ r x o, g.randBoth s k v = { g with vregs := r, handler := x, ops := o } := by
  obtain ⟨r, x, o, e⟩ := g.writeV_eq s v.d.toNat (g.row k).mask fun l => (g.randLane l).extractLsb' 0 32
  by_cases hm : v.mod = 1
  · obtain ⟨r', x', o', e'⟩ := (g.randLow s k v).writeReg_eq s (g.vreg (v.d.toNat + 1)) (g.row k).mask fun l => (g.randLane l).extractLsb' 32 32
    exact ⟨r', x', o', by rw [Group.randBoth_high hm, e', Group.randLow, e]⟩
  · exact ⟨r, x, o, by rw [Group.randBoth_low hm, Group.randLow, e]⟩

theorem mem_uses_rand {v : VOps} {j : Nat} (hj : j < if v.mod == 0 then 1 else 2) :
    v.d.toNat + j ∈ (Instr.rand v).uses.vr ++ (Instr.rand v).uses.vw :=
  List.mem_append_right _ (List.mem_append_right _ (List.mem_map_of_mem (List.mem_range.2 hj)))

/-- The destinations of a RAND that passes the checks exist. -/
theorem rand_vregOk {s : State} {g : Group} {k : Nat} {v : VOps} (h : s.precheck g k (.rand v) = none) :
    g.vregOk (g.vreg v.d.toNat) = true ∧ (v.mod = 1 → g.vregOk (g.vreg (v.d.toNat + 1)) = true) := by
  refine ⟨precheck_vregOk h (mem_uses_rand (j := 0) ?_), fun hm => precheck_vregOk h (mem_uses_rand (j := 1) ?_)⟩
  · split_ifs <;> decide
  · rw [hm]
    decide

section
variable {s : State} {g : Group} {k : Nat} {v : VOps} (hw : g.wb < 1024) (hc : s.precheck g k (.rand v) = none)
include hw

/-- The first destination is not touched by the write of the second. -/
theorem Group.vraw_randBoth_low : (g.randBoth s k v).vraw (g.vreg v.d.toNat) = (g.randLow s k v).vraw (g.vreg v.d.toNat) := by
  by_cases hm : v.mod = 1
  · rw [Group.randBoth_high hm, Group.vraw_writeReg_ne _ _ (Group.vreg_succ_ne hw _).symm]
  · rw [Group.randBoth_low hm]

include hc

/-- Inactive lanes keep their contents (R242). -/
theorem Group.randBoth_inactive {l : Nat} (hl : l < 96) (hm : (g.row k).mask.getLsbD l = false) :
    laneOf ((g.randBoth s k v).vraw (g.vreg v.d.toNat)) l = laneOf (g.vraw (g.vreg v.d.toNat)) l
      ∧ laneOf ((g.randBoth s k v).vraw (g.vreg (v.d.toNat + 1))) l = laneOf (g.vraw (g.vreg (v.d.toNat + 1))) l := by
  obtain ⟨hd, he⟩ := rand_vregOk hc
  have hlow : (g.randLow s k v).vraw (g.vreg (v.d.toNat + 1)) = g.vraw (g.vreg (v.d.toNat + 1)) :=
    g.vraw_writeReg_ne s (Group.vreg_succ_ne hw _) _ _
  refine ⟨?_, ?_⟩
  · rw [Group.vraw_randBoth_low hw]
    exact g.vraw_writeReg_inactive s hd _ _ hl hm
  · by_cases h1 : v.mod = 1
    · rw [Group.randBoth_high h1, Group.vraw_writeReg_inactive s _ ?_ _ _ hl hm, hlow]
      rw [Group.randLow, Group.writeV, Group.vregOk_writeReg, he h1]
    · rw [Group.randBoth_low h1, hlow]

/-- Each active lane of vD takes the low word of its value, where no late write to vD is outstanding (R242, R160). -/
theorem Group.randBoth_active_low (hp : g.isPending true (g.vreg v.d.toNat) = false) {l : Nat} (hl : l < 96)
    (hm : (g.row k).mask.getLsbD l = true) :
    laneOf ((g.randBoth s k v).vraw (g.vreg v.d.toNat)) l = (g.randLane l).extractLsb' 0 32 := by
  rw [Group.vraw_randBoth_low hw]
  exact g.laneOf_writeReg s (rand_vregOk hc).1 _ _ hp hl hm

omit hw in
/-- The form of 64 bits gives the next register the high words. -/
theorem Group.randBoth_active_high (h1 : v.mod = 1) (hp : g.isPending true (g.vreg (v.d.toNat + 1)) = false) {l : Nat} (hl : l < 96)
    (hm : (g.row k).mask.getLsbD l = true) :
    laneOf ((g.randBoth s k v).vraw (g.vreg (v.d.toNat + 1))) l = (g.randLane l).extractLsb' 32 32 := by
  rw [Group.randBoth_high h1, Group.laneOf_writeReg s _ ?_ _ _ ?_ hl hm]
  · rw [Group.randLow, Group.writeV, Group.vregOk_writeReg, (rand_vregOk hc).2 h1]
  · rw [Group.randLow, Group.writeV, Group.isPending_writeReg, hp]

omit hw hc in
/-- No other vector register changes. -/
theorem Group.vraw_randBoth_ne {l : Nat} (hd : l ≠ g.vreg v.d.toNat) (he : v.mod ≠ 1 ∨ l ≠ g.vreg (v.d.toNat + 1)) :
    (g.randBoth s k v).vraw l = g.vraw l := by
  have hlow : (g.randLow s k v).vraw l = g.vraw l := g.vraw_writeReg_ne s hd _ _
  by_cases h1 : v.mod = 1
  · rw [Group.randBoth_high h1, Group.vraw_writeReg_ne s _ (he.resolve_left (not_not.2 h1)), hlow]
  · rw [Group.randBoth_low h1, hlow]
end

/-- Settles O17: RAND retires the group in which both destinations have been written, with its counter advanced. -/
theorem randomResults : Obligations.RandomResults := by
  intro s g k v hw hi
  obtain ⟨hissuer, hc⟩ := hi
  obtain ⟨r, x, o, e⟩ := g.randBoth_eq s k v
  obtain ⟨h, hret, w, rr, sp, rg, eh⟩ := retired_finish (i := .rand v) (g' := { g.randBoth s k v with randCtr := g.randCtr + 96 }) hissuer
    (by rw [e]) (by rw [e]) (fun j => by rw [e]; rfl) rfl (g.nextPc k (.rand v))
  have hrow : ({ g.randBoth s k v with randCtr := g.randCtr + 96 } : Group).row k = g.row k := by rw [e]; rfl
  have hvraw (l : Nat) : h.vraw l = (g.randBoth s k v).vraw l := by rw [eh]; rfl
  have hexec := (exec_rand v s).trans (issue_body hissuer hc _)
  rw [hrow] at hret
  have ⟨_, _, _, _, quiet⟩ := hret
  refine ⟨_, h, hexec, quiet.sameMemory, hret, ?_, ?_, fun n => ?_, fun l hl hm => ?_, fun hp l hl hm => ?_, fun h1 hp l hl hm => ?_,
    fun l hd he => ?_⟩
  · rw [eh, BitVec.ofNat_add, BitVec.ofNat_toNat, BitVec.setWidth_eq]
    rfl
  · rw [eh, e]
  · rw [eh, e]
    rfl
  · rw [hvraw, hvraw]
    exact Group.randBoth_inactive hw hc hl hm
  · rw [hvraw, Group.randBoth_active_low hw hc hp hl hm, g.randLane_eq hl]
  · rw [hvraw, Group.randBoth_active_high hc h1 hp hl hm, g.randLane_eq hl]
  · rw [hvraw, Group.vraw_randBoth_ne hd he]

end Sys2Proof.Machine
end

section
/-! SUPPORT. Formats (R222, R223, R226): the binade of a number, the number in steps of its binade, and the value of a pattern. -/

namespace Sys2Proof.Machine

/-! ### Powers of two -/

theorem scale2_value (n d : Nat) (k : ℤ) : ((scale2 n d k).1 : ℚ) / (scale2 n d k).2 = n / d * 2 ^ k := by
  unfold scale2
  split_ifs with h
  · obtain ⟨j, rfl⟩ := Int.eq_ofNat_of_zero_le h
    simp [Nat.shiftLeft_eq, mul_div_right_comm]
  · obtain ⟨j, rfl⟩ := Int.exists_eq_neg_ofNat (le_of_not_ge h)
    simp [Nat.shiftLeft_eq, div_eq_mul_inv]
    ring

theorem scale2_den_pos (n : Nat) {d : Nat} (hd : 0 < d) (k : ℤ) : 0 < (scale2 n d k).2 := by
  unfold scale2
  split_ifs
  · exact hd
  · rw [Nat.shiftLeft_eq]
    positivity

theorem scale2_zero (d : Nat) (k : ℤ) : (scale2 0 d k).1 = 0 := by
  unfold scale2
  split_ifs <;> simp

theorem scale2_pos {n : Nat} (hn : 0 < n) (d : Nat) (k : ℤ) : 0 < (scale2 n d k).1 := by
  unfold scale2
  split_ifs
  · rw [Nat.shiftLeft_eq]
    positivity
  · exact hn

theorem ratio_pos {n d : Nat} (hn : 0 < n) (hd : 0 < d) : (0 : ℚ) < n / d := div_pos (Nat.cast_pos.2 hn) (Nat.cast_pos.2 hd)

/-- The quotient of two numbers lies within one binade of the quotient of their leading powers of two. -/
theorem log_div_mem {n d : Nat} (hn : 0 < n) (hd : 0 < d) :
    (Nat.log2 n : ℤ) - Nat.log2 d - 1 ≤ Int.log 2 ((n : ℚ) / d) ∧ Int.log 2 ((n : ℚ) / d) < (Nat.log2 n : ℤ) - Nat.log2 d + 1 := by
  have hr := ratio_pos hn hd
  have hd' : (0 : ℚ) < d := Nat.cast_pos.2 hd
  have hle {m : Nat} (hm : 0 < m) : (2 : ℚ) ^ Nat.log2 m ≤ m := by exact_mod_cast Nat.log2_self_le hm.ne'
  have hlt (m : Nat) : (m : ℚ) < 2 ^ (Nat.log2 m + 1) := by exact_mod_cast Nat.lt_log2_self
  rw [← Int.zpow_le_iff_le_log one_lt_two hr, ← Int.lt_zpow_iff_log_lt one_lt_two hr,
    le_div_iff₀ hd', div_lt_iff₀ hd', Nat.cast_ofNat]
  have two : (2 : ℚ) ≠ 0 := two_ne_zero
  constructor
  · calc (2 : ℚ) ^ ((Nat.log2 n : ℤ) - Nat.log2 d - 1) * d
        ≤ 2 ^ ((Nat.log2 n : ℤ) - Nat.log2 d - 1) * 2 ^ (Nat.log2 d + 1) := by gcongr; exact (hlt d).le
      _ = 2 ^ Nat.log2 n := by rw [← zpow_natCast, ← zpow_natCast, ← zpow_add₀ two]; congr 1; push_cast; ring
      _ ≤ n := hle hn
  · calc (n : ℚ) < 2 ^ (Nat.log2 n + 1) := hlt n
      _ = 2 ^ ((Nat.log2 n : ℤ) - Nat.log2 d + 1) * 2 ^ Nat.log2 d := by
        rw [← zpow_natCast, ← zpow_natCast, ← zpow_add₀ two]; congr 1; push_cast; ring
      _ ≤ 2 ^ ((Nat.log2 n : ℤ) - Nat.log2 d + 1) * d := by gcongr; exact hle hd

theorem floorLog2_eq_log {n d : Nat} (hn : 0 < n) (hd : 0 < d) : floorLog2 n d = Int.log 2 ((n : ℚ) / d) := by
  obtain ⟨hlo, hhi⟩ := log_div_mem hn hd
  have hr := ratio_pos hn hd
  have test (k : ℤ) : (scale2 1 1 k).1 * d ≤ n * (scale2 1 1 k).2 ↔ k ≤ Int.log 2 ((n : ℚ) / d) := by
    have hv := scale2_value 1 1 k
    rw [Nat.cast_one, div_one, one_mul] at hv
    rw [← Int.zpow_le_iff_le_log one_lt_two hr, Nat.cast_ofNat, ← hv,
      div_le_div_iff₀ (Nat.cast_pos.2 (scale2_den_pos 1 Nat.one_pos k)) (Nat.cast_pos.2 hd)]
    exact_mod_cast Iff.rfl
  unfold floorLog2
  simp only [test]
  split_ifs with h <;> omega

/-! ### Binades (R222, R226) -/

/-- The value of one step of binade k: the subnormals and the smallest normals are binade 0. -/
def Fmt.unit (f : Fmt) (k : Nat) : ℚ := 2 ^ ((k : ℤ) + f.emin - f.fb)

theorem Fmt.unit_pos (f : Fmt) (k : Nat) : 0 < f.unit k := zpow_pos two_pos _

/-- 2^(fb + j) steps of binade k. -/
theorem Fmt.two_pow_mul_unit (f : Fmt) (j k : Nat) : (2 : ℚ) ^ (f.fb + j) * f.unit k = 2 ^ ((k : ℤ) + f.emin + j) := by
  rw [Fmt.unit, ← zpow_natCast, ← zpow_add₀ two_ne_zero]
  congr 1
  push_cast
  ring

theorem Fmt.unit_mono (f : Fmt) {j k : Nat} (h : j ≤ k) : f.unit j ≤ f.unit k :=
  zpow_le_zpow_right₀ one_le_two (by omega)

theorem Fmt.unit_succ (f : Fmt) (k : Nat) : f.unit (k + 1) = 2 * f.unit k := by
  rw [Fmt.unit, Fmt.unit, ← zpow_one_add₀ two_ne_zero]
  congr 1
  push_cast
  ring

/-- q steps of binade k are what the binade holds: fewer than 2^(fb + 1), and above binade 0 at least 2^fb. -/
def Fmt.inBinade (f : Fmt) (q : ℚ) (k : Nat) : Prop := q < 2 ^ (f.fb + 1) ∧ (k ≠ 0 → 2 ^ f.fb ≤ q)

/-- The binade in which n / d is rounded. -/
def Fmt.binade (f : Fmt) (n d : Nat) : Nat := (max (floorLog2 n d) f.emin - f.emin).toNat

/-- n / d in steps of its binade. -/
def Fmt.scaled (f : Fmt) (n d : Nat) : Nat × Nat := scale2 n d (f.fb - max (floorLog2 n d) f.emin)

theorem Fmt.binade_add_emin (f : Fmt) (n d : Nat) : (f.binade n d : ℤ) + f.emin = max (floorLog2 n d) f.emin := by
  unfold Fmt.binade
  omega

section
variable (f : Fmt) {n d : Nat} (hn : 0 < n) (hd : 0 < d)
include hd

theorem Fmt.scaled_den_pos : 0 < (f.scaled n d).2 := scale2_den_pos n hd _

omit hd in
theorem Fmt.scaled_mul_unit : ((f.scaled n d).1 : ℚ) / (f.scaled n d).2 * f.unit (f.binade n d) = n / d := by
  rw [Fmt.scaled, scale2_value, Fmt.unit, f.binade_add_emin, mul_assoc, ← zpow_add₀ two_ne_zero, sub_add_sub_cancel', sub_self, zpow_zero, mul_one]

include hn

/-- Where q steps of binade k are n / d and the binade holds them, it is the binade of n / d. -/
theorem Fmt.binade_eq {q : ℚ} {k : Nat} (hq : f.inBinade q k) (h : q * f.unit k = n / d) : f.binade n d = k := by
  obtain ⟨hlt, hle⟩ := hq
  have hr := ratio_pos hn hd
  have hup : Int.log 2 ((n : ℚ) / d) < (k : ℤ) + f.emin + 1 := by
    rw [← Int.lt_zpow_iff_log_lt one_lt_two hr, Nat.cast_ofNat, ← h, ← Nat.cast_one (R := ℤ), ← f.two_pow_mul_unit]
    exact mul_lt_mul_of_pos_right hlt (f.unit_pos k)
  have hdown (hk : k ≠ 0) : (k : ℤ) + f.emin ≤ Int.log 2 ((n : ℚ) / d) := by
    rw [← Int.zpow_le_iff_le_log one_lt_two hr, Nat.cast_ofNat, ← h, ← add_zero ((k : ℤ) + f.emin), ← Nat.cast_zero (R := ℤ),
      ← f.two_pow_mul_unit]
    exact mul_le_mul_of_nonneg_right (hle hk) (f.unit_pos k).le
  have hk := f.binade_add_emin n d
  rw [floorLog2_eq_log hn hd] at hk
  by_cases h0 : k = 0
  · omega
  · have := hdown h0
    omega

/-- The steps of n / d lie in its binade. -/
theorem Fmt.inBinade_scaled : f.inBinade ((f.scaled n d).1 / (f.scaled n d).2) (f.binade n d) := by
  have hr := ratio_pos hn hd
  have hu := f.unit_pos (f.binade n d)
  have hk := f.binade_add_emin n d
  rw [floorLog2_eq_log hn hd] at hk
  constructor
  · rw [← mul_lt_mul_iff_left₀ hu, f.scaled_mul_unit, f.two_pow_mul_unit, ← Nat.cast_ofNat (R := ℚ), Int.lt_zpow_iff_log_lt one_lt_two hr]
    push_cast
    omega
  · intro h0
    rw [← mul_le_mul_iff_left₀ hu, f.scaled_mul_unit, ← add_zero f.fb, f.two_pow_mul_unit, ← Nat.cast_ofNat (R := ℚ),
      Int.zpow_le_iff_le_log one_lt_two hr]
    push_cast
    omega
end

/-! ### Patterns (R222, R223) -/

theorem Fmt.infBits_eq (f : Fmt) : f.infBits = (2 ^ f.eb - 1) * 2 ^ f.fb := Nat.shiftLeft_eq ..

theorem Fmt.infBits_lt (f : Fmt) : f.infBits < 2 ^ (f.eb + f.fb) := by
  rw [f.infBits_eq, pow_add]
  exact Nat.mul_lt_mul_of_pos_right (Nat.sub_lt (Nat.two_pow_pos _) Nat.one_pos) (Nat.two_pow_pos _)

section
variable {f : Fmt} {m : Nat} (hm : m < 2 ^ (f.eb + f.fb))
include hm

theorem Fmt.mag_withSign (neg : Bool) : f.mag (f.withSign neg m) = m := by
  cases neg <;> simp [Fmt.mag, Fmt.withSign, Nat.mod_eq_of_lt hm]

theorem Fmt.sign_withSign (neg : Bool) : f.sign (f.withSign neg m) = neg := by
  cases neg
  · exact Nat.testBit_lt_two_pow hm
  · rw [Fmt.sign, Fmt.withSign, if_pos rfl, Nat.add_comm, Nat.testBit_two_pow_add_eq, Nat.testBit_lt_two_pow hm]
    rfl

theorem Fmt.mag_of_lt : f.mag m = m := Nat.mod_eq_of_lt hm

theorem Fmt.sign_of_lt : f.sign m = false := Nat.testBit_lt_two_pow hm
end

/-- A pattern and its magnitude have the same fraction. -/
theorem Fmt.mag_mod (f : Fmt) (x : Nat) : x % 2 ^ f.fb = f.mag x % 2 ^ f.fb :=
  (Nat.mod_mod_of_dvd x (pow_dvd_pow 2 (Nat.le_add_left ..))).symm

/-- A pattern is its magnitude with its sign. -/
theorem Fmt.withSign_sign_mag {f : Fmt} {x : Nat} (hx : x < 2 ^ f.width) : f.withSign (f.sign x) (f.mag x) = x := by
  have hdiv : x / 2 ^ (f.eb + f.fb) < 2 := by
    refine Nat.div_lt_of_lt_mul ?_
    rwa [← pow_succ, Nat.add_comm, ← Nat.add_assoc]
  have hx := Nat.div_add_mod x (2 ^ (f.eb + f.fb))
  have hs : f.sign x = decide (x / 2 ^ (f.eb + f.fb) % 2 = 1) := Nat.testBit_eq_decide_div_mod_eq
  unfold Fmt.withSign Fmt.mag
  rw [hs]
  obtain h | h : x / 2 ^ (f.eb + f.fb) = 0 ∨ x / 2 ^ (f.eb + f.fb) = 1 := Nat.le_one_iff_eq_zero_or_eq_one.1 (Nat.lt_succ_iff.1 hdiv)
  · rw [h] at hx ⊢
    simpa using hx
  · rw [h] at hx ⊢
    simpa [Nat.add_comm] using hx

/-- q steps of binade k as whole numbers. -/
theorem Fmt.inBinade_natCast {f : Fmt} {q k : Nat} : f.inBinade q k ↔ q < 2 ^ (f.fb + 1) ∧ (k ≠ 0 → 2 ^ f.fb ≤ q) := by
  unfold Fmt.inBinade
  norm_cast

/-- Every magnitude is that of some steps of some binade. -/
theorem Fmt.exists_inBinade (f : Fmt) (m : Nat) : ∃ q k : Nat, f.inBinade q k ∧ m = q + k * 2 ^ f.fb := by
  have hpos := Nat.two_pow_pos f.fb
  by_cases h : m < 2 ^ f.fb
  · exact ⟨m, 0, Fmt.inBinade_natCast.2 ⟨by omega, fun h0 => absurd rfl h0⟩, by simp⟩
  · have hmod := Nat.mod_lt m hpos
    have hdiv := Nat.div_pos (not_lt.1 h) hpos
    refine ⟨m % 2 ^ f.fb + 2 ^ f.fb, m / 2 ^ f.fb - 1, Fmt.inBinade_natCast.2 ⟨by omega, fun _ => by omega⟩, ?_⟩
    rw [Nat.add_assoc, Nat.add_comm (2 ^ f.fb), ← Nat.succ_mul, Nat.succ_eq_add_one, Nat.sub_add_cancel hdiv, Nat.mul_comm, Nat.mod_add_div]

/-- A pattern below infinity stands for the steps of its binade (R223). -/
theorem Fmt.dec_of_inBinade {f : Fmt} {x q k : Nat} (hx : f.mag x = q + k * 2 ^ f.fb) (hq : f.inBinade q k) (hfin : f.mag x < f.infBits) :
    f.dec x = .fin (f.sign x) (scale2 q 1 (k + f.emin - f.fb)).1 (scale2 q 1 (k + f.emin - f.fb)).2 := by
  obtain ⟨hlt, hle⟩ := Fmt.inBinade_natCast.1 hq
  have hpos := Nat.two_pow_pos f.fb
  have hfrac := f.mag_mod x
  have hexp : f.mag x >>> f.fb ≠ 2 ^ f.eb - 1 := by
    rw [Nat.shiftRight_eq_div_pow]
    exact (Nat.div_lt_of_lt_mul (by rwa [Nat.mul_comm, ← f.infBits_eq])).ne
  unfold Fmt.dec
  simp only [if_neg hexp, hfrac]
  by_cases h : q < 2 ^ f.fb
  · obtain rfl : k = 0 := by_contra fun h0 => absurd (hle h0) (not_le.2 h)
    have he : f.mag x >>> f.fb = 0 := by rw [Nat.shiftRight_eq_div_pow]; exact Nat.div_eq_of_lt (by omega)
    rw [he, if_pos rfl, hx, Nat.zero_mul, Nat.add_zero, Nat.mod_eq_of_lt h]
    simp
  · obtain ⟨j, rfl⟩ := Nat.exists_eq_add_of_le (not_lt.1 h)
    have hj : j < 2 ^ f.fb := by omega
    have hm : f.mag x = j + 2 ^ f.fb * (k + 1) := by rw [hx]; ring
    have he : f.mag x >>> f.fb = k + 1 := by
      rw [Nat.shiftRight_eq_div_pow, hm, Nat.add_mul_div_left _ _ hpos, Nat.div_eq_of_lt hj, Nat.zero_add]
    rw [he, if_neg (Nat.succ_ne_zero k), hm, Nat.add_mul_mod_self_left, Nat.mod_eq_of_lt hj, Nat.add_comm j]
    simp

theorem Fmt.dec_infBits (f : Fmt) : f.dec f.infBits = .inf false := by
  have hlt := f.infBits_lt
  have he : f.infBits >>> f.fb = 2 ^ f.eb - 1 := by
    rw [f.infBits_eq, Nat.shiftRight_eq_div_pow, Nat.mul_div_cancel _ (Nat.two_pow_pos _)]
  unfold Fmt.dec
  rw [Fmt.mag_of_lt hlt, Fmt.sign_of_lt hlt, if_pos he, if_pos (by rw [f.infBits_eq, Nat.mul_mod_left])]

/-- A pattern from infinity on that is no NaN is an infinity. -/
theorem Fmt.dec_of_infBits_le {f : Fmt} {x : Nat} (hnan : (f.dec x).isNan = false) (h : f.infBits ≤ f.mag x) :
    f.dec x = .inf (f.sign x) ∧ f.mag x = f.infBits := by
  have hpos := Nat.two_pow_pos f.fb
  have hm : f.mag x < 2 ^ f.eb * 2 ^ f.fb := by rw [← pow_add]; exact Nat.mod_lt _ (Nat.two_pow_pos _)
  have he : f.mag x / 2 ^ f.fb = 2 ^ f.eb - 1 := by
    rw [f.infBits_eq, ← Nat.le_div_iff_mul_le hpos] at h
    have := Nat.div_lt_of_lt_mul (by rwa [Nat.mul_comm] at hm)
    omega
  have hfrac := f.mag_mod x
  have hdec : f.dec x = if x % 2 ^ f.fb = 0 then .inf (f.sign x) else .nan (!(x % 2 ^ f.fb).testBit (f.fb - 1)) := by
    unfold Fmt.dec
    rw [if_pos (by rw [Nat.shiftRight_eq_div_pow, he])]
  rw [hdec] at hnan ⊢
  split_ifs at hnan ⊢ with h0
  · refine ⟨rfl, ?_⟩
    rw [hfrac] at h0
    rw [f.infBits_eq, ← he, Nat.div_mul_cancel (Nat.dvd_of_mod_eq_zero h0)]
  · cases hnan

/-- The value of a pattern in steps of its binade. -/
theorem Fmt.value_of_dec_inBinade {f : Fmt} {q k a b : Nat} {s : Bool} (hq : f.inBinade q k) (hfin : q + k * 2 ^ f.fb < f.infBits)
    (hdec : f.dec (q + k * 2 ^ f.fb) = .fin s a b) : 0 < b ∧ (a : ℚ) / b = q * f.unit k := by
  have hmag := Fmt.mag_of_lt (hfin.trans f.infBits_lt)
  have h := Fmt.dec_of_inBinade hmag hq (by rwa [hmag])
  rw [hdec] at h
  injection h with _ ha hb
  rw [ha, hb, scale2_value, Nat.cast_one, div_one]
  exact ⟨scale2_den_pos q Nat.one_pos _, rfl⟩

/-- The same with the first step past the binade, which is the first of the next. -/
theorem Fmt.value_of_dec {f : Fmt} {q k a b : Nat} {s : Bool} (hq : f.inBinade q k ∨ q = 2 ^ (f.fb + 1)) (hfin : q + k * 2 ^ f.fb < f.infBits)
    (hdec : f.dec (q + k * 2 ^ f.fb) = .fin s a b) : 0 < b ∧ (a : ℚ) / b = q * f.unit k := by
  obtain hq | rfl := hq
  · exact Fmt.value_of_dec_inBinade hq hfin hdec
  · have hnext : 2 ^ (f.fb + 1) + k * 2 ^ f.fb = 2 ^ f.fb + (k + 1) * 2 ^ f.fb := by ring
    rw [hnext] at hfin hdec
    have hin : f.inBinade (2 ^ f.fb : Nat) (k + 1) :=
      Fmt.inBinade_natCast.2 ⟨Nat.pow_lt_pow_right one_lt_two (Nat.lt_succ_self _), fun _ => le_rfl⟩
    obtain ⟨hb, hv⟩ := Fmt.value_of_dec_inBinade hin hfin hdec
    refine ⟨hb, hv.trans ?_⟩
    rw [f.unit_succ]
    push_cast
    ring

end Sys2Proof.Machine
end

section
/-! SUPPORT. Rounding (R226): a value of the format is exact, any other number goes to one of its two neighbours; and O15. -/

namespace Sys2Proof.Machine

/-! ### Rounding to an integer (R226) -/

theorem roundQuot_of_exact {m : Rm} {neg : Bool} {n d : Nat} (hd : 0 < d) (h : n % d = 0) : roundQuot m neg n d = n / d := by
  cases m <;> simp [roundQuot, h, hd.ne]

theorem roundQuot_away (neg : Bool) (n d : Nat) :
    roundQuot (if neg then .rd else .ru) neg n d = if n % d = 0 then n / d else n / d + 1 := by
  cases neg <;> simp [roundQuot, Nat.pos_iff_ne_zero]

theorem roundQuot_rne (neg : Bool) (n d : Nat) : roundQuot .rne neg n d
    = if 2 * (n % d) < d then n / d else if d < 2 * (n % d) then n / d + 1 else if n / d % 2 = 0 then n / d else n / d + 1 := by
  obtain h | h | h := lt_trichotomy (2 * (n % d)) d
  · simp [roundQuot, h, h.not_gt, h.ne]
  · obtain hq | hq := Nat.mod_two_eq_zero_or_one (n / d) <;> simp [roundQuot, h, hq]
  · simp [roundQuot, h, h.not_gt]

theorem roundQuot_le (m : Rm) (neg : Bool) (n d : Nat) : roundQuot m neg n d ≤ n / d + 1 :=
  (ite_le_sup (n / d + 1) (n / d) _).trans (max_le le_rfl (Nat.le_succ _))

/-! ### Rounding to a format (R226) -/

/-- The magnitude that n / d rounds to, before overflow is looked at. -/
def Fmt.rounded (f : Fmt) (m : Rm) (neg : Bool) (n d : Nat) : Nat :=
  roundQuot m neg (f.scaled n d).1 (f.scaled n d).2 + f.binade n d <<< f.fb

/-- The magnitude of n / d rounded towards zero, before overflow is looked at. -/
def Fmt.truncated (f : Fmt) (n d : Nat) : Nat := (f.scaled n d).1 / (f.scaled n d).2 + f.binade n d * 2 ^ f.fb

theorem Fmt.rounded_eq (f : Fmt) (m : Rm) (neg : Bool) (n d : Nat) :
    f.rounded m neg n d = roundQuot m neg (f.scaled n d).1 (f.scaled n d).2 + f.binade n d * 2 ^ f.fb := by
  rw [Fmt.rounded, Nat.shiftLeft_eq]

theorem Fmt.rounded_le (f : Fmt) (m : Rm) (neg : Bool) (n d : Nat) : f.rounded m neg n d ≤ f.truncated n d + 1 := by
  have := roundQuot_le m neg (f.scaled n d).1 (f.scaled n d).2
  rw [f.rounded_eq, Fmt.truncated]
  omega

section
variable {f : Fmt} {n d : Nat} (hn : 0 < n)
include hn

theorem Fmt.roundTo_of_lt {m : Rm} {neg : Bool} (h : f.rounded m neg n d < f.infBits) :
    f.roundTo m neg n d = (f.withSign neg (f.rounded m neg n d),
      if floorLog2 n d < f.emin && (f.scaled n d).1 % (f.scaled n d).2 != 0 then flUF else noFlag) :=
  (if_neg hn.ne').trans (if_neg (not_le.2 h))

/-- Towards zero nothing rounds past the largest finite magnitude. -/
theorem Fmt.roundTo_rz (neg : Bool) : (f.roundTo .rz neg n d).1 = f.withSign neg (min (f.truncated n d) (f.infBits - 1)) := by
  have ht : f.rounded .rz neg n d = f.truncated n d := f.rounded_eq .rz neg n d
  by_cases h : f.rounded .rz neg n d < f.infBits
  · rw [Fmt.roundTo_of_lt hn h, ht, min_eq_left (by omega)]
  · have hinf : f.roundTo .rz neg n d = (f.withSign neg (f.infBits - 1), flOF) := (if_neg hn.ne').trans (if_pos (not_lt.1 h))
    rw [hinf, min_eq_right (by omega)]

theorem Fmt.roundTo_fst {m : Rm} {neg : Bool} (h : f.truncated n d + 1 < f.infBits) :
    (f.roundTo m neg n d).1 = f.withSign neg (f.rounded m neg n d) := by
  rw [Fmt.roundTo_of_lt hn ((f.rounded_le m neg n d).trans_lt h)]
end

/-! ### A value of the format rounds to itself (R226) -/

/-- A number of whole steps of its binade is exact in every mode. -/
theorem Fmt.roundTo_steps {f : Fmt} {m : Rm} {neg : Bool} {q k : Nat} (hq : f.inBinade q k) (hfin : q + k * 2 ^ f.fb < f.infBits) :
    f.roundTo m neg (scale2 q 1 (k + f.emin - f.fb)).1 (scale2 q 1 (k + f.emin - f.fb)).2 = (f.withSign neg (q + k * 2 ^ f.fb), noFlag) := by
  obtain rfl | hpos := q.eq_zero_or_pos
  · obtain rfl : k = 0 := by_contra fun h0 => (Nat.two_pow_pos f.fb).not_ge ((Fmt.inBinade_natCast.1 hq).2 h0)
    rw [scale2_zero, Fmt.roundTo_zero]
    simp
  · have hn := scale2_pos hpos 1 (k + f.emin - f.fb)
    have hd := scale2_den_pos q Nat.one_pos (k + f.emin - f.fb)
    have hval := scale2_value q 1 (k + f.emin - f.fb)
    rw [Nat.cast_one, div_one, ← Fmt.unit, eq_comm] at hval
    generalize (scale2 q 1 (k + f.emin - f.fb)).1 = n at hn hval ⊢
    generalize (scale2 q 1 (k + f.emin - f.fb)).2 = d at hd hval ⊢
    have hk := f.binade_eq hn hd hq hval
    have hden := f.scaled_den_pos (n := n) hd
    have hnum : (f.scaled n d).1 = q * (f.scaled n d).2 := by
      have h := f.scaled_mul_unit (n := n) (d := d)
      rw [← hval, hk, mul_left_inj' (f.unit_pos k).ne', div_eq_iff (Nat.cast_ne_zero.2 hden.ne')] at h
      exact_mod_cast h
    have hmod : (f.scaled n d).1 % (f.scaled n d).2 = 0 := by rw [hnum, Nat.mul_mod_left]
    have hround : f.rounded m neg n d = q + k * 2 ^ f.fb := by
      rw [f.rounded_eq, roundQuot_of_exact hden hmod, hnum, Nat.mul_div_cancel _ hden, hk]
    rw [Fmt.roundTo_of_lt hn (by rwa [hround]), hround, hmod]
    simp

theorem Fmt.ofVal_dec {f : Fmt} {x : Nat} (hx : x < 2 ^ f.width) (hnan : (f.dec x).isNan = false) (m : Rm) : f.ofVal m (f.dec x) = (x, noFlag) := by
  obtain h | h := lt_or_ge (f.mag x) f.infBits
  · obtain ⟨q, k, hq, hm⟩ := f.exists_inBinade (f.mag x)
    rw [Fmt.dec_of_inBinade hm hq h]
    refine (Fmt.roundTo_steps hq (hm ▸ h)).trans ?_
    rw [← hm, Fmt.withSign_sign_mag hx]
  · obtain ⟨hdec, hm⟩ := Fmt.dec_of_infBits_le hnan h
    rw [hdec]
    change (f.withSign _ _, noFlag) = _
    rw [← hm, Fmt.withSign_sign_mag hx]

/-! ### Neighbours (R226) -/

section
variable {f : Fmt} {n d : Nat} (hn : 0 < n) (hd : 0 < d)
include hd

/-- The whole steps of n / d: no more than n / d, and less than one step below it. -/
theorem Fmt.floor_steps : (((f.scaled n d).1 / (f.scaled n d).2 : Nat) : ℚ) * f.unit (f.binade n d) ≤ n / d
    ∧ (n : ℚ) / d < (((f.scaled n d).1 / (f.scaled n d).2 + 1 : Nat) : ℚ) * f.unit (f.binade n d) := by
  have hu := f.unit_pos (f.binade n d)
  have hden : (0 : ℚ) < (f.scaled n d).2 := Nat.cast_pos.2 (f.scaled_den_pos hd)
  rw [← f.scaled_mul_unit]
  refine ⟨mul_le_mul_of_nonneg_right Nat.cast_div_le hu.le, mul_lt_mul_of_pos_right ?_ hu⟩
  rw [div_lt_iff₀ hden]
  exact_mod_cast Nat.mul_comm _ _ ▸ Nat.lt_mul_div_succ (f.scaled n d).1 (f.scaled_den_pos hd)

include hn

theorem Fmt.inBinade_floor : f.inBinade ((f.scaled n d).1 / (f.scaled n d).2 : Nat) (f.binade n d) := by
  obtain ⟨hlt, hle⟩ := f.inBinade_scaled hn hd
  have hden := f.scaled_den_pos (n := n) hd
  refine ⟨Nat.cast_div_le.trans_lt hlt, fun h0 => ?_⟩
  have h := hle h0
  rw [le_div_iff₀ (Nat.cast_pos.2 hden)] at h
  exact_mod_cast (Nat.le_div_iff_mul_le hden).2 (by exact_mod_cast h)

/-- One more whole step stays in the binade or is the first step past it. -/
theorem Fmt.inBinade_floor_succ : f.inBinade ((f.scaled n d).1 / (f.scaled n d).2 + 1 : Nat) (f.binade n d)
    ∨ (f.scaled n d).1 / (f.scaled n d).2 + 1 = 2 ^ (f.fb + 1) := by
  obtain ⟨hlt, hle⟩ := Fmt.inBinade_natCast.1 (Fmt.inBinade_floor (f := f) hn hd)
  obtain h | h := Nat.lt_or_eq_of_le (Nat.succ_le_of_lt hlt)
  · exact .inl (Fmt.inBinade_natCast.2 ⟨h, fun h0 => (hle h0).trans (Nat.le_succ _)⟩)
  · exact .inr h

theorem Fmt.value_truncated {a b : Nat} {s : Bool} (hfin : f.truncated n d < f.infBits) (hdec : f.dec (f.truncated n d) = .fin s a b) :
    0 < b ∧ (a : ℚ) / b = ((f.scaled n d).1 / (f.scaled n d).2 : Nat) * f.unit (f.binade n d) :=
  Fmt.value_of_dec (.inl (Fmt.inBinade_floor hn hd)) hfin hdec

theorem Fmt.value_truncated_succ {a b : Nat} {s : Bool} (hfin : f.truncated n d + 1 < f.infBits) (hdec : f.dec (f.truncated n d + 1) = .fin s a b) :
    0 < b ∧ (a : ℚ) / b = ((f.scaled n d).1 / (f.scaled n d).2 + 1 : Nat) * f.unit (f.binade n d) := by
  have hp : f.truncated n d + 1 = ((f.scaled n d).1 / (f.scaled n d).2 + 1) + f.binade n d * 2 ^ f.fb := by
    unfold Fmt.truncated
    omega
  rw [hp] at hfin hdec
  exact Fmt.value_of_dec (Fmt.inBinade_floor_succ hn hd) hfin hdec

/-- The largest finite magnitude is below every number that overflows. -/
theorem Fmt.value_max_lt (he : 2 ≤ f.eb) (hov : f.infBits ≤ f.truncated n d) {a b : Nat} {s : Bool} (hdec : f.dec (f.infBits - 1) = .fin s a b) :
    0 < b ∧ (a : ℚ) / b < n / d := by
  have hP := Nat.two_pow_pos f.fb
  have hE : 4 ≤ 2 ^ f.eb := Nat.pow_le_pow_right two_pos he
  obtain ⟨E, hE⟩ := Nat.exists_eq_add_of_le hE
  have hinf : f.infBits = 2 ^ (f.fb + 1) + (E + 1) * 2 ^ f.fb := by
    rw [f.infBits_eq, hE, show 4 + E - 1 = E + 3 by omega]
    ring
  have hmax : f.infBits - 1 = (2 ^ (f.fb + 1) - 1) + (E + 1) * 2 ^ f.fb := by
    have := Nat.two_pow_pos (f.fb + 1)
    omega
  have hin : f.inBinade (2 ^ (f.fb + 1) - 1 : Nat) (E + 1) := Fmt.inBinade_natCast.2 (by rw [pow_succ]; omega)
  have hfin : f.infBits - 1 < f.infBits := by omega
  rw [hmax] at hfin hdec
  obtain ⟨hb, hv⟩ := Fmt.value_of_dec (.inl hin) hfin hdec
  obtain ⟨hlt, hle⟩ := Fmt.inBinade_natCast.1 (Fmt.inBinade_floor (f := f) hn hd)
  have hk : E + 2 ≤ f.binade n d := by
    by_contra hc
    have := Nat.mul_le_mul_right (2 ^ f.fb) (show f.binade n d ≤ E + 1 by omega)
    unfold Fmt.truncated at hov
    omega
  refine ⟨hb, hv ▸ ?_⟩
  calc ((2 ^ (f.fb + 1) - 1 : Nat) : ℚ) * f.unit (E + 1)
      < ((2 ^ (f.fb + 1) : Nat) : ℚ) * f.unit (E + 1) := by
        refine mul_lt_mul_of_pos_right (Nat.cast_lt.2 ?_) (f.unit_pos _)
        exact Nat.sub_lt (Nat.two_pow_pos _) Nat.one_pos
    _ = ((2 ^ f.fb : Nat) : ℚ) * f.unit (E + 2) := by rw [f.unit_succ (E + 1)]; push_cast; ring
    _ ≤ ((f.scaled n d).1 / (f.scaled n d).2 : Nat) * f.unit (f.binade n d) :=
        mul_le_mul (Nat.cast_le.2 (hle (by omega))) (f.unit_mono hk) (f.unit_pos _).le (Nat.cast_nonneg _)
    _ ≤ n / d := (Fmt.floor_steps hd).1

end

/-- Comparisons of n / d with q steps of size u and with the middle of q and q + 1 steps, by what n / d leaves beyond its q whole steps. -/
theorem compare_steps {n d p r x y a b : Nat} {u : ℚ} (hd : 0 < d) (hr : 0 < r) (hy : 0 < y) (hb : 0 < b) (hu : 0 < u)
    (hnd : (p : ℚ) / r * u = n / d) (hx : (x : ℚ) / y = (p / r : Nat) * u) (ha : (a : ℚ) / b = (p / r + 1 : Nat) * u) :
    (n * y = x * d ↔ p % r = 0) ∧ (2 * n * y * b < (x * b + a * y) * d ↔ 2 * (p % r) < r)
      ∧ ((x * b + a * y) * d < 2 * n * y * b ↔ r < 2 * (p % r)) := by
  have hd' : (0 : ℚ) < d := Nat.cast_pos.2 hd
  have hr' : (0 : ℚ) < r := Nat.cast_pos.2 hr
  have hy' : (0 : ℚ) < y := Nat.cast_pos.2 hy
  have hb' : (0 : ℚ) < b := Nat.cast_pos.2 hb
  have hp : (p : ℚ) = r * (p / r : Nat) + (p % r : Nat) := by exact_mod_cast (Nat.div_add_mod p r).symm
  have hn : (n : ℚ) = p / r * u * d := by rw [hnd, div_mul_cancel₀ _ hd'.ne']
  have hx : (x : ℚ) = (p / r : Nat) * u * y := by rw [← hx, div_mul_cancel₀ _ hy'.ne']
  have ha : (a : ℚ) = ((p / r : Nat) + 1) * u * b := by rw [← Nat.cast_succ, ← ha, div_mul_cancel₀ _ hb'.ne']
  have hc : 0 < u * d * y / r := by positivity
  have hc' : 0 < u * d * y * b / r := by positivity
  have hexact : (n : ℚ) * y - x * d = u * d * y / r * (p % r : Nat) := by
    rw [hn, hx, hp]
    field_simp
    ring
  have hmiddle : ((x : ℚ) * b + a * y) * d - 2 * n * y * b = u * d * y * b / r * (r - 2 * (p % r : Nat)) := by
    rw [hn, hx, ha, hp]
    field_simp
    ring
  refine ⟨?_, ?_, ?_⟩
  · rw [← Nat.cast_inj (R := ℚ), Nat.cast_mul, Nat.cast_mul, ← sub_eq_zero, hexact, mul_eq_zero, or_iff_right hc.ne', Nat.cast_eq_zero]
  · rw [← Nat.cast_lt (α := ℚ), ← Nat.cast_lt (α := ℚ), ← sub_pos]
    push_cast
    rw [hmiddle, mul_pos_iff_of_pos_left hc', sub_pos]
  · rw [← Nat.cast_lt (α := ℚ), ← Nat.cast_lt (α := ℚ), ← sub_neg]
    push_cast
    rw [hmiddle, ← neg_pos, ← mul_neg, mul_pos_iff_of_pos_left hc', neg_sub, sub_pos]

section
variable {f : Fmt} (he : 2 ≤ f.eb) {n d : Nat} (hn : 0 < n) (hd : 0 < d)
include hn hd

include he in
/-- What rounding towards zero leaves is at most the number. -/
theorem Fmt.value_rz_le {a b : Nat} {s : Bool} (hdec : f.dec (min (f.truncated n d) (f.infBits - 1)) = .fin s a b) : a * d ≤ n * b := by
  have hle : 0 < b ∧ (a : ℚ) / b ≤ n / d := by
    obtain h | h := lt_or_ge (f.truncated n d) f.infBits
    · rw [min_eq_left (by omega)] at hdec
      obtain ⟨hb, hv⟩ := Fmt.value_truncated hn hd h hdec
      exact ⟨hb, hv ▸ (Fmt.floor_steps hd).1⟩
    · rw [min_eq_right (by omega)] at hdec
      obtain ⟨hb, hv⟩ := Fmt.value_max_lt hn hd he h hdec
      exact ⟨hb, hv.le⟩
  obtain ⟨hb, hv⟩ := hle
  rw [div_le_div_iff₀ (Nat.cast_pos.2 hb) (Nat.cast_pos.2 hd)] at hv
  exact_mod_cast hv

include he in
/-- The next pattern, where it is finite, is more than the number. -/
theorem Fmt.lt_value_rz_succ {a b : Nat} {s : Bool} (hdec : f.dec (min (f.truncated n d) (f.infBits - 1) + 1) = .fin s a b) : n * b < a * d := by
  obtain h | h := lt_or_ge (f.truncated n d + 1) f.infBits
  · rw [min_eq_left (by omega)] at hdec
    obtain ⟨hb, hv⟩ := Fmt.value_truncated_succ hn hd h hdec
    have hlt := (Fmt.floor_steps (f := f) (n := n) hd).2
    rw [← hv, div_lt_div_iff₀ (Nat.cast_pos.2 hd) (Nat.cast_pos.2 hb)] at hlt
    exact_mod_cast hlt
  · have hpos : 0 < f.infBits := by
      rw [f.infBits_eq]
      exact Nat.mul_pos (Nat.sub_pos_of_lt (Nat.one_lt_two_pow (by omega))) (Nat.two_pow_pos _)
    rw [min_eq_right (by omega), Nat.sub_add_cancel hpos, f.dec_infBits] at hdec
    cases hdec

/-- Rounding away from zero and to nearest choose between the truncated pattern and the next. -/
theorem Fmt.roundTo_neighbours (hf : 1 ≤ f.fb) (neg : Bool) (h : f.truncated n d + 1 < f.infBits) {x y a b : Nat} {s t : Bool}
    (hx : f.dec (f.truncated n d) = .fin s x y) (ha : f.dec (f.truncated n d + 1) = .fin t a b) :
    (f.roundTo (if neg then .rd else .ru) neg n d).1
        = f.withSign neg (if n * y = x * d then f.truncated n d else f.truncated n d + 1)
      ∧ (f.roundTo .rne neg n d).1 = f.withSign neg
          (if 2 * n * y * b < (x * b + a * y) * d then f.truncated n d else if (x * b + a * y) * d < 2 * n * y * b then f.truncated n d + 1
           else if f.truncated n d % 2 = 0 then f.truncated n d else f.truncated n d + 1) := by
  obtain ⟨hy, hxv⟩ := Fmt.value_truncated hn hd (by omega) hx
  obtain ⟨hb, hav⟩ := Fmt.value_truncated_succ hn hd h ha
  obtain ⟨hexact, hbelow, habove⟩ := compare_steps hd (f.scaled_den_pos hd) hy hb (f.unit_pos _) f.scaled_mul_unit hxv hav
  have hparity : f.truncated n d % 2 = (f.scaled n d).1 / (f.scaled n d).2 % 2 := by
    obtain ⟨j, hj⟩ := Nat.exists_eq_add_of_le hf
    rw [Fmt.truncated, hj, pow_add, pow_one, Nat.mul_left_comm, Nat.add_mul_mod_self_left]
  rw [Fmt.roundTo_fst hn h, Fmt.roundTo_fst hn h, f.rounded_eq, f.rounded_eq, roundQuot_away, roundQuot_rne]
  simp only [hexact, hbelow, habove, hparity]
  constructor <;> split_ifs <;> simp only [Fmt.truncated, Nat.add_right_comm]
end

/-- The three formats have at least two exponent bits and one fraction bit (R222). -/
theorem fmt_widths {t : Fmt} (ht : t ∈ [fp32, fp16, bf16]) : 2 ≤ t.eb ∧ 1 ≤ t.fb := by
  revert t
  decide

/-- Settles O15: n / d in steps of its binade, whose whole steps are the pattern that it rounds to towards zero. -/
theorem roundingFollowsItsMode : Obligations.RoundingFollowsItsMode := by
  refine ⟨fun t _ m x hx hnan => Fmt.ofVal_dec hx hnan m, fun t ht neg n d a b hn hd => ?_⟩
  obtain ⟨he, hf⟩ := fmt_widths ht
  have hlt : min (t.truncated n d) (t.infBits - 1) < 2 ^ (t.eb + t.fb) :=
    (min_le_right _ _).trans_lt ((Nat.sub_le ..).trans_lt t.infBits_lt)
  rw [Fmt.roundTo_rz hn, Fmt.mag_withSign hlt, Fmt.sign_withSign hlt]
  refine ⟨rfl, Fmt.value_rz_le he hn hd, Fmt.lt_value_rz_succ he hn hd, fun h x y hx ha => ?_⟩
  rw [min_eq_left (by omega)] at h hx ha ⊢
  exact Fmt.roundTo_neighbours hn hd hf neg h hx ha

end Sys2Proof.Machine
end

section
/-! SUPPORT. A run of vector operands written one after the other (R111, R160), and what retirement leaves of the state. -/

namespace Sys2Proof.Machine

/-! ### A run of vector operands -/

theorem run_succ (d n : Nat) : run d (n + 1) = run d n ++ [d + n] := by
  simp [run, List.range_succ]

theorem mem_run {d n j : Nat} (hj : j < n) : d + j ∈ run d n := List.mem_map_of_mem (List.mem_range.2 hj)

/-- Write f to the lanes of a mask of n vector operands from vd on. -/
def Group.writeRun (s : State) (g : Group) (d n : Nat) (mask : Mask) (f : Nat → Nat → Word) : Group :=
  (List.range n).foldl (fun h j => h.writeV s (d + j) mask (f j)) g

section
variable (s : State) (g : Group) (d n : Nat) (mask : Mask) (f : Nat → Nat → Word)

theorem Group.writeRun_succ : g.writeRun s d (n + 1) mask f = (g.writeRun s d n mask f).writeV s (d + n) mask (f n) := by
  simp [Group.writeRun, List.range_succ]

theorem Group.writeRun_eq : ∃ r x o, g.writeRun s d n mask f = { g with vregs := r, handler := x, ops := o } := by
  induction n with
  | zero => exact ⟨g.vregs, g.handler, g.ops, rfl⟩
  | succ n ih =>
    obtain ⟨r, x, o, e⟩ := ih
    obtain ⟨r', x', o', e'⟩ := (g.writeRun s d n mask f).writeV_eq s (d + n) mask (f n)
    exact ⟨r', x', o', by rw [Group.writeRun_succ, e', e]⟩

@[simp] theorem Group.vreg_writeRun (j : Nat) : (g.writeRun s d n mask f).vreg j = g.vreg j := by
  induction n with
  | zero => rfl
  | succ n ih => rw [Group.writeRun_succ, Group.writeV, Group.vreg_writeReg, ih]

@[simp] theorem Group.vregOk_writeRun (l : Nat) : (g.writeRun s d n mask f).vregOk l = g.vregOk l := by
  induction n with
  | zero => rfl
  | succ n ih => rw [Group.writeRun_succ, Group.writeV, Group.vregOk_writeReg, ih]

@[simp] theorem Group.isPending_writeRun (vec : Bool) (l : Nat) : (g.writeRun s d n mask f).isPending vec l = g.isPending vec l := by
  induction n with
  | zero => rfl
  | succ n ih => rw [Group.writeRun_succ, Group.writeV, Group.isPending_writeReg, ih]

/-- A register outside the run is as it was. -/
theorem Group.vraw_writeRun_ne {l : Nat} (hl : l ∉ (run d n).map g.vreg) : (g.writeRun s d n mask f).vraw l = g.vraw l := by
  induction n with
  | zero => rfl
  | succ n ih =>
    rw [run_succ, List.map_append, List.mem_append, not_or] at hl
    obtain ⟨hrun, hlast⟩ := hl
    rw [Group.writeRun_succ, Group.writeV, Group.vreg_writeRun, Group.vraw_writeReg_ne s _ (by simpa using hlast), ih hrun]

/-- The registers of a run that exists have received the values, where no operand names a register twice. -/
theorem Group.runWritten_writeRun (hok : ∀ j, j < n → g.vregOk (g.vreg (d + j)) = true) :
    Claims.RunWritten g (g.writeRun s d n mask f) d n mask f := by
  refine ⟨fun l hl => g.vraw_writeRun_ne s d n mask f hl, fun hnd => ?_⟩
  induction n with
  | zero => exact fun j l hj => absurd hj (Nat.not_lt_zero j)
  | succ n ih =>
    rw [run_succ, List.map_append, List.nodup_append] at hnd
    obtain ⟨hrun, -, hne⟩ := hnd
    have hfresh : g.vreg (d + n) ∉ (run d n).map g.vreg := fun h => hne _ h _ (by simp) rfl
    have hlast : (g.writeRun s d n mask f).vraw (g.vreg (d + n)) = g.vraw (g.vreg (d + n)) := g.vraw_writeRun_ne s d n mask f hfresh
    have hvreg : (g.writeRun s d n mask f).vregOk (g.vreg (d + n)) = true := by rw [Group.vregOk_writeRun, hok n (Nat.lt_succ_self n)]
    intro j l hj hl
    rw [Group.writeRun_succ, Group.writeV, Group.vreg_writeRun]
    obtain hlt | rfl := Nat.lt_succ_iff_lt_or_eq.1 hj
    · rw [Group.vraw_writeReg_ne s _ (hne _ (List.mem_map_of_mem (mem_run hlt)) _ (by simp))]
      exact ih (fun j hj => hok j (Nat.lt_succ_of_lt hj)) hrun j l hlt hl
    · refine ⟨fun hm => ?_, fun hm hp => ?_⟩
      · rw [Group.vraw_writeReg_inactive s _ hvreg _ _ hl hm, hlast]
      · rw [Group.laneOf_writeReg s _ hvreg _ _ (by rw [Group.isPending_writeRun, hp]) hl hm]

end

/-! ### Retirement from any state that an instruction has made -/

theorem State.stashByte_modTeam (s : State) (u : Nat) {f : Team → Team} (hf : ∀ t, (f t).uid = t.uid ∧ (f t).stash = t.stash) (v a : Nat) :
    (s.modTeam u f).stashByte v a = s.stashByte v a := by
  have huid (t : Team) : (if t.uid = u then f t else t).uid = t.uid := by split <;> simp [hf]
  have hstash (t : Team) : (if t.uid = u then f t else t).stash = t.stash := by split <;> simp [hf]
  unfold State.stashByte State.team State.modTeam
  rw [List.find?_map, Option.map_map]
  simp only [Function.comp_def, huid, hstash]

/-- Retirement writes no memory. -/
theorem State.finish_sameMemory (s : State) (b : Group) (k : Nat) (i : Instr) (pc : Option Pc) (fuse : Bool) :
    SameMemory s (s.finish b k i pc fuse) := by
  unfold State.finish
  dsimp only
  split
  · exact ⟨fun _ => rfl, fun _ => rfl, fun u a => State.stashByte_modTeam _ _ (f := fun t => { t with sideEffect := true }) (fun _ => ⟨rfl, rfl⟩) u a⟩
  · exact ⟨fun _ => rfl, fun _ => rfl, fun _ _ => rfl⟩

theorem SameMemory.trans {s t u : State} (a : SameMemory s t) (b : SameMemory t u) : SameMemory s u := by
  obtain ⟨ad, ah, as⟩ := a
  obtain ⟨bd, bh, bs⟩ := b
  exact ⟨fun x => (bd x).trans (ad x), fun x => (bh x).trans (ah x), fun v x => (bs v x).trans (as v x)⟩

/-- State r is state t in which the issuing group, g at issue and g' in t, has retired the instruction; it is u now. -/
structure RetiresFrom (t r : State) (g g' u : Group) (k : Nat) (i : Instr) : Prop where
  group : r.group g.uid = some u
  carries : u.carries { g'.row k with pc := g.nextPc k i, wait := .none }
  only : ∃ w n rr sp rg, u = { g' with rows := w, retired := n, roundRetired := rr, spin := sp, region := rg }
  retired : u.retired = g'.retired + 1
  memory : SameMemory t r
  slices : r.slices = t.slices
  ctxs : r.ctxs = t.ctxs

section
variable {t r : State} {g g' u : Group} {k : Nat} {i : Instr} (h : RetiresFrom t r g g' u k i)
include h

theorem RetiresFrom.sraw (n : Nat) : u.sraw n = g'.sraw n := by
  obtain ⟨w, m, rr, sp, rg, rfl⟩ := h.only
  rfl

theorem RetiresFrom.vraw (l : Nat) : u.vraw l = g'.vraw l := by
  obtain ⟨w, m, rr, sp, rg, rfl⟩ := h.only
  rfl

theorem RetiresFrom.held : u.held = g'.held := by
  obtain ⟨w, m, rr, sp, rg, rfl⟩ := h.only
  rfl

end

/-- An instruction that completes from a state in which its row is still live retires there. -/
theorem Issues.retires {s t : State} {g g' : Group} {k : Nat} {i : Instr} (hi : Issues s g k i) {body : Group → Nat → Res}
    (hb : body g k = .retire t) (hg : t.group g.uid = some g') (hlive : (g'.row k).live = true) :
    ∃ r u, issue i s body = .next r ∧ RetiresFrom t r g g' u k i := by
  obtain ⟨u, hu, ⟨w, rfl⟩, hc⟩ := State.finish_group_carries hg k i (some (g.nextPc k i))
  obtain ⟨ls, ts, hfin⟩ := t.finish_eq g k i (some (g.nextPc k i)) true
  have hrow : (g'.retire g k i (some (g.nextPc k i))).row k = { g'.row k with pc := g.nextPc k i, wait := .none } :=
    (Group.row_modRow g' k k _ (Group.row_lt hlive)).trans (if_pos rfl)
  refine ⟨_, _, hi.concludes hb, hu, hc _ ?_, ⟨w, _, _, _, _, rfl⟩, rfl, t.finish_sameMemory .., ?_, ?_⟩
  · rw [← hrow]
    exact Group.carries_self (by rw [hrow]; exact hlive)
  · exact (congrArg State.slices hfin :)
  · exact (congrArg State.ctxs hfin :)

end Sys2Proof.Machine
end

section
/-! SUPPORT. Rasterisation: the ordinals that RAST emits (R285), the two triangles of an edge (R284), and O49. -/

namespace Sys2Proof.Machine

/-! ### The ordinals that are emitted, and TOKEN (R285) -/

/-- The first n elements of an ascending list of selected numbers: what they leave out lies above them. -/
theorem above_take {l : List Nat} (hl : l.Pairwise (· < ·)) {n o : Nat} (ho : o ∈ l) (hn : o ∉ l.take n) :
    (l.take n).length = n ∧ ∀ x ∈ l.take n, x < o := by
  have happ := List.take_append_drop n l
  have hdrop : o ∈ l.drop n := by
    rw [← happ, List.mem_append] at ho
    exact ho.resolve_left hn
  rw [← happ, List.pairwise_append] at hl
  obtain ⟨-, -, hlt⟩ := hl
  have hlen := List.length_pos_of_mem hdrop
  rw [List.length_drop] at hlen
  exact ⟨by rw [List.length_take]; omega, fun x hx => hlt x hx o hdrop⟩

theorem mem_range_drop {n m o : Nat} : o ∈ (List.range m).drop n ↔ n ≤ o ∧ o < m := by
  rw [List.range_eq_range', List.drop_range', List.mem_range'_1]
  omega

/-- The pixels of an ordinal's quad of which one is covered. -/
theorem Tri.any_hits_iff (t : Tri) (o : Nat) : (List.range 4).any (t.hits o) = true ↔ ∃ c, c < 4 ∧ t.hits o c = true := by
  simp [List.any_eq_true]

theorem Tri.emitted_walk (t : Tri) (token : Nat) : Claims.emitted t (token - 1) (t.walk token).1 := by
  have hmem {o : Nat} : o ∈ ((List.range t.ordinals).drop (token - 1)).filter (fun k => (List.range 4).any (t.hits k))
      ↔ (token - 1 ≤ o ∧ o < t.ordinals) ∧ ∃ c, c < 4 ∧ t.hits o c = true := by
    rw [List.mem_filter, mem_range_drop, t.any_hits_iff]
  have hsorted : (((List.range t.ordinals).drop (token - 1)).filter fun k => (List.range 4).any (t.hits k)).Pairwise (· < ·) :=
    (List.pairwise_lt_range.drop).filter _
  refine ⟨hsorted.take, List.length_take_le .., fun o ho => ?_, fun o h1 h2 h3 ho => above_take hsorted (hmem.2 ⟨⟨h1, h2⟩, h3⟩) ho⟩
  obtain ⟨⟨h1, h2⟩, h3⟩ := hmem.1 (List.mem_of_mem_take ho)
  exact ⟨h1, h2, h3⟩

theorem Tri.walk_token (t : Tri) (token : Nat) : (t.walk token).2
    = if (t.walk token).1.length = 24 ∧ (t.walk token).1.getLastD 0 + 1 < t.ordinals then (t.walk token).1.getLastD 0 + 2 else 0 := by
  unfold Tri.walk
  dsimp only
  split_ifs <;> omega

/-! ### An edge of two triangles (R284) -/

/-- The edge function at the vertex that is not on the edge is A. -/
theorem Tri.edge_vertex (t : Tri) {i : Nat} (hi : i < 3) : t.edge i (t.x i) (t.y i) = t.area := by
  interval_cases i <;> simp only [Tri.edge, edgeEnds, Tri.area] <;> ring

/-- A point of an edge is covered only where the edge is included. -/
theorem Tri.incl_of_covered {t : Tri} {i : Nat} (hi : i < 3) {x y : Int} (he : t.edge i x y = 0) (hc : t.covered x y = true) :
    t.area ≠ 0 ∧ t.incl i = true := by
  unfold Tri.covered at hc
  simp only [Bool.and_eq_true, bne_iff_ne, List.all_eq_true] at hc
  obtain ⟨⟨ha, -⟩, hall⟩ := hc
  have hedge := hall i (by interval_cases i <;> simp)
  rw [he, Int.mul_zero] at hedge
  simpa [ha] using hedge

/-- Incl of an edge by the direction that it has when A is positive. -/
theorem Tri.incl_iff (t : Tri) (i : Nat) : t.incl i = true ↔
    t.area.sign * (t.y (edgeEnds i).2 - t.y (edgeEnds i).1) < 0 ∨ t.area.sign * (t.y (edgeEnds i).2 - t.y (edgeEnds i).1) = 0
      ∧ 0 < t.area.sign * (t.x (edgeEnds i).2 - t.x (edgeEnds i).1) := by
  simp [Tri.incl]

/-- Of two edges of opposite directions at most one is included. -/
theorem Tri.not_incl_of_opposite {t u : Tri} {i j : Nat}
    (hx : u.area.sign * (u.x (edgeEnds j).2 - u.x (edgeEnds j).1) = -(t.area.sign * (t.x (edgeEnds i).2 - t.x (edgeEnds i).1)))
    (hy : u.area.sign * (u.y (edgeEnds j).2 - u.y (edgeEnds j).1) = -(t.area.sign * (t.y (edgeEnds i).2 - t.y (edgeEnds i).1)))
    (ht : t.incl i = true) : u.incl j = false := by
  rw [Tri.incl_iff] at ht
  rw [Bool.eq_false_iff, ne_eq, Tri.incl_iff, hx, hy]
  omega

theorem sign_eq_neg_of_mul_neg {a b : Int} (h : a * b < 0) : a.sign = -b.sign := by
  obtain ⟨ha, hb⟩ | ⟨ha, hb⟩ := mul_neg_iff.1 h
  · rw [Int.sign_eq_one_of_pos ha, Int.sign_eq_neg_one_of_neg hb, neg_neg]
  · rw [Int.sign_eq_neg_one_of_neg ha, Int.sign_eq_one_of_pos hb]

/-- Two triangles on opposite sides of an edge that they share have, each with the sense of its A, opposite directions there. -/
theorem Tri.not_both_covered {t u : Tri} {i j : Nat} (hi : i < 3) (hj : j < 3) (h : Claims.shareEdge t u i j) {x y : Int}
    (he : t.edge i x y = 0) : ¬ (t.covered x y = true ∧ u.covered x y = true) := by
  rintro ⟨ht, hu⟩
  obtain ⟨hta, hti⟩ := Tri.incl_of_covered hi he ht
  obtain ⟨hends, hopp⟩ := h
  rw [t.edge_vertex hi] at hopp
  have huv := u.edge_vertex hj
  simp only [Prod.mk.injEq] at hends
  obtain ⟨⟨hx1, hy1⟩, hx2, hy2⟩ | ⟨⟨hx1, hy1⟩, hx2, hy2⟩ := hends
  · have hedge (p q : Int) : u.edge j p q = t.edge i p q := by
      simp only [Tri.edge, hx1, hx2, hy1, hy2]
    rw [← hedge, huv] at hopp
    have hsign : u.area.sign = -t.area.sign := sign_eq_neg_of_mul_neg hopp
    obtain ⟨-, huj⟩ := Tri.incl_of_covered hj ((hedge x y).trans he) hu
    refine absurd huj (Bool.eq_false_iff.1 (Tri.not_incl_of_opposite ?_ ?_ hti))
    · rw [hsign, hx1, hx2, Int.neg_mul]
    · rw [hsign, hy1, hy2, Int.neg_mul]
  · have hedge (p q : Int) : u.edge j p q = -t.edge i p q := by
      simp only [Tri.edge, hx1, hx2, hy1, hy2]
      ring
    have hneg : t.edge i (u.x j) (u.y j) = -u.area := by rw [← huv, hedge, neg_neg]
    have hsign : u.area.sign = t.area.sign := by
      rw [← neg_neg t.area.sign, ← sign_eq_neg_of_mul_neg (hneg ▸ hopp), Int.sign_neg, neg_neg]
    obtain ⟨-, huj⟩ := Tri.incl_of_covered hj (by rw [hedge, he, neg_zero]) hu
    refine absurd huj (Bool.eq_false_iff.1 (Tri.not_incl_of_opposite ?_ ?_ hti))
    · rw [hsign, hx1, hx2]
      ring
    · rw [hsign, hy1, hy2]
      ring

/-! ### RAST (R282, R420) -/

/-- The lanes of RAST's six registers, from the ordinals that it emits (R286). -/
def Tri.filledLane (t : Tri) (es : List Nat) (j l : Nat) : Word :=
  match es[l / 4]? with
  | some o => t.lane o (l % 4) j
  | none => 0

/-- The lanes that n ordinals fill (R285). -/
def filledLanes (n : Nat) : Mask := maskOf fun i => decide (i < 4 * n)

/-- The group when RAST has filled its lanes. -/
def Group.rastFilled (s : State) (g : Group) (d : Nat) (t : Tri) (es : List Nat) : Group :=
  g.writeRun s d 6 (BitVec.allOnes 96) (t.filledLane es)

/-- A group h whose row k has the lanes of n ordinals in MASK, and TOKEN v. -/
def Group.withToken (s : State) (h : Group) (k n : Nat) (v : Word) : Group :=
  (h.modRow k fun w => { w with mask := filledLanes n &&& w.own }).writeAbs s 5 v

section
variable (s : State) (h : Group) (k n : Nat) (v : Word)

theorem Group.withToken_eq : ∃ z o, h.withToken s k n v
    = { h.modRow k fun w => { w with mask := filledLanes n &&& w.own } with sregs := z, ops := o } := Group.writeAbs_eq ..

theorem Group.vraw_withToken (l : Nat) : (h.withToken s k n v).vraw l = h.vraw l := by
  obtain ⟨z, o, e⟩ := h.withToken_eq s k n v
  rw [e]
  rfl

theorem Group.row_withToken (hk : k < h.rows.length) :
    (h.withToken s k n v).row k = { h.row k with mask := filledLanes n &&& (h.row k).own } := by
  obtain ⟨z, o, e⟩ := h.withToken_eq s k n v
  rw [e]
  exact (Group.row_modRow h k k _ hk).trans (if_pos rfl)

theorem Group.sraw_withToken_ne {m : Nat} (hm : m ≠ 5) : (h.withToken s k n v).sraw m = h.sraw m :=
  Group.sraw_writeAbs_ne s (h.modRow k _) hm v

theorem Group.sraw_withToken (hp : h.isPending false 5 = false) : (h.withToken s k n v).sraw 5 = v :=
  (Group.sraw_writeAbs s (h.modRow k _) 5 v hp).trans (if_neg (by decide))

end

theorem execRast_trap {s : State} {g : Group} {k : Nat} {d a : R7} (hi : Issues s g k (.rast d a)) {n : Nat}
    (h : (List.range 14).find? (triBad (g.sblock s k a.toNat 14)) = some n) : Traps (.rast d a) s g k (trapNum 0x60 n) :=
  hi.concludes (r := .trap (trapNum 0x60 n)) (by simp only [firstTrap, h, Option.map_some])

/-- RAST of a block that R282 allows changes its group alone. -/
theorem execRast_keep {s : State} {g : Group} {k : Nat} {d a : R7} (h : ∀ n, n < 14 → triBad (g.sblock s k a.toNat 14) n = false) {t : Tri}
    (ht : triOf (g.sblock s k a.toNat 14) = t) {w : List Nat × Nat} (hw : t.walk (g.readS s k 5).toNat = w) : ∃ body : Group → Nat → Res,
      exec (.rast d a) s = issue (.rast d a) s body
        ∧ body g k = .retire (s.putGroup ((g.rastFilled s d.toNat t w.1).withToken s k w.1.length (BitVec.ofNat 32 w.2))) := by
  have hnone : (List.range 14).find? (triBad (g.sblock s k a.toNat 14)) = none := by
    rw [List.find?_eq_none]
    intro n hn
    rw [h n (List.mem_range.1 hn)]
    exact Bool.false_ne_true
  refine ⟨_, rfl, ?_⟩
  simp only [firstTrap, hnone, Option.map_none, ht, hw]
  rfl

/-- What has been written is told by the contents of the vector registers. -/
theorem runWritten_congr {g h h' : Group} {d n : Nat} {mask : Mask} {f : Nat → Nat → Word} (hw : Claims.RunWritten g h d n mask f)
    (hv : ∀ l, h'.vraw l = h.vraw l) : Claims.RunWritten g h' d n mask f := by
  simpa only [Claims.RunWritten, hv] using hw

/-- RAST of a block that R282 allows: its lanes, MASK and TOKEN (R285, R286). -/
theorem rast_results {s : State} {g : Group} {k : Nat} {d a : R7} (hi : Issues s g k (.rast d a))
    (hok : ∀ n, n < 14 → triBad (g.sblock s k a.toNat 14) n = false) {t : Tri} (ht : triOf (g.sblock s k a.toNat 14) = t) {w : List Nat × Nat}
    (hw : t.walk (g.readS s k 5).toNat = w) :
    ∃ r u, exec (.rast d a) s = .next r ∧ r.group g.uid = some u ∧ u.retired = g.retired + 1 ∧ SameMemory s r
      ∧ u.carries { g.rowAfter k (.rast d a) with mask := filledLanes w.1.length &&& (g.row k).own }
      ∧ Claims.RunWritten g u d.toNat 6 (BitVec.allOnes 96) (t.filledLane w.1) ∧ (∀ n, n ≠ 5 → u.sraw n = g.sraw n)
      ∧ (g.isPending false 5 = false → u.sraw 5 = BitVec.ofNat 32 w.2) := by
  obtain ⟨hg, hlive⟩ := State.issuer_group hi.1
  obtain ⟨body, hexec, hbody⟩ := execRast_keep (d := d) hok ht hw
  have hwritten : Claims.RunWritten g (g.rastFilled s d.toNat t w.1) d.toNat 6 (BitVec.allOnes 96) (t.filledLane w.1) :=
    g.runWritten_writeRun s _ _ _ _ fun j hj => precheck_vregOk hi.2 (List.mem_append_right _ (List.mem_append_right _ (mem_run hj)))
  have hpending : (g.rastFilled s d.toNat t w.1).isPending false 5 = g.isPending false 5 := g.isPending_writeRun ..
  obtain ⟨v, x, o, hfilled⟩ : ∃ v x o, g.rastFilled s d.toNat t w.1 = { g with vregs := v, handler := x, ops := o } := g.writeRun_eq ..
  generalize g.rastFilled s d.toNat t w.1 = f at hbody hwritten hpending hfilled
  have hrow : (f.withToken s k w.1.length (BitVec.ofNat 32 w.2)).row k = { g.row k with mask := filledLanes w.1.length &&& (g.row k).own } := by
    rw [f.row_withToken s k _ _ (by rw [hfilled]; exact Group.row_lt hlive), hfilled]
    rfl
  obtain ⟨z, o', e⟩ := f.withToken_eq s k w.1.length (BitVec.ofNat 32 w.2)
  obtain ⟨r, u, hr, hret⟩ := hi.retires hbody (State.group_putGroup hg (by rw [e, hfilled]; rfl)) (by rw [hrow]; exact hlive)
  refine ⟨r, u, hexec.trans hr, hret.group, ?_, hret.memory, ?_, runWritten_congr hwritten fun l => ?_, fun n hn => ?_, fun hp => ?_⟩
  · rw [hret.retired, e, hfilled]
    rfl
  · have hcarries := hret.carries
    rw [hrow] at hcarries
    exact hcarries
  · rw [hret.vraw, f.vraw_withToken]
  · rw [hret.sraw, f.sraw_withToken_ne s k _ _ hn, hfilled]
    rfl
  · rw [hret.sraw, f.sraw_withToken s k _ _ (hpending.trans hp)]

/-- Settles O49: RAST retires the group in which its lanes, MASK and TOKEN have been written; an edge has opposite directions in the two triangles on
its sides. -/
theorem rasterResults : Obligations.RasterResults := by
  refine ⟨fun s g k d a hi => ⟨fun n => execRast_trap hi, fun hok => ?_⟩, fun t u i j hi hj h x y => Tri.not_both_covered hi hj h⟩
  obtain ⟨r, u, hexec, hgroup, hretired, hmem, hcarries, hwritten, hrest, htoken⟩ := rast_results hi hok rfl rfl
  rw [Tri.walk_token] at htoken
  exact ⟨r, u, _, _, hexec, hgroup, hretired, hmem, Tri.emitted_walk _ _, fun l hl => getLsbD_maskOf _ hl, hcarries, hwritten, hrest, htoken⟩

end Sys2Proof.Machine
end

section
/-! SUPPORT. What a status record brought up to date and an event of a context leave of the slices (R53, R64, R187). -/

namespace Sys2Proof.Machine

/-- Nothing of the slices has changed but the directory. -/
def DirOnly (s t : State) : Prop := ∃ d, t.slices = { s.slices with dir := d }

theorem DirOnly.of_eq {s t : State} (h : t.slices = s.slices) : DirOnly s t := ⟨s.slices.dir, h⟩

theorem DirOnly.refl (s : State) : DirOnly s s := .of_eq rfl

theorem DirOnly.trans {s t u : State} (a : DirOnly s t) (b : DirOnly t u) : DirOnly s u := by
  obtain ⟨d, hd⟩ := a
  obtain ⟨e, he⟩ := b
  exact ⟨e, by rw [he, hd]⟩

theorem DirOnly.foldl {α : Type} {f : State → α → State} (h : ∀ s a, DirOnly s (f s a)) (l : List α) (s : State) : DirOnly s (l.foldl f s) :=
  foldl_relates DirOnly.refl DirOnly.trans h l s

/-! ### Records and events -/

theorem State.logError_slices (s : State) (e : ErrInput) : (s.logError e).slices = s.slices := by
  obtain ⟨_, _, _, _, h⟩ := s.logError_frame e
  rw [h]

theorem State.postRaw_slices (s : State) (e : EvRecord) : (s.postRaw e).slices = s.slices := by
  unfold State.postRaw State.holdEvent State.postNow State.signal
  dsimp only
  split_ifs <;> rfl

theorem State.lastingError_slices (s : State) (e : ErrInput) : (s.lastingError e).slices = s.slices :=
  (State.postRaw_slices _ _).trans (State.logError_slices _ _)

theorem State.transientError_slices (s : State) (e : ErrInput) : (s.transientError e).slices = s.slices := by
  unfold State.transientError
  dsimp only
  split
  · exact State.logError_slices _ _
  · exact (State.postRaw_slices _ _).trans (State.logError_slices _ _)

theorem State.meetSram_slices (s : State) (ctx : Option (BitVec 5)) (a : SramAt) (clean : Option Bool) : (s.meetSram ctx a clean).slices = s.slices := by
  unfold State.meetSram
  split
  · rfl
  · dsimp only
    split
    · rw [State.lastingError_slices]
      split <;> rfl
    · rw [State.transientError_slices]
      split <;> rfl

theorem State.noteBadAccess_slices (s : State) (pa : Nat) (ctx : Option (BitVec 5)) : (s.noteBadAccess pa ctx).slices = s.slices := by
  unfold State.noteBadAccess
  split
  · rfl
  · split
    · exact s.lastingError_slices _
    · split
      · rfl
      · exact s.meetSram_slices ..

theorem State.logLost_slices (s : State) (ctx : BitVec 5) (queue : BitVec 8) (code kind va : Nat) : (s.logLost ctx queue code kind va).slices = s.slices := by
  have hnote (s : State) : (s.noteOwnError ctx va).slices = s.slices := by
    refine List.foldlRecOn (motive := fun t : State => t.slices = s.slices) _ _ rfl fun t ht a _ => ?_
    split
    · exact (t.noteBadAccess_slices ..).trans ht
    · exact ht
  unfold State.logLost
  rw [State.logError_slices]
  split
  · exact hnote s
  · rfl

/-! ### Bytes that the part writes itself -/

theorem State.putBack_slices (s : State) (ctx : BitVec 5) (line : Nat) (bs : List (Nat × Byte)) : (s.putBack ctx line bs).slices = s.slices := by
  have hput : (bs.foldl (fun (t : State) (b : Nat × Byte) => t.physPut (line * 128 + b.1) b.2) s).slices = s.slices :=
    List.foldlRecOn (motive := fun t : State => t.slices = s.slices) _ _ rfl fun t ht b _ => (t.physPut_slices ..).trans ht
  unfold State.putBack
  split
  · rfl
  · dsimp only
    split
    · exact (State.noteBadAccess_slices ..).trans hput
    · exact hput

theorem State.writeBackStash_dirOnly (s : State) (tu ln : Nat) (drop : Bool) : DirOnly s (s.writeBackStash tu ln drop) := by
  unfold State.writeBackStash
  split
  · exact .refl s
  · split
    · exact .refl s
    · have hput := s.putBack_slices
      dsimp only
      split
      · exact (DirOnly.of_eq (hput ..)).trans ⟨_, rfl⟩
      · exact .of_eq (hput ..)

theorem State.recall_dirOnly (s : State) (pa : Nat) (write : Bool) : DirOnly s (s.recall pa write) := by
  unfold State.recall
  split
  · exact .refl s
  · exact (s.writeBackStash_dirOnly ..).trans ⟨_, rfl⟩

theorem State.ctxPut_dirOnly (s : State) (ctx : BitVec 5) (pa : Nat) (b : Byte) : DirOnly s (s.ctxPut ctx pa b) := by
  have h := (s.recall_dirOnly pa true).trans (.of_eq (State.physPut_slices _ pa b))
  unfold State.ctxPut
  dsimp only
  split <;> exact h

theorem State.incGen_slices (s : State) (pa : Nat) : (s.incGen pa).slices = s.slices := by
  unfold State.incGen
  dsimp only
  split
  · exact s.lastingError_slices _
  · rfl

theorem State.ownPut_dirOnly (ctx : BitVec 5) (n : Nat) : ∀ (s : State) (va v : Nat), DirOnly s (s.ownPut ctx va v n) := by
  induction n with
  | zero => exact fun s _ _ => .refl s
  | succ n ih =>
    intro s va v
    unfold State.ownPut
    refine DirOnly.trans ?_ (ih _ _ _)
    split
    · exact s.ctxPut_dirOnly ..
    · exact .refl s

theorem State.ownWrite_dirOnly {s t : State} {ctx : BitVec 5} {va v n : Nat} (e : s.ownWrite ctx va v n = .ok t) : DirOnly s t := by
  unfold State.ownWrite at e
  split at e
  · cases e
  · simp only [Except.ok.injEq] at e
    rw [← e]
    refine (s.ownPut_dirOnly ctx n va v).trans (.foldl (fun u l => ?_) _ _)
    split
    · split
      · exact .of_eq (u.incGen_slices _)
      · exact .refl u
    · exact .refl u

/-! ### The status record and the event -/

theorem State.updateStatus_dirOnly (s : State) (ctx : BitVec 5) : DirOnly s (s.updateStatus ctx) := by
  unfold State.updateStatus
  dsimp only
  split
  · exact .refl s
  · split
    case h_1 h => exact (State.ownWrite_dirOnly h).trans (.of_eq rfl)
    case h_2 =>
      split
      · exact .refl s
      · exact .of_eq ((State.postRaw_slices _ _).trans (State.logLost_slices ..))

theorem State.postCtx_dirOnly (s : State) (ctx : BitVec 5) (type code : Nat) (queue : BitVec 8) (d0 d1 d2 : Nat) :
    DirOnly s (s.postCtx ctx type code queue d0 d1 d2) := (s.updateStatus_dirOnly ctx).trans (.of_eq (State.postRaw_slices _ _))

end Sys2Proof.Machine
end

section
/-! SUPPORT. Ordered sections: what a lane that asks its key's home finds (R288, R289), how far an OSENTER comes, the homes' own steps
(R290 to R292), and O52. -/

namespace Sys2Proof.Machine

/-! ### Entries at their homes (R288) -/

/-- The entry that a key has, or will have as a lane asks for it. -/
def State.atHome (s : State) (ctx : BitVec 5) (key : Dword) : OsEntry := (s.osEntry ctx key).getD (OsEntry.fresh ctx key)

/-- The home of a lane's key is ready for its sequence number. -/
def State.ready (s : State) (ctx : BitVec 5) (h : HeldLane) : Bool :=
  decide ((s.atHome ctx h.key).next = h.seq) && (s.atHome ctx h.key).holder.isNone

/-- The lane with the POISON that it receives. -/
def State.granted (s : State) (ctx : BitVec 5) (h : HeldLane) : HeldLane := { h with poison := (s.atHome ctx h.key).poison }

theorem State.ready_iff (s : State) (ctx : BitVec 5) (h : HeldLane) : s.ready ctx h = true ↔ Claims.homeReady s ctx h := by
  unfold State.ready State.atHome Claims.homeReady
  cases s.osEntry ctx h.key with
  | some e => simp
  | none =>
    simp only [Option.getD_none, OsEntry.fresh, Option.isNone_none, Bool.and_true]
    exact decide_eq_true_iff.trans eq_comm

theorem State.poison_atHome (s : State) (ctx : BitVec 5) (key : Dword) : (s.atHome ctx key).poison = Claims.poisoned s ctx key := by
  unfold State.atHome Claims.poisoned
  cases s.osEntry ctx key <;> rfl

theorem OsEntry.isFor_iff (e : OsEntry) (ctx : BitVec 5) (key : Dword) : e.isFor ctx key = true ↔ e.ctx = ctx ∧ e.key = key := by
  simp [OsEntry.isFor]

theorem OsEntry.isFor_other {e : OsEntry} {c d : BitVec 5} {q r : Dword} (h : e.isFor c q = true) (hne : (d, r) ≠ (c, q)) : e.isFor d r = false := by
  rw [OsEntry.isFor_iff] at h
  obtain ⟨rfl, rfl⟩ := h
  rw [Bool.eq_false_iff, ne_eq, OsEntry.isFor_iff]
  exact fun ⟨h1, h2⟩ => hne (by rw [h1, h2])

section
variable (s : State) (c d : BitVec 5) (q r : Dword)

/-- A change of a key's entry that leaves its name changes that entry. -/
theorem State.osEntry_setOs_self {f : OsEntry → OsEntry} (hf : ∀ e, (f e).ctx = e.ctx ∧ (f e).key = e.key) :
    (s.setOs c q f).osEntry c q = (s.osEntry c q).map f := by
  have hfor (e : OsEntry) : (if e.isFor c q then f e else e).isFor c q = e.isFor c q := by
    split
    · simp [OsEntry.isFor, hf]
    · rfl
  unfold State.osEntry State.setOs State.mapOs
  simp only [List.find?_map, Function.comp_def, hfor]
  cases h : s.slices.osHomes.find? fun e => e.isFor c q with
  | none => rfl
  | some e => simp [List.find?_some h]

/-- It leaves every other key's entry as it was. -/
theorem State.osEntry_setOs_ne {f : OsEntry → OsEntry} (hf : ∀ e, (f e).ctx = e.ctx ∧ (f e).key = e.key) (hne : (d, r) ≠ (c, q)) :
    (s.setOs c q f).osEntry d r = s.osEntry d r := by
  have hfor (e : OsEntry) : (if e.isFor c q then f e else e).isFor d r = e.isFor d r := by
    split
    · simp [OsEntry.isFor, hf]
    · rfl
  unfold State.osEntry State.setOs State.mapOs
  simp only [List.find?_map, Function.comp_def, hfor]
  cases h : s.slices.osHomes.find? fun e => e.isFor d r with
  | none => rfl
  | some e =>
    have hother := OsEntry.isFor_other (e := e) (by simpa using List.find?_some h) hne.symm
    simp [hother]

theorem State.osEntry_drop_self : (s.mapOs fun es => es.filter fun e => !e.isFor c q).osEntry c q = none := by
  simp [State.osEntry, State.mapOs, List.find?_eq_none]

theorem State.osEntry_drop_ne (hne : (d, r) ≠ (c, q)) : (s.mapOs fun es => es.filter fun e => !e.isFor c q).osEntry d r = s.osEntry d r := by
  unfold State.osEntry State.mapOs
  simp only [List.find?_filter]
  congr 1
  funext e
  cases h : e.isFor d r with
  | false => simp
  | true => simp [OsEntry.isFor_other h hne.symm]

/-- The home gives a key an entry where it has none. -/
def State.opened : State := if (s.osEntry c q).isSome then s else s.mapOs fun es => OsEntry.fresh c q :: es

theorem State.osEntry_opened_self : (s.opened c q).osEntry c q = some (s.atHome c q) := by
  unfold State.opened State.atHome
  cases h : s.osEntry c q with
  | some e => simp [h]
  | none => simp [State.osEntry, State.mapOs, OsEntry.isFor, OsEntry.fresh]

theorem State.osEntry_opened_ne (hne : (d, r) ≠ (c, q)) : (s.opened c q).osEntry d r = s.osEntry d r := by
  have hfresh : (OsEntry.fresh c q).isFor d r = false := OsEntry.isFor_other (by simp [OsEntry.isFor, OsEntry.fresh]) hne
  unfold State.opened
  split
  · rfl
  · simp [State.osEntry, State.mapOs, hfresh]

end

/-! ### A lane asks (R288, R289) -/

/-- From s to t the home of one key may have changed, by one entry more, and the record of the keys that stall; nothing else has. -/
structure AsksHome (s t : State) (ctx : BitVec 5) (key : Dword) : Prop where
  state : t = { s with slices := { s.slices with osHomes := t.slices.osHomes, osStalled := t.slices.osStalled } }
  length : t.slices.osHomes.length ≤ s.slices.osHomes.length + 1
  others : ∀ q, q ≠ key → t.osEntry ctx q = s.osEntry ctx q

theorem State.osFlush_of_none {s : State} {ctx : BitVec 5} {key : Dword} (h : ∀ m ∈ s.slices.osMsgs, m.ctx = ctx → m.key ≠ key) :
    s.osFlush ctx key = s := by
  have hmine : (s.slices.osMsgs.filter fun m => m.ctx == ctx && m.key == key) = [] := by
    simpa only [List.filter_eq_nil_iff, Bool.and_eq_true, beq_iff_eq, not_and] using h
  have hrest : (s.slices.osMsgs.filter fun m => !(m.ctx == ctx && m.key == key)) = s.slices.osMsgs := by
    simpa only [List.filter_eq_self, Bool.not_eq_true', Bool.and_eq_false_imp, beq_iff_eq, beq_eq_false_iff_ne] using h
  simp only [State.osFlush, hmine, hrest, List.foldl_nil]

theorem State.opened_asksHome (s : State) (ctx : BitVec 5) (key : Dword) : AsksHome s (s.opened ctx key) ctx key := by
  refine ⟨?_, ?_, fun q hq => s.osEntry_opened_ne ctx ctx key q fun h => hq (congrArg Prod.snd h)⟩
  · unfold State.opened
    split <;> rfl
  · unfold State.opened
    split
    · exact Nat.le_succ _
    · exact Nat.le_refl _

/-- What a lane that asks is answered, where nothing is on its way to its key, its core's cache has the key, and its home has room. -/
theorem State.osAsk_result {s : State} {g : Group} {h : HeldLane} (hcalm : ∀ m ∈ s.slices.osMsgs, m.ctx = g.ctx → m.key ≠ h.key)
    (hcache : ((s.osCoreKeys g.core).take 512).contains (g.ctx, h.key) = true) (hroom : s.slices.osHomes.length < 4096) :
    ∃ t, s.osAsk g h = (if s.ready g.ctx h then some (s.granted g.ctx h) else none, t) ∧ AsksHome s t g.ctx h.key
      ∧ (s.ready g.ctx h = true → t.osEntry g.ctx h.key
          = some { s.atHome g.ctx h.key with poison := false, holder := some (g.uid, h.lane) }) := by
  have hhas : s.osRoom h.key = true := decide_eq_true (Nat.lt_of_le_of_lt (List.length_filter_le ..) hroom)
  have hopen : (if (s.osEntry g.ctx h.key).isSome || !s.osRoom h.key then s else s.mapOs fun es => OsEntry.fresh g.ctx h.key :: es)
      = s.opened g.ctx h.key := by
    rw [hhas, Bool.not_true, Bool.or_false]
    rfl
  obtain ⟨hstate, hlength, hothers⟩ := s.opened_asksHome g.ctx h.key
  have hname (e : OsEntry) : ({ e with poison := false, holder := some (g.uid, h.lane) } : OsEntry).ctx = e.ctx
      ∧ ({ e with poison := false, holder := some (g.uid, h.lane) } : OsEntry).key = e.key := ⟨rfl, rfl⟩
  unfold State.osAsk
  simp only [State.osFlush_of_none hcalm, hcache, Bool.not_true, Bool.false_eq_true, if_false, hopen, State.osEntry_opened_self]
  cases ha : s.ready g.ctx h with
  | false =>
    have hcond : (decide ((s.atHome g.ctx h.key).next = h.seq) && (s.atHome g.ctx h.key).holder.isNone) = false := ha
    rw [hcond, if_neg Bool.false_ne_true]
    exact ⟨_, rfl, ⟨hstate, hlength, hothers⟩, fun hc => absurd hc Bool.false_ne_true⟩
  | true =>
    have hcond : (decide ((s.atHome g.ctx h.key).next = h.seq) && (s.atHome g.ctx h.key).holder.isNone) = true := ha
    rw [hcond, if_pos rfl]
    refine ⟨_, rfl, ⟨?_, ?_, fun q hq => ?_⟩, fun _ => ?_⟩
    · rw [hstate]
      rfl
    · refine Nat.le_trans (Nat.le_of_eq ?_) hlength
      exact List.length_map ..
    · exact ((s.opened g.ctx h.key).osEntry_setOs_ne _ _ _ q hname fun hc => hq (congrArg Prod.snd hc)).trans (hothers q hq)
    · exact ((s.opened g.ctx h.key).osEntry_setOs_self _ _ hname).trans (by rw [State.osEntry_opened_self]; rfl)

/-! ### The cache of a core (R288) -/

/-- The lanes of a group that hold a key, have entered, or wait. -/
def Group.keyLanes (x : Group) : List HeldLane := x.held.flatten ++ x.entering.flatMap fun e => e.lanes ++ e.waiting

theorem State.mem_osCoreKeys {s : State} {core : Nat} {p : BitVec 5 × Dword} :
    p ∈ s.osCoreKeys core ↔ ∃ x ∈ s.groups, x.core = core ∧ s.onCore x = true ∧ ∃ h ∈ x.keyLanes, (x.ctx, h.key) = p := by
  simp only [State.osCoreKeys, Group.keyLanes, List.mem_eraseDups, List.mem_append, List.mem_flatMap, List.mem_filter, List.mem_map,
    Bool.and_eq_true, beq_iff_eq]
  constructor
  · rintro (⟨x, ⟨hx, hc, ho⟩, h, hh | ⟨e, he, hh⟩, rfl⟩ | ⟨x, ⟨hx, hc, ho⟩, h, ⟨e, he, hh⟩, rfl⟩)
    · exact ⟨x, hx, hc, ho, h, .inl hh, rfl⟩
    · exact ⟨x, hx, hc, ho, h, .inr ⟨e, he, .inl hh⟩, rfl⟩
    · exact ⟨x, hx, hc, ho, h, .inr ⟨e, he, .inr hh⟩, rfl⟩
  · rintro ⟨x, hx, hc, ho, h, hh | ⟨e, he, hh | hh⟩, rfl⟩
    · exact .inl ⟨x, ⟨hx, hc, ho⟩, h, .inl hh, rfl⟩
    · exact .inl ⟨x, ⟨hx, hc, ho⟩, h, .inr ⟨e, he, hh⟩, rfl⟩
    · exact .inr ⟨x, ⟨hx, hc, ho⟩, h, ⟨e, he, hh⟩, rfl⟩

theorem nodup_eraseDups {α : Type} [BEq α] [LawfulBEq α] : ∀ l : List α, l.eraseDups.Nodup
  | [] => List.nodup_nil
  | a :: l => by
    rw [List.eraseDups_cons, List.nodup_cons, List.mem_eraseDups, List.mem_filter]
    exact ⟨by simp, nodup_eraseDups _⟩
termination_by l => l.length
decreasing_by exact Nat.lt_succ_of_le (List.length_filter_le ..)

theorem State.osCoreKeys_nodup (s : State) (core : Nat) : (s.osCoreKeys core).Nodup := nodup_eraseDups _

/-! ### An OSENTER under way -/

/-- A lane has entered under the OSENTER of a row at a PC. -/
def Group.enterLane (x : Group) (row : Nat) (pc : Pc) (h : HeldLane) : Group :=
  { x with entering := x.entering.map fun e => if e.isAt row pc then e.enter h else e }

section
variable {t u : State} {uid : Nat} {g : Group} (hg : t.group uid = some g) {h h' : HeldLane} (row : Nat) (pc : Pc)
include hg

theorem State.osAskLane_refused (ha : t.osAsk g h = (none, u)) : t.osAskLane uid row pc h = u := by
  simp only [State.osAskLane, hg, ha]

theorem State.osAskLane_granted (ha : t.osAsk g h = (some h', u)) :
    t.osAskLane uid row pc h = u.modGroup uid fun g => g.enterLane row pc h' := by
  simp only [State.osAskLane, hg, ha]
  rfl

end

section
variable {s : State} {g : Group} {k : Nat} (hnone : ∀ e ∈ g.entering, e.pc ≠ (g.row k).pc)
include hnone

/-- Where no OSENTER at the row's PC is under way, those of the others are the group's own and stand elsewhere. -/
theorem Group.mem_others {e : Entering} (he : e ∈ g.others k (g.row k).pc) : e ∈ g.entering ∧ e.pc ≠ (g.row k).pc := by
  unfold Group.others at he
  rw [List.mem_filter, List.mem_map] at he
  obtain ⟨⟨x, hx, rfl⟩, -⟩ := he
  have hmem := List.mem_of_mem_filter hx
  rw [if_neg (hnone x hmem)]
  exact ⟨hmem, hnone x hmem⟩

theorem Group.entered_of_none : g.entered k (g.row k).pc = [] := by
  have hf : (g.entering.filter fun e => e.pc == (g.row k).pc) = [] := by
    simpa [List.filter_eq_nil_iff] using hnone
  rw [Group.entered, hf, List.flatMap_nil]

theorem Group.asking_of_none (a b : R7) : g.asking s k a b = Claims.asked s g k a b := by
  unfold Group.asking Claims.asked
  rw [g.entered_of_none hnone]
  rfl

theorem Group.entered_setEntering {l w : List HeldLane} (hl : ∀ h ∈ l, (g.row k).mask.getLsbD h.lane = true) :
    (g.setEntering k (g.row k).pc l w).entered k (g.row k).pc = l := by
  have hf : ((g.others k (g.row k).pc).filter fun e => e.pc == (g.row k).pc) = [] := by
    simpa [List.filter_eq_nil_iff] using fun e he => (g.mem_others hnone he).2
  have hl' : l.filter (fun h => (g.row k).mask.getLsbD h.lane) = l := List.filter_eq_self.2 hl
  unfold Group.entered Group.setEntering
  simp only [List.filter_cons, beq_self_eq_true, if_true, hf, List.flatMap_cons, List.flatMap_nil, List.append_nil]
  exact hl'

theorem Group.enterLane_setEntering (l w : List HeldLane) (h : HeldLane) : (g.setEntering k (g.row k).pc l w).enterLane k (g.row k).pc h
    = g.setEntering k (g.row k).pc (l ++ [h]) (w.filter fun x => x.lane != h.lane) := by
  have hothers : (g.others k (g.row k).pc).map (fun e => if e.isAt k (g.row k).pc then e.enter h else e) = g.others k (g.row k).pc := by
    refine (List.map_congr_left (g := id) fun e he => if_neg ?_).trans (List.map_id _)
    simp [Entering.isAt, (g.mem_others hnone he).2]
  simp only [Group.setEntering, Group.enterLane, List.map_cons, hothers]
  simp [Entering.isAt, Entering.enter]

/-- The keys of the group are those that it had and those that its OSENTER asks for. -/
theorem Group.keyLanes_setEntering {l w : List HeldLane} {h : HeldLane} (hh : h ∈ (g.setEntering k (g.row k).pc l w).keyLanes) :
    h ∈ g.keyLanes ∨ h ∈ l ∨ h ∈ w := by
  simp only [Group.keyLanes, Group.setEntering, List.flatMap_cons, List.mem_append, List.mem_flatMap] at hh ⊢
  obtain hh | (hh | hh) | ⟨e, he, hh⟩ := hh
  · exact .inl (.inl hh)
  · exact .inr (.inl hh)
  · exact .inr (.inr hh)
  · exact .inl (.inr ⟨e, (g.mem_others hnone he).1, hh⟩)

end

theorem Group.enteringAt_setEntering (g : Group) (k : Nat) (pc : Pc) (l w : List HeldLane) :
    (g.setEntering k pc l w).enteringAt k pc = some { row := k, pc := pc, lanes := l, waiting := w } := by
  simp [Group.enteringAt, Group.setEntering, Entering.isAt]

/-! ### The lanes of an OSENTER ask one after the other (R289) -/

/-- The conditions of O52's clause on OSENTER: nothing is on its way to a key that it names, and the homes and the core's cache have room. -/
structure MayEnter (s : State) (g : Group) (k : Nat) (ask : List HeldLane) : Prop where
  unbegun : ∀ e ∈ g.entering, e.pc ≠ (g.row k).pc
  calm : ∀ m ∈ s.slices.osMsgs, m.ctx = g.ctx → ∀ h ∈ ask, m.key ≠ h.key
  homes : s.slices.osHomes.length + ask.length ≤ 4096
  cache : (s.osCoreKeys g.core).length + ask.length ≤ 512
  group : s.group g.uid = some g
  onCore : s.onCore g = true
  keys : (ask.map fun h => h.key).Nodup
  lanes : ∀ x ∈ ask, ∀ y ∈ ask, x.lane = y.lane → x = y

/-- The groups of t are those of s, but for one, which is g' now. -/
structure OnlyGroup (s t : State) (uid : Nat) (g' : Group) : Prop where
  group : t.group uid = some g'
  groups : ∀ x ∈ t.groups, (x ∈ s.groups ∧ x.uid ≠ uid) ∨ x = g'

theorem OnlyGroup.congr {s t u : State} {uid : Nat} {g' : Group} (h : OnlyGroup s t uid g') (hu : u.groups = t.groups) : OnlyGroup s u uid g' := by
  obtain ⟨hg, hgs⟩ := h
  exact ⟨by rw [State.group, hu]; exact hg, by rw [hu]; exact hgs⟩

theorem OnlyGroup.modGroup {s t : State} {uid : Nat} {g' : Group} (h : OnlyGroup s t uid g') {f : Group → Group}
    (hf : ∀ x, x.uid = uid → (f x).uid = uid) : OnlyGroup s (t.modGroup uid f) uid (f g') := by
  refine ⟨State.group_modGroup h.group hf, fun x hx => ?_⟩
  obtain ⟨y, hy, rfl⟩ := List.mem_map.1 hx
  obtain ⟨hys, hne⟩ | rfl := h.groups y hy
  · left
    rw [if_neg hne]
    exact ⟨hys, hne⟩
  · exact .inr (if_pos (State.group_uid h.group))

theorem OnlyGroup.putGroup {s : State} {g g' : Group} (hg : s.group g.uid = some g) (hu : g'.uid = g.uid) : OnlyGroup s (s.putGroup g') g.uid g' := by
  refine ⟨State.group_putGroup hg hu, fun x hx => ?_⟩
  obtain ⟨y, hy, rfl⟩ := List.mem_map.1 hx
  dsimp only
  rw [hu]
  split
  · exact .inr rfl
  · exact .inl ⟨hy, ‹_›⟩

/-- Of the lanes that an OSENTER names, those seen have asked: l are the lanes that have entered, and w the others, with those that have
not asked. -/
structure LanesAsked (s : State) (g : Group) (ask seen l w : List HeldLane) : Prop where
  entered : l = (seen.filter (s.ready g.ctx)).map (s.granted g.ctx)
  waiting : ∀ x, x ∈ w ↔ x ∈ ask ∧ ¬ (x ∈ seen ∧ s.ready g.ctx x = true)

section
variable {s : State} {g : Group} {ask seen l w : List HeldLane} {h : HeldLane} (hl : LanesAsked s g ask seen l w)
include hl

theorem LanesAsked.refuse (ha : s.ready g.ctx h = false) : LanesAsked s g ask (seen ++ [h]) l w := by
  refine ⟨?_, fun x => ?_⟩
  · rw [hl.entered, List.filter_append, List.filter_singleton, ha, cond_false, List.append_nil]
  · have hx : x = h → s.ready g.ctx x = false := fun e => e ▸ ha
    rw [hl.waiting, List.mem_append, List.mem_singleton]
    grind

theorem LanesAsked.enter (hlanes : ∀ x ∈ ask, x.lane = h.lane → x = h) (ha : s.ready g.ctx h = true) :
    LanesAsked s g ask (seen ++ [h]) (l ++ [s.granted g.ctx h]) (w.filter fun x => x.lane != h.lane) := by
  refine ⟨?_, fun x => ?_⟩
  · rw [hl.entered, List.filter_append, List.filter_singleton, ha, cond_true, List.map_append, List.map_singleton]
  · have hx : x ∈ ask → (x.lane = h.lane ↔ x = h) := fun hx => ⟨hlanes x hx, congrArg HeldLane.lane⟩
    rw [List.mem_filter, hl.waiting, List.mem_append, List.mem_singleton, bne_iff_ne]
    grind

end

/-- Nothing but groups, homes and the record of the keys that stall has changed as the lanes seen asked; the keys that are not theirs have the entries
that they had, and the lanes that have entered hold their keys. -/
structure HomesAsked (s : State) (g : Group) (seen : List HeldLane) (t : State) : Prop where
  state : t = { s with groups := t.groups, slices := { s.slices with osHomes := t.slices.osHomes, osStalled := t.slices.osStalled } }
  length : t.slices.osHomes.length ≤ s.slices.osHomes.length + seen.length
  unasked : ∀ q, q ∉ seen.map (fun h => h.key) → t.osEntry g.ctx q = s.osEntry g.ctx q
  holds : ∀ h ∈ seen, s.ready g.ctx h = true → t.osEntry g.ctx h.key
    = some { s.atHome g.ctx h.key with poison := false, holder := some (g.uid, h.lane) }

theorem HomesAsked.modGroup {s t : State} {g : Group} {seen : List HeldLane} (h : HomesAsked s g seen t) (uid : Nat) (f : Group → Group) :
    HomesAsked s g seen (t.modGroup uid f) := by
  obtain ⟨hstate, hlength, hunasked, hholds⟩ := h
  refine ⟨?_, hlength, hunasked, hholds⟩
  rw [State.modGroup, hstate]

theorem HomesAsked.ask {s t u : State} {g : Group} {seen : List HeldLane} {h : HeldLane} (hs : HomesAsked s g seen t)
    (hkey : h.key ∉ seen.map fun h => h.key) (hu : AsksHome t u g.ctx h.key)
    (hh : s.ready g.ctx h = true → u.osEntry g.ctx h.key = some { s.atHome g.ctx h.key with poison := false, holder := some (g.uid, h.lane) }) :
    HomesAsked s g (seen ++ [h]) u := by
  refine ⟨?_, ?_, fun q hq => ?_, fun x hx ha => ?_⟩
  · rw [hu.state, hs.state]
  · rw [List.length_append, List.length_singleton]
    exact hu.length.trans (Nat.add_le_add_right hs.length 1)
  · rw [List.map_append, List.mem_append, not_or] at hq
    obtain ⟨hq, hne⟩ := hq
    exact (hu.others q (by simpa using hne)).trans (hs.unasked q hq)
  · obtain hx | hx := List.mem_append.1 hx
    · exact (hu.others x.key fun hc => hkey (hc ▸ List.mem_map_of_mem hx)).trans (hs.holds x hx ha)
    · obtain rfl := List.mem_singleton.1 hx
      exact hh ha

/-- The lanes seen of an OSENTER have asked. -/
structure HaveAsked (s : State) (g : Group) (k : Nat) (ask seen l w : List HeldLane) (t : State) : Prop
    extends LanesAsked s g ask seen l w, HomesAsked s g seen t, OnlyGroup s t g.uid (g.setEntering k (g.row k).pc l w)

section
variable {s t : State} {g : Group} {k : Nat} {ask seen l w : List HeldLane} (hm : MayEnter s g k ask) (hs : HaveAsked s g k ask seen l w t)
include hm hs

/-- The core's cache has an entry for every key that the OSENTER names. -/
theorem HaveAsked.cached (hseen : ∀ x ∈ seen, x ∈ ask) {h : HeldLane} (hh : h ∈ w) :
    ((t.osCoreKeys g.core).take 512).contains (g.ctx, h.key) = true := by
  have honCore (x : Group) : t.onCore x = s.onCore x := by rw [hs.state]; rfl
  have hold {y : HeldLane} (hy : y ∈ g.keyLanes) : (g.ctx, y.key) ∈ s.osCoreKeys g.core :=
    State.mem_osCoreKeys.2 ⟨g, List.mem_of_find?_eq_some hm.group, rfl, hm.onCore, y, hy, rfl⟩
  have hsub : ∀ p ∈ t.osCoreKeys g.core, p ∈ s.osCoreKeys g.core ++ ask.map fun h => (g.ctx, h.key) := by
    intro p hp
    obtain ⟨x, hx, hc, ho, y, hy, rfl⟩ := State.mem_osCoreKeys.1 hp
    rw [List.mem_append]
    obtain ⟨hx, -⟩ | rfl := hs.groups x hx
    · exact .inl (State.mem_osCoreKeys.2 ⟨x, hx, hc, (honCore x).symm.trans ho, y, hy, rfl⟩)
    · obtain hy | hy | hy := g.keyLanes_setEntering hm.unbegun hy
      · exact .inl (hold hy)
      · rw [hs.entered, List.mem_map] at hy
        obtain ⟨z, hz, rfl⟩ := hy
        exact .inr (List.mem_map.2 ⟨z, hseen z (List.mem_of_mem_filter hz), rfl⟩)
      · exact .inr (List.mem_map.2 ⟨y, ((hs.waiting y).1 hy).1, rfl⟩)
  have hlen := ((t.osCoreKeys_nodup g.core).subperm hsub).length_le
  rw [List.length_append, List.length_map] at hlen
  rw [List.take_of_length_le (hlen.trans hm.cache), List.contains_iff_mem, State.mem_osCoreKeys]
  refine ⟨_, List.mem_of_find?_eq_some hs.group, rfl, (honCore _).trans hm.onCore, h, ?_, rfl⟩
  simp only [Group.keyLanes, Group.setEntering, List.flatMap_cons, List.mem_append]
  exact .inr (.inl (.inr hh))

/-- One more lane asks, and is answered as its key's home stood when the OSENTER issued. -/
theorem HaveAsked.answer {h : HeldLane} {rest : List HeldLane} (hask : ask = seen ++ h :: rest) :
    ∃ u, t.osAsk (g.setEntering k (g.row k).pc l w) h = (if s.ready g.ctx h then some (s.granted g.ctx h) else none, u)
      ∧ u.groups = t.groups ∧ HomesAsked s g (seen ++ [h]) u := by
  have hmem : h ∈ ask := by simp [hask]
  have hkey : h.key ∉ seen.map fun h => h.key := by
    have hnd := hm.keys
    rw [hask, List.map_append, List.nodup_append] at hnd
    obtain ⟨-, -, hne⟩ := hnd
    exact fun hc => hne _ hc _ (by simp) rfl
  have hw : h ∈ w := (hs.waiting h).2 ⟨hmem, fun hc => hkey (List.mem_map_of_mem hc.1)⟩
  have hsame : t.atHome g.ctx h.key = s.atHome g.ctx h.key := by rw [State.atHome, hs.unasked _ hkey]; rfl
  have hready : t.ready g.ctx h = s.ready g.ctx h := by rw [State.ready, hsame]; rfl
  have hgranted : t.granted g.ctx h = s.granted g.ctx h := by rw [State.granted, hsame]; rfl
  have hmsgs : t.slices.osMsgs = s.slices.osMsgs := by rw [hs.state]
  have hroom : t.slices.osHomes.length < 4096 := by
    have hlength := hs.length
    have hhomes := hm.homes
    rw [hask, List.length_append, List.length_cons] at hhomes
    omega
  obtain ⟨u, hu, hasks, hholds⟩ := State.osAsk_result (s := t) (g := g.setEntering k (g.row k).pc l w)
    (fun m hmm hc => hm.calm m (hmsgs ▸ hmm) hc h hmem) (hs.cached hm (fun x hx => by simp [hask, hx]) hw) hroom
  have hctx : (g.setEntering k (g.row k).pc l w).ctx = g.ctx := rfl
  have huid : (g.setEntering k (g.row k).pc l w).uid = g.uid := rfl
  rw [hctx] at hu hasks hholds
  rw [hready, hgranted] at hu
  rw [hready, hsame, huid] at hholds
  exact ⟨u, hu, by rw [hasks.state], hs.toHomesAsked.ask hkey hasks hholds⟩

theorem HaveAsked.step {h : HeldLane} {rest : List HeldLane} (hask : ask = seen ++ h :: rest) :
    ∃ l' w', HaveAsked s g k ask (seen ++ [h]) l' w' (t.osAskLane g.uid k (g.row k).pc h) := by
  obtain ⟨u, hu, hgroups, hhomes⟩ := hs.answer hm hask
  have honly := hs.toOnlyGroup.congr hgroups
  cases ha : s.ready g.ctx h with
  | false =>
    rw [ha, if_neg Bool.false_ne_true] at hu
    rw [State.osAskLane_refused hs.group _ _ hu]
    exact ⟨l, w, hs.toLanesAsked.refuse ha, hhomes, honly⟩
  | true =>
    rw [ha, if_pos rfl] at hu
    rw [State.osAskLane_granted hs.group _ _ hu]
    have hput := honly.modGroup (f := fun x => x.enterLane k (g.row k).pc (s.granted g.ctx h)) fun _ hx => hx
    rw [g.enterLane_setEntering hm.unbegun] at hput
    exact ⟨_, _, hs.toLanesAsked.enter (fun x hx => hm.lanes x hx h (by simp [hask])) ha, hhomes.modGroup .., hput⟩

end

section
variable {s : State} {g : Group} {k : Nat} {ask : List HeldLane}

/-! ### OSENTER (R289, R428) -/

theorem HaveAsked.start (hm : MayEnter s g k ask) :
    HaveAsked s g k ask [] [] ask (s.putGroup (g.setEntering k (g.row k).pc [] ask)) :=
  ⟨⟨rfl, fun x => by simp⟩, ⟨rfl, Nat.le_refl _, fun _ _ => rfl, fun _ hx => absurd hx List.not_mem_nil⟩, OnlyGroup.putGroup hm.group rfl⟩

theorem HaveAsked.all (hm : MayEnter s g k ask) : ∀ (rest seen l w : List HeldLane) (t : State), ask = seen ++ rest → HaveAsked s g k ask seen l w t →
    ∃ l' w', HaveAsked s g k ask ask l' w' (rest.foldl (fun t h => t.osAskLane g.uid k (g.row k).pc h) t)
  | [], seen, l, w, t, hask, hs => by
    rw [List.append_nil] at hask
    exact ⟨l, w, by rw [← hask] at hs; exact hs⟩
  | h :: rest, seen, l, w, t, hask, hs => by
    obtain ⟨l', w', hs'⟩ := hs.step hm hask
    exact HaveAsked.all hm rest (seen ++ [h]) l' w' _ (by rw [hask, List.append_assoc]; rfl) hs'

/-- Every lane of an OSENTER asks as it issues. -/
theorem MayEnter.asks (hm : MayEnter s g k ask) :
    ∃ l w, HaveAsked s g k ask ask l w ((s.putGroup (g.setEntering k (g.row k).pc [] ask)).osTry g.uid k (g.row k).pc none) := by
  have hstart := HaveAsked.start hm
  have htry : (s.putGroup (g.setEntering k (g.row k).pc [] ask)).osTry g.uid k (g.row k).pc none
      = ask.foldl (fun t h => t.osAskLane g.uid k (g.row k).pc h) (s.putGroup (g.setEntering k (g.row k).pc [] ask)) := by
    unfold State.osTry
    rw [hstart.group, Option.bind_some, Group.enteringAt_setEntering]
    simp
  rw [htry]
  exact HaveAsked.all hm ask [] [] ask _ rfl hstart

end

/-- What OSENTER does once every lane has asked, which has made state t. -/
def osenterRes (s : State) (g : Group) (k : Nat) (d : R7) (t : State) : Res :=
  match ((t.regroup g).enteringAt k (g.row k).pc).map (·.waiting) with
  | some (_ :: _) => .hold .osEnter t
  | _ => .retire (t.putGroup ((t.regroup g).enterDone s k d))

section
variable {s : State} {g : Group} {k : Nat} {d a b : R7}

theorem mem_asked {h : HeldLane} (hh : h ∈ Claims.asked s g k a b) : h.lane < 96 ∧ (g.row k).mask.getLsbD h.lane = true := by
  obtain ⟨i, hi, rfl⟩ := List.mem_map.1 hh
  obtain ⟨hi, hm⟩ := List.mem_filter.1 hi
  exact ⟨List.mem_range.1 hi, hm⟩

theorem exists_asked {l : Nat} (hl : l < 96) (hm : (g.row k).mask.getLsbD l = true) : ∃ h ∈ Claims.asked s g k a b, h.lane = l :=
  ⟨_, List.mem_map_of_mem (List.mem_filter.2 ⟨List.mem_range.2 hl, hm⟩), rfl⟩

theorem asked_lanes : ∀ x ∈ Claims.asked s g k a b, ∀ y ∈ Claims.asked s g k a b, x.lane = y.lane → x = y := by
  intro x hx y hy hxy
  obtain ⟨i, -, rfl⟩ := List.mem_map.1 hx
  obtain ⟨j, -, rfl⟩ := List.mem_map.1 hy
  obtain rfl : i = j := hxy
  rfl

theorem asked_length : (Claims.asked s g k a b).length ≤ 96 := by
  rw [Claims.asked, List.length_map]
  exact (List.length_filter_le ..).trans (Nat.le_of_eq List.length_range)

theorem getLsbD_osDup (g : Group) (ask : List HeldLane) {l : Nat} (hl : l < 96) : (osDup g ask).getLsbD l = true ↔
    ∃ h ∈ ask, h.lane = l ∧ (h.key ∈ g.held.flatten.map (fun x => x.key) ∨ ∃ x ∈ ask, x.lane ≠ l ∧ x.key = h.key) := by
  unfold osDup
  rw [getLsbD_maskOf _ hl]
  simp only [List.any_eq_true, Bool.and_eq_true, Bool.or_eq_true, beq_iff_eq, bne_iff_ne, List.contains_iff_mem]

/-- No lane is named where every key is new and named once. -/
theorem osDup_eq_zero {ask : List HeldLane} (hheld : ∀ h ∈ ask, h.key ∉ g.held.flatten.map (fun x => x.key)) (hnd : (ask.map fun h => h.key).Nodup) :
    osDup g ask = 0 := by
  refine BitVec.eq_of_getLsbD_eq fun l hl => ?_
  refine (Bool.eq_false_iff.2 fun hc => ?_).trans BitVec.getLsbD_zero.symm
  rw [getLsbD_osDup g ask hl] at hc
  obtain ⟨h, hh, rfl, hk | ⟨x, hx, hne, hk⟩⟩ := hc
  · exact hheld h hh hk
  · exact hne (congrArg HeldLane.lane (List.inj_on_of_nodup_map hnd hx hh hk))

section
variable (hi : Issues s g k (.osenter d a b)) (hnone : ∀ e ∈ g.entering, e.pc ≠ (g.row k).pc)
include hi hnone

theorem osenter_dup (hdup : osDup g (Claims.asked s g k a b) ≠ 0) :
    Traps (.osenter d a b) s g k ⟨0x68, 0, 0, osDup g (Claims.asked s g k a b), 0⟩ := by
  refine hi.concludes (r := .trap _) ?_
  simp only [g.asking_of_none hnone, if_pos hdup]

theorem osenter_depth (hdup : osDup g (Claims.asked s g k a b) = 0) (hd : 8 ≤ g.held.length) : Traps (.osenter d a b) s g k (trapOf 0x69) := by
  refine hi.concludes (r := .trap _) ?_
  simp only [g.asking_of_none hnone, hdup, ne_eq, not_true_eq_false, if_false, if_pos hd]

end

/-- Past its traps an OSENTER outside a deterministic round has its lanes ask. -/
theorem osenter_asks (hnone : ∀ e ∈ g.entering, e.pc ≠ (g.row k).pc) (hdup : osDup g (Claims.asked s g k a b) = 0) (hd : g.held.length < 8)
    (hdet : s.det g = false) : ∃ body : Group → Nat → Res, exec (.osenter d a b) s = issue (.osenter d a b) s body ∧ body g k = osenterRes s g k d
      ((s.putGroup (g.setEntering k (g.row k).pc [] (Claims.asked s g k a b))).osTry g.uid k (g.row k).pc none) := by
  refine ⟨_, rfl, ?_⟩
  simp only [g.asking_of_none hnone, hdup, ne_eq, not_true_eq_false, if_false, Nat.not_le.2 hd, g.entered_of_none hnone, hdet, Bool.false_eq_true,
    List.any_nil, Bool.not_false, List.filter_true]
  rfl

/-- Where some lane waits, the row waits. -/
theorem HaveAsked.osenterRes_hold {t : State} {ask l w : List HeldLane} (hs : HaveAsked s g k ask ask l w t) (hw : w ≠ []) :
    osenterRes s g k d t = .hold .osEnter t := by
  obtain ⟨x, w', rfl⟩ := List.exists_cons_of_ne_nil hw
  unfold osenterRes State.regroup
  rw [hs.group, Option.getD_some, Group.enteringAt_setEntering]
  rfl

/-- Where no lane waits, the instruction is done. -/
theorem HaveAsked.osenterRes_retire {t : State} {ask l : List HeldLane} (hs : HaveAsked s g k ask ask l [] t) :
    osenterRes s g k d t = .retire (t.putGroup ((g.setEntering k (g.row k).pc l []).enterDone s k d)) := by
  unfold osenterRes State.regroup
  rw [hs.group, Option.getD_some, Group.enteringAt_setEntering]
  rfl

theorem HaveAsked.memory {t : State} {ask seen l w : List HeldLane} (hs : HaveAsked s g k ask seen l w t) : SameMemory s t := by
  rw [hs.state]
  exact ⟨fun _ => rfl, fun _ => rfl, fun _ _ => rfl⟩

/-- POISON as vD receives it (R428). -/
def poisonWord (s : State) (ctx : BitVec 5) (ask : List HeldLane) (l : Nat) : Word :=
  match ask.find? fun h => h.lane == l with
  | some h => if Claims.poisoned s ctx h.key then 1 else 0
  | none => 0

/-- The lanes that OSENTER writes are those that have entered. -/
theorem asked_active (f : HeldLane → HeldLane) (hf : ∀ h, (f h).lane = h.lane) :
    (g.row k).mask &&& (maskOf fun i => ((Claims.asked s g k a b).map f).any fun h => h.lane == i) = (g.row k).mask := by
  refine BitVec.eq_of_getLsbD_eq fun l hl => ?_
  rw [BitVec.getLsbD_and, getLsbD_maskOf _ hl, Bool.and_eq_left_iff_imp]
  intro hm
  obtain ⟨h, hh, rfl⟩ := exists_asked (s := s) (a := a) (b := b) hl hm
  exact List.any_eq_true.2 ⟨f h, List.mem_map_of_mem hh, by simp [hf]⟩

theorem poisonWord_eq (s : State) (ctx : BitVec 5) (ask : List HeldLane) (l : Nat) :
    (match (ask.map (s.granted ctx)).find? fun h => h.lane == l with
      | some h => if h.poison then 1 else 0
      | none => 0) = poisonWord s ctx ask l := by
  have hfind : ((ask.map (s.granted ctx)).find? fun h => h.lane == l) = (ask.find? fun h => h.lane == l).map (s.granted ctx) := List.find?_map ..
  rw [hfind, poisonWord]
  cases ask.find? fun h => h.lane == l with
  | none => rfl
  | some h =>
    simp only [Option.map_some, ← State.poison_atHome]
    rfl

/-- The group when every lane of its OSENTER has entered. -/
def Group.allEntered (s : State) (g : Group) (k : Nat) (ask : List HeldLane) : Group :=
  g.setEntering k (g.row k).pc (ask.map (s.granted g.ctx)) []

/-- That group as vD has been written (R428). -/
def Group.poisonWritten (s : State) (g : Group) (k : Nat) (d : R7) (ask : List HeldLane) : Group :=
  (g.allEntered s k ask).writeRun s d.toNat 1 (g.row k).mask fun _ => poisonWord s g.ctx ask

/-- A group that holds one more set, and has other OSENTERs under way. -/
def Group.pushSet (x : Group) (l : List HeldLane) (n : List Entering) : Group := { x with held := l :: x.held, entering := n }

theorem Group.enterDone_eq (hnone : ∀ e ∈ g.entering, e.pc ≠ (g.row k).pc) : ∃ n, (g.allEntered s k (Claims.asked s g k a b)).enterDone s k d
    = (g.poisonWritten s k d (Claims.asked s g k a b)).pushSet ((Claims.asked s g k a b).map (s.granted g.ctx)) n := by
  have hrow : (g.allEntered s k (Claims.asked s g k a b)).row k = g.row k := rfl
  have hentered : (g.allEntered s k (Claims.asked s g k a b)).entered k (g.row k).pc = (Claims.asked s g k a b).map (s.granted g.ctx) := by
    refine g.entered_setEntering hnone fun h hh => ?_
    obtain ⟨x, hx, rfl⟩ := List.mem_map.1 hh
    exact (mem_asked hx).2
  refine ⟨(g.allEntered s k (Claims.asked s g k a b)).others k (g.row k).pc, ?_⟩
  unfold Group.enterDone
  simp only [hrow, hentered, asked_active (s.granted g.ctx) fun _ => rfl]
  exact congrArg (fun f => ((g.allEntered s k (Claims.asked s g k a b)).writeV s d.toNat (g.row k).mask f).pushSet _ _)
    (funext (poisonWord_eq s g.ctx (Claims.asked s g k a b)))

section
variable (hi : Issues s g k (.osenter d a b)) (hm : MayEnter s g k (Claims.asked s g k a b))
include hi hm

theorem osenter_completes {t : State} {body : Group → Nat → Res}
    (hs : HaveAsked s g k (Claims.asked s g k a b) (Claims.asked s g k a b) ((Claims.asked s g k a b).map (s.granted g.ctx)) [] t)
    (hb : body g k = osenterRes s g k d t) :
    ∃ r u, issue (.osenter d a b) s body = .next r ∧ Claims.Retired r g u k (.osenter d a b) ∧ SameMemory s r ∧ (∀ n, u.sraw n = g.sraw n)
      ∧ Claims.RunWritten g u d.toNat 1 (g.row k).mask (fun _ => poisonWord s g.ctx (Claims.asked s g k a b))
      ∧ u.held = (Claims.asked s g k a b).map (s.granted g.ctx) :: g.held ∧ r.slices = t.slices := by
  obtain ⟨-, hlive⟩ := State.issuer_group hi.1
  have hwritten : Claims.RunWritten g (g.poisonWritten s k d (Claims.asked s g k a b)) d.toNat 1 (g.row k).mask
      fun _ => poisonWord s g.ctx (Claims.asked s g k a b) := by
    refine (g.allEntered s k _).runWritten_writeRun s _ _ _ _ fun j hj => precheck_vregOk hi.2 ?_
    obtain rfl := Nat.lt_one_iff.1 hj
    exact List.mem_append_right _ (List.mem_append_right _ (List.mem_singleton_self _))
  obtain ⟨v, x, o, hput⟩ : ∃ v x o, g.poisonWritten s k d (Claims.asked s g k a b)
      = { g.allEntered s k (Claims.asked s g k a b) with vregs := v, handler := x, ops := o } := Group.writeRun_eq ..
  obtain ⟨n, hdone⟩ := Group.enterDone_eq (s := s) (a := a) (b := b) (d := d) hm.unbegun
  have hb := (hb.trans hs.osenterRes_retire).trans (congrArg (fun x => Res.retire (t.putGroup x)) hdone)
  generalize g.poisonWritten s k d (Claims.asked s g k a b) = f at hb hwritten hput
  obtain ⟨r, u, hr, hret⟩ := hi.retires hb (State.group_putGroup (g := g.allEntered s k _) hs.group (by rw [hput]; rfl)) (by rw [hput]; exact hlive)
  refine ⟨r, u, hr, ⟨hret.group, ?_, ?_⟩, hs.memory.trans hret.memory, fun n => ?_, runWritten_congr hwritten fun l => ?_, ?_, hret.slices⟩
  · rw [hret.retired, hput]
    rfl
  · have hcarries := hret.carries
    rw [hput] at hcarries
    exact hcarries
  · rw [hret.sraw, hput]
    rfl
  · rw [hret.vraw]
    rfl
  · rw [hret.held, hput]
    rfl

variable (hdup : osDup g (Claims.asked s g k a b) = 0) (hlt : g.held.length < 8) (hdet : s.det g = false)
include hdup hlt hdet

/-- Where every home is ready, the OSENTER completes. -/
theorem osenter_all_enter (hhomes : ∀ h ∈ Claims.asked s g k a b, Claims.homeReady s g.ctx h) :
    ∃ r u, exec (.osenter d a b) s = .next r ∧ Claims.Retired r g u k (.osenter d a b) ∧ SameMemory s r ∧ (∀ n, u.sraw n = g.sraw n)
      ∧ Claims.RunWritten g u d.toNat 1 (g.row k).mask (fun _ => poisonWord s g.ctx (Claims.asked s g k a b))
      ∧ u.held = ((Claims.asked s g k a b).map fun h => { h with poison := Claims.poisoned s g.ctx h.key }) :: g.held
      ∧ ∀ h ∈ Claims.asked s g k a b, ∃ e, r.osEntry g.ctx h.key = some e ∧ e.next = h.seq ∧ e.poison = false ∧ e.holder = some (g.uid, h.lane) := by
  have hready : ∀ h ∈ Claims.asked s g k a b, s.ready g.ctx h = true := fun h hh => (s.ready_iff g.ctx h).2 (hhomes h hh)
  obtain ⟨body, hexec, hbody⟩ := osenter_asks hm.unbegun hdup hlt hdet
  obtain ⟨l, w, hs⟩ := hm.asks
  generalize (s.putGroup (g.setEntering k (g.row k).pc [] (Claims.asked s g k a b))).osTry g.uid k (g.row k).pc none = t at hs hbody
  have hl : l = (Claims.asked s g k a b).map (s.granted g.ctx) := by rw [hs.entered, List.filter_eq_self.2 hready]
  have hw : w = [] := List.eq_nil_iff_forall_not_mem.2 fun x hx => by
    obtain ⟨hmem, hno⟩ := (hs.waiting x).1 hx
    exact hno ⟨hmem, hready x hmem⟩
  subst hl hw
  obtain ⟨r, u, hr, hret, hmem, hsraw, hwritten, hheld, hslices⟩ := osenter_completes hi hm hs hbody
  have hgranted : s.granted g.ctx = fun h => { h with poison := Claims.poisoned s g.ctx h.key } :=
    funext fun h => by rw [State.granted, State.poison_atHome]
  rw [hgranted] at hheld
  refine ⟨r, u, hexec.trans hr, hret, hmem, hsraw, hwritten, hheld, fun h hh => ?_⟩
  have hseq := hready h hh
  rw [State.ready, Bool.and_eq_true, decide_eq_true_eq] at hseq
  obtain ⟨hnext, -⟩ := hseq
  have hentry : r.osEntry g.ctx h.key = t.osEntry g.ctx h.key := by rw [State.osEntry, hslices]; rfl
  exact ⟨_, hentry.trans (hs.holds h hh (hready h hh)), hnext, rfl, rfl⟩

/-- Where some home is not ready, the row waits. -/
theorem osenter_some_wait (hwaits : ∃ h ∈ Claims.asked s g k a b, ¬ Claims.homeReady s g.ctx h) :
    ∃ r u, exec (.osenter d a b) s = .next r ∧ r.group g.uid = some u ∧ u.retired = g.retired ∧ (u.row k).wait = .osEnter
      ∧ (u.row k).pc = (g.row k).pc ∧ Claims.SameRegisters g u ∧ u.held = g.held ∧ SameMemory s r := by
  obtain ⟨h, hh, hno⟩ := hwaits
  obtain ⟨-, hlive⟩ := State.issuer_group hi.1
  obtain ⟨l, w, hs⟩ := hm.asks
  have hw : h ∈ w := (hs.waiting h).2 ⟨hh, fun hc => hno ((s.ready_iff g.ctx h).1 hc.2)⟩
  obtain ⟨body, hexec, hbody⟩ := osenter_asks (d := d) hm.unbegun hdup hlt hdet
  rw [hs.osenterRes_hold (List.ne_nil_of_mem hw)] at hbody
  have hgroup := State.group_modGroup hs.group (f := fun h => h.modRow k fun r => { r with wait := .osEnter }) fun _ hx => hx
  have hrow : ((g.setEntering k (g.row k).pc l w).modRow k fun r => { r with wait := .osEnter }).row k = { g.row k with wait := .osEnter } :=
    (Group.row_modRow (g.setEntering k (g.row k).pc l w) k k _ (Group.row_lt hlive)).trans (if_pos rfl)
  refine ⟨_, _, hexec.trans (hi.concludes hbody), hgroup, rfl, ?_, ?_, ⟨fun _ => rfl, fun _ => rfl⟩, rfl, ?_⟩
  · rw [hrow]
  · rw [hrow]
  · exact hs.memory.trans ⟨fun _ => rfl, fun _ => rfl, fun _ _ => rfl⟩

end

end

/-! ### OSLEAVE and OSABORT (R290, R291, R429) -/

theorem osleave_results (s : State) (g : Group) (k : Nat) (fin : Bool) (hi : Issues s g k (if fin then .osleaveDone else .osleave)) :
    (g.held = [] → Traps (if fin then .osleaveDone else .osleave) s g k (trapOf 0x6A))
    ∧ ∀ set rest, g.held = set :: rest → ∃ r u, Claims.Passes (if fin then .osleaveDone else .osleave) s r g u k ∧ SameMemory s r ∧ u.held = rest
        ∧ r.slices.osMsgs = s.slices.osMsgs ++ Claims.messages g.ctx false fin set ∧ r.slices.osHomes = s.slices.osHomes := by
  have hexec (s : State) : exec (if fin then .osleaveDone else .osleave) s
      = issue (if fin then .osleaveDone else .osleave) s fun g _ => leaveRes s g fin := by cases fin <;> rfl
  obtain ⟨hg, hlive⟩ := State.issuer_group hi.1
  refine ⟨fun h => ?_, fun set rest h => ?_⟩
  · exact (hexec s).trans (hi.concludes (r := .trap (trapOf 0x6A)) (by simp only [leaveRes, h]))
  · obtain ⟨r, u, hr, hgroup, hcarries, ⟨w, n, rr, sp, rg, hu⟩, hn, hmem, hslices, -⟩ := hi.retires
      (t := (s.osSend (set.map fun h => h.leave g.ctx false fin)).putGroup { g with held := rest }) (g' := { g with held := rest })
      (body := fun g _ => leaveRes s g fin) (by simp only [leaveRes, h]) (State.group_putGroup (s := s.osSend _) hg rfl) hlive
    refine ⟨r, u, ⟨(hexec s).trans hr, ⟨hgroup, hn, hcarries⟩, ?_⟩, hmem, by rw [hu], ?_, ?_⟩
    · rw [hu]
      exact ⟨fun _ => rfl, fun _ => rfl⟩
    · rw [hslices]
      rfl
    · rw [hslices]
      rfl

/-- Every held set of a group is given up with POISON, and POISONED is set. -/
def State.abortHeld (s : State) (g : Group) : State :=
  ((s.osSend (Claims.messages g.ctx true false g.held.reverse.flatten)).modGroup g.uid fun g => { g with held := [] }).modCtx g.ctx
    fun c => { c with status := { c.status with poisoned := true } }

theorem osabort_results (s : State) (g : Group) (k : Nat) (hi : Issues s g k .osabort) :
    ∃ r u, Claims.Passes .osabort s r g u k ∧ SameMemory s r ∧ u.held = []
      ∧ r.slices.osMsgs = s.slices.osMsgs ++ Claims.messages g.ctx true false g.held.reverse.flatten
      ∧ (g.held = [] → r.ctxs = s.ctxs) ∧ (g.held ≠ [] → g.ctx.toNat < s.ctxs.length → (r.ctx g.ctx).status.poisoned = true) := by
  obtain ⟨hg, hlive⟩ := State.issuer_group hi.1
  have habort : s.osAbort g.uid = if g.held.isEmpty then s else s.abortHeld g := by
    unfold State.osAbort
    rw [hg]
    rfl
  by_cases hh : g.held = []
  · obtain ⟨r, u, hr, hgroup, hcarries, ⟨w, n, rr, sp, rg, hu⟩, hn, hmem, hslices, hctxs⟩ := hi.retires (t := s) (g' := g)
      (body := fun g _ => .retire (s.osAbort g.uid)) (by simp only [habort, hh, List.isEmpty_nil, if_true]) hg hlive
    refine ⟨r, u, ⟨hr, ⟨hgroup, hn, hcarries⟩, ?_⟩, hmem, by rw [hu, ← hh], ?_, fun _ => hctxs, fun hne => absurd hh hne⟩
    · rw [hu]
      exact ⟨fun _ => rfl, fun _ => rfl⟩
    · rw [hslices, hh]
      exact (List.append_nil _).symm
  · have hne : g.held.isEmpty = false := by simpa using hh
    obtain ⟨r, u, hr, hgroup, hcarries, ⟨w, n, rr, sp, rg, hu⟩, hn, hmem, hslices, hctxs⟩ := hi.retires (t := s.abortHeld g)
      (body := fun g _ => .retire (s.osAbort g.uid)) (g' := { g with held := [] }) (by simp only [habort, hne, Bool.false_eq_true, if_false])
      (State.group_modGroup (s := s.osSend _) hg fun _ h => h) hlive
    refine ⟨r, u, ⟨hr, ⟨hgroup, hn, hcarries⟩, ?_⟩, hmem, by rw [hu], ?_, fun h => absurd h hh, fun _ hc => ?_⟩
    · rw [hu]
      exact ⟨fun _ => rfl, fun _ => rfl⟩
    · rw [hslices]
      rfl
    · rw [State.ctx, hctxs]
      exact congrArg (fun c : Context => c.status.poisoned) (State.ctx_modCtx_self (s := (s.osSend _).modGroup _ _) hc _)

/-! ### The homes' own steps (R289, R290, R292) -/

/-- Where no lane waits, a home that advances takes its message and grants nothing. -/
theorem execOsAdvanceAtHome_of_none {s : State} {m : OsMsg} {rest : List OsMsg} (hm : s.slices.osMsgs = m :: rest)
    (hnone : ∀ g ∈ s.groups, g.entering = []) :
    exec .osAdvanceAtHome s = .next (State.osApply { s with slices := { s.slices with osMsgs := rest } } m) := by
  have hgroups : (State.osApply { s with slices := { s.slices with osMsgs := rest } } m).groups = s.groups := by
    unfold State.osApply
    split <;> rfl
  have haskers (c : BitVec 5) : (State.osApply { s with slices := { s.slices with osMsgs := rest } } m).askers c = [] := by
    unfold State.askers
    rw [hgroups, List.map_eq_nil_iff, List.filter_eq_nil_iff]
    intro g hg
    simp [hnone g hg]
  change execOsAdvanceAtHome s = _
  unfold execOsAdvanceAtHome
  rw [hm]
  simp only [haskers, rotate, List.drop_nil, List.take_nil, List.append_nil]
  rfl

theorem osAdvance_results (s : State) (m : OsMsg) (rest : List OsMsg) (hm : s.slices.osMsgs = m :: rest) (hnone : ∀ g ∈ s.groups, g.entering = []) :
    ∃ r, exec .osAdvanceAtHome s = .next r ∧ r.slices.osMsgs = rest ∧ SameMemory s r ∧ r.groups = s.groups
      ∧ (m.free = true → r.osEntry m.ctx m.key = none)
      ∧ (m.free = false → ∀ e, s.osEntry m.ctx m.key = some e → ∃ x, r.osEntry m.ctx m.key = some x ∧ x.next = m.next
          ∧ x.poison = (e.poison || m.poison) ∧ x.holder = none)
      ∧ ∀ c q, (c, q) ≠ (m.ctx, m.key) → r.osEntry c q = s.osEntry c q := by
  have hname (e : OsEntry) : ({ e with next := m.next, poison := e.poison || m.poison, holder := none } : OsEntry).ctx = e.ctx
      ∧ ({ e with next := m.next, poison := e.poison || m.poison, holder := none } : OsEntry).key = e.key := ⟨rfl, rfl⟩
  refine ⟨_, execOsAdvanceAtHome_of_none hm hnone, ?_⟩
  unfold State.osApply
  cases hf : m.free with
  | true =>
    rw [if_pos rfl]
    exact ⟨rfl, ⟨fun _ => rfl, fun _ => rfl, fun _ _ => rfl⟩, rfl, fun _ => State.osEntry_drop_self _ _ _, fun h => absurd h.symm Bool.false_ne_true,
      fun c q hne => State.osEntry_drop_ne _ _ _ _ _ hne⟩
  | false =>
    rw [if_neg Bool.false_ne_true]
    refine ⟨rfl, ⟨fun _ => rfl, fun _ => rfl, fun _ _ => rfl⟩, rfl, fun h => absurd h Bool.false_ne_true, fun _ e he => ?_,
      fun c q hne => State.osEntry_setOs_ne _ _ _ _ _ hname hne⟩
    refine ⟨_, (State.osEntry_setOs_self _ _ _ hname).trans (congrArg _ he), rfl, rfl, rfl⟩

/-- The key is recorded as stalled, and the context's status has OS_STALL. -/
def State.withOsStall (s : State) (c : BitVec 5) (q : Dword) : State :=
  { s.modCtx c fun x => { x with status := { x.status with osStall := true } } with
    slices := { s.slices with osStalled := (c, q) :: s.slices.osStalled } }

theorem State.withOsStall_ctx {s : State} {c : BitVec 5} (hc : c.toNat < s.ctxs.length) (q : Dword) :
    ((s.withOsStall c q).ctx c).status.osStall = true :=
  congrArg (fun x : Context => x.status.osStall) (State.ctx_modCtx_self hc fun x => { x with status := { x.status with osStall := true } })

theorem osStall_results (s : State) (c : BitVec 5) (q : Dword) (hw : s.osWaits c q = true) (hq : (c, q) ∉ s.slices.osStalled)
    (hc : c.toNat < s.ctxs.length) : ∃ r, exec (.osStall c q) s = .next r ∧ (r.ctx c).status.osStall = true ∧ (c, q) ∈ r.slices.osStalled := by
  have hcond : (!s.osWaits c q || s.slices.osStalled.contains (c, q)) = false := by simp [hw, hq]
  have hexec : exec (.osStall c q) s = .next ((s.withOsStall c q).postCtx c 5 0 0xFF q.toNat 0 0) := by
    change execOsStall c q s = _
    unfold execOsStall
    rw [hcond, if_neg Bool.false_ne_true]
    rfl
  obtain ⟨d, hd⟩ := (s.withOsStall c q).postCtx_dirOnly c 5 0 0xFF q.toNat 0 0
  obtain ⟨x, y, hctx⟩ := ((s.withOsStall c q).postCtx_ownFrame c 5 0 0xFF q.toNat 0 0).ctx c
  refine ⟨_, hexec, ?_, ?_⟩
  · rw [hctx]
    exact State.withOsStall_ctx hc q
  · rw [hd]
    exact List.mem_cons_self ..

/-- Settles O52: an OSENTER's lanes ask in turn, each answered as its key's home stood at issue; a set that is given up becomes messages, which the homes
take one by one. -/
theorem sectionResults : Obligations.SectionResults := by
  refine ⟨fun s g k d a b hi hnone => ⟨fun m hm hbits => ?_, fun hheld hnd => ?_⟩, osleave_results, osabort_results, osAdvance_results, osStall_results⟩
  · have hdup : m = osDup g (Claims.asked s g k a b) :=
      BitVec.eq_of_getLsbD_eq fun l hl => Bool.eq_iff_iff.2 ((hbits l hl).trans (getLsbD_osDup _ _ hl).symm)
    subst hdup
    exact osenter_dup hi hnone hm
  · have hdup := osDup_eq_zero hheld hnd
    refine ⟨osenter_depth hi hnone hdup, fun hlt hdet hcalm hhomes hcache hg hcore => ?_⟩
    have hm : MayEnter s g k (Claims.asked s g k a b) :=
      ⟨hnone, hcalm, by have := asked_length (s := s) (g := g) (k := k) (a := a) (b := b); omega,
        by have := asked_length (s := s) (g := g) (k := k) (a := a) (b := b); omega, hg, hcore, hnd, asked_lanes⟩
    exact ⟨osenter_all_enter hi hm hdup hlt hdet, osenter_some_wait hi hm hdup hlt hdet⟩

end Sys2Proof.Machine
end

section
/-! SUPPORT. Each arm of the decoder, by the shape of its words (R313 to R317, R321): an instruction that it answers has the fields of those words,
and only a point outside the map is reserved. -/

namespace Sys2Proof

/-! ### Words and their fields (R310, R313) -/

/-- A bit is the one bit of its field. -/
theorem ofBool_getLsbD {n : Nat} (x : BitVec n) (k : Nat) : BitVec.ofBool (x.getLsbD k) = x.extractLsb' k 1 := by
  ext j hj
  obtain rfl : j = 0 := by omega
  simp

/-- A base word is put together from its own fields. -/
theorem baseWord_fieldsOf (w0 w1 : Word) : baseWord (fieldsOf w0 w1) = w0 := by
  simp only [baseWord, fieldsOf, wordC, ofBool_getLsbD]
  simp (disch := rfl) only [BitVec.extractLsb'_append_extractLsb'_eq_extractLsb']
  exact BitVec.extractLsb'_eq_self

/-- A value is its high part above its low part. -/
theorem append_extract {m n : Nat} (x : BitVec (n + m)) : x.extractLsb' m n ++ x.extractLsb' 0 m = x := by
  rw [BitVec.extractLsb'_append_extractLsb'_eq_extractLsb' (by omega)]
  exact BitVec.extractLsb'_eq_self

/-- A value whose high part is zero is put together from zeros and its low part. -/
theorem zero_append_low {m n : Nat} {x : BitVec (n + m)} (h : x.extractLsb' m n = 0#n) : 0#n ++ x.extractLsb' 0 m = x := by
  rw [← h]
  exact append_extract x

theorem low_of_append {m n : Nat} (x : BitVec n) (y : BitVec m) : (x ++ y).extractLsb' 0 m = y := by
  rw [BitVec.extractLsb'_append_eq_of_add_le (by omega)]
  exact BitVec.extractLsb'_eq_self

theorem high_of_append {m n : Nat} (x : BitVec n) (y : BitVec m) : (x ++ y).extractLsb' m n = x := by
  rw [BitVec.extractLsb'_append_eq_of_le (by omega), Nat.sub_self]
  exact BitVec.extractLsb'_eq_self

/-- An opcode point is its row and its place in the row (R321). -/
theorem exists_op_eq {op : BitVec 9} {row : Nat} (h : (op.extractLsb' 6 3).toNat = row) :
    ∃ n, n < 64 ∧ (op.extractLsb' 0 6).toNat = n ∧ op = BitVec.ofNat 9 (64 * row + n) := by
  refine ⟨_, (op.extractLsb' 0 6).isLt, rfl, BitVec.eq_of_toNat_eq ?_⟩
  subst h
  simp only [BitVec.extractLsb'_toNat, BitVec.toNat_ofNat]
  omega

/-- The cuff is zero where there is none (R315). -/
def Fields.Tidy (f : Fields) : Prop := f.c = false → f.cuff = 0

theorem fieldsOf_tidy (w0 w1 : Word) : (fieldsOf w0 w1).Tidy := fun h => if_neg (Bool.eq_false_iff.1 h)

/-! ### Arms -/

/-- The point is one of those that the table of R321 defines. -/
abbrev DefinedPoint (op : BitVec 9) : Prop := ∃ p ∈ Claims.definedPoints, p.1 ≤ op.toNat ∧ op.toNat ≤ p.2

/-- What the decoder may answer for the fields f: at a point of the map only instructions that have these fields, and at every other point that it is
reserved. -/
structure Arm (f : Fields) (r : Except Reject Instr) : Prop where
  reserved : r = .error .reservedPoint ↔ ¬ DefinedPoint f.op
  reads : ∀ i, r = .ok i → i.fields = some f

section
variable {f : Fields} {op : BitVec 9}

/-- The last arm of a row, whose points are in no range of the table. -/
theorem Arm.undefined {row n : Nat} (hop : f.op = BitVec.ofNat 9 (64 * row + n)) (hlt : 64 * row + n < 512)
    (h : ∀ p ∈ Claims.definedPoints, 64 * row + n < p.1 ∨ p.2 < 64 * row + n) : Arm f (.error .reservedPoint) := by
  refine ⟨iff_of_true rfl fun ⟨p, hp, hlo, hhi⟩ => ?_, fun _ e => nomatch e⟩
  rw [hop, BitVec.toNat_ofNat, Nat.mod_eq_of_lt hlt] at hlo hhi
  have := h p hp
  omega

/-- An arm of the map rejects for its own reasons and reads the fields. -/
theorem Arm.of_defined {r : Except Reject Instr} (hop : f.op = op) (hd : DefinedPoint op) (hr : r ≠ .error .reservedPoint)
    (hi : ∀ i, r = .ok i → i.fields = some f) : Arm f r := ⟨iff_of_false hr (not_not_intro (hop ▸ hd)), hi⟩

theorem Arm.ok {i : Instr} (hop : f.op = op) (hi : i.fields = some f) (hd : DefinedPoint op := by decide) : Arm f (.ok i) :=
  .of_defined hop hd (fun e => nomatch e) fun _ e => Except.ok.inj e ▸ hi

theorem Arm.error {e : Reject} (hop : f.op = op) (he : e ≠ .reservedPoint) (hd : DefinedPoint op := by decide) : Arm f (.error e) :=
  .of_defined hop hd (fun h => he (Except.error.inj h)) fun _ h => nomatch h

theorem Arm.given {shapeOk zeroOk : Bool} {i : Instr} (hop : f.op = op) (hi : shapeOk = true → zeroOk = true → i.fields = some f)
    (hd : DefinedPoint op := by decide) : Arm f (given shapeOk zeroOk i) := by
  unfold Sys2Proof.given
  split
  · split
    · exact .ok hop (hi ‹_› ‹_›) hd
    · exact .error hop nofun hd
  · exact .error hop nofun hd

end

/-! ### The shapes -/

/-- Fields without a cuff are those of the base word. -/
theorem noCuff_eq {f : Fields} (hf : f.Tidy) (hc : f.c = false) : (⟨f.sb, false, f.op, f.b, f.a, f.d, 0⟩ : Fields) = f := by
  rw [← hc, ← hf hc]

theorem fN_eq {f : Fields} (hf : f.Tidy) (hc : f.c = false) (hs : f.sb = false) : fN f.op f.d f.a f.b = f := by
  have h := noCuff_eq hf hc
  rw [hs] at h
  exact h

/-- The fields that shape S writes for the operand B that it reads. -/
theorem fS_sop {f : Fields} (hf : f.Tidy) {b : SOp} (h : f.sop = .ok b) : fS f.op f.d f.a b = f := by
  obtain ⟨sb, c, op, r, a, d, cuff⟩ := f
  cases c with
  | false =>
    obtain rfl : cuff = 0 := hf rfl
    cases sb <;> obtain rfl := Except.ok.inj h <;> rfl
  | true =>
    cases sb with
    | false => cases h
    | true =>
      simp only [Fields.sop] at h
      split at h
      case isFalse => cases h
      case isTrue hz =>
        obtain rfl := Except.ok.inj h
        have hlo : (cuff.extractLsb' 0 25 ++ r : Word).extractLsb' 0 7 = r := low_of_append _ _
        have hhi : (cuff.extractLsb' 0 25 ++ r : Word).extractLsb' 7 25 = cuff.extractLsb' 0 25 := high_of_append _ _
        simp only [fS, hlo, hhi, zero_append_low (n := 7) (m := 25) (beq_iff_eq.1 hz)]

theorem sop_ne_reservedPoint (f : Fields) : f.sop ≠ .error .reservedPoint := by
  unfold Fields.sop
  split <;> (try split) <;> nofun

theorem fT_eq {f : Fields} (hc : f.c = true) : fT f.op f.sb f.d f.a f.b f.tofs f.jofs = f := by
  have hk : f.jofs ++ f.tofs = f.cuff := append_extract (n := 16) (m := 16) f.cuff
  rw [fT, hk, ← hc]

theorem fV_vops {f : Fields} (hf : f.Tidy) : fV f.op f.vops = f := by
  obtain ⟨sb, c, op, b, a, d, cuff⟩ := f
  cases c with
  | false =>
    obtain rfl : cuff = 0 := hf rfl
    rfl
  | true =>
    have hk : cuffWord (cuffOf cuff) = cuff := by
      simp only [cuffWord, cuffOf]
      simp (disch := rfl) only [BitVec.extractLsb'_append_extractLsb'_eq_extractLsb']
      exact BitVec.extractLsb'_eq_self
    exact congrArg (fun k => (⟨sb, true, op, b, a, d, k⟩ : Fields)) hk

theorem fM_mops {f : Fields} (hc : f.c = true) : fM f.op f.mops = f := by
  have hk : f.mops.memo ++ f.mops.mod ++ f.mops.aform ++ f.mops.ofsh = f.cuff := by
    simp only [Fields.mops]
    simp (disch := rfl) only [BitVec.extractLsb'_append_extractLsb'_eq_extractLsb']
    exact BitVec.extractLsb'_eq_self
  rw [fM, hk, ← hc]
  rfl

theorem fG_eq {f : Fields} (hc : f.c = true) (hhi : f.cuff.extractLsb' 28 4 = 0#4) (hlo : f.cuff.extractLsb' 0 20 = 0#20) :
    fG f.op f.sb f.d f.a f.b f.mod = f := by
  have hk : 0#4 ++ f.mod ++ 0#20 = f.cuff := by
    rw [← hhi, ← hlo, Fields.mod]
    simp (disch := rfl) only [BitVec.extractLsb'_append_extractLsb'_eq_extractLsb']
    exact BitVec.extractLsb'_eq_self
  rw [fG, hk, ← hc]

section
variable {f : Fields} {op : BitVec 9} {i : Instr} {zeroOk sbOk : Bool}

theorem Arm.n (hf : f.Tidy) (hop : f.op = op) (hi : zeroOk = true → i.fields = some (fN op f.d f.a f.b)) (hd : DefinedPoint op := by decide) :
    Arm f (f.n zeroOk i) := by
  refine .given hop (fun hs hz => (hi hz).trans ?_) hd
  simp only [Bool.and_eq_true, Bool.not_eq_true'] at hs
  rw [← hop, fN_eq hf hs.1 hs.2]

/-- Shape N with no operand. -/
theorem Arm.n0 (hf : f.Tidy) (hop : f.op = op) (hi : i.fields = some (fN op 0#7 0#7 0#7)) (hd : DefinedPoint op := by decide) :
    Arm f (f.n (z f.d && z f.a && z f.b) i) := by
  refine .n hf hop (fun hz => hi.trans ?_) hd
  simp only [z, Bool.and_eq_true, beq_iff_eq] at hz
  obtain ⟨⟨hd, ha⟩, hb⟩ := hz
  rw [hd, ha, hb]

/-- Shape N with A alone. -/
theorem Arm.nA (hf : f.Tidy) (hop : f.op = op) (hi : i.fields = some (fN op 0#7 f.a 0#7)) (hd : DefinedPoint op := by decide) :
    Arm f (f.n (z f.d && z f.b) i) := by
  refine .n hf hop (fun hz => hi.trans ?_) hd
  simp only [z, Bool.and_eq_true, beq_iff_eq] at hz
  rw [hz.1, hz.2]

/-- Shape N with D alone. -/
theorem Arm.nD (hf : f.Tidy) (hop : f.op = op) (hi : i.fields = some (fN op f.d 0#7 0#7)) (hd : DefinedPoint op := by decide) :
    Arm f (f.n (z f.a && z f.b) i) := by
  refine .n hf hop (fun hz => hi.trans ?_) hd
  simp only [z, Bool.and_eq_true, beq_iff_eq] at hz
  rw [hz.1, hz.2]

/-- Shape N with D and A. -/
theorem Arm.nDA (hf : f.Tidy) (hop : f.op = op) (hi : i.fields = some (fN op f.d f.a 0#7)) (hd : DefinedPoint op := by decide) :
    Arm f (f.n (z f.b) i) :=
  .n hf hop (fun hz => hi.trans (by rw [beq_iff_eq.1 hz])) hd

/-- Shape N with A and B. -/
theorem Arm.nAB (hf : f.Tidy) (hop : f.op = op) (hi : i.fields = some (fN op 0#7 f.a f.b)) (hd : DefinedPoint op := by decide) :
    Arm f (f.n (z f.d) i) :=
  .n hf hop (fun hz => hi.trans (by rw [beq_iff_eq.1 hz])) hd

/-- Shape N with a field of three bits in D alone. -/
theorem Arm.n3 (hf : f.Tidy) (hop : f.op = op) (hi : i.fields = some (fN op (0#4 ++ f.d.extractLsb' 0 3) 0#7 0#7))
    (hd : DefinedPoint op := by decide) : Arm f (f.n (f.d.extractLsb' 3 4 == 0#4 && z f.a && z f.b) i) := by
  refine .n hf hop (fun hz => hi.trans ?_) hd
  simp only [z, Bool.and_eq_true, beq_iff_eq] at hz
  obtain ⟨⟨hd, ha⟩, hb⟩ := hz
  rw [ha, hb]
  exact congrArg (fun d => some (fN op d 0#7 0#7)) (zero_append_low (n := 4) (m := 3) hd)

/-- Shape S: where B is an operand, the arm k of it; where it is none, its rejection. -/
theorem Arm.sop (hf : f.Tidy) (hop : f.op = op) {r : Except Reject Instr} {k : SOp → Except Reject Instr}
    (hr : ∀ b, f.sop = .ok b → r = k b) (he : ∀ e, f.sop = .error e → r = .error e)
    (hk : ∀ b, fS op f.d f.a b = f → Arm f (k b)) (hd : DefinedPoint op := by decide) : Arm f r := by
  cases h : f.sop with
  | ok b => exact hr b h ▸ hk b (hop ▸ fS_sop hf h)
  | error e => exact he e h ▸ .error hop (fun hp => sop_ne_reservedPoint f (hp ▸ h)) hd

theorem Arm.s3 (hf : f.Tidy) (hop : f.op = op) {k : R7 → R7 → SOp → Instr} (hi : ∀ b, (k f.d f.a b).fields = some (fS op f.d f.a b))
    (hd : DefinedPoint op := by decide) : Arm f (f.s3 k) :=
  .sop hf hop (k := fun b => .ok (k f.d f.a b)) (fun b h => by rw [Fields.s3, h]) (fun e h => by rw [Fields.s3, h])
    (fun b h => .ok hop ((hi b).trans (congrArg some h)) hd) hd

theorem Arm.s1 (hf : f.Tidy) (hop : f.op = op) {k : SOp → Instr} (hi : ∀ b, (k b).fields = some (fS op 0#7 0#7 b)) (hd : DefinedPoint op := by decide) :
    Arm f (f.s1 k) := by
  refine .sop hf hop (fun b h => by rw [Fields.s1, h]) (fun e h => by rw [Fields.s1, h]) (fun b h => .given hop (fun _ hz => (hi b).trans ?_) hd) hd
  simp only [Bool.and_eq_true, beq_iff_eq] at hz
  rw [hz.1, hz.2] at h
  exact congrArg some h

theorem Arm.t (hop : f.op = op) (hi : sbOk = true → zeroOk = true → i.fields = some (fT op f.sb f.d f.a f.b f.tofs f.jofs))
    (hd : DefinedPoint op := by decide) : Arm f (f.t sbOk zeroOk i) := by
  refine .given hop (fun hs hz => ?_) hd
  obtain ⟨hc, hs⟩ := Bool.and_eq_true_iff.1 hs
  rw [hi hs hz, ← hop, fT_eq hc]

theorem Arm.v (hf : f.Tidy) (hop : f.op = op) {k : VOps → Instr} (hi : (k f.vops).fields = some (fV op f.vops))
    (hd : DefinedPoint op := by decide) : Arm f (.ok (k f.vops)) :=
  .ok hop (by rw [hi, ← hop, fV_vops hf]) hd

theorem Arm.m (hop : f.op = op) {k : MOps → Instr} (hi : (k f.mops).fields = some (fM op f.mops)) (hd : DefinedPoint op := by decide) :
    Arm f (f.m k) :=
  .given hop (fun hc _ => by rw [hi, ← hop, fM_mops hc]) hd

theorem Arm.g1 (hop : f.op = op) (hi : sbOk = true → zeroOk = true → i.fields = some (fG op f.sb f.d f.a f.b f.mod))
    (hd : DefinedPoint op := by decide) : Arm f (f.g1 sbOk zeroOk i) := by
  refine .given hop (fun hs hz => ?_) hd
  simp only [Bool.and_eq_true, beq_iff_eq] at hs hz
  obtain ⟨⟨hz, hhi⟩, hlo⟩ := hz
  rw [hi hs.2 hz, ← hop, fG_eq hs.1 hhi hlo]

/-- Shape G with A alone. -/
theorem Arm.gA (hop : f.op = op) (hi : i.fields = some (fG op false 0#7 f.a 0#7 f.mod)) (hd : DefinedPoint op := by decide) :
    Arm f (f.g1 (!f.sb) (z f.d && z f.b) i) := by
  refine .g1 hop (fun hs hz => hi.trans ?_) hd
  simp only [z, Bool.and_eq_true, beq_iff_eq, Bool.not_eq_true'] at hs hz
  rw [hs, hz.1, hz.2]

/-- Shape G with D and A. -/
theorem Arm.gDA (hop : f.op = op) (hi : i.fields = some (fG op false f.d f.a 0#7 f.mod)) (hd : DefinedPoint op := by decide) :
    Arm f (f.g1 (!f.sb) (z f.b) i) := by
  refine .g1 hop (fun hs hz => hi.trans ?_) hd
  simp only [z, beq_iff_eq, Bool.not_eq_true'] at hs hz
  rw [hs, hz]

end

end Sys2Proof
end

section
/-! SUPPORT. The rows of the map (R321), arm by arm: the decoder answers only instructions that have the fields of the words, and rejects as reserved
the points outside the table alone. -/

namespace Sys2Proof

/-! ### Fields that are put together from parts -/

/-- The thresholds of WAIT, below the zero bit, are its 21-bit field (R386). -/
theorem wait_parts {w : BitVec 21} (h : w.getLsbD 20 = false) :
    (0#1 ++ w.extractLsb' 16 4 ++ w.extractLsb' 12 4 ++ w.extractLsb' 6 6 ++ w.extractLsb' 0 6 : BitVec 21) = w := by
  have h20 : 0#1 = w.extractLsb' 20 1 := by
    rw [← ofBool_getLsbD, h]
    rfl
  rw [h20]
  simp (disch := rfl) only [BitVec.extractLsb'_append_extractLsb'_eq_extractLsb']
  exact BitVec.extractLsb'_eq_self

theorem fN_low21 (op : BitVec 9) (f : Fields) :
    fN op (f.low21.extractLsb' 0 7) (f.low21.extractLsb' 7 7) (f.low21.extractLsb' 14 7) = fN op f.d f.a f.b := by
  have hd : f.low21.extractLsb' 0 7 = f.d := low_of_append _ _
  have hb : f.low21.extractLsb' 14 7 = f.b := by
    rw [Fields.low21, BitVec.extractLsb'_append_eq_of_le (by decide)]
    exact high_of_append f.b f.a
  have ha : f.low21.extractLsb' 7 7 = f.a := by
    rw [Fields.low21, BitVec.extractLsb'_append_eq_of_le (by decide)]
    exact low_of_append f.b f.a
  rw [hd, ha, hb]

/-- DROP and CL of BAR.ARRIVE are the low bits of B (R388). -/
theorem arrive_parts {b : R7} (h : b.extractLsb' 2 5 = 0#5) : 0#5 ++ BitVec.ofBool (b.getLsbD 1) ++ BitVec.ofBool (b.getLsbD 0) = b := by
  rw [ofBool_getLsbD, ofBool_getLsbD, ← h]
  simp (disch := rfl) only [BitVec.extractLsb'_append_extractLsb'_eq_extractLsb']
  exact BitVec.extractLsb'_eq_self

/-- A cuff that holds MEMO alone (R314). -/
theorem memo_parts {w : Word} (hmod : w.extractLsb' 20 8 = 0#8) (hlo : w.extractLsb' 0 20 = 0#20) : w.extractLsb' 28 4 ++ 0#28 = w := by
  have hz : 0#28 = w.extractLsb' 20 8 ++ w.extractLsb' 0 20 := by
    rw [hmod, hlo]
    rfl
  rw [hz]
  simp (disch := rfl) only [BitVec.extractLsb'_append_extractLsb'_eq_extractLsb']
  exact BitVec.extractLsb'_eq_self

/-! ### The rows -/

section
variable {f : Fields}

theorem decodeRow0_arm (hf : f.Tidy) (hrow : (f.op.extractLsb' 6 3).toNat = 0) : Arm f (decodeRow0 f) := by
  obtain ⟨n, hn, hlow, hop⟩ := exists_op_eq hrow
  unfold decodeRow0
  rw [hlow]
  split
  case h_26 => -- MOV
    exact .sop hf hop (fun b h => by rw [h]) (fun e h => by rw [h]) fun b h => .given hop fun _ hz => by
      rw [beq_iff_eq.1 hz] at h
      exact congrArg some h
  case h_30 => -- JMP
    exact .t hop fun hs hz => by
      simp only [z, Bool.and_eq_true, beq_iff_eq, Bool.not_eq_true'] at hs hz
      obtain ⟨⟨⟨hd, ha⟩, hb⟩, hj⟩ := hz
      rw [hs, hd, ha, hb, hj]
      rfl
  case h_31 => -- BRA.S
    exact .t hop fun _ hz => by
      simp only [Bool.and_eq_true, beq_iff_eq] at hz
      conv_rhs => rw [← zero_append_low (n := 2) (m := 5) hz.1, hz.2]
      rfl
  case h_32 => -- BRA.V
    exact .t hop fun _ hz => by
      conv_rhs => rw [← zero_append_low (n := 2) (m := 5) (beq_iff_eq.1 hz)]
      rfl
  case h_33 => -- CALL
    exact .t hop fun hs hz => by
      simp only [z, Bool.and_eq_true, beq_iff_eq, Bool.not_eq_true'] at hs hz
      obtain ⟨⟨⟨hd, ha⟩, hb⟩, hj⟩ := hz
      conv_rhs => rw [← zero_append_low (n := 2) (m := 5) hd, ← zero_append_low (n := 2) (m := 5) ha, hs, hb, hj]
      rfl
  case h_35 => -- LOOP
    exact .t hop fun _ hz => by
      simp only [z, Bool.and_eq_true, beq_iff_eq] at hz
      obtain ⟨⟨hd, hx⟩, hj⟩ := hz
      rw [hd, hj]
      cases hs : f.sb <;> simp only [hs, Bool.false_eq_true, if_false, if_true] at hx ⊢ <;> rw [hx] <;> rfl
  case h_36 => -- LEND, LEND.X
    split
    case isTrue h =>
      exact .nD hf hop (by
        rw [beq_iff_eq.1 h]
        rfl)
    case isFalse => exact .n0 hf hop rfl
  case h_38 => -- CALLR
    exact .n hf hop fun hz => by
      simp only [Bool.and_eq_true, beq_iff_eq] at hz
      conv_rhs => rw [← zero_append_low (n := 2) (m := 5) hz.1, ← zero_append_low (n := 2) (m := 5) hz.2]
      rfl
  case h_47 | h_48 => -- GETS, SETS
    exact .n hf hop fun hz => by
      conv_rhs => rw [← zero_append_low (n := 6) (m := 1) (beq_iff_eq.1 hz)]
      simp only [Instr.fields, low_of_append, high_of_append (n := 1) (m := 7)]
      rfl
  case h_1 | h_34 | h_37 | h_45 | h_46 => exact .n0 hf hop rfl
  case h_39 => exact .nA hf hop rfl
  case h_27 | h_28 | h_29 | h_51 | h_52 => exact .nDA hf hop rfl
  case h_40 | h_41 | h_42 | h_43 | h_44 | h_49 | h_50 => exact .s1 hf hop fun _ => rfl
  case h_53 => exact .undefined hop (by omega) (by simp only [imp_false] at *; simp [Claims.definedPoints]; omega)
  all_goals exact .s3 hf hop fun _ => rfl

theorem decodeRow1_arm (hf : f.Tidy) (hrow : (f.op.extractLsb' 6 3).toNat = 1) : Arm f (decodeRow1 f) := by
  obtain ⟨n, hn, hlow, hop⟩ := exists_op_eq hrow
  unfold decodeRow1
  rw [hlow]
  split
  case h_26 => exact .undefined hop (by omega) (by simp only [imp_false] at *; simp [Claims.definedPoints]; omega)
  all_goals exact .v hf hop rfl

theorem decodeRow2_arm (hf : f.Tidy) (hrow : (f.op.extractLsb' 6 3).toNat = 2) : Arm f (decodeRow2 f) := by
  obtain ⟨n, hn, hlow, hop⟩ := exists_op_eq hrow
  unfold decodeRow2
  rw [hlow]
  split
  case h_11 => exact .undefined hop (by omega) (by simp only [imp_false] at *; simp [Claims.definedPoints]; omega)
  all_goals exact .v hf hop rfl

theorem decodeRow3_arm (hf : f.Tidy) (hrow : (f.op.extractLsb' 6 3).toNat = 3) : Arm f (decodeRow3 f) := by
  obtain ⟨n, hn, hlow, hop⟩ := exists_op_eq hrow
  unfold decodeRow3
  rw [hlow]
  split
  case h_15 => exact .undefined hop (by omega) (by simp only [imp_false] at *; simp [Claims.definedPoints]; omega)
  all_goals exact .v hf hop rfl

theorem decodeRow4_arm (hf : f.Tidy) (hrow : (f.op.extractLsb' 6 3).toNat = 4) : Arm f (decodeRow4 f) := by
  obtain ⟨n, hn, hlow, hop⟩ := exists_op_eq hrow
  unfold decodeRow4
  rw [hlow]
  split
  case h_9 => exact .undefined hop (by omega) (by simp only [imp_false] at *; simp [Claims.definedPoints]; omega)
  all_goals exact .v hf hop rfl

theorem decodeRow5_arm (hf : f.Tidy) (hrow : (f.op.extractLsb' 6 3).toNat = 5) : Arm f (decodeRow5 f) := by
  obtain ⟨n, hn, hlow, hop⟩ := exists_op_eq hrow
  unfold decodeRow5
  rw [hlow]
  split
  case h_13 => -- STASH.MAP
    exact .n hf hop fun hz => by
      conv_rhs => rw [← zero_append_low (n := 4) (m := 3) (beq_iff_eq.1 hz)]
      rfl
  case h_14 | h_17 | h_18 | h_19 => exact .n3 hf hop rfl
  case h_15 | h_16 => exact .nAB hf hop rfl
  case h_20 => exact .undefined hop (by omega) (by simp only [imp_false] at *; simp [Claims.definedPoints]; omega)
  all_goals exact .m hop rfl

theorem decodeRow6_arm (hf : f.Tidy) (hrow : (f.op.extractLsb' 6 3).toNat = 6) : Arm f (decodeRow6 f) := by
  obtain ⟨n, hn, hlow, hop⟩ := exists_op_eq hrow
  unfold decodeRow6
  rw [hlow]
  split
  case h_1 => -- WAIT
    exact .n hf hop fun hz => by
      have hw := wait_parts (w := f.low21) (by simpa using hz)
      simp only [Instr.fields, hw, fN_low21]
      rfl
  case h_2 => -- WAITR
    exact .n hf hop fun hz => by
      simp only [z, Bool.and_eq_true, beq_iff_eq] at hz
      conv_rhs => rw [← zero_append_low (n := 5) (m := 2) hz.1, hz.2]
      rfl
  case h_3 => -- BAR.JOIN
    exact .n hf hop fun hz => by
      simp only [z, Bool.and_eq_true, beq_iff_eq] at hz
      conv_rhs => rw [← zero_append_low (n := 6) (m := 1) hz.1, hz.2, ← ofBool_getLsbD]
      rfl
  case h_4 => -- BAR.ARRIVE
    exact .n hf hop fun hz => by
      conv_rhs => rw [← arrive_parts (beq_iff_eq.1 hz)]
      rfl
  case h_5 | h_6 => -- BAR.WAIT, BAR.EXPECT
    exact .n hf hop fun hz => by
      conv_rhs => rw [← zero_append_low (n := 6) (m := 1) (beq_iff_eq.1 hz), ← ofBool_getLsbD]
      rfl
  case h_10 => exact .gDA hop rfl
  case h_11 => -- RESERVE
    exact .given hop fun hc hz => by
      rw [← noCuff_eq hf (by simpa using hc), beq_iff_eq.1 hz, hop]
      rfl
  case h_12 => exact .nA hf hop rfl
  case h_13 => exact .undefined hop (by omega) (by simp only [imp_false] at *; simp [Claims.definedPoints]; omega)
  all_goals exact .gA hop rfl

theorem decodeRow7_arm (hf : f.Tidy) (hrow : (f.op.extractLsb' 6 3).toNat = 7) : Arm f (decodeRow7 f) := by
  obtain ⟨n, hn, hlow, hop⟩ := exists_op_eq hrow
  unfold decodeRow7
  rw [hlow]
  split
  case h_4 => -- MMA
    exact .g1 hop fun hs _ => by
      rw [show f.sb = false by simpa using hs]
      rfl
  case h_6 => -- MWAIT
    split
    case isTrue hs =>
      exact .given hop fun hc hz => by
        simp only [z, Bool.and_eq_true, beq_iff_eq] at hz
        obtain ⟨⟨hd, ha⟩, hb⟩ := hz
        rw [← noCuff_eq hf (by simpa using hc), hs, hd, ha, hop]
        conv_rhs => rw [← zero_append_low (n := 3) (m := 4) hb]
        rfl
    case isFalse hs =>
      exact .given hop fun hc hz => by
        simp only [z, Bool.and_eq_true, beq_iff_eq] at hz
        rw [← noCuff_eq hf (by simpa using hc), Bool.eq_false_iff.2 hs, hz.1, hz.2, hop]
        rfl
  case h_7 => -- HAD
    exact .g1 hop fun hs hz => by
      rw [show f.sb = false by simpa using hs, beq_iff_eq.1 hz]
      rfl
  case h_10 => exact .g1 hop fun _ _ => rfl
  case h_15 => -- TRACE.M
    exact .given hop fun hs hz => by
      simp only [Bool.and_eq_true, beq_iff_eq, Bool.not_eq_true'] at hs hz
      simp only [Instr.fields, memo_parts hz.1 hz.2]
      rw [← hs.1, ← hs.2]
      exact congrArg (fun o => some (⟨f.sb, f.c, o, f.b, f.a, f.d, f.cuff⟩ : Fields)) hop.symm
  case h_20 => exact .n hf hop fun _ => rfl
  case h_21 => -- OSLEAVE
    split
    case isTrue h =>
      exact .nD hf hop (by
        rw [beq_iff_eq.1 h]
        rfl)
    case isFalse => exact .n0 hf hop rfl
  case h_23 => -- TSIG
    split
    case isTrue h => exact .gDA hop (congrArg (fun m => some (fG _ false f.d f.a 0#7 m)) (zero_append_low (n := 6) (m := 2) (beq_iff_eq.1 h)))
    case isFalse => exact .error hop nofun
  case h_28 => -- PURE.PROBE
    exact .g1 hop fun hs hz => by
      simp only [z, Bool.and_eq_true, beq_iff_eq, Bool.not_eq_true'] at hs hz
      rw [hs, hz.1, hz.2]
      rfl
  case h_1 | h_31 | h_32 => exact .nD hf hop rfl
  case h_2 | h_16 | h_25 | h_26 => exact .nA hf hop rfl
  case h_3 | h_9 => exact .gA hop rfl
  case h_8 => exact .gDA hop rfl
  case h_11 | h_24 => exact .nAB hf hop rfl
  case h_12 | h_18 | h_19 => exact .nDA hf hop rfl
  case h_13 | h_14 | h_17 | h_27 => exact .v hf hop rfl
  case h_34 => exact .undefined hop (by omega) (by simp only [imp_false] at *; simp [Claims.definedPoints]; omega)
  all_goals exact .n0 hf hop rfl

theorem decodeFields_arm (hf : f.Tidy) : Arm f (decodeFields f) := by
  unfold decodeFields
  split
  case h_1 h => exact decodeRow0_arm hf h
  case h_2 h => exact decodeRow1_arm hf h
  case h_3 h => exact decodeRow2_arm hf h
  case h_4 h => exact decodeRow3_arm hf h
  case h_5 h => exact decodeRow4_arm hf h
  case h_6 h => exact decodeRow5_arm hf h
  case h_7 h => exact decodeRow6_arm hf h
  case h_8 => -- ACCRD
    have hlt := (f.op.extractLsb' 6 3).isLt
    exact decodeRow7_arm hf (by simp only [imp_false] at *; omega)

end

end Sys2Proof
end

section
/-! SUPPORT. The encoder and the decoder are inverse to each other, and what the decoder refuses as reserved (R310 to R322). -/

namespace Sys2Proof.Laws.FieldsDecode

/-- Every instruction that is well formed is what its fields decode to; the events have no fields. -/
theorem holds (i : Instr) : Statement i := by
  cases i with
  | nop => exact nop
  | add _ _ _ => exact add _ _ _
  | sub _ _ _ => exact sub _ _ _
  | mul _ _ _ => exact mul _ _ _
  | mulh _ _ _ => exact mulh _ _ _
  | mulhu _ _ _ => exact mulhu _ _ _
  | div _ _ _ => exact div _ _ _
  | divu _ _ _ => exact divu _ _ _
  | rem _ _ _ => exact rem _ _ _
  | remu _ _ _ => exact remu _ _ _
  | and _ _ _ => exact and _ _ _
  | or _ _ _ => exact or _ _ _
  | xor _ _ _ => exact xor _ _ _
  | shl _ _ _ => exact shl _ _ _
  | shr _ _ _ => exact shr _ _ _
  | sar _ _ _ => exact sar _ _ _
  | min _ _ _ => exact min _ _ _
  | max _ _ _ => exact max _ _ _
  | minu _ _ _ => exact minu _ _ _
  | maxu _ _ _ => exact maxu _ _ _
  | seq _ _ _ => exact seq _ _ _
  | sne _ _ _ => exact sne _ _ _
  | slt _ _ _ => exact slt _ _ _
  | sltu _ _ _ => exact sltu _ _ _
  | sel _ _ _ => exact sel _ _ _
  | mov _ _ => exact mov _ _
  | popc _ _ => exact popc _ _
  | clz _ _ => exact clz _ _
  | ctz _ _ => exact ctz _ _
  | jmp _ => exact jmp _
  | braS _ _ _ _ _ => exact braS _ _ _ _ _
  | braV _ _ _ _ _ _ => exact braV _ _ _ _ _ _
  | call _ _ _ => exact call _ _ _
  | join => exact join
  | loop _ _ _ => exact loop _ _ _
  | lend => exact lend
  | lendX => exact lendX
  | ret => exact ret
  | callr _ _ _ => exact callr _ _ _
  | jmpr _ => exact jmpr _
  | acquire _ => exact acquire _
  | release _ => exact release _
  | wbase _ => exact wbase _
  | swin _ => exact swin _
  | unwind _ => exact unwind _
  | pause => exact pause
  | exit => exact exit
  | gets _ _ => exact gets _ _
  | sets _ _ => exact sets _ _
  | fmt _ => exact fmt _
  | pclass _ => exact pclass _
  | mpop _ _ => exact mpop _ _
  | mfirst _ _ => exact mfirst _ _
  | vaddInt _ => exact vaddInt _
  | vsubInt _ => exact vsubInt _
  | vmulInt _ => exact vmulInt _
  | vmulh _ => exact vmulh _
  | vmad _ => exact vmad _
  | vadds _ => exact vadds _
  | vsubs _ => exact vsubs _
  | vand _ => exact vand _
  | vor _ => exact vor _
  | vxor _ => exact vxor _
  | vnot _ => exact vnot _
  | vshl _ => exact vshl _
  | vshr _ => exact vshr _
  | vsar _ => exact vsar _
  | vminInt _ => exact vminInt _
  | vmaxInt _ => exact vmaxInt _
  | vabsInt _ => exact vabsInt _
  | vcmpInt _ => exact vcmpInt _
  | vsel _ => exact vsel _
  | vpopc _ => exact vpopc _
  | vclz _ => exact vclz _
  | vmov _ => exact vmov _
  | vdot4 _ => exact vdot4 _
  | vbfe _ => exact vbfe _
  | vbfi _ => exact vbfi _
  | vaddFp _ => exact vaddFp _
  | vsubFp _ => exact vsubFp _
  | vmulFp _ => exact vmulFp _
  | vfma _ => exact vfma _
  | vminFp _ => exact vminFp _
  | vmaxFp _ => exact vmaxFp _
  | vcmpFp _ => exact vcmpFp _
  | vabsFp _ => exact vabsFp _
  | vneg _ => exact vneg _
  | vclass _ => exact vclass _
  | cvt _ => exact cvt _
  | sxpack _ => exact sxpack _
  | sxunpk _ => exact sxunpk _
  | vrnd _ => exact vrnd _
  | vrcp _ => exact vrcp _
  | vrsq _ => exact vrsq _
  | vsqrt _ => exact vsqrt _
  | vexp2 _ => exact vexp2 _
  | vlog2 _ => exact vlog2 _
  | vsin _ => exact vsin _
  | vcos _ => exact vcos _
  | vtanh _ => exact vtanh _
  | vdiv _ => exact vdiv _
  | rand _ => exact rand _
  | vperm _ => exact vperm _
  | vcmpct _ => exact vcmpct _
  | vexpnd _ => exact vexpnd _
  | match_ _ => exact match_ _
  | reduce _ => exact reduce _
  | scan _ => exact scan _
  | vballot _ => exact vballot _
  | vlane _ => exact vlane _
  | ld _ => exact ld _
  | st _ => exact st _
  | lds _ => exact lds _
  | sts _ => exact sts _
  | ldsh _ => exact ldsh _
  | stsh _ => exact stsh _
  | ldcl _ => exact ldcl _
  | stcl _ => exact stcl _
  | atom _ => exact atom _
  | atomn _ => exact atomn _
  | cas _ => exact cas _
  | xchg _ => exact xchg _
  | stashMap _ _ _ => exact stashMap _ _ _
  | stashUnmap _ => exact stashUnmap _
  | cwb _ _ => exact cwb _ _
  | cinv _ _ => exact cinv _ _
  | rel _ => exact rel _
  | acq _ => exact acq _
  | phase _ => exact phase _
  | wait _ _ _ _ => exact wait _ _ _ _
  | waitr _ _ => exact waitr _ _
  | barJoin _ _ => exact barJoin _ _
  | barArrive _ _ _ _ => exact barArrive _ _ _ _
  | barWait _ _ _ => exact barWait _ _ _
  | barExpect _ _ _ => exact barExpect _ _ _
  | copy _ _ => exact copy _ _
  | copy2d _ _ => exact copy2d _ _
  | fill _ _ => exact fill _ _
  | spawn _ _ _ => exact spawn _ _ _
  | reserve _ _ _ => exact reserve _ _ _
  | commit _ => exact commit _
  | claim _ => exact claim _
  | releaseSlot _ => exact releaseSlot _
  | tload _ _ => exact tload _ _
  | mma _ _ _ _ => exact mma _ _ _ _
  | mfence => exact mfence
  | mwait _ => exact mwait _
  | mwaitImm _ => exact mwaitImm _
  | had _ _ _ => exact had _ _ _
  | accrd _ _ _ => exact accrd _ _ _
  | accst _ _ => exact accst _ _
  | vmx _ _ _ _ _ => exact vmx _ _ _ _ _
  | accz _ _ => exact accz _ _
  | rast _ _ => exact rast _ _
  | sample _ => exact sample _
  | trace _ => exact trace _
  | traceM _ _ _ _ => exact traceM _ _ _ _
  | verdict _ => exact verdict _
  | bxunion _ => exact bxunion _
  | sahcost _ _ => exact sahcost _ _
  | nodepack _ _ => exact nodepack _ _
  | osenter _ _ _ => exact osenter _ _ _
  | osleave => exact osleave
  | osleaveDone => exact osleaveDone
  | osabort => exact osabort
  | tsig _ _ _ => exact tsig _ _ _
  | tcost _ _ => exact tcost _ _
  | tskip _ => exact tskip _
  | pureBegin _ => exact pureBegin _
  | mkey _ => exact mkey _
  | pureProbe _ _ => exact pureProbe _ _
  | pureEnd => exact pureEnd
  | memoFlush => exact memoFlush
  | trap _ => exact trap _
  | brk _ => exact brk _
  | tret => exact tret
  | _ => exact fun _ h => nomatch h

end Sys2Proof.Laws.FieldsDecode

namespace Sys2Proof

theorem decodeFields_of_fields {i : Instr} {f : Fields} (h : i.fields = some f) (hw : i.wf = true) : decodeFields f = .ok i :=
  (Laws.FieldsDecode.holds i f h).2 hw

theorem tidy_of_fields {i : Instr} {f : Fields} (h : i.fields = some f) : f.Tidy := (Laws.FieldsDecode.holds i f h).1

/-! ### The value checks (R322) -/

theorem checked_ok {r : Except Reject Instr} {i : Instr} : checked r = .ok i ↔ r = .ok i ∧ i.wf = true := by
  unfold checked
  split
  case h_1 j =>
    split
    case isTrue hw => exact ⟨fun h => ⟨h, Except.ok.inj h ▸ hw⟩, fun h => h.1⟩
    case isFalse hw => exact ⟨nofun, fun ⟨h, hi⟩ => absurd (Except.ok.inj h ▸ hi) hw⟩
  case h_2 => exact ⟨nofun, nofun⟩

theorem checked_reservedPoint {r : Except Reject Instr} : checked r = .error .reservedPoint ↔ r = .error .reservedPoint := by
  unfold checked
  split
  case h_1 j => split <;> exact ⟨nofun, nofun⟩
  case h_2 => exact Iff.rfl

/-- Words decode to the well-formed instruction of their fields alone. -/
theorem decode_ok {w0 w1 : Word} {i : Instr} (h : decode w0 w1 = .ok i) : i.wf = true ∧ i.fields = some (fieldsOf w0 w1) := by
  obtain ⟨hi, hw⟩ := checked_ok.1 h
  exact ⟨hw, (decodeFields_arm (fieldsOf_tidy w0 w1)).reads i hi⟩

/-- Without C the second word is no part of the fields (R310). -/
theorem fieldsOf_congr {w0 : Word} (h : w0.getLsbD 30 = false) (w1 w : Word) : fieldsOf w0 w1 = fieldsOf w0 w := by
  rw [fieldsOf, fieldsOf, wordC, h]
  rfl

theorem encode_of_fields {i : Instr} {f : Fields} (h : i.fields = some f) : encode i = if f.c then [baseWord f, f.cuff] else [baseWord f] := by
  rw [encode, h]

theorem size_of_fields {i : Instr} {f : Fields} (h : i.fields = some f) : i.size = if f.c then 8 else 4 := by
  rw [Instr.size, h]

/-- Settles O1: the fields of the base word and its cuff word are those of the instruction, and they decode to it. -/
theorem decodeInvertsEncode : Obligations.DecodeInvertsEncode := by
  intro i w rest next hw he
  cases hf : i.fields with
  | none => simp [encode, hf] at he
  | some f =>
    rw [encode_of_fields hf] at he
    have hcuff : baseWord f = w ∧ f.cuff = if f.c then rest.headD next else 0 := by
      cases hc : f.c with
      | false =>
        simp only [hc, Bool.false_eq_true, if_false, List.cons.injEq] at he
        exact ⟨he.1, tidy_of_fields hf hc⟩
      | true =>
        simp only [hc, if_true, List.cons.injEq] at he
        obtain ⟨rfl, rfl⟩ := he
        exact ⟨rfl, rfl⟩
    obtain ⟨rfl, hcuff⟩ := hcuff
    rw [decode, fieldsOf_baseWord f _ hcuff, checked_ok]
    exact ⟨decodeFields_of_fields hf hw, hw⟩

/-- Settles O2: an instruction that words decode to has the fields of the words, and these determine the words. -/
theorem encodeInvertsDecode : Obligations.EncodeInvertsDecode := by
  intro w0 w1 i h
  obtain ⟨hw, hf⟩ := decode_ok h
  refine ⟨hw, ?_⟩
  rw [encode_of_fields hf, baseWord_fieldsOf]
  change (if w0.getLsbD 30 then [w0, if w0.getLsbD 30 then w1 else 0] else [w0]) = _
  cases w0.getLsbD 30 <;> rfl

/-- Settles O4: an arm of the decoder stands at each point of the map and at no other, and C of the base word is C of the fields. -/
theorem reservedPointsAndSizes : Obligations.ReservedPointsAndSizes := by
  refine ⟨fun w0 w1 => checked_reservedPoint.trans (decodeFields_arm (fieldsOf_tidy w0 w1)).reserved, fun w0 w1 i h => ?_⟩
  refine ⟨size_of_fields (decode_ok h).2, fun hc w => ?_⟩
  rw [← h, decode, fieldsOf_congr hc w w1, ← decode]

/-- Settles O3: the decoder, run on each of the words. -/
theorem wordsOfTheSpecDecode : Obligations.WordsOfTheSpecDecode := by
  unfold Obligations.WordsOfTheSpecDecode
  and_intros <;> rfl

end Sys2Proof
end

section
/-! SUPPORT. Every step answers (O6), and what a step runs (O5): the turn of a split that may issue, from its fetch to its instruction (R310, R311,
R322), and the turn of an event. -/

namespace Sys2Proof.Machine

/-! ### Groups under the fetch (R170, R178, R311) -/

theorem State.touchNear_groups (s : State) (core pa : Nat) : (s.touchNear core pa).groups = s.groups := by
  unfold State.touchNear
  dsimp only
  split
  · rfl
  · split
    · rfl
    · split
      · exact (State.scrambleRegion_homeOnly _ _).groups
      · rfl

theorem State.cacheTlb_groups (s : State) (g : Group) (va : Nat) : (s.cacheTlb g va).groups = s.groups := by
  have hw : ((s.tableEntries g.ctx va).foldl State.wakeChan s).groups = s.groups := (HomeOnly.foldl State.wakeChan_homeOnly _ s).groups
  unfold State.cacheTlb
  split
  · dsimp only
    split
    · exact (s.meetSram_ownFrame ..).groups
    · split <;> exact hw
  · rfl

theorem State.noteTlb_groups (s : State) (g : Group) (va : Nat) : (s.noteTlb g va).groups = s.groups := by
  unfold State.noteTlb
  split
  · split
    · exact (State.touchNear_groups _ _ _).trans (s.cacheTlb_groups g va)
    · exact s.cacheTlb_groups g va
  · rfl

theorem State.noteFetch_groups (s : State) (g : Group) (va : Nat) : (s.noteFetch g va).groups = s.groups := by
  unfold State.noteFetch
  split
  · split
    · exact (s.meetSram_ownFrame ..).groups
    · rfl
  · rfl

theorem State.noteFetched_groups (s : State) (g : Group) (pc : Pc) (cuff : Bool) : (s.noteFetched g pc cuff).groups = s.groups := by
  have h (t : State) (va : Nat) : ((t.noteTlb g va).noteFetch g va).groups = t.groups := (State.noteFetch_groups _ _ _).trans (t.noteTlb_groups g va)
  unfold State.noteFetched
  dsimp only
  split
  · exact (h _ _).trans (h _ _)
  · exact h _ _

/-! ### Answers -/

/-- An outcome that is a next state. -/
def Answers (o : Host.Outcome State Fault Refusal) : Prop := ∃ t, o = .next t

theorem next_answers (s : State) : Answers (.next s) := ⟨s, rfl⟩

theorem answers_ite {c : Prop} [Decidable c] {a b : Host.Outcome State Fault Refusal} (ha : Answers a) (hb : Answers b) :
    Answers (if c then a else b) := by
  split
  · exact ha
  · exact hb

theorem mapNext_answers {o : Host.Outcome State Fault Refusal} (h : Answers o) (f : State → State) : Answers (mapNext o f) := by
  obtain ⟨t, rfl⟩ := h
  exact next_answers _

/-! ### Writes of registers (R44, R48, R51) -/

theorem State.writeCtxCmd_answers (s : State) (ctx : BitVec 5) (v : Nat) : Answers (s.writeCtxCmd ctx v) := by
  unfold State.writeCtxCmd
  split <;> exact ⟨_, rfl⟩

theorem State.writeFault_answers (s : State) (ctx : BitVec 5) (off : Nat) (wide : Bool) (v : Nat) : Answers (s.writeFault ctx off wide v) := by
  unfold State.writeFault
  refine answers_ite (next_answers _) ?_
  split <;> exact ⟨_, rfl⟩

theorem State.writeWide_answers (s : State) (b : Block0) (o off : Nat) (wide : Bool) (v : Nat) : Answers (s.writeWide b o off wide v) := by
  cases b with
  | device => exact answers_ite (next_answers _) (answers_ite (next_answers _) (answers_ite (next_answers _) (next_answers _)))
  | context c => exact s.writeFault_answers c off wide v
  | queue q => exact next_answers _
  | errorLog => exact next_answers _
  | none => exact next_answers _

theorem State.writeWord_answers (s : State) (b : Block0) (o v : Nat) : Answers (s.writeWord b o v) := by
  cases b with
  | device => exact next_answers _
  | context c => exact answers_ite (s.writeCtxCmd_answers c v) (next_answers _)
  | queue q => exact next_answers _
  | errorLog => exact next_answers _
  | none => exact next_answers _

theorem State.writeDword_answers (s : State) (off v : Nat) : Answers (s.writeDword off v) :=
  answers_ite (s.writeWide_answers ..) (s.writeWord_answers ..)

theorem execRegisterWrite_answers (off : BitVec 26) (wide : Bool) (value : Dword) (s : State) : Answers (execRegisterWrite off wide value s) := by
  refine answers_ite (next_answers _) (answers_ite (next_answers _) (answers_ite (State.writeDword_answers ..)
    (answers_ite (State.writeWide_answers ..) (answers_ite (next_answers _) ?_))))
  obtain ⟨t, ht⟩ := State.writeDword_answers (s.accessOk (off.toNat % (if wide then 8 else 4) == 0)) off.toNat (value.toNat % 2 ^ 32)
  rw [ht]
  exact t.writeDword_answers ..

/-! ### Instructions and events -/

/-- Every instruction with an encoding is an issue, and every event answers. -/
theorem exec_cases (i : Instr) (s : State) :
    (i.fields.isSome = true ∧ ∃ body, exec i s = issue i s body) ∨ (i.fields = none ∧ Answers (exec i s)) := by
  cases i with
  | registerWrite off wide value => exact .inr ⟨rfl, execRegisterWrite_answers off wide value s⟩
  | perstNAssert | perstNDeassert | firmwareLoadDone _ _ | channelTrainingDone _ _ | hotReset | functionLevelReset | powerRemoval | powerUp
  | linkUp | correctableLinkError | configurationRequest | d3hotEntry | d0Return | uncorrectableLinkError _ | thermalTrip _ | regulatorAlert _
  | writeTimingRecentre _ | refresh _ _ | selfRefreshEntry _ | selfRefreshExit _ | dramReadComplete _ _ | dramReadRetry _ _ | boundaryScan _ _ _ _
  | apertureRead _ _ | apertureWrite _ _ | acceptChannels | capWWrite _ | evqHeadWrite _ | evqEnableWrite _ | msixTableWrite _ _ | enable _
  | disable _ | halt _ | resume _ | contextEnded _ | faultReplay _ _ | faultConvertToTrap _ _ | queueStart _ | queueStop _ | qtailDoorbell _ _
  | nopPacket _ | launch _ | launchComplete _ | semSignal _ | semWait _ | semWaitPoll _ | setState _ | frameMark _ | memoFlushPacket _
  | traceRecord _ | traceReplay _ | power _ | governorPeriod _ _ | allowanceUpdate _ | withheldCompletely _ _ | nearThresholdWindow _ _
  | nearThresholdExit _ _ | teamAdmission _ _ | preemption _ _ | drainLimitExpiry _ | teamRestore _ _ | quantumBoundary _ | launchStall _
  | spawnBinTimerExpiry _ _ | spawnBinHandoff _ _ _ | arenaTimerExpiry _ _ | spawnStall _ | roundBoundary _ | faultEntryWalk _ | ladleWake _ _
  | allocationGrant _ _ | boundaryTrapEntry _ | loadDataLanded _ | storePerformed _ | atomicAtHome _ | engineLineLanded _
  | matrixOperationComplete _ | memoLookupReturn _ | osAdvanceAtHome | osStall _ _ | traversalComplete _ _ | infill _ => exact .inr ⟨rfl, _, rfl⟩
  | _ => exact .inl ⟨rfl, _, rfl⟩

theorem exec_issues {i : Instr} (h : i.fields.isSome = true) (s : State) : ∃ body, exec i s = issue i s body := by
  obtain ⟨-, hb⟩ | ⟨hn, -⟩ := exec_cases i s
  · exact hb
  · rw [hn] at h
    cases h

theorem event_answers {i : Instr} (h : i.fields = none) (s : State) : Answers (exec i s) := by
  obtain ⟨hs, -⟩ | ⟨-, ha⟩ := exec_cases i s
  · rw [h] at hs
    cases hs
  · exact ha

theorem exec_answers {i : Instr} {s : State} (h : i.fields.isSome = true) (hi : s.issuer.isSome = true) : Answers (exec i s) := by
  obtain ⟨body, hb⟩ := exec_issues h s
  rw [hb]
  exact issue_next hi

theorem exec_noIssuer {i : Instr} {s : State} (h : i.fields.isSome = true) (hi : s.issuer = none) : exec i s = .fault .noIssuer := by
  obtain ⟨body, hb⟩ := exec_issues h s
  rw [hb, issue_noIssuer hi]

/-! ### The turn of a split -/

/-- Row k of g has the turn. -/
def State.giveTurn (s : State) (g : Group) (k : Nat) : State := { s with sched := { s.sched with cur := some (g.uid, k) } }

@[simp] theorem State.giveTurn_cur (s : State) (g : Group) (k : Nat) : (s.giveTurn g k).sched.cur = some (g.uid, k) := rfl
@[simp] theorem State.giveTurn_group (s : State) (g : Group) (k u : Nat) : (s.giveTurn g k).group u = s.group u := rfl

theorem State.giveTurn_issuer {s : State} {g : Group} {k : Nat} (hg : s.group g.uid = some g) (hl : (g.row k).live = true) :
    (s.giveTurn g k).issuer = some (g, k) := by
  unfold State.issuer
  simp only [State.giveTurn_cur, State.giveTurn_group, hg, hl, if_true]

theorem Group.live_of_canIssue {g : Group} {k : Nat} (h : g.canIssue k = true) : (g.row k).live = true := by
  unfold Group.canIssue at h
  simp only [Bool.and_eq_true] at h
  exact h.1.1.1

theorem State.issueWords_answers {s : State} {g : Group} {k : Nat} (hg : s.group g.uid = some g) (hl : (g.row k).live = true) (w0 w1 : Word) :
    Answers (s.issueWords g k w0 w1) := by
  unfold State.issueWords
  split
  case h_1 => exact next_answers _
  case h_2 i hi =>
    have he : Answers (exec i (s.giveTurn g k)) := by
      refine exec_answers ?_ ?_
      · rw [(decode_ok hi).2]
        rfl
      · rw [State.giveTurn_issuer hg hl]
        rfl
    exact answers_ite he (answers_ite (next_answers _) (answers_ite (next_answers _) (mapNext_answers he _)))

theorem State.fetchIssue_answers {s : State} {g : Group} {k : Nat} (hg : s.group g.uid = some g) (hl : (g.row k).live = true) :
    Answers (s.fetchIssue g k) := by
  unfold State.fetchIssue
  refine answers_ite (next_answers _) ?_
  split
  case h_1 => exact next_answers _
  case h_2 => exact next_answers _
  case h_3 w0 w1 _ =>
    refine State.issueWords_answers ?_ hl w0 w1
    rw [State.group, State.noteFetched_groups]
    exact hg

theorem State.issueTurn_answers (s : State) (uid k : Nat) : Answers (s.issueTurn uid k) := by
  unfold State.issueTurn
  split
  case h_1 => exact next_answers _
  case h_2 g hg =>
    have hu := State.group_uid hg
    subst hu
    split
    case isTrue => exact next_answers _
    case isFalse hc =>
      split
      case h_1 => exact next_answers _
      case h_2 =>
        split
        case h_1 => exact next_answers _
        case h_2 =>
          refine answers_ite (next_answers _) (State.fetchIssue_answers hg (Group.live_of_canIssue ?_))
          simp only [Bool.or_eq_true, not_or, Bool.not_eq_true', Bool.not_eq_false] at hc
          exact hc.2

theorem State.turn_answers (s : State) (t : Turn) : Answers (s.turn t) := by
  cases t with
  | issue uid k => exact s.issueTurn_answers uid k
  | event i =>
    change Answers (if i.fields.isSome then .next s else exec i s)
    split
    case isTrue => exact next_answers s
    case isFalse h => exact event_answers (by simpa using h) s
  | hostRead off n => exact next_answers _
  | hostAsk r => exact next_answers _
  | sramError e => exact next_answers _

theorem step_answers (s : State) : Answers (step s) := by
  unfold step State.advance
  split
  case h_1 => exact State.turn_answers _ _
  case h_2 =>
    split
    case h_1 => exact State.turn_answers _ _
    case h_2 => exact next_answers _

/-- Settles O6: a turn runs an encoded instruction only for a live split that holds it, and every event ends in a next state. -/
theorem everyStepAnswers : Obligations.EveryStepAnswers :=
  ⟨step_answers, fun _ _ h hi => exec_answers h hi, fun _ s h => event_answers h s, fun _ _ h hi => exec_noIssuer h hi⟩

/-! ### What a turn runs (R310, R311, R322) -/

/-- A split that may issue fetches. -/
theorem State.issueTurn_of_mayIssue {s : State} {g : Group} {k : Nat} (hg : s.group g.uid = some g) (hrun : s.running = true)
    (hcore : s.onCore g = true) (hcan : g.canIssue k = true) (hpark : g.parked = none) (hdue : g.dueAt k = none)
    (hspill : (g.handler.isNone && g.spilled) = false) (hround : s.roundOver g = false) : s.issueTurn g.uid k = s.fetchIssue g k := by
  simp only [State.issueTurn, hg, hrun, hcore, hcan, hpark, hdue, hspill, hround, Bool.not_true, Bool.or_false, Bool.false_eq_true, if_false]

theorem State.fetchIssue_of_words {s : State} {g : Group} {k : Nat} {w0 w1 : Word} (hheld : s.ownHeld g.ctx (g.row k).pc.toNat 8 = false)
    (hw : s.fetch g (g.row k).pc = .words w0 w1) :
    s.fetchIssue g k = (s.noteFetched g (g.row k).pc (w0.getLsbD 30)).issueWords g k w0 w1 := by
  simp only [State.fetchIssue, hheld, hw, Bool.false_eq_true, if_false]

/-- What becomes of words that decode: executed again, held back by a fence, withheld or served later, or executed and counted. -/
theorem State.issueWords_of_decode {s : State} {g : Group} {k : Nat} {w0 w1 : Word} {i : Instr} (h : decode w0 w1 = .ok i) :
    s.issueWords g k w0 w1 = if g.again k then exec i (s.giveTurn g k) else if s.fenced g i then .next (s.passFence g.uid)
      else if s.withheld g k i || !s.rotates g k i then .next s else mapNext (exec i (s.giveTurn g k)) fun r => r.noteIssue g k i := by
  unfold State.issueWords
  rw [h]
  rfl

theorem step_of_agenda {s : State} {t : Turn} {r : List Turn} (h : s.sched.agenda = t :: r) :
    step s = State.turn { s.ticked with sched := { s.ticked.sched with agenda := r } } t := by
  unfold step State.advance
  rw [h]

/-- Settles O5: the turn of a split that may issue is that of the instruction of its words, and the turn of an event is that event. -/
theorem stepRunsDecodedInstruction : Obligations.StepRunsDecodedInstruction := by
  refine ⟨fun s r g k w0 w1 i => ?_, fun s r i hag hf => ?_⟩
  · intro s1 hag hg hrun hcore hcan hpark hdue hspill hround hheld hw hi s2 s3
    have hstep : step s = s2.issueWords g k w0 w1 :=
      calc step s = s1.issueTurn g.uid k := step_of_agenda hag
        _ = s1.fetchIssue g k := State.issueTurn_of_mayIssue hg hrun hcore hcan hpark hdue hspill hround
        _ = s2.issueWords g k w0 w1 := State.fetchIssue_of_words hheld hw
    rw [hstep, State.issueWords_of_decode hi]
    refine ⟨fun ha => if_pos ha, fun ha hfence => ?_⟩
    rw [if_neg (Bool.eq_false_iff.1 ha), if_neg (Bool.eq_false_iff.1 hfence)]
    refine ⟨fun hwith hrot t ht => ?_, fun hor => ?_⟩
    · rw [hwith, hrot, if_neg (by decide)]
      exact congrArg (fun o => mapNext o fun r => r.noteIssue g k i) ht
    · exact if_pos (by simpa using hor)
  · rw [step_of_agenda hag]
    exact if_neg (by simp [hf])

end Sys2Proof.Machine
end

section
/-! SUPPORT. Lane permutations: the decoder's check and the lane that is read agree with the table of R318 (O21). -/

namespace Sys2Proof

/-! ### The fields PA and PB (R318) -/

/-- The kind of a permutation field. -/
theorem perm_kind (p : BitVec 10) : (p.extractLsb' 7 3).toNat = p.toNat / 2 ^ 7 := by
  rw [BitVec.extractLsb'_toNat, Nat.shiftRight_eq_div_pow]
  omega

/-- The parameter of a permutation field. -/
theorem perm_param (p : BitVec 10) : (p.extractLsb' 0 7).toNat = p.toNat % 2 ^ 7 := by
  rw [BitVec.extractLsb'_toNat, Nat.shiftRight_zero]

/-- The table of R318 has a row for the fields that the decoder admits, and the row gives the lane that is read. -/
theorem permTable_eq (p : BitVec 10) (i : Nat) : Claims.permTable p i = if permOk p then some (Machine.permLane p i) else none := by
  unfold Claims.permTable permOk Machine.permLane
  dsimp only
  rw [perm_kind, perm_param]
  generalize p.toNat / 2 ^ 7 = kind
  generalize p.toNat % 2 ^ 7 = n
  match kind with
  | 0 => simp
  | 1 => simp
  | 2 => simp
  | 3 => simp
  | 4 =>
    by_cases hn : n ∈ [2, 3, 4, 6, 8, 12, 16, 24, 32, 48, 96]
    · have h0 : n ≠ 0 := fun h => absurd (h ▸ hn) (by decide)
      simp [-List.mem_cons, List.contains_eq_mem, hn, h0]
    · simp [-List.mem_cons, List.contains_eq_mem, hn]
  | k + 5 => simp

theorem permOk_of_permTable_none {p : BitVec 10} {i : Nat} (h : Claims.permTable p i = none) : permOk p = false := by
  rw [permTable_eq] at h
  simpa using h

theorem permLane_of_permTable {p : BitVec 10} {i l : Nat} (h : Claims.permTable p i = some l) : Machine.permLane p i = l := by
  rw [permTable_eq] at h
  exact (Option.ite_none_right_eq_some.1 h).2 |> Option.some.inj

/-- The value checks of a cuff pass only where both permutation fields do. -/
def VOps.PermsOk (v : VOps) : Prop := permOk v.cuffD.pa = true ∧ permOk v.cuffD.pb = true

theorem permsOk_of_cuffOk {readsA readsB : Bool} {v : VOps} (h : cuffOk readsA readsB v = true) : v.PermsOk := by
  simp only [cuffOk, Bool.and_eq_true] at h
  obtain ⟨⟨⟨⟨⟨-, ha⟩, hb⟩, -⟩, -⟩, -⟩ := h
  exact ⟨ha, hb⟩

/-- Fields that must be zero are the permutation of no lane. -/
theorem permsOk_of_zero {v : VOps} (ha : v.cuffD.pa = 0) (hb : v.cuffD.pb = 0) : v.PermsOk := by
  rw [VOps.PermsOk, ha, hb]
  exact ⟨rfl, rfl⟩

theorem permsOk_of_gCuffOk {xa xb : Bool} {v : VOps} (h : gCuffOk xa xb v = true) : v.PermsOk := by
  simp only [gCuffOk, Bool.and_eq_true, beq_iff_eq] at h
  obtain ⟨⟨⟨⟨ha, hb⟩, -⟩, -⟩, -⟩ := h
  exact permsOk_of_zero ha hb

/-- The instructions with PA and PB have an encoding, and are well formed only where both fields are rows of the table. -/
theorem permuted_wf : ∀ p ∈ Claims.permuted, ∀ v, (p v).fields.isSome = true ∧ ((p v).wf = true → v.PermsOk) := by
  simp only [Claims.permuted, Claims.elementTable, Claims.laneTable, Claims.floatTable, List.map_cons, List.map_nil, List.cons_append,
    List.nil_append, List.forall_mem_cons, List.not_mem_nil, false_imp_iff, implies_true, and_true]
  and_intros
  all_goals refine fun v => ⟨rfl, fun h => ?_⟩
  all_goals simp only [Instr.wf, row1Ok, row2RmOk, row2PlainOk, row3RmOk, Bool.and_eq_true, and_assoc, beq_iff_eq] at h
  -- rows 1 to 4, then SAMPLE, TRACE and BXUNION, then MKEY
  iterate 57
    obtain ⟨hcuff, -⟩ := h
    exact permsOk_of_cuffOk hcuff
  iterate 3
    obtain ⟨hcuff, -⟩ := h
    exact permsOk_of_gCuffOk hcuff
  obtain ⟨-, ha, hb, -⟩ := h
  exact permsOk_of_zero ha hb

end Sys2Proof

namespace Sys2Proof.Machine

theorem precheck_of_not_wf {s : State} {g : Group} {k : Nat} {i : Instr} (h : i.wf = false) : s.precheck g k i = some (trapOf 0x01) := by
  simp [State.precheck, h]

/-- An encoded instruction that is not well formed raises ILLEGAL and does nothing else (R322). -/
theorem traps_of_not_wf {s : State} {g : Group} {k : Nat} {i : Instr} (hi : s.issuer = some (g, k)) (hf : i.fields.isSome = true)
    (hw : i.wf = false) : Traps i s g k (trapOf 0x01) := by
  obtain ⟨body, hb⟩ := exec_issues hf s
  rw [Traps, hb]
  exact issue_trap hi (precheck_of_not_wf hw) body

theorem laneOf_permute (p : BitVec 10) (v : Lanes) {i : Nat} (h : i < 96) : laneOf (permute p v) i = laneOf v (permLane p i) := by
  simp [laneOf, permute, h]

/-- Lane i of a register that is read through a field is the lane that the table of R318 gives. -/
theorem laneOf_permute_of_permTable {p : BitVec 10} {i l : Nat} (v : Lanes) (hi : i < 96) (h : Claims.permTable p i = some l) :
    laneOf (permute p v) i = laneOf v l := by
  rw [laneOf_permute p v hi, permLane_of_permTable h]

theorem cuffD_of_some {v : VOps} {c : Cuff} (h : v.cuff = some c) : v.cuffD = c := by
  rw [VOps.cuffD, h]
  rfl

/-- Settles O21: a field that is no row of the table is not well formed, and both sources are read through their fields. -/
theorem permutationFields : Obligations.PermutationFields := by
  refine ⟨fun p hp s g k v c hi hc hnone => ?_, fun s g k j i v c hc hlt => ⟨fun l hl => ?_, fun l hsb hl => ?_⟩⟩
  · obtain ⟨hf, hwf⟩ := permuted_wf p hp v
    refine traps_of_not_wf hi hf (Bool.eq_false_iff.2 fun hw => ?_)
    obtain ⟨ha, hb⟩ := hwf hw
    rw [cuffD_of_some hc] at ha hb
    obtain h | h := hnone
    · rw [permOk_of_permTable_none h] at ha
      cases ha
    · rw [permOk_of_permTable_none h] at hb
      cases hb
  · rw [Group.srcA, cuffD_of_some hc]
    exact laneOf_permute_of_permTable _ hlt hl
  · rw [Group.srcB, if_neg (by simp [hsb]), cuffD_of_some hc]
    exact laneOf_permute_of_permTable _ hlt hl

end Sys2Proof.Machine
end
